-- ==== Sys2Proof/Word.lean ====
section
/-! DEFINITION. The words of the C9 (R3, R4) and the one shape in which sparse contents are held: bytes, 32-bit elements, 64-bit pairs, and lists of (index, value) pairs. -/

namespace Sys2Proof

/-- One byte (R4). -/
abbrev Byte := BitVec 8
/-- One vector element or uniform register (R170). -/
abbrev W32 := BitVec 32
/-- A register pair, an address, a lane mask. -/
abbrev W64 := BitVec 64
/-- One instruction word (R167). -/
abbrev W96 := BitVec 96

/-- Sparse contents: indices strictly rising, no entry equal to zero, which is what an unlisted index reads as. Memory, registers and scratchpad are held in this one form. -/
abbrev Sparse (w : Nat) := List (Nat × BitVec w)

/-- Memory as a list of bytes by address (`Host.Cell` has the same shape). -/
abbrev Memory := Sparse 8

end Sys2Proof
end

