-- ==== Sys2Proof/Syntax.lean ====
section
/-! DEFINITION. The instruction set as data: operands, guards, modifier fields, and one constructor of `Instr` for each row of spec/opcode_table.json (R167-R192, 95_what_each_step_holds.md). -/

namespace Sys2Proof

/-- An operand field (R169). `rsv` keeps a reserved code, which is BADOPERAND at rank 6 and not ILLOP (R432). -/
inductive Opd where
  | v (i : BitVec 8)
  | s (i : BitVec 7)
  | y (i : Fin 6)
  | z
  | m (i : BitVec 6)
  | imm (i : BitVec 5)
  | rsv (code : BitVec 10)
deriving DecidableEq, Repr

/-- Guard fields GFILE, GNEG and GIDX (R167, R173). -/
structure Guard where
  uni : Bool
  neg : Bool
  idx : BitVec 3
deriving DecidableEq, Repr

/-- PATH (R174); code 11 has no constructor, because it is reserved everywhere. -/
inductive Path where
  | both
  | arm0
  | arm1
deriving DecidableEq, Repr

/-- TYPE (R176); codes D to F have no constructor. -/
inductive Ty where
  | i8 | u8 | i16 | u16 | i32 | u32 | i64 | u64 | f16 | bf16 | f32 | f64 | slot
deriving DecidableEq, Repr

/-- An instruction word in the register form (R167, R175). `scope` is MOD bits 12:10, so its top bit is MOD bit 12. -/
structure Word where
  dst : Opd
  wbs : Bool
  a : Opd
  b : Opd
  c : Opd
  guard : Guard
  path : Path
  cap : Option (Fin 6)
  yield : Bool
  ty : Ty
  round : BitVec 3
  sat : Bool
  slot : BitVec 3
  scope : BitVec 3
  chint : BitVec 2
  fspec : BitVec 8
deriving DecidableEq, Repr

/-- An instruction word in the immediate form (R177). `neg` is MOD bit 12. -/
structure WordI where
  dst : Opd
  wbs : Bool
  a : Opd
  imm : W32
  guard : Guard
  path : Path
  cap : Option (Fin 6)
  yield : Bool
  ty : Ty
  round : BitVec 3
  sat : Bool
  slot : BitVec 3
  neg : Bool
deriving DecidableEq, Repr

/-- An instruction word of major PRD, with its own MOD layout (R262). -/
structure WordP where
  dst : Opd
  wbs : Bool
  a : Opd
  b : Opd
  c : Opd
  guard : Guard
  path : Path
  cap : Option (Fin 6)
  yield : Bool
  ty : Ty
  pd : BitVec 3
  pa : BitVec 3
  pb : BitVec 3
  neg : Bool
  tt : BitVec 4
deriving DecidableEq, Repr

/-- The name of a context: a team, a group of it and an arm (R363). -/
structure CtxId where
  team : Nat
  grp : Nat
  arm : Nat
deriving DecidableEq, Repr

/-- A host access to device memory: `size` bytes at the physical address `pa` (R373). -/
structure HostReq where
  write : Bool
  pa : Nat
  size : Nat
  data : BitVec 1024
deriving DecidableEq, Repr

/-- A host atomic: a queue push or pop at the header at virtual address `header` of a tenant, or an ATOM operation on `size` bytes, signed or not (R288, R374, R312). -/
inductive HostAtomic where
  | push (tenant : Nat) (header : W64) (entry : BitVec 512)
  | pop (tenant : Nat) (header : W64)
  | atom (pa size op : Nat) (signed : Bool) (value compare : W64)
deriving DecidableEq, Repr

/-- Where an uncorrectable error strikes (R455). -/
inductive ErrSite where
  | memory (pa : Nat)
  | vector (team grp reg lane : Nat)
  | uniform (team grp reg arm : Nat)
  | scratch (team offset : Nat)
  | tile (core index : Nat)
  | cacheWord (core pa : Nat)
deriving DecidableEq, Repr

/-- The end of work that another party carries out: the record it belongs to, and how it went there. -/
structure Finish where
  id : Nat
  result : Nat
deriving DecidableEq, Repr

/-- The instructions and events of the opcode table; events that only a script names stand last. -/
inductive Instr where
  /-- R218: Has no effect; its hints and its slot's DRAIN act as in any other slot. -/
  | nop (w : Word)
  /-- R219: Uniform branch of the whole context to a bundle target, which faults if the lanes of a per-lane guard disagree. -/
  | bra (w : WordI)
  /-- R220: Divergent branch that either splits the group into two arms or serialises by pushing a divergence-stack entry. -/
  | brd (w : WordI)
  /-- R33: Performs the join step: a phase change, a pop, parking the arm, or rejoining the two arms. -/
  | join (w : Word)
  /-- R222: Writes the link of the next bundle into a uniform pair and branches to the target. -/
  | call (w : WordI)
  /-- R223: Continues at the bundle address that a uniform pair holds. -/
  | ret (w : Word)
  /-- R223: Indirect jump through a uniform pair that also writes a link. -/
  | jmpi (w : Word)
  /-- R224: Sets each active lane's arm bit from a predicate and enters a melded region with identity rename tables. -/
  | meld (w : Word)
  /-- R225: Writes consecutive entries of the rename tables of the arms that its path selects. -/
  | meldMap (w : Word)
  /-- R227: Leaves the melded region, clears the arm bits and discards the rename tables. -/
  | meldEnd (w : Word)
  /-- R228: Adds the active lanes to the exited mask, with a join step or retirement when the arm empties. -/
  | exit (w : Word)
  /-- R229: Once every engine operation of its groups has completed, the team's scratchpad and barrier objects are released. -/
  | teamRetire (team : Nat)
  /-- R230: Gives up the vector port after the slot issues. -/
  | yield (w : Word)
  /-- R231: Moves the PC to the target and holds the context away from the port until an engine counter falls to n. -/
  | yieldOn (w : WordI)
  /-- R232: Raises BREAKPOINT with a code, and its slot counts as executed. -/
  | bpt (w : Word)
  /-- R232: Raises SWTRAP with a code, and its slot counts as executed. -/
  | trap (w : Word)
  /-- R233: Releases at SYSTEM scope, pushes a host-call record and waits for the host's reply. -/
  | hcall (w : Word)
  /-- R381: Once the ring has room, pushes the waiting HCALL's record onto the host-call ring and raises vector 0. -/
  | hcallRingPush (c : CtxId)
  /-- R412: Returns from handler mode: delivers the next pending trap, passes to another group, or restores the team from the control areas. -/
  | rfh (w : Word)
  /-- R238: Uniform integer add. -/
  | sAdd (w : Word)
  /-- R238: Uniform integer subtract. -/
  | sSub (w : Word)
  /-- R238: Uniform integer multiply. -/
  | sMul (w : Word)
  /-- R238: Upper half of a uniform integer product. -/
  | sMulh (w : Word)
  /-- R238: Uniform integer divide, truncated toward zero. -/
  | sDiv (w : Word)
  /-- R238: Uniform integer remainder. -/
  | sRem (w : Word)
  /-- R238: Uniform bitwise AND. -/
  | sAnd (w : Word)
  /-- R238: Uniform bitwise OR. -/
  | sOr (w : Word)
  /-- R238: Uniform bitwise XOR. -/
  | sXor (w : Word)
  /-- R238: Uniform shift left. -/
  | sShl (w : Word)
  /-- R238: Uniform logical shift right. -/
  | sShr (w : Word)
  /-- R238: Uniform arithmetic shift right. -/
  | sSar (w : Word)
  /-- R238: Uniform integer minimum. -/
  | sMin (w : Word)
  /-- R238: Uniform integer maximum. -/
  | sMax (w : Word)
  /-- R238: I-form of S.ADD with a 32-bit immediate. -/
  | sAddImm (w : WordI)
  /-- R238: I-form of S.SUB. -/
  | sSubImm (w : WordI)
  /-- R238: I-form of S.MUL. -/
  | sMulImm (w : WordI)
  /-- R238: I-form of S.MULH. -/
  | sMulhImm (w : WordI)
  /-- R238: I-form of S.DIV. -/
  | sDivImm (w : WordI)
  /-- R238: I-form of S.REM. -/
  | sRemImm (w : WordI)
  /-- R238: I-form of S.AND. -/
  | sAndImm (w : WordI)
  /-- R238: I-form of S.OR. -/
  | sOrImm (w : WordI)
  /-- R238: I-form of S.XOR. -/
  | sXorImm (w : WordI)
  /-- R238: I-form of S.SHL. -/
  | sShlImm (w : WordI)
  /-- R238: I-form of S.SHR. -/
  | sShrImm (w : WordI)
  /-- R238: I-form of S.SAR. -/
  | sSarImm (w : WordI)
  /-- R238: I-form of S.MIN. -/
  | sMinImm (w : WordI)
  /-- R238: I-form of S.MAX. -/
  | sMaxImm (w : WordI)
  /-- R239: Selects between two uniform values on a uniform predicate. -/
  | sSel (w : Word)
  /-- R240: Uniform compare that writes 1 or 0 and a uniform predicate. -/
  | sCmp (w : Word)
  /-- R240: I-form of S.CMP. -/
  | sCmpImm (w : WordI)
  /-- R241: Writes an immediate, read as its type, to a uniform register or pair. -/
  | sMovi (w : WordI)
  /-- R242: Forms a 64-bit address as base plus a scaled offset. -/
  | sLea (w : Word)
  /-- R242: I-form of S.LEA. -/
  | sLeaImm (w : WordI)
  /-- R238: Count of leading zero bits of a uniform value. -/
  | sClz (w : Word)
  /-- R238: Count of set bits of a uniform value. -/
  | sPopc (w : Word)
  /-- R243: Extracts a uniform bit field. -/
  | sBfx (w : Word)
  /-- R243: Inserts a uniform bit field. -/
  | sBfi (w : Word)
  /-- R247: Per-lane integer add. -/
  | vAdd (w : Word)
  /-- R249: Per-lane add with the carry in and carry out in a predicate. -/
  | vAddc (w : Word)
  /-- R247: Per-lane integer subtract. -/
  | vSub (w : Word)
  /-- R247: Per-lane integer multiply. -/
  | vMul (w : Word)
  /-- R247: Upper half of a per-lane integer product. -/
  | vMulh (w : Word)
  /-- R249: Per-lane integer a × b + c, wrapped or saturated. -/
  | vMad (w : Word)
  /-- R247: Per-lane integer divide. -/
  | vDiv (w : Word)
  /-- R247: Per-lane integer remainder. -/
  | vRem (w : Word)
  /-- R247: Per-lane bitwise AND. -/
  | vAnd (w : Word)
  /-- R247: Per-lane bitwise OR. -/
  | vOr (w : Word)
  /-- R247: Per-lane bitwise XOR. -/
  | vXor (w : Word)
  /-- R247: Per-lane shift left. -/
  | vShl (w : Word)
  /-- R247: Per-lane logical shift right. -/
  | vShr (w : Word)
  /-- R247: Per-lane arithmetic shift right. -/
  | vSar (w : Word)
  /-- R247: Per-lane integer minimum. -/
  | vMin (w : Word)
  /-- R247: Per-lane integer maximum. -/
  | vMax (w : Word)
  /-- R249: Per-lane absolute value of a signed integer. -/
  | vAbs (w : Word)
  /-- R249: Per-lane integer compare that writes 1 or 0 and a predicate. -/
  | vCmp (w : Word)
  /-- R249: Per-lane select on a predicate. -/
  | vSel (w : Word)
  /-- R247: Per-lane bit-field extract. -/
  | vBfx (w : Word)
  /-- R247: Per-lane bit-field insert. -/
  | vBfi (w : Word)
  /-- R247: Per-lane count of set bits. -/
  | vPopc (w : Word)
  /-- R247: Per-lane count of leading zero bits. -/
  | vClz (w : Word)
  /-- R248: I-form of V.ADD. -/
  | vAddImm (w : WordI)
  /-- R248: I-form of V.SUB. -/
  | vSubImm (w : WordI)
  /-- R248: I-form of V.MUL. -/
  | vMulImm (w : WordI)
  /-- R248: I-form of V.AND. -/
  | vAndImm (w : WordI)
  /-- R248: I-form of V.OR. -/
  | vOrImm (w : WordI)
  /-- R248: I-form of V.XOR. -/
  | vXorImm (w : WordI)
  /-- R248: I-form of V.SHL. -/
  | vShlImm (w : WordI)
  /-- R248: I-form of V.SHR. -/
  | vShrImm (w : WordI)
  /-- R248: I-form of V.SAR. -/
  | vSarImm (w : WordI)
  /-- R248: I-form of V.MIN. -/
  | vMinImm (w : WordI)
  /-- R248: I-form of V.MAX. -/
  | vMaxImm (w : WordI)
  /-- R248: I-form of V.CMP. -/
  | vCmpImm (w : WordI)
  /-- R250: Correctly rounded per-lane float add. -/
  | fAdd (w : Word)
  /-- R250: Correctly rounded per-lane float subtract. -/
  | fSub (w : Word)
  /-- R250: Correctly rounded per-lane float multiply. -/
  | fMul (w : Word)
  /-- R250: Fused multiply-add, rounded once. -/
  | fFma (w : Word)
  /-- R253: Per-lane float minimum that leaves a single NaN out. -/
  | fMin (w : Word)
  /-- R253: Per-lane float maximum that leaves a single NaN out. -/
  | fMax (w : Word)
  /-- R254: Per-lane float compare that writes 1 or 0 and a predicate. -/
  | fCmp (w : Word)
  /-- R250: Correctly rounded per-lane float divide. -/
  | fDiv (w : Word)
  /-- R250: Correctly rounded square root. -/
  | fSqrt (w : Word)
  /-- R250: Correctly rounded reciprocal. -/
  | fRcp (w : Word)
  /-- R250: Correctly rounded reciprocal square root. -/
  | fRsq (w : Word)
  /-- R250: Correctly rounded 2 to the power a. -/
  | fExp2 (w : Word)
  /-- R250: Correctly rounded base-2 logarithm. -/
  | fLog2 (w : Word)
  /-- R252: Correctly rounded sine of an argument in radians. -/
  | fSin (w : Word)
  /-- R252: Correctly rounded cosine of an argument in radians. -/
  | fCos (w : Word)
  /-- R252: Correctly rounded hyperbolic tangent. -/
  | fTanh (w : Word)
  /-- R250: Rounds to an integer value in the float type. -/
  | fRound (w : Word)
  /-- R255: Writes a one-hot class mask of a float bit pattern. -/
  | fClass (w : Word)
  /-- R250: I-form of F.ADD. -/
  | fAddImm (w : WordI)
  /-- R250: I-form of F.SUB. -/
  | fSubImm (w : WordI)
  /-- R250: I-form of F.MUL. -/
  | fMulImm (w : WordI)
  /-- R253: I-form of F.MIN. -/
  | fMinImm (w : WordI)
  /-- R253: I-form of F.MAX. -/
  | fMaxImm (w : WordI)
  /-- R254: I-form of F.CMP. -/
  | fCmpImm (w : WordI)
  /-- R256: Converts between integer and float types. -/
  | cvt (w : Word)
  /-- R257: Encodes a value into a slot's narrow format, appending outliers. -/
  | cvtN (w : Word)
  /-- R258: Decodes a narrow element exactly to bf16, f32 or f64. -/
  | cvtW (w : Word)
  /-- R259: Converts two values and packs them into 8-bit or 16-bit fields. -/
  | pack (w : Word)
  /-- R259: Extracts and widens an 8-bit or 16-bit field. -/
  | unpack (w : Word)
  /-- R260: Encodes dual-exponent blocks from lanes and stores them. -/
  | blkEnc (w : Word)
  /-- R261: Loads dual-exponent blocks and decodes them into lanes. -/
  | blkDec (w : Word)
  /-- R263: Per-lane truth-table combination of two predicates. -/
  | pLogic (w : WordP)
  /-- R263: Truth-table combination of two uniform predicates. -/
  | qLogic (w : WordP)
  /-- R264: Member-mask vote that a predicate is true in some lane. -/
  | pAny (w : WordP)
  /-- R264: Member-mask vote that a predicate is true in every lane. -/
  | pAll (w : WordP)
  /-- R264: Gathers a predicate of the member lanes into a uniform bit mask. -/
  | pBallot (w : WordP)
  /-- R264: Counts the member lanes whose predicate is true. -/
  | pPopc (w : WordP)
  /-- R267: Cross-lane shuffle by index, xor, up or down, with a fallback. -/
  | xShfl (w : Word)
  /-- R267: Cross-lane rotation by a uniform count. -/
  | xRot (w : Word)
  /-- R267: Broadcasts one lane's value, with a fallback. -/
  | xBcast (w : Word)
  /-- R268: Reduction over the member lanes, formed in a fixed way. -/
  | xRed (w : Word)
  /-- R268: Inclusive or exclusive prefix over the member lanes. -/
  | xScan (w : Word)
  /-- R269: Writes to each lane the mask of members with an equal bit pattern. -/
  | xMatch (w : Word)
  /-- R271: Copies a bit pattern between registers, broadcasting a uniform source. -/
  | mov (w : Word)
  /-- R271: I-form of MOV with a 32-bit immediate. -/
  | movImm (w : WordI)
  /-- R47: Writes the element of one lane into a uniform destination. -/
  | readlane (w : Word)
  /-- R47: Writes the element of the lowest active lane into a uniform destination. -/
  | first (w : Word)
  /-- R272: Reads a special register. -/
  | getsr (w : Word)
  /-- R272: Writes %bankconf, or clears OOR in %status. -/
  | setsr (w : Word)
  /-- R53: Requests more vector registers for the group and waits until the request is grantable. -/
  | grow (w : Word)
  /-- R52: A waiting GROW request becomes grantable and raises the count, with zeroed new registers. -/
  | growGrant (core : Nat)
  /-- R53: Grants a register request at once if it is grantable and writes the resulting count. -/
  | growTry (w : Word)
  /-- R54: Lowers the group's vector register count and returns the bytes to the region. -/
  | shrink (w : Word)
  /-- R280: Per-lane memory load with an optional acquire, written asynchronously. -/
  | ld (w : Word)
  /-- R280: Per-lane memory store with an optional release. -/
  | st (w : Word)
  /-- R281: One uniform memory load. -/
  | ldu (w : Word)
  /-- R281: One uniform memory store. -/
  | stu (w : Word)
  /-- R282: Scratchpad load. -/
  | sld (w : Word)
  /-- R282: Scratchpad store, evaluating an armed barrier object that it touches. -/
  | sst (w : Word)
  /-- R284: Issues a STREAM operation that gathers a stream record's region into scratchpad. -/
  | ldSrec (w : Word)
  /-- R284: Issues a STREAM operation that scatters scratchpad to a stream record's region. -/
  | stSrec (w : Word)
  /-- R285: Writes back the dirty bytes of a range of the core's cache region. -/
  | l1Wb (w : Word)
  /-- R285: Invalidates the clean lines of a range of the core's cache region. -/
  | l1Inv (w : Word)
  /-- R286: Issues a TIER operation that promotes the LPDDR-6 pages of a range to HBM4E. -/
  | tierPref (w : Word)
  /-- R288: Per-lane atomic read-modify-write at the home slice. -/
  | atom (w : Word)
  /-- R289: Bounded increment that returns the old value. -/
  | atomBinc (w : Word)
  /-- R290: Adds a value exactly into an exact accumulator. -/
  | xaccAdd (w : Word)
  /-- R290: Rounds an exact accumulator's sum to a float. -/
  | xaccFold (w : Word)
  /-- R290: Zeroes an exact accumulator. -/
  | xaccClr (w : Word)
  /-- R292: Orders the issuing context's accesses as an acquire, a release or both. -/
  | fence (w : Word)
  /-- R294: Arrives on a team barrier as a release. -/
  | barArrive (w : Word)
  /-- R294: Waits for a team barrier's phase to change. -/
  | barWait (w : Word)
  /-- R294: Arrives on a team barrier and then waits on it. -/
  | barSync (w : Word)
  /-- R295: Initialises and arms a barrier object. -/
  | bobjInit (w : Word)
  /-- R296: Adds arrivals to a barrier object and returns the phase. -/
  | bobjArrive (w : Word)
  /-- R297: Waits for a barrier object's phase to change and returns a status. -/
  | bobjWait (w : Word)
  /-- R298: Raises a timeline to at least v as a release. -/
  | tlSignal (w : Word)
  /-- R298: Waits until a timeline reaches a threshold. -/
  | tlWait (w : Word)
  /-- R299: Waits until an engine counter is at most n. -/
  | waitcnt (w : Word)
  /-- R300: Waits on a future handle and acquires its operation's effects. -/
  | futWait (w : Word)
  /-- R300: Returns a future's state at once. -/
  | futTest (w : Word)
  /-- R300: Cancels an operation that has not started. -/
  | futCancel (w : Word)
  /-- R303: Binds the group to a front slot at the record's home slice. -/
  | frontJoin (w : Word)
  /-- R304: Leaves the bound front, freeing the entry when it empties. -/
  | frontLeave (w : Word)
  /-- R79: Increments the member's step, or holds it in lull beyond the slip limit. -/
  | frontStep (w : Word)
  /-- R305: Reads membership, a step or the slip limit of the bound front. -/
  | frontStat (w : Word)
  /-- R307: Hands copy records to the core's copy engine as one COPY operation. -/
  | kick (w : Word)
  /-- R308: Issues one COPY operation between memory and scratchpad. -/
  | cpy (w : Word)
  /-- R310: Writes a continuation record, attaches it to a future and retires the task group. -/
  | contPark (w : Word)
  /-- R313: Initialises a task-queue header. -/
  | tqInit (w : Word)
  /-- R314: Pushes an entry onto a task queue if it has room. -/
  | tqPush (w : Word)
  /-- R315: Pops an entry from a task queue if it holds one. -/
  | tqPop (w : Word)
  /-- R322: Waits for the core's matrix token and takes it. -/
  | mtokAcq (w : Word)
  /-- R322: Takes the matrix token if it is free, without waiting. -/
  | mtokAcqTry (w : Word)
  /-- R323: Hands the matrix token to a group, or frees it. -/
  | mtokPass (w : Word)
  /-- R328: Queues a matrix product that accumulates into a tile. -/
  | mma (w : Word)
  /-- R330: Queues a 2:4-sparse matrix product. -/
  | mmaSp (w : Word)
  /-- R332: Adds outlier correction terms into a tile. -/
  | mmaOut (w : Word)
  /-- R333: Zeroes a tile. -/
  | accZero (w : Word)
  /-- R334: Loads a tile from scratchpad rows. -/
  | accLd (w : Word)
  /-- R337: Stores a tile through the epilogue to memory, scratchpad or the KV cache. -/
  | accSt (w : Word)
  /-- R335: Moves one tile row into vector registers. -/
  | accMovTov (w : Word)
  /-- R335: Moves vector registers into one tile row. -/
  | accMovToa (w : Word)
  /-- R325: Sets or adds to a word of a layout record, in engine order. -/
  | layout (w : Word)
  /-- R320: The matrix engine performs its next queued matrix instruction in issue order. -/
  | matrixEnginePerform (core : Nat)
  /-- R341: Issues attention over a sequence's blocks at the home slices. -/
  | attn (w : Word)
  /-- R156: ATTN with the second phase that adds probabilities into a score table. -/
  | attnScore (w : Word)
  /-- R342: Looks up table indices of keys per lane. -/
  | kvLookup (w : Word)
  /-- R342: Allocates table entries and block storage for keys. -/
  | kvAlloc (w : Word)
  /-- R342: Frees table entries and returns their storage. -/
  | kvFree (w : Word)
  /-- R343: Issues compaction of a set of blocks to its kept positions. -/
  | kvCompact (w : Word)
  /-- R344: Advances the tier clock by n visits. -/
  | kvSweep (w : Word)
  /-- R344: Writes +0 to a range of a score table. -/
  | scoreClr (w : Word)
  /-- R343: Issues selection of the k highest-scoring positions into the keep bitmap. -/
  | topk (w : Word)
  /-- R345: Looks up a block by prefix hash and token ids. -/
  | pfxLookup (w : Word)
  /-- R345: Inserts a prefix hash and block into the prefix index. -/
  | pfxInsert (w : Word)
  /-- R346: Tests lane confidences and pushes backfill records for the passing lanes. -/
  | exitTest (w : Word)
  /-- R347: Issues the publication of backfilled entries as valid. -/
  | backfill (w : Word)
  /-- R349: Sets bitmap bits with an atomic OR. -/
  | ebmSet (w : Word)
  /-- R349: Returns the number of set bits below an index. -/
  | ebmRank (w : Word)
  /-- R349: Returns the index of the set bit of a given rank. -/
  | ebmSelect (w : Word)
  /-- R350: Waits until every group arrives, then reorders the team's lanes by key. -/
  | regroup (w : Word)
  /-- R394: Reads a system register. -/
  | sysr (w : Word)
  /-- R394: Writes a system register. -/
  | sysw (w : Word)
  /-- R443: Removes the tenant's translations of a range from the TLBs in scope. -/
  | tlbinv (w : Word)
  /-- R462: Ends the tenant's race epoch and clears the detector tables. -/
  | raceClr (w : Word)
  /-- R396: Reads tenant access counters. -/
  | perfRd (w : Word)
  /-- R185: An asynchronous instruction's result lands in its destination and clears its pending mark. -/
  | asyncWriteLands (id : Nat)
  /-- R74: A home slice performs a line request in its tenant's slot, merging reads or making a memory access. -/
  | homeSliceRequest (id : Nat)
  /-- R74: A memory read returns and the slice multicasts the reply to every joined requester. -/
  | mergedReadReply (id : Nat)
  /-- R99: The atomic unit performs an atomic or a queue or front operation in arrival order. -/
  | homeSliceAtomic (id : Nat)
  /-- R451: A slice acknowledges a write of dirty bytes; a failed write raises STOREIMPRECISE. -/
  | writebackAck (id result : Nat)
  /-- R105: An engine operation completes in class order, counts down, sets its future and decrements its counter. -/
  | engineOpComplete (id : Nat)
  /-- R307: All bytes of a copy record are performed and LEN counts down on its barrier object. -/
  | copyRecordLanded (id index : Nat)
  /-- R284: One row of a stream transfer is performed and counts down its bytes. -/
  | streamRowPerformed (id row : Nat)
  /-- R87: The tier engine promotes one page, waiting for room in the return list. -/
  | tierPromotePage (id : Nat)
  /-- R155: A slice's triple for a head reaches the return network and is folded in slice order. -/
  | attnTileComplete (id slice head : Nat)
  /-- R158: Once no block of its set holds a PEND bit, KV.COMPACT copies and rewrites the table. -/
  | compactionStart (id : Nat)
  /-- R347: Once earlier writes are performed, BACKFILL sets VALID and clears PEND with a release. -/
  | backfillPublish (id : Nat)
  /-- R151: A write or free that waited on a MOVING or COMPACT entry proceeds once the entry is LIVE. -/
  | tableWriteAfterMove (id : Nat)
  /-- R152: Every PERIOD cycles, the tier engine visits entry HAND and applies the state table. -/
  | clockVisit (tenant : Nat)
  /-- R151: A demotion copy ends and the entry becomes LIVE with its new ADDR and tier. -/
  | demotionCopyComplete (e : Finish)
  /-- R384: A KIND 0 write lands in the landing window and counts down. -/
  | remoteWriteLanding (id line : Nat)
  /-- R384: A token row lands, is scored against its gate and counts down. -/
  | tokenRowLanding (id row : Nat)
  /-- R384: A tagged message's payload lands, counts down and runs the tag step. -/
  | taggedMessageLanding (id : Nat)
  /-- R355: The dispatcher pops a launch record from a launch queue and checks it. -/
  | launchPop (tenant cls : Nat)
  /-- R359: When a candidate team fits, the dispatcher places it on a core or pair. -/
  | dispatchTeam (launch core : Nat)
  /-- R358: A launch's last team retires; the dispatcher releases and signals DONETL. -/
  | launchComplete (launch : Nat)
  /-- R58: A held boundary write takes effect once the core is empty, after write-back and invalidation. -/
  | poolBoundaryApply (core : Nat)
  /-- R367: A team stops at slot boundaries, drains, saves its tiles and writes its control areas. -/
  | teamPreemption (team : Nat)
  /-- R402: A fault reported after issue is taken in the owning context at its next slot boundary, or recorded. -/
  | impreciseFaultArrival (index : Nat)
  /-- R408: Once the team has halted, control areas are written and the origin group starts its handler. -/
  | handlerEntry (team : Nat)
  /-- R364: A context that has waited 512 cycles becomes due and takes priority at its port. -/
  | contextDue (c : CtxId)
  /-- R380: Host command that pre-empts the teams of a launch or tenant. -/
  | cmdPreempt (tenant launchId : Nat) (all : Bool)
  /-- R380: Host command that orders pre-empted teams resumed. -/
  | cmdResume (tenant launchId : Nat) (all : Bool)
  /-- R368: The dispatcher writes a pre-empted team's image and reuses its pool space. -/
  | teamUnplace (team : Nat)
  /-- R370: A pre-empted team is placed, its image read back and its contexts made ready. -/
  | teamResume (team core : Nat)
  /-- R418: Host halt command that gives the named teams a HOSTHALT trap, or terminates them. -/
  | hostHalt (launchId tenant : Nat) (all : Bool)
  /-- R419: A group's handler mode reaches LIMIT cycles and its team is terminated. -/
  | watchdog (team : Nat)
  /-- R373: A host read or write of device memory is performed at its home slice in a free cycle. -/
  | hostRequest (req : HostReq)
  /-- R374: A host atomic or queue push is performed as a release of SYSTEM scope. -/
  | hostAtomic (req : HostAtomic)
  /-- R381: A host write to REPLY delivers a value to the waiting HCALL. -/
  | hostCallReply (tenant index : Nat) (value : W32)
  /-- R379: A write that unmasks a vector sends its pending interrupt. -/
  | msimaskWrite (tenant : Nat) (mask : BitVec 16)
  /-- R375: Write to a control-space register with no behaviour of its own. -/
  | controlSpaceWrite (offset size : Nat) (value : W64)
  /-- R424: A sensor passes the trip limit and every module clock stops at once. -/
  | thermalTrip (die sensor : Nat)
  /-- R480: A Norvan port is declared down and sends over it complete with a fault. -/
  | norvanPortDown (port peer : Nat)
  /-- R480: A Norvan port comes up and a kind-15 record is pushed. -/
  | norvanPortUp (port peer : Nat)
  /-- R357: A tagged launch message from the host arrives over Eweov, its payload is written and the tag step may fire a launch. -/
  | taggedLaunchMessage (tenant : Nat) (tag : W32) (addr : W64) (payload : List Byte)
  /-- R455: An uncorrectable error in memory, the pool, the accumulator store or the uniform file poisons its word or line. -/
  | uncorrectableError (site : ErrSite)
  /-- R481: A single-bit error is corrected silently and logged in the black box, at most one event per unit per 2^20 cycles. -/
  | correctedError (die unit : Nat) (addr : W64)
  /-- R477: After FRPAT cycles of lull, the slowest member is ejected, notified and recorded. -/
  | frontEjection (record : Nat)
  /-- R291: The timeout of a timed wait expires, and the wait ends with a timed-out status and no acquire. -/
  | waitTimeout (c : CtxId)
  /-- R389: A write of 1 to ATTCMD signs the measurement log and nonce. -/
  | attestationSign
  /-- R387: Requests the 3.6 GHz state, or restarts the clocks. -/
  | powerReq36Ghz
  /-- R387: Requests the 2.4 GHz state. -/
  | powerReq24Ghz
  /-- R387: Requests the 1.2 GHz state. -/
  | powerReq12Ghz
  /-- R387: Requests that the clocks stop with all state kept. -/
  | powerReqStop
  /-- R387: A requested clock change takes effect at a frame boundary on every unit. -/
  | powerTransition
  /-- R387: Once outstanding operations have completed, the clocks stop and BUSY clears. -/
  | powerStopped
  /-- R479: After 2^20 cycles without a good flit, or on loss of training, Eweov is declared down. -/
  | eweovLinkDown
  /-- R479: Eweov retrains, is declared up and sends its held interrupts. -/
  | eweovLinkUp
  /-- R388: Clears everything and the boot ROM verifies and starts the firmware. -/
  | coldReset
  /-- R391: Returns registers to their reset values, keeping dash fields, rings and the log. -/
  | warmReset
  /-- R424: The tripped temperature sensor falls back below the trip limit, after which POWER.REQ writes are accepted again. -/
  | sensorBackBelowLimit
  /-- R468: After RFH restores the team, a suspended ATTN recomputes its discarded tiles. -/
  | attnRecompute (id : Nat)
  /-- R161: The backfill engine pops a record and starts the backfill kernel as a task. -/
  | backfillTaskStart (tenant core : Nat)
  /-- R311: An eligible continuation record resumes as a new group of its task kernel. -/
  | continuationResume (id core : Nat)
  /-- R382: The fabric interface pops a send descriptor and transmits it over Norvan or loopback. -/
  | fabricSend (tenant : Nat)
  /-- R384: The destination acknowledges the last count-down and the send completes at its sender. -/
  | fabricSendComplete (e : Finish)
  /-- R151: Once the earlier readers have finished, the old block address is pushed onto its free array. -/
  | oldBlockFreePush (id : Nat)
deriving DecidableEq, Repr

end Sys2Proof
end

