-- ==== Sys2Proof/Machine/Bits.lean ====
section
/-! DEFINITION. Bit fields, sparse contents, byte order and the properties of types: what every later file reads and writes with (R4, R121-R123, R176). -/

namespace Sys2Proof

/-- The value at an index; an unlisted index reads zero. -/
def Sparse.get {w : Nat} : Sparse w → Nat → BitVec w
  | [], _ => 0
  | (k, x) :: t, a => if k = a then x else Sparse.get t a

/-- Every entry but those at an index. -/
def Sparse.erase {w : Nat} : Sparse w → Nat → Sparse w
  | [], _ => []
  | (k, x) :: t, a => if k = a then Sparse.erase t a else (k, x) :: Sparse.erase t a

/-- A new entry before the first greater index. -/
def Sparse.insert {w : Nat} : Sparse w → Nat → BitVec w → Sparse w
  | [], a, v => [(a, v)]
  | (k, x) :: t, a, v => if a < k then (a, v) :: (k, x) :: t else (k, x) :: Sparse.insert t a v

/-- Contents with one value written; writing zero removes the entry. -/
def Sparse.set {w : Nat} (m : Sparse w) (a : Nat) (v : BitVec w) : Sparse w :=
  if v = 0 then m.erase a else (m.erase a).insert a v

/-- Indices above a bound, strictly rising, and no zero entry. -/
def Sparse.wfFrom {w : Nat} : Nat → Sparse w → Bool
  | _, [] => true
  | n, (k, x) :: t => decide (n ≤ k) && decide (x ≠ 0) && Sparse.wfFrom (k + 1) t

/-- The canonical form. -/
def Sparse.wf {w : Nat} (m : Sparse w) : Bool := Sparse.wfFrom 0 m

/-- The canonical form of memory. -/
abbrev Memory.wf (m : Memory) : Bool := Sparse.wf m

/-- `n` bytes from an address, as a little-endian number (R4). -/
def Sparse.read (m : Sparse 8) (a : Nat) : Nat → Nat
  | 0 => 0
  | n + 1 => (m.get a).toNat + 256 * Sparse.read m (a + 1) n

/-- `n` bytes written from an address, little-endian (R4). -/
def Sparse.write (m : Sparse 8) (a : Nat) : Nat → Nat → Sparse 8
  | 0, _ => m
  | n + 1, v => Sparse.write (m.set a (BitVec.ofNat 8 v)) (a + 1) n (v / 256)

/-- The bytes of a mask written from an address: byte i is written when bit i of the mask is set. -/
def Sparse.writeMask (m : Sparse 8) (a : Nat) : Nat → Nat → Nat → Sparse 8
  | 0, _, _ => m
  | n + 1, mask, v =>
    Sparse.writeMask (if mask % 2 = 1 then m.set a (BitVec.ofNat 8 v) else m) (a + 1) n (mask / 2) (v / 256)

/-- Bits hi:lo of a number. -/
def fld (x hi lo : Nat) : Nat := (x >>> lo) % 2 ^ (hi + 1 - lo)

/-- Bit i of a number. -/
def bitOf (x i : Nat) : Bool := x.testBit i

/-- A truth value as 1 or 0. -/
def b2n (b : Bool) : Nat := if b then 1 else 0

/-- A number with bits hi:lo replaced. -/
def setFld (x hi lo v : Nat) : Nat :=
  x - (fld x hi lo) * 2 ^ lo + (v % 2 ^ (hi + 1 - lo)) * 2 ^ lo

/-- A number of n bits read as signed two's complement. -/
def sgn (n x : Nat) : Int := if x % 2 ^ n < 2 ^ (n - 1) then (x % 2 ^ n : Nat) else ((x % 2 ^ n : Nat) : Int) - 2 ^ n

/-- The number of n bits congruent to an integer. -/
def wrapN (n : Nat) (x : Int) : Nat := (x % (2 ^ n : Nat)).toNat

/-- Bytes of a number, lowest first. -/
def bytesOf : Nat → Nat → List Byte
  | 0, _ => []
  | n + 1, v => BitVec.ofNat 8 v :: bytesOf n (v / 256)

/-- The little-endian number of a list of bytes. -/
def ofBytes : List Byte → Nat
  | [] => 0
  | b :: t => b.toNat + 256 * ofBytes t

/-- Lane numbers 0 to 63. -/
def laneNums : List Nat := List.range 64

/-- The lanes of a mask, ascending. -/
def lanesOf (m : W64) : List Nat := laneNums.filter (fun i => m.getLsbD i)

/-- The mask of the lanes that satisfy a test. -/
def maskOf (p : Nat → Bool) : W64 :=
  BitVec.ofNat 64 (laneNums.foldl (fun a i => if p i then a + 2 ^ i else a) 0)

/-- The mask of lanes 0 to w - 1. -/
def fullMask (w : Nat) : W64 := BitVec.ofNat 64 (2 ^ w - 1)

/-- The lowest lane of a mask, or 0. -/
def lowLane (m : W64) : Nat := (lanesOf m).headD 0

/-- The elements that satisfy a test, changed. -/
def updWhere {α : Type} (p : α → Bool) (f : α → α) (l : List α) : List α := l.map (fun x => if p x then f x else x)

/-- Element i of a list changed. -/
def updAt {α : Type} : List α → Nat → (α → α) → List α
  | [], _, _ => []
  | x :: t, 0, f => f x :: t
  | x :: t, i + 1, f => x :: updAt t i f

/-- The last bit set of a number, plus one; 0 for 0 (its length in binary). -/
def blen (x : Nat) : Nat := if x = 0 then 0 else Nat.log2 x + 1

/-- The code of a type (R176). -/
def Ty.code : Ty → Nat
  | .i8 => 0 | .u8 => 1 | .i16 => 2 | .u16 => 3 | .i32 => 4 | .u32 => 5 | .i64 => 6 | .u64 => 7
  | .f16 => 8 | .bf16 => 9 | .f32 => 10 | .f64 => 11 | .slot => 12

/-- The type of a code; D to F are reserved (R176). -/
def tyOf : Nat → Option Ty
  | 0 => some .i8 | 1 => some .u8 | 2 => some .i16 | 3 => some .u16 | 4 => some .i32 | 5 => some .u32
  | 6 => some .i64 | 7 => some .u64 | 8 => some .f16 | 9 => some .bf16 | 10 => some .f32 | 11 => some .f64
  | 12 => some .slot | _ => none

/-- Width in bits (R121, R123); a narrow element is read as 32 bits. -/
def Ty.bits : Ty → Nat
  | .i8 | .u8 => 8
  | .i16 | .u16 | .f16 | .bf16 => 16
  | .i32 | .u32 | .f32 | .slot => 32
  | .i64 | .u64 | .f64 => 64

/-- Signed integer types (R121). -/
def Ty.signed : Ty → Bool
  | .i8 | .i16 | .i32 | .i64 => true
  | _ => false

/-- Integer types (R121). -/
def Ty.isInt (t : Ty) : Bool := decide (t.code ≤ 7)
/-- Float types (R123). -/
def Ty.isFloat (t : Ty) : Bool := decide (8 ≤ t.code ∧ t.code ≤ 11)
/-- Types that occupy a pair (R170). -/
def Ty.is64 (t : Ty) : Bool := decide (t.bits = 64)
/-- Registers of one element (R170, R279). -/
def Ty.regs (t : Ty) : Nat := if t.is64 then 2 else 1
/-- Element bytes (R279). -/
def Ty.bytes (t : Ty) : Nat := t.bits / 8

/-- The integer a pattern of a type stands for (R121). -/
def Ty.toInt (t : Ty) (x : W64) : Int := if t.signed then sgn t.bits x.toNat else ((x.toNat % 2 ^ t.bits : Nat) : Int)

/-- Smallest and largest value of an integer type (R121). -/
def Ty.minI (t : Ty) : Int := if t.signed then -(2 ^ (t.bits - 1) : Nat) else 0
/-- Largest value of an integer type (R121). -/
def Ty.maxI (t : Ty) : Int := if t.signed then ((2 ^ (t.bits - 1) : Nat) : Int) - 1 else ((2 ^ t.bits : Nat) : Int) - 1

/-- Wrap of R128, as the pattern of the type's width. -/
def Ty.wrap (t : Ty) (x : Int) : W64 := BitVec.ofNat 64 (wrapN t.bits x)

/-- Clamp of R128. -/
def clampI (x lo hi : Int) : Int := if x < lo then lo else if x > hi then hi else x

/-- Sat of R128, as the pattern of the type's width. -/
def Ty.satI (t : Ty) (x : Int) : W64 := t.wrap (clampI x t.minI t.maxI)

/-- A result of a type as it is written into its register or pair: 8- and 16-bit results are extended (R170). -/
def Ty.extend (t : Ty) (x : W64) : W64 :=
  if t.is64 then x
  else if t.signed then BitVec.ofNat 64 (wrapN 32 (sgn t.bits x.toNat))
  else BitVec.ofNat 64 (x.toNat % 2 ^ t.bits)

end Sys2Proof
end

