-- ==== Sys2Proof/Config.lean ====
section
/-! DEFINITION. What an implementation of the C9 fixes and the manual does not, as opaque constants: no proof can see a value of one (log entries 9, 10, 12 and 21). -/

namespace Sys2Proof

/-- UNVERIFIED, log 9: an unconstrained 64-bit value, one for each count of `State.fresh`; used where the manual says a value is one that software cannot predict. -/
opaque Config.freeValue : Nat → W64
/-- DESIGN CHOICE, log 10: which of the ways that may be replaced a full set replaces (R69). -/
opaque Config.victim : Nat → Nat
/-- PRESUMED, log 12: the Dalnar public key whose SHA-512 digest is fused into every die (R388). -/
opaque Config.dalnarKey : BitVec 256
/-- PRESUMED, log 12: Ed25519 verification, as its own standard defines it: key, message, signature (R388). -/
opaque Config.ed25519Verify : BitVec 256 → List Byte → BitVec 512 → Bool
/-- PRESUMED, log 12: the Ed25519 signature of a message under the per-device attestation key (R389). -/
opaque Config.attestSign : List Byte → BitVec 512
/-- PRESUMED, log 12: the per-device attestation public key (R376). -/
opaque Config.attestKey : BitVec 256
/-- PRESUMED, log 12: the SHA-512 digest of the boot ROM, log entry 0 (R388). -/
opaque Config.romDigest : BitVec 512

/-- DESIGN CHOICE, log 21: the Norvan port over which a send to a module goes (R480). -/
opaque Config.norvanPort : Nat → Nat

end Sys2Proof
end

