-- ==== Sys2Proof/Machine/Float.lean ====
section
/-! DEFINITION. Floating-point values, rounding, exact sums, the correctly rounded functions, narrow formats, dual-exponent blocks and exact accumulators (R123-R142, R250-R255, R488). -/

namespace Sys2Proof

/-- A value: NaN, an infinity, or (-1)^neg * m * 2^e. -/
inductive FVal where
  | nan
  | inf (neg : Bool)
  | fin (neg : Bool) (m : Nat) (e : Int)
deriving DecidableEq, Repr

/-- A binary format: width, fraction bits, bias, the code of its largest finite value, and whether the code above it is an infinity (R123, R129). -/
structure Fmt where
  bits : Nat
  mb : Nat
  bias : Nat
  top : Nat
  hasInf : Bool
deriving DecidableEq, Repr

/-- The formats of R123; other types are given f32's. -/
def Ty.fmt : Ty → Fmt
  | .f16 => ⟨16, 10, 15, 0x7BFF, true⟩
  | .bf16 => ⟨16, 7, 127, 0x7F7F, true⟩
  | .f64 => ⟨64, 52, 1023, 0x7FEFFFFFFFFFFFFF, true⟩
  | _ => ⟨32, 23, 127, 0x7F7FFFFF, true⟩

/-- The narrow float formats by element code (R129). -/
def narrowFmt : Nat → Fmt
  | 0 => ⟨8, 2, 15, 0x7B, true⟩
  | 1 => ⟨8, 3, 7, 0x7E, false⟩
  | 2 => ⟨6, 2, 3, 0x1F, false⟩
  | 3 => ⟨6, 3, 1, 0x1F, false⟩
  | _ => ⟨4, 1, 1, 0x7, false⟩

/-- The exponent of the subnormal grid. -/
def Fmt.emin (f : Fmt) : Int := 1 - (f.bias : Int) - (f.mb : Int)

/-- The value of a code of a format, sign bit on top (R123, R129). -/
def Fmt.decode (f : Fmt) (x : Nat) : FVal :=
  let neg := x.testBit (f.bits - 1)
  let c := x % 2 ^ (f.bits - 1)
  if f.top < c then (if f.hasInf && c == f.top + 1 then .inf neg else .nan)
  else if c / 2 ^ f.mb = 0 then .fin neg c f.emin
  else .fin neg (c % 2 ^ f.mb + 2 ^ f.mb) (f.emin + (c / 2 ^ f.mb : Nat) - 1)

/-- The value of a pattern of a float type (R123). -/
def decodeF (t : Ty) (x : W64) : FVal := t.fmt.decode (x.toNat % 2 ^ t.bits)

/-- Whether a magnitude is rounded away from zero: the kept part, the discarded part and its half (R126, R127). -/
def roundsUp (mode : Nat) (neg : Bool) (base rem half : Nat) : Bool :=
  match mode with
  | 0 => decide (half < rem) || (rem == half && base % 2 == 1)
  | 1 => false
  | 2 => neg && rem != 0
  | 3 => !neg && rem != 0
  | _ => decide (half ≤ rem)

/-- m * 2^e rounded to a multiple of 2^q, as that multiple. -/
def roundTo (mode : Nat) (neg : Bool) (m : Nat) (e q : Int) : Nat :=
  if q ≤ e then m * 2 ^ (e - q).toNat
  else
    let sh := (q - e).toNat
    let base := m / 2 ^ sh
    if roundsUp mode neg base (m % 2 ^ sh) (2 ^ (sh - 1)) then base + 1 else base

/-- RoundInt of the magnitude of a finite value (R127). -/
def roundMag (mode : Nat) (neg : Bool) (m : Nat) (e : Int) : Nat := roundTo mode neg m e 0

/-- RoundInt (R127). -/
def roundInt (mode : Nat) (neg : Bool) (m : Nat) (e : Int) : Int :=
  if neg then -(roundMag mode neg m e : Int) else (roundMag mode neg m e : Int)

/-- The code of a rounded magnitude with the exponent unbounded above. -/
def Fmt.code (f : Fmt) (mode : Nat) (neg : Bool) (m : Nat) (e : Int) : Nat :=
  let q0 := e + (blen m : Int) - (f.mb + 1 : Nat)
  let q := if q0 < f.emin then f.emin else q0
  (q - f.emin).toNat * 2 ^ f.mb + roundTo mode neg m e q

/-- A code with its sign. -/
def Fmt.signed (f : Fmt) (neg : Bool) (c : Nat) : Nat := if neg then c + 2 ^ (f.bits - 1) else c

/-- The canonical NaN (R124): exponent all ones and the top fraction bit. -/
def Fmt.qnan (f : Fmt) : Nat := f.top + 1 + 2 ^ (f.mb - 1)

/-- RoundFP as a pattern of the format (R127). -/
def Fmt.round (f : Fmt) (mode : Nat) : FVal → Nat
  | .nan => f.qnan
  | .inf neg => f.signed neg (f.top + 1)
  | .fin neg m e =>
    if m = 0 then f.signed neg 0
    else
      let c := f.code mode neg m e
      if c ≤ f.top then f.signed neg c
      else if mode = 1 || (mode = 2 && !neg) || (mode = 3 && neg) then f.signed neg f.top
      else f.signed neg (f.top + 1)

/-- RoundFP to a float type (R127). -/
def roundF (t : Ty) (mode : Nat) (v : FVal) : W64 := BitVec.ofNat 64 (t.fmt.round mode v)

/-- RoundFP and back: the rounded value. -/
def roundV (t : Ty) (mode : Nat) (v : FVal) : FVal := decodeF t (roundF t mode v)

/-- RNE_FP32 as a pattern (R127). -/
def rneF32 (v : FVal) : W32 := BitVec.ofNat 32 (Ty.f32.fmt.round 0 v)
/-- The value of an f32 pattern. -/
def valF32 (x : W32) : FVal := Ty.f32.fmt.decode x.toNat
/-- The value of a bf16 pattern. -/
def valBf16 (x : Nat) : FVal := Ty.bf16.fmt.decode (x % 65536)

/-- The value of an integer; 0 converts to +0 (R488). -/
def FVal.ofInt (x : Int) : FVal := .fin (decide (x < 0)) x.natAbs 0

/-- A negated value. -/
def FVal.neg : FVal → FVal
  | .nan => .nan
  | .inf s => .inf (!s)
  | .fin s m e => .fin (!s) m e

/-- A NaN. -/
def FVal.isNan : FVal → Bool
  | .nan => true
  | _ => false
/-- An infinity of a sign. -/
def FVal.isInf (neg : Bool) : FVal → Bool
  | .inf s => s == neg
  | _ => false
/-- A zero of a sign. -/
def FVal.isZero (neg : Bool) : FVal → Bool
  | .fin s 0 _ => s == neg
  | _ => false

/-- The exact product (R488). -/
def FVal.mul : FVal → FVal → FVal
  | .nan, _ => .nan
  | _, .nan => .nan
  | .inf s, .inf t => .inf (s != t)
  | .inf s, .fin t m _ => if m = 0 then .nan else .inf (s != t)
  | .fin s m _, .inf t => if m = 0 then .nan else .inf (s != t)
  | .fin s m e, .fin t n f => .fin (s != t) (m * n) (e + f)

/-- The least exponent of the finite addends. -/
def minExp : List FVal → Int → Int
  | [], a => a
  | .fin _ _ e :: t, a => minExp t (if e < a then e else a)
  | _ :: t, a => minExp t a

/-- The sum of finite addends in units of 2^q. -/
def sumAt (q : Int) : List FVal → Int
  | [] => 0
  | .fin s m e :: t => (if s then -((m * 2 ^ (e - q).toNat : Nat) : Int) else ((m * 2 ^ (e - q).toNat : Nat) : Int)) + sumAt q t
  | _ :: t => sumAt q t

/-- ExactSum (R128) with the sign of a zero sum (R488), which depends on the rounding mode that follows. -/
def exactSum (mode : Nat) (l : List FVal) : FVal :=
  if l.any FVal.isNan || (l.any (FVal.isInf false) && l.any (FVal.isInf true)) then .nan
  else if l.any (FVal.isInf false) then .inf false
  else if l.any (FVal.isInf true) then .inf true
  else
    let q := minExp l 0
    let x := sumAt q l
    if x = 0 then
      .fin (if l.isEmpty || l.all (FVal.isZero false) then false else if l.all (FVal.isZero true) then true else mode == 2) 0 0
    else .fin (decide (x < 0)) x.natAbs q

/-- A quotient: at least 120 significant bits, and a last bit that is set when a remainder is left. -/
def divMag (m n : Nat) (e : Int) : Nat × Int :=
  let s := 120 + blen n
  let q := (m * 2 ^ s) / n
  (2 * q + b2n ((m * 2 ^ s) % n != 0), e - s - 1)

/-- The quotient a ÷ b, precise enough for every rounding (R125, R251, R488). -/
def FVal.div : FVal → FVal → FVal
  | .nan, _ => .nan
  | _, .nan => .nan
  | .inf _, .inf _ => .nan
  | .inf s, .fin t _ _ => .inf (s != t)
  | .fin s _ _, .inf t => .fin (s != t) 0 0
  | .fin s m e, .fin t n f =>
    if n = 0 then (if m = 0 then .nan else .inf (s != t))
    else let (q, g) := divMag m n (e - f); .fin (s != t) q g

/-- The integer square root, two bits a step. -/
def isqrt : Nat → Nat → Nat
  | 0, _ => 0
  | k + 1, n => let r := 2 * isqrt k (n / 4); if (r + 1) * (r + 1) ≤ n then r + 1 else r

/-- √a (R251): 128 bits or more of root, the last set when it is not exact. -/
def FVal.sqrt : FVal → FVal
  | .nan => .nan
  | .inf s => if s then .nan else .inf false
  | .fin s m e =>
    if m = 0 then .fin s 0 0
    else if s then .nan
    else
      let n := m * 2 ^ (256 + (e % 2).toNat)
      let r := isqrt (blen n) n
      .fin false (2 * r + b2n (r * r != n)) ((e - e % 2) / 2 - 129)

/-- 1 ÷ √a (R251). -/
def FVal.rsq : FVal → FVal
  | .nan => .nan
  | .inf s => if s then .nan else .fin false 0 0
  | .fin s m e =>
    if m = 0 then .inf s
    else if s then .nan
    else
      let n := m * 2 ^ (e % 2).toNat
      let k := 160 + blen n
      let d := 2 ^ (2 * k) / n
      let r := isqrt (2 * k + 1) d
      .fin false (2 * r + b2n (r * r * n != 2 ^ (2 * k))) (-((e - e % 2) / 2) - k - 1)

/-- Bits of the first fixed-point enclosure, and how often it may be doubled: past 3 * 2^20 bits, more than transcendence measures ask of a 53-bit argument (PRESUMED, log 11). -/
def fxBits : Nat := 384
def fxDoublings : Nat := 14

/-- Σ z^(2k+1) / (2k+1) over n terms from term k, `pw` being z^(2k+1) and `z2` z^2 in units of 2^-P; signs alternate when `alt`. -/
def oddSeries (P : Nat) (alt : Bool) (z2 : Nat) : Nat → Nat → Nat → Int
  | 0, _, _ => 0
  | n + 1, k, pw =>
    let rest := oddSeries P alt z2 n (k + 1) (pw * z2 / 2 ^ P)
    ((pw / (2 * k + 1) : Nat) : Int) + (if alt then -rest else rest)

/-- atan(1/n) in units of 2^-P. -/
def atanInv (P n : Nat) : Int := oddSeries P true (2 ^ P / (n * n)) (P / 4 + 2) 0 (2 ^ P / n)

/-- π in units of 2^-P, by Machin's formula. -/
def piFix (P : Nat) : Nat := (16 * atanInv P 5 - 4 * atanInv P 239).toNat

/-- ln f = 2 atanh((f - 1) / (f + 1)) for f = a / b, in units of 2^-P. -/
def lnFix (P a b : Nat) : Nat :=
  let z := (a - b) * 2 ^ P / (a + b)
  (2 * oddSeries P false (z * z / 2 ^ P) (P / 3 + 2) 0 z).toNat

/-- Σ y^k / k! from term k, `t` being the term, y and t in units of 2^-P. -/
def expSeries (P y : Nat) : Nat → Nat → Nat → Nat
  | 0, _, _ => 0
  | n + 1, k, t => t + expSeries P y n (k + 1) (t * y / 2 ^ P / (k + 1))

/-- Σ (-1)^k y^(2k+d) / (2k+d)! from a term, y2 = y^2. -/
def trigSeries (P y2 : Nat) : Nat → Nat → Nat → Int
  | 0, _, _ => 0
  | n + 1, k, t => (t : Int) - trigSeries P y2 n (k + 2) (t * y2 / 2 ^ P / ((k + 1) * (k + 2)))

/-- 2^f for a fraction f in units of 2^-P. -/
def exp2Fix (P f : Nat) : Nat := expSeries P (f * lnFix P 2 1 / 2 ^ P) (P / 2) 0 (2 ^ P)

/-- The rounding of a value that `at_ P` encloses as sign, magnitude v ± 2^64 and unit 2^e, ever closer as P grows: the precision doubles until the two ends round alike (R125; log 11). -/
def encl (t : Ty) (mode : Nat) (at_ : Nat → Bool × Nat × Int) : Nat → Nat → W64
  | 0, P => let (neg, v, e) := at_ P; roundF t mode (.fin neg v e)
  | n + 1, P =>
    let (neg, v, e) := at_ P
    let lo := roundF t mode (.fin neg (v - 2 ^ 64) e)
    if lo = roundF t mode (.fin neg (v + 2 ^ 64) e) then lo else encl t mode at_ n (2 * P)

/-- A value just below or just above m * 2^e, closer than any rounding can tell. -/
def nudge (neg : Bool) (m : Nat) (e : Int) (up : Bool) : FVal :=
  .fin neg (if up then m * 2 ^ 200 + 1 else m * 2 ^ 200 - 1) (e - 200)

/-- F.EXP2 (R125, R251). -/
def exp2F (t : Ty) (mode : Nat) (x : W64) : W64 :=
  match decodeF t x with
  | .nan => roundF t mode .nan
  | .inf s => roundF t mode (if s then .fin false 0 0 else .inf false)
  | .fin s m e =>
    if m = 0 then roundF t mode (.fin false 1 0)
    else if 13 < (blen m : Int) + e then roundF t mode (.fin false 3 (if s then -5000 else 5000))
    else if (blen m : Int) + e < -70 then roundF t mode (nudge false 1 0 (!s))
    else
      let whole (P : Nat) : Int × Nat :=
        let fx : Nat := if e < 0 then m * 2 ^ (P - (-e).toNat) else m * 2 ^ (P + e.toNat)
        let f : Int := if s then -(fx : Int) else fx
        (f / (2 ^ P : Nat), (f % (2 ^ P : Nat)).toNat)
      if (whole fxBits).2 = 0 then roundF t mode (.fin false 1 (whole fxBits).1)
      else encl t mode (fun P => (false, exp2Fix P (whole P).2, (whole P).1 - P)) fxDoublings fxBits

/-- F.LOG2 (R125, R251). -/
def log2F (t : Ty) (mode : Nat) (x : W64) : W64 :=
  match decodeF t x with
  | .nan => roundF t mode .nan
  | .inf s => roundF t mode (if s then .nan else .inf false)
  | .fin s m e =>
    if m = 0 then roundF t mode (.inf true)
    else if s then roundF t mode .nan
    else
      let k := blen m - 1
      let n : Int := e + k
      if m = 2 ^ k then roundF t mode (FVal.ofInt n)
      else
        let v (P : Nat) : Int := n * (2 ^ P : Nat) + ((lnFix P m (2 ^ k) * 2 ^ P / lnFix P 2 1 : Nat) : Int)
        encl t mode (fun P => (decide (v P < 0), (v P).natAbs, -(P : Int))) fxDoublings fxBits

/-- sin or cos of a value whose octant reduction leaves r in [0, π/2] and quadrant q, as sign and magnitude in units of 2^-P. -/
def trigQuad (P r q : Nat) (neg cos : Bool) : Bool × Nat :=
  let y2 := r * r / 2 ^ P
  let useCos := (q % 2 == 1) != cos
  let v := if useCos then trigSeries P y2 (P / 4) 0 (2 ^ P) else trigSeries P y2 (P / 4) 1 r
  let s := if cos then q == 1 || q == 2 else neg != (decide (2 ≤ q))
  (if v < 0 then !s else s, v.natAbs)

/-- F.SIN and F.COS, argument reduced exactly (R125, R252). -/
def trigF (cos : Bool) (t : Ty) (x : W64) : W64 :=
  match decodeF t x with
  | .nan => roundF t 0 .nan
  | .inf _ => roundF t 0 .nan
  | .fin s m e =>
    if m = 0 then roundF t 0 (if cos then .fin false 1 0 else .fin s 0 0)
    else if (blen m : Int) + e < -40 then roundF t 0 (if cos then nudge false 1 0 false else nudge s m e false)
    else
      let at_ (P : Nat) : Bool × Nat × Int :=
        let big := P + ((blen m : Int) + e).toNat
        let half := piFix (big + 32) / 2
        let fx : Nat := if e < 0 then m * 2 ^ (big + 32 - (-e).toNat) else m * 2 ^ (big + 32 + e.toNat)
        let q := fx / half
        let r := (fx % half) / 2 ^ (big + 32 - P)
        let (g, v) := trigQuad P r (q % 4) s cos
        (g, v, -(P : Int))
      encl t 0 at_ fxDoublings fxBits

/-- F.TANH (R125, R252). -/
def tanhF (t : Ty) (x : W64) : W64 :=
  match decodeF t x with
  | .nan => roundF t 0 .nan
  | .inf s => roundF t 0 (.fin s 1 0)
  | .fin s m e =>
    if m = 0 then roundF t 0 (.fin s 0 0)
    else if (blen m : Int) + e < -40 then roundF t 0 (nudge s m e false)
    else if 6 < (blen m : Int) + e then roundF t 0 (nudge s 1 0 false)
    else
      let at_ (P : Nat) : Bool × Nat × Int :=
        let fx : Nat := if e < 0 then m * 2 ^ (P + 1 - (-e).toNat) else m * 2 ^ (P + 1 + e.toNat)
        let u := fx * 2 ^ P / lnFix P 2 1
        let ex := exp2Fix P (u % 2 ^ P) * 2 ^ (u / 2 ^ P)
        (s, (ex - 2 ^ P) * 2 ^ P / (ex + 2 ^ P), -(P : Int))
      encl t 0 at_ fxDoublings fxBits

/-- F.ROUND: a zero result takes the sign of a (R250). -/
def roundIntF (t : Ty) (mode : Nat) (x : W64) : W64 :=
  match decodeF t x with
  | .fin s m e => roundF t mode (.fin s (roundMag mode s m e) 0)
  | v => roundF t mode v

/-- The pattern of a float type with its NaN made canonical. -/
def canonF (t : Ty) (x : W64) : W64 := if (decodeF t x).isNan then roundF t 0 .nan else BitVec.ofNat 64 (x.toNat % 2 ^ t.bits)

/-- A key that orders the patterns of a float type as their values; -0 is below +0 when `split` (R253). -/
def keyF (t : Ty) (split : Bool) (x : W64) : Int :=
  let mag := x.toNat % 2 ^ (t.bits - 1)
  if x.toNat.testBit (t.bits - 1) then -(mag : Int) - (if split then 1 else 0) else mag

/-- F.MIN and F.MAX (R253). -/
def minMaxF (mx : Bool) (t : Ty) (a b : W64) : W64 :=
  if (decodeF t a).isNan then canonF t b
  else if (decodeF t b).isNan then canonF t a
  else if (if mx then keyF t true a < keyF t true b else keyF t true b < keyF t true a) then canonF t b else canonF t a

/-- F.CLASS (R255). -/
def classF (t : Ty) (x : W64) : W64 :=
  let neg := x.toNat.testBit (t.bits - 1)
  match decodeF t x with
  | .nan => if x.toNat.testBit (t.fmt.mb - 1) then 2 else 1
  | .inf s => if s then 4 else 0x200
  | .fin _ m _ =>
    if m = 0 then (if neg then 0x20 else 0x40)
    else if m < 2 ^ t.fmt.mb then (if neg then 0x10 else 0x80)
    else (if neg then 8 else 0x100)

/-- A format slot as its 256 bits (R138). -/
abbrev Slot := BitVec 256

/-- ECODE. -/
def Slot.ecode (f : Slot) : Nat := fld f.toNat 3 0
/-- DELTA. -/
def Slot.delta (f : Slot) : Nat := fld f.toNat 19 16
/-- ROUND. -/
def Slot.rnd (f : Slot) : Nat := fld f.toNat 22 20
/-- POLICY. -/
def Slot.policy (f : Slot) : Nat := fld f.toNat 25 24
/-- CAP. -/
def Slot.cap (f : Slot) : Nat := fld f.toNat 63 32
/-- OBASE. -/
def Slot.obase (f : Slot) : Nat := fld f.toNat 127 64
/-- OCOUNT. -/
def Slot.ocount (f : Slot) : Nat := fld f.toNat 191 128

/-- A malformed slot (R138), or one with a nonzero reserved bit (R6). -/
def Slot.bad (f : Slot) : Bool :=
  let blk := decide (5 ≤ f.ecode) && decide (f.ecode ≤ 7)
  decide (10 ≤ f.ecode) || decide (2 ≤ f.policy) || decide (5 ≤ f.rnd)
    || fld f.toNat 255 192 != 0 || fld f.toNat 31 26 != 0 || fld f.toNat 23 23 != 0 || fld f.toNat 7 4 != 0
    || (if blk then f.delta == 0 || fld f.toNat 15 8 != 32 else f.delta != 0 || fld f.toNat 15 8 != 0)
    || (f.policy == 0 && (f.ocount % 4 != 0 || decide (2 ^ 56 ≤ f.ocount) || f.obase % 8 != 0 || decide (2 ^ 56 ≤ f.obase)))

/-- The rounding mode that code `md` names through a slot (R126, R134). -/
def Slot.mode (f : Slot) (md : Nat) : Nat := if md = 5 then f.rnd else md

/-- Bits of an element (R122, R129, R132). -/
def elemBits : Nat → Nat
  | 0 => 8 | 1 => 8 | 2 => 6 | 3 => 6 | 4 => 4 | 5 => 8 | 6 => 6 | 7 => 4 | 8 => 8 | _ => 4

/-- The value of a narrow element of codes 0-4, 8 and 9 (R131). -/
def decodeElem (ec x : Nat) : FVal :=
  let b := elemBits ec
  if ec = 8 || ec = 9 then FVal.ofInt (sgn b x) else (narrowFmt ec).decode (x % 2 ^ b)

/-- What OutOfRange writes under POLICY 1 (R135). -/
def saturated (ec : Nat) : FVal → Nat
  | .nan => 0
  | .inf neg | .fin neg _ _ =>
    if ec = 8 then (if neg then 0x80 else 0x7F)
    else if ec = 9 then (if neg then 8 else 7)
    else (narrowFmt ec).signed neg (narrowFmt ec).top

/-- OutOfRange: the bits, and whether a record is appended (R135). -/
def outOfRange (f : Slot) (sat : Nat) : Nat × Bool := if f.policy = 1 then (sat, false) else (0, true)

/-- EncodeElem: the bits, and whether an outlier record is appended (R135). -/
def encodeElem (f : Slot) (md : Nat) (x : FVal) : Nat × Bool :=
  let ec := f.ecode
  let out := outOfRange f (saturated ec x)
  let n := narrowFmt ec
  match x with
  | .nan => if ec = 0 then (0x7F, false) else if ec = 1 then (0x7F, false) else out
  | .inf neg => if ec = 0 then (n.signed neg (n.top + 1), false) else out
  | .fin neg m e =>
    if ec = 8 || ec = 9 then
      let y := roundInt (f.mode md) neg m e
      let h : Int := if ec = 8 then 128 else 8
      if y < -h || h ≤ y then out else (wrapN (elemBits ec) y, false)
    else
      let c := if m = 0 then 0 else n.code (f.mode md) neg m e
      if n.top < c then out else (n.signed neg c, false)

/-- Magnitude bits of a dual-exponent element (R132). -/
def debM (ec : Nat) : Nat := elemBits ec - 2
/-- Bytes of a block (R132). -/
def blockBytes (ec : Nat) : Nat := 2 + 4 * elemBits ec

/-- The value of element bits under header bytes EA and EB (R133). -/
def decodeDeb (ec ea eb x : Nat) : FVal :=
  let b := elemBits ec
  let ex := if x.testBit (b - 1) then eb else ea
  if ex = 0xFF then .nan else .fin (x.testBit (b - 2)) (x % 2 ^ (b - 2)) ((ex : Int) - 127 - (debM ec - 1 : Nat))

/-- Element i of a block held as a little-endian number (R130, R132). -/
def blockElem (ec blk i : Nat) : FVal :=
  decodeDeb ec (blk % 256) (blk / 256 % 256) (blk / 2 ^ (16 + elemBits ec * i) % 2 ^ elemBits ec)

/-- floor(log2) of the largest finite magnitude of a block, if one is not zero (R134). -/
def maxLog : List FVal → Option Int → Option Int
  | [], a => a
  | .fin _ m e :: t, a =>
    let l : Int := (blen m : Int) - 1 + e
    maxLog t (if m = 0 then a else match a with | none => some l | some b => some (if b < l then l else b))
  | _ :: t, a => maxLog t a

/-- One element of EncodeBlock: the bits, and whether it is an outlier (R134, R135). -/
def encodeDeb (f : Slot) (md : Nat) (ea eb : Nat) (x : FVal) : Nat × Bool :=
  let ec := f.ecode
  let k := debM ec
  let b := elemBits ec
  let sg (neg : Bool) (m : Nat) := m + (if neg then 2 ^ (b - 2) else 0)
  match x with
  | .nan => outOfRange f 0
  | .inf neg => outOfRange f (sg neg (2 ^ k - 1))
  | .fin neg m e =>
    let mb := roundMag (f.mode md) false m (e - ((eb : Int) - 127 - (k - 1 : Nat)))
    if (blen m : Int) + e ≤ (eb : Int) - 126 && mb < 2 ^ k then
      (sg neg mb + (if mb = 0 then 0 else 2 ^ (b - 1)), false)
    else
      let ma := roundMag (f.mode md) false m (e - ((ea : Int) - 127 - (k - 1 : Nat)))
      if ma < 2 ^ k then (sg neg ma, false) else outOfRange f (sg neg (2 ^ k - 1))

/-- EncodeBlock: the block as a little-endian number, and the elements that are outliers (R134). -/
def encodeBlock (f : Slot) (md : Nat) (x : List FVal) : Nat × List Nat :=
  let ea := match maxLog x none with | none => 1 | some l => (clampI (l + 127) 1 254).toNat
  let eb := ea - f.delta
  let es := x.map (encodeDeb f md ea eb)
  let bits := es.foldr (fun c a => c.1 + 2 ^ elemBits f.ecode * a) 0
  (ea + 256 * eb + 65536 * bits, (List.range x.length).filter (fun i => ((es[i]?).getD (0, false)).2))

/-- XACC.ADD on an object's 1024 bits (R140). -/
def xaccAdd (o : BitVec 1024) (v : FVal) : BitVec 1024 :=
  let n := o.toNat
  match v with
  | .nan => o ||| BitVec.ofNat 1024 (2 ^ 960)
  | .inf s => o ||| BitVec.ofNat 1024 (2 ^ (if s then 962 else 961))
  | .fin s m e =>
    if m != 0 && (447 : Int) < (blen m : Int) + e then o ||| BitVec.ofNat 1024 (2 ^ 963)
    else
      let w := roundInt 0 s m (e + 480)
      BitVec.ofNat 1024 (n / 2 ^ 960 * 2 ^ 960 + wrapN 960 (((n % 2 ^ 960 : Nat) : Int) + w))

/-- XACC.FOLD (R141). -/
def xaccFold (o : BitVec 1024) (t : Ty) (md : Nat) : W64 :=
  let bit (i : Nat) := o.toNat.testBit i
  if bit 960 || bit 963 || (bit 961 && bit 962) then roundF t md .nan
  else if bit 961 then roundF t md (.inf false)
  else if bit 962 then roundF t md (.inf true)
  else let x := sgn 960 o.toNat; roundF t md (.fin (decide (x < 0)) x.natAbs (-480))

end Sys2Proof
end

