-- ==== Sys2Proof/Machine/Flags.lean ====
section
/-! DEFINITION. What instructions compute from values: the integer functions of R238, R243 and R249, comparisons, carries and truth tables (R237-R240, R243, R249, R254, R263). -/

namespace Sys2Proof.Machine

/-- The integer functions (R238, R243, R249). -/
inductive IOp where
  | add | sub | mul | mulh | div | rem | and | or | xor | shl | shr | sar | min | max | clz | popc | bfx | bfi | abs | mad
deriving DecidableEq, Repr

/-- u(x): the pattern as an unsigned number of the type's width. -/
def un (t : Ty) (x : W64) : Nat := x.toNat % 2 ^ t.bits

/-- The number of set bits. -/
def popcount (n x : Nat) : Nat := ((List.range n).filter (fun i => x.testBit i)).length

/-- The shift count as far as it can matter (R238: counts of n or more are allowed). -/
def shCount (t : Ty) (b : W64) : Nat := Nat.min (un t b) 128

/-- S.BFX and V.BFX (R243). -/
def bitExtract (t : Ty) (a p l : W64) : Int :=
  let m := Nat.min (un t l) t.bits
  let f := (t.toInt a / (2 ^ shCount t p : Nat)) % (2 ^ m : Nat)
  if t.signed && m != 0 && decide ((2 ^ (m - 1) : Nat) ≤ f) then f - (2 ^ m : Nat) else f

/-- S.BFI and V.BFI (R243): bits at or above the width are not written. -/
def bitInsert (t : Ty) (a p l d : W64) : Int :=
  let lo := un t p
  let k := Nat.min (Nat.min (un t l) t.bits) (t.bits - lo)
  if k = 0 then (un t d : Int) else (setFld (un t d) (lo + k - 1) lo (un t a) : Int)

/-- Result of R238: the exact integer, before it is wrapped or saturated. -/
def IOp.exact (f : IOp) (t : Ty) (a b c d : W64) : Int :=
  let x := t.toInt a
  let y := t.toInt b
  match f with
  | .add => x + y
  | .sub => x - y
  | .mul => x * y
  | .mulh => x * y / (2 ^ t.bits : Nat)
  | .div => if y = 0 then (if t.signed then -1 else t.maxI) else x.tdiv y
  | .rem => if y = 0 then x else x.tmod y
  | .and => ((un t a &&& un t b : Nat) : Int)
  | .or => ((un t a ||| un t b : Nat) : Int)
  | .xor => ((un t a ^^^ un t b : Nat) : Int)
  | .shl => x * (2 ^ shCount t b : Nat)
  | .shr => ((un t a / 2 ^ shCount t b : Nat) : Int)
  | .sar => sgn t.bits a.toNat / (2 ^ shCount t b : Nat)
  | .min => if y < x then y else x
  | .max => if x < y then y else x
  | .clz => ((t.bits - blen (un t a) : Nat) : Int)
  | .popc => ((popcount t.bits (un t a) : Nat) : Int)
  | .bfx => bitExtract t a b c
  | .bfi => bitInsert t a b c d
  | .abs => if x < 0 then -x else x
  | .mad => x * y + t.toInt c

/-- The pattern written (R237): saturated when SAT is 1 and the function allows it, wrapped otherwise. -/
def IOp.value (f : IOp) (t : Ty) (sat : Bool) (a b c d : W64) : W64 :=
  if sat then t.satI (f.exact t a b c d) else t.wrap (f.exact t a b c d)

/-- The condition of S.CMP and V.CMP (R240). -/
def intCond (cc : Nat) (t : Ty) (a b : W64) : Bool :=
  match cc with
  | 0 => decide (t.toInt a = t.toInt b)
  | 1 => decide (t.toInt a ≠ t.toInt b)
  | 2 => decide (t.toInt a < t.toInt b)
  | 3 => decide (t.toInt a ≤ t.toInt b)
  | 4 => decide (t.toInt b < t.toInt a)
  | _ => decide (t.toInt b ≤ t.toInt a)

/-- The condition of F.CMP (R254). -/
def floatCond (cc : Nat) (t : Ty) (a b : W64) : Bool :=
  let uno := (decodeF t a).isNan || (decodeF t b).isNan
  let x := keyF t false a
  let y := keyF t false b
  match cc with
  | 0 => !uno && decide (x = y)
  | 1 => uno || decide (x ≠ y)
  | 2 => !uno && decide (x < y)
  | 3 => !uno && decide (x ≤ y)
  | 4 => !uno && decide (y < x)
  | 5 => !uno && decide (y ≤ x)
  | 6 => !uno
  | _ => uno

/-- V.ADDC (R249): the sum and the carry out. -/
def addCarry (t : Ty) (a b : W64) (cin : Bool) : W64 × Bool :=
  let s := un t a + un t b + b2n cin
  (BitVec.ofNat 64 (s % 2 ^ t.bits), decide (2 ^ t.bits ≤ s))

/-- Bit 2a + b of a truth table (R263). -/
def truthTable (tt : BitVec 4) (a b : Bool) : Bool := tt.getLsbD (2 * b2n a + b2n b)

/-- A truth value as the u32 value 1 or 0. -/
def boolW (b : Bool) : W64 := if b then 1 else 0

/-- F.ADD to F.DIV and the unary float functions (R250, R252, R253). -/
inductive FOp where
  | add | sub | mul | fma | div | sqrt | rcp | rsq | exp2 | log2 | sin | cos | tanh | round | min | max
deriving DecidableEq, Repr

/-- The pattern a float function returns (R125, R250-R253). -/
def FOp.value (f : FOp) (t : Ty) (md : Nat) (a b c : W64) : W64 :=
  let x := decodeF t a
  let y := decodeF t b
  match f with
  | .add => roundF t md (exactSum md [x, y])
  | .sub => roundF t md (exactSum md [x, y.neg])
  | .mul => roundF t md (x.mul y)
  | .fma => roundF t md (exactSum md [x.mul y, decodeF t c])
  | .div => roundF t md (x.div y)
  | .sqrt => roundF t md x.sqrt
  | .rcp => roundF t md (FVal.div (.fin false 1 0) x)
  | .rsq => roundF t md x.rsq
  | .exp2 => exp2F t md a
  | .log2 => log2F t md a
  | .sin => trigF false t a
  | .cos => trigF true t a
  | .tanh => tanhF t a
  | .round => roundIntF t md a
  | .min => minMaxF false t a b
  | .max => minMaxF true t a b

/-- One conversion of CVT (R256). -/
def cvtValue (s t : Ty) (md : Nat) (sat : Bool) (a : W64) : W64 :=
  if s.isInt then
    (if t.isInt then (if sat then t.satI (s.toInt a) else t.wrap (s.toInt a)) else roundF t md (FVal.ofInt (s.toInt a)))
  else if t.isFloat then roundF t md (decodeF s a)
  else
    match decodeF s a with
    | .nan => 0
    | .inf neg => t.wrap (if neg then t.minI else t.maxI)
    | .fin neg m e => t.satI (roundInt md neg m e)

/-- New of R288: the value an atomic leaves. -/
def atomNew (t : Ty) (op : Nat) (old v c : W64) : W64 :=
  let o := un t old
  match op with
  | 0 => t.wrap (t.toInt old + t.toInt v)
  | 1 => t.wrap (t.toInt old - t.toInt v)
  | 2 => if t.toInt v < t.toInt old then BitVec.ofNat 64 (un t v) else BitVec.ofNat 64 o
  | 3 => if t.toInt old < t.toInt v then BitVec.ofNat 64 (un t v) else BitVec.ofNat 64 o
  | 4 => BitVec.ofNat 64 (o &&& un t v)
  | 5 => BitVec.ofNat 64 (o ||| un t v)
  | 6 => BitVec.ofNat 64 (o ^^^ un t v)
  | 7 => BitVec.ofNat 64 (un t v)
  | 8 => if o = un t c then BitVec.ofNat 64 (un t v) else BitVec.ofNat 64 o
  | 9 => if un t v ≤ o then 0 else BitVec.ofNat 64 (o + 1)
  | _ => if o = 0 ∨ un t v < o then BitVec.ofNat 64 (un t v) else BitVec.ofNat 64 (o - 1)

end Sys2Proof.Machine
end

