-- ==== Sys2Proof/Machine/State.lean ====
section
/-! DEFINITION. The state of the module, as plain data: everything the manual gives the machine, the records of work in flight, and the model's own fields (script, cur, fresh, nextId). -/

namespace Sys2Proof.Machine

/-- Why a step stops the machine. -/
inductive Fault where
  /-- Raised by `exec` on an instruction word while `State.cur` names no live context: no slot is being issued. Safe: the hardware never issues a slot of no context. -/
  | noContext
  /-- Raised by an access that was translated into, or a host access made to, the reserved part of the physical address space (R15): no memory stands there. Safe. -/
  | physicalHole
deriving DecidableEq, Repr

/-- Why a step has no meaning in the model. -/
inductive Refusal where
  /-- Raised by an arm of `exec` whose instruction is not modelled. Safe. -/
  | notModelled (mnemonic : String)
deriving DecidableEq, Repr

/-- Who made a store or issued an operation: the tag of R450, which R402, R421 and R461 report from. `pc` is laid out as PC0 of R63. -/
structure Tag where
  pc : W64 := 0
  arm : Nat := 0
  tenant : Nat := 0
  team : Nat := 0
  grp : Nat := 0
  priv : Bool := false
deriving DecidableEq, Repr

/-- A line of a core's first-level cache (R69-R71, R450, R455). `wb` holds the write-backs not yet acknowledged: request number and bytes; `strong` the strong stores that wait in it, as (offset, bytes) (R453). -/
structure Line where
  addr : Nat
  data : BitVec 1024 := 0
  dirty : BitVec 128 := 0
  filled : Bool := false
  next : Bool := false
  poison : BitVec 32 := 0
  tag : Tag := {}
  wb : List (Nat × BitVec 128) := []
  strong : List (Nat × Nat) := []
deriving DecidableEq, Repr

/-- A cached translation: `size` bytes at virtual `va` map to physical `pa` (R82, R83). -/
structure TlbEntry where
  tenant : Nat
  va : Nat
  pa : Nat
  size : Nat
  priv : Bool
  x : Bool
  w : Bool
  rd : Bool
deriving DecidableEq, Repr

/-- A vector port: its current context, the yield mark, and latches y0-y5 (R187, R188, R364). -/
structure Port where
  cur : Option CtxId := none
  yielded : Bool := false
  valid : BitVec 6 := 0
  latch : Sparse 32 := []
deriving DecidableEq, Repr

/-- What a queued matrix instruction does (R320-R338). -/
inductive MKind where
  | mma (sparse : Bool) (tile la lb koff : Nat) (pair : Bool)
  | out (tile lo ro : Nat) (sideB : Bool)
  | zero (tile : Nat) (pair : Bool)
  | ld (tile la : Nat) (pair : Bool)
  | st (tile er : Nat) (pair : Bool)
  | tov (tile row : Nat) (async : Nat)
  | toa (tile row : Nat) (vals : List (Nat × W32))
  | layout (so word : Nat) (add : Bool) (v : W32)
deriving DecidableEq, Repr

/-- A matrix instruction in an engine's queue; `op` names its MATRIX-class operation, if it has one, and `old` is its team's scratchpad as it stood at issue (R321). A pair-mode instruction stands in both queues under one id. -/
structure MInst where
  id : Nat
  kind : MKind
  tag : Tag
  op : Option Nat := none
  old : Sparse 8 := []
deriving DecidableEq, Repr

/-- A core (R11, R57, R67, R69, R83, R318, R364): `pins` names the team and the set of each pinned line. -/
structure Core where
  num : Nat
  pbReg : Nat := 32
  pbScr : Nat := 80
  pbPin : Nat := 0
  held : List (Nat × Nat) := []
  lines : List Line := []
  tlb : List TlbEntry := []
  portA : Port := {}
  portB : Port := {}
  bound : Option Nat := none
  mq : List MInst := []
  tiles : Sparse 32 := []
  tilePoison : List Nat := []
  pins : List (Nat × Nat) := []
deriving DecidableEq, Repr

/-- What an arm waits for (R363, R369, R413). -/
inductive WaitKind where
  | idle
  | release
  | acks
  | bar (b : Nat)
  | bobj (off phase : Nat)
  | timeline
  | grow (n seq : Nat)
  | mtok (seq : Nat)
  | lull
  | future (ticket : Nat)
  | hcallPush
  | hcallReply (idx : Nat)
  | yieldOn (cls n : Nat)
  | regroup (vr c : Nat) (vd : Option Nat) (keys : List W32)
  | member (bundle slot : Nat)
  | slice
deriving DecidableEq, Repr

/-- A wait: the cycle at which it times out, the status once it has ended, the requests it waits for, that a release step has been done, which of the two executions of R45 waits, the arms that the slot executes for while it stays, and that a BAR.SYNC has arrived (R45, R95, R291, R369). -/
structure Wait where
  kind : WaitKind := .idle
  deadline : Option Nat := none
  status : Option W32 := none
  ids : List Nat := []
  asy : List Nat := []
  rel : Bool := false
  exec : Nat := 0
  arms : List Nat := []
  sync : Bool := false
deriving DecidableEq, Repr

/-- An arm: a program counter slot of a group (R29-R35, R363, R364). `since` is the cycle of its last issue and `readyAt` the one from which it has been ready since, or in which it was last seen not ready. `left` is the cycles left of a timed wait that a pre-emption stopped (R369), `after` where a context goes on whose wait was satisfied while it was halted, `awaits` the futures of its group that were pending when it halted (R413), `tokSeq` the place of an MTOK.ACQ that a pre-emption stopped among those executed again (R369). -/
structure Arm where
  live : Bool := false
  pc : Nat := 0
  slot : Nat := 0
  mask : W64 := 0
  depth : Nat := 0
  parked : Bool := false
  parkPc : Nat := 0
  wait : Wait := {}
  since : Nat := 0
  readyAt : Nat := 0
  due : Bool := false
  halted : Bool := false
  left : Option Nat := none
  after : Option (Nat × Nat) := none
  awaits : List Nat := []
  tokSeq : Option Nat := none
deriving DecidableEq, Repr

/-- A trap that is raised, delivered or pending (R402, R409). `exited` is the %group of a retired owner (R417); `imp` marks a trap whose delivery pushes a kind-8 record, with `detail8` as its DETAIL (R445); `cycle` is when it was raised (R403). -/
structure Trap where
  cause : Nat
  lane : Nat := 0
  detail : Nat := 0
  pc : W64 := 0
  arm : Nat := 0
  exited : Option Nat := none
  info : W64 := 0
  imp : Bool := false
  detail8 : Nat := 0
  cycle : Nat := 0
deriving DecidableEq, Repr

/-- A group (R20, R37-R63, R104, R404-R410). `futs` lists the uniform registers that hold a handle no later instruction has read yet, with its ticket (R108); arm 1's copies are numbered 128 higher, and `ctrlFuts` are those of the registers that the control area holds. `armH0` and `armH1` are the arms of the handler's own context (R410), while `arm0` and `arm1` keep the halted contexts and their waits (R413). `delivered` is the cause of the trap delivered last (R412). Of its 256-byte register lines, `vclean` lists those not written since they were read back from the context image, and `vout` those still to be read back (R61, R62). -/
structure Group where
  team : Nat
  idx : Nat
  core : Nat
  width : Nat := 16
  ureg : Nat := 0
  count : Nat := 8
  v : Sparse 32 := []
  vpo : List Nat := []
  vclean : List Nat := []
  vout : List Nat := []
  s : Sparse 32 := []
  sb1 : Sparse 32 := []
  spo : List Nat := []
  p : Sparse 64 := []
  q : BitVec 7 := 0
  q1 : BitVec 3 := 0
  xmask : W64 := 0
  split : Bool := false
  melded : Bool := false
  armBits : W64 := 0
  ren0 : Sparse 8 := []
  ren1 : Sparse 8 := []
  oor : Bool := false
  arm0 : Arm := {}
  arm1 : Arm := {}
  armH0 : Arm := {}
  armH1 : Arm := {}
  ctxBase : W64 := 0
  privBase : W64 := 0
  privLim : W64 := 0
  divLim : W64 := 0
  trapVec : W64 := 0
  hVregs : Nat := 0
  hmode : Bool := false
  exited : Bool := false
  causeArm : Bool := false
  codes : BitVec 60 := 0
  ovf : Bool := false
  tpc : W64 := 0
  skid : W64 := 0
  delivered : Nat := 0
  pend : List Trap := []
  hAt : Nat := 0
  skidSlots : Nat := 0
  ecnt : List Nat := [0, 0, 0, 0, 0, 0]
  front : Option (Nat × Nat) := none
  frontAddr : W64 := 0
  futs : List (Nat × Nat) := []
  ctrlFuts : List (Nat × Nat) := []
  retired : Bool := false
deriving DecidableEq, Repr

/-- A team barrier (R293, R369): `everyone` marks an expected count of z, `ever` the groups that have arrived since dispatch. -/
structure Bar where
  arrived : Nat := 0
  expect : Nat := 0
  everyone : Bool := false
  phase : Bool := false
  lastph : W64 := 0
  ever : W64 := 0
deriving DecidableEq, Repr

/-- Where a team stands (R26-R28, R367-R370, R420, R229). -/
inductive Place where
  | resident
  | stopping
  | placed
  | unplaced
  | retired
  | gone
deriving DecidableEq, Repr

/-- A squall: the group whose trap raised it, that trap, the origin cycle, whether a handler has been entered, and that its condition ends the team once it has completed, for team state was lost (R401, R408, R420). -/
structure Squall where
  origin : Nat
  trap : Trap
  cycle : Nat
  entered : Bool := false
  fatal : Bool := false
deriving DecidableEq, Repr

/-- The queue that supplied a task, and the HEAD at which its entry was popped (R471, R472). -/
structure Supplier where
  header : W64
  tenant : Nat
  entry : Nat
deriving DecidableEq, Repr

/-- A team (R20-R27, R66, R110, R293, R318, R319, R367-R369); `saved` says that its tiles stand in its image (BOUND of R369), `wantAt` when the host ordered it resumed (R359). -/
structure Team where
  launch : Nat
  index : Nat
  core : Nat
  core2 : Option Nat := none
  place : Place := .resident
  wantResume : Bool := false
  wantAt : Nat := 0
  scr : Sparse 8 := []
  scrSize : Nat := 0
  scrPoison : List Nat := []
  armed : List Nat := []
  bars : List Bar := []
  tok : Option Nat := none
  tok2 : Option Nat := none
  bank : W32 := 0
  bank2 : W32 := 0
  saved : Bool := false
  squall : Option Squall := none
  supplier : Option Supplier := none
  preempt : Bool := false
  haltCmd : Bool := false
deriving DecidableEq, Repr

/-- A launch: its record's address, the 4096 bits of the record as read, its tenant, the argument address, its handler as read at acceptance, and how far it has come (R351-R362, R404). `head` says that a co-resident launch has reached the head of its source, and `room` is the capacity that stays open to others while it waits there: core, group slots, register bytes and scratchpad bytes (R361); `ending` and `ids` are the release made before its completion is signalled (R358). -/
structure Launch where
  recVa : W64
  hdr : BitVec 4096
  tenant : Nat
  args : W64
  next : Nat := 0
  total : Nat := 0
  retired : Nat := 0
  cores : List Nat := []
  supplier : Option Supplier := none
  complete : Bool := false
  order : Nat := 0
  hEntry : W64 := 0
  hVregs : Nat := 0
  head : Bool := false
  room : List (Nat × Nat × Nat × Nat) := []
  ending : Bool := false
  ids : List Nat := []
deriving DecidableEq, Repr

/-- A write race entry: a line, the teams that wrote it this epoch, and whether it was reported (R461). -/
structure RaceLine where
  line : Nat
  ids : List (Nat × Nat) := []
  count : Nat := 0
  reported : Bool := false
deriving DecidableEq, Repr

/-- A tenant: its control block (R378), its system registers (R146, R452, R459), its tickets (R301), counters (R397) and interrupt state (R379); `bfSeen` notes when each record of its backfill queue was pushed, by the queue's TAIL (R359). -/
structure Tenant where
  cmd : W64 := 0
  landTab : W64 := 0
  fsq : W64 := 0
  errQ : W64 := 0
  hcRing : W64 := 0
  armTab : W64 := 0
  lq0 : W64 := 0
  lq1 : W64 := 0
  lq2 : W64 := 0
  lq3 : W64 := 0
  msiData : W32 := 0
  msiMask : BitVec 16 := 0xFFFF
  fquota : Nat := 0
  quota : Nat := 0
  msiAddr : W64 := 0
  promQ : W64 := 0
  retQ : W64 := 0
  root : W64 := 0
  msiPend : BitVec 16 := 0
  kvtBase : W64 := 0
  kvtSize : W64 := 0
  pfxBase : W64 := 0
  raceCfg : W64 := 0
  raceEpoch : Option Nat := none
  raceTbl : List RaceLine := []
  raceOvf : List Nat := []
  debugCfg : W64 := 0
  ticket : Nat := 0
  tix : List (Nat × Nat) := []
  lost : Nat := 0
  perf : Sparse 64 := []
  tierAt : Nat := 0
  bfSeen : List (Nat × Nat) := []
  cmdTeams : List Nat := []
deriving DecidableEq, Repr

/-- The key of a table entry (R148). -/
structure KvKey where
  seq : Nat
  layer : Nat
  head : Nat
  lblk : Nat
deriving DecidableEq, Repr

/-- An operation that a home slice performs indivisibly (R74, R99, R115, R118, R303-R305, R312-R315, R342, R345). Addresses are physical unless named va. -/
inductive SliceOp where
  | atom (pa : Nat) (ty : Ty) (op : Nat) (v c : W64)
  | binc (pa : Nat) (ty : Ty) (bound : W64)
  | xadd (pa : Nat) (ty : Ty) (v : W64)
  | xfold (pa : Nat) (ty : Ty) (md : Nat)
  | xclr (pa : Nat)
  | orBit (pa bit : Nat)
  | tlSignal (pa : Nat) (v : W64)
  | tlWait (pa : Nat) (t : W64) (c : CtxId)
  | tqInit (pa : Nat) (ring : W64) (log2c log2e : Nat)
  | tqPush (pa : Nat) (va : W64) (data : List W32) (room : Nat)
  | tqPop (pa : Nat) (va : W64) (room : Nat)
  | frontJoin (pa : Nat) (va : W64) (slot : Nat)
  | frontLeave (pa slot : Nat)
  | frontStep (pa slot : Nat) (c : CtxId)
  | frontStat (pa slot what : Nat)
  | kvLookup (key : KvKey)
  | kvAlloc (key : KvKey)
  | kvFree (idx : Nat)
  | pfxLookup (h : W64) (ids : List W32)
  | pfxInsert (h : W64) (ids : List W32) (blk : W32)
  | exitPush (pa : Nat) (va : W64) (data : List W32)
deriving DecidableEq, Repr

/-- What a request asks of its line (R74). -/
inductive ReqKind where
  | read
  | write (data : BitVec 1024) (mask : BitVec 128) (poison : BitVec 32)
  | op (o : SliceOp)
deriving DecidableEq, Repr

/-- A request on its way to the home slice of a line; `part` is the part of the asynchronous result it answers, `strong` the bytes of a strong access (R103, R453). -/
structure Req where
  id : Nat
  core : Nat
  tenant : Nat
  line : Nat
  kind : ReqKind
  tag : Tag
  async : Option (Nat × Nat) := none
  alloc : Bool := true
  next : Bool := false
  strong : List (Nat × Nat) := []
deriving DecidableEq, Repr

/-- An outstanding read in a merge table: the line as read, the requests that joined it, and whether a later write closed it to further joins (R74, R75). -/
structure Merge where
  id : Nat
  line : Nat
  tenant : Nat
  data : BitVec 1024
  poison : Bool
  joined : List Req
  closed : Bool := false
deriving DecidableEq, Repr

/-- A write that its slice has started: it is performed, or fails, when it is acknowledged, and the line waits until then (R72, R74, R451). -/
structure Ack where
  id : Nat
  core : Nat
  tenant : Nat
  line : Nat
  data : BitVec 1024
  mask : BitVec 128
  poison : BitVec 32
  tag : Tag
  failed : Nat := 0
  strong : List (Nat × Nat) := []
deriving DecidableEq, Repr

/-- Where an asynchronous result is written (R184, R185): `dead` is a uniform result whose banked copies a rejoin discarded: it keeps its marks, and writes what it names of the shared registers and predicates (R34). -/
inductive Dest where
  | none
  | vec
  | uni (arm : Nat)
  | dead
deriving DecidableEq, Repr

/-- How an asynchronous record's parts make its results: each part is one, or the parts of a lane together hold a bitmap (R164, R349). -/
inductive Gather where
  | value
  | rank
  | select
deriving DecidableEq, Repr

/-- One lane's share of an asynchronous result: its registers, the bytes it covers, those it has, its predicate, and the cause that it raised, or 0. `clean` lists those of its registers that take no poisoned byte, when it is poisoned (R457). `bits` counts the bitmap bits that a part supplies, and `arg` is the rank that a lane looks for. -/
structure Part where
  lane : Nat := 0
  regs : List Nat := []
  pa : Nat := 0
  n : Nat := 0
  data : BitVec 512 := 0
  got : BitVec 64 := 0
  done : Bool := false
  pred : Bool := false
  skip : Bool := false
  poison : Bool := false
  clean : List Nat := []
  err : Nat := 0
  bits : Nat := 0
  arg : Nat := 0
deriving DecidableEq, Repr

/-- An instruction whose results are still to land (R184, R185): destination, element type, predicate written, and the acquire it makes when done. `blk` is the element code of a BLK.DEC, whose context waits at its slot for the bytes (R261). `hit` says that the acquire is made only when some part's predicate is true (R315, R342). -/
structure Async where
  id : Nat
  core : Nat
  tag : Tag
  dest : Dest
  ty : Ty
  parts : List Part
  pd : Option Nat := none
  acq : Option Nat := none
  load : Bool := false
  blk : Option Nat := none
  hit : Bool := false
  gather : Gather := .value
deriving DecidableEq, Repr

/-- One slice tile of an attention operation: slice, head, (m, l, o), empty when o is, which of them are poisoned, and its count of masked positions (R154, R457, R468). -/
structure AttnTile where
  slice : Nat
  head : Nat
  m : W32
  l : W32
  o : List W32
  pm : Bool
  po : List Bool
  masked : Nat
deriving DecidableEq, Repr

/-- A block that an operation looked up: its logical block, table index, storage address as found, and home slice, 192 while that is not known (R151, R154). -/
structure KvBlk where
  lblk : Nat
  idx : Nat
  addr : Nat
  home : Nat := 192
deriving DecidableEq, Repr

/-- What an engine operation does (R87, R284, R307, R308, R331-R347, R382). -/
inductive OpKind where
  | kick (so n : Nat)
  | cpy (dst src len dir : Nat)
  | stream (load : Bool) (rec so : Nat)
  | tier (va len : Nat)
  | attn (rec : Nat) (score : Bool)
  | compact (rec : Nat)
  | topk (rec : Nat)
  | sweep (n : Nat)
  | backfill (lanes : List (Nat × Nat))
  | matrix
  | send (index : Nat) (desc : BitVec 256)
deriving DecidableEq, Repr

/-- An engine operation (R104-R108, R463): its class, ticket, barrier object, bytes counted so far, the pieces performed, and how it ended. `susp` and `again` are a suspended attention and the restoration that lets it go on (R468); `blks` are the blocks it looked up; `ids` and `asy` are what its release waits for (R347). -/
structure EngOp where
  id : Nat
  cls : Nat
  tag : Tag
  core : Nat
  ticket : Option Nat := none
  bobj : Option Nat := none
  kind : OpKind
  total : Nat := 0
  counted : Nat := 0
  prog : List Nat := []
  started : Bool := false
  ready : Bool := false
  cancelled : Bool := false
  faulted : Bool := false
  bar17 : Bool := false
  susp : Bool := false
  again : Bool := false
  blks : List KvBlk := []
  tiles : List AttnTile := []
  ids : List Nat := []
  asy : List Nat := []
  result : Nat := 0
deriving DecidableEq, Repr

/-- An imprecise fault on its way to its group (R402, R417). `team` none is never used by a group's fault. -/
structure FaultRec where
  team : Nat
  grp : Nat
  trap : Trap
deriving DecidableEq, Repr

/-- What an error record says (R421, R489), with the cycle in which its condition arose. -/
structure ErrRec where
  tenant : Nat
  kind : Nat
  code : Nat := 0
  detail : Nat := 0
  info : W64 := 0
  pc : W64 := 0
  launch : Nat := 0
  team : Nat := 0
  grp : Nat := 0
  flags : Nat := 0
  time : Nat := 0
deriving DecidableEq, Repr

/-- A front entry at its slice (R77-R80, R303). -/
structure FrontEnt where
  pa : Nat
  va : W64
  tenant : Nat
  slip : Nat
  pat : Nat
  mem : W64 := 0
  steps : Sparse 16 := []
  who : List (Nat × Nat × Nat) := []
  lull : List (Nat × Nat × CtxId) := []
deriving DecidableEq, Repr

/-- A context waiting in TL.WAIT at a timeline's slice (R115, R116). -/
structure TlWaiter where
  pa : Nat
  t : W64
  c : CtxId
deriving DecidableEq, Repr

/-- A host call: its context, its record, the ring header as translated at issue, the slot's privilege, where the context goes on when the push fails in a handler, the key of the register that takes the reply, and its index once pushed (R233, R234, R381, R411). -/
structure HCall where
  c : CtxId
  tenant : Nat
  data : BitVec 256
  pa : Nat := 0
  priv : Bool := false
  next : Nat × Nat := (0, 0)
  dst : Option Nat := none
  index : Option Nat := none
deriving DecidableEq, Repr

/-- A parked continuation attached to a future, and its place among the eligible ones (R309-R311). -/
structure Cont where
  id : Nat
  tenant : Nat
  va : W64
  ticket : Nat
  supplier : Option Supplier
  eligible : Bool := false
  order : Nat := 0
  grp : Nat := 0
  index : Nat := 0
deriving DecidableEq, Repr

/-- A message arriving from the fabric for a landing entry: the operation that sent it when it came through loopback, its sender, its descriptor fields, its payload with the words of it that are poisoned, and the lines or rows of it that have landed or failed (R382-R384, R457, R474). -/
structure Landing where
  id : Nat
  op : Option Nat := none
  srcMod : Nat := 0
  tenant : Nat
  kind : Nat
  land : Nat
  tag : W32 := 0
  row0 : Nat := 0
  rowb : Nat := 0
  doff : Nat := 0
  data : List Byte := []
  po : List Nat := []
  done : List Nat := []
  bad : Bool := false
deriving DecidableEq, Repr

/-- A demotion under way (R151, R152), with the core that issued the sweep it belongs to (R105, R344). -/
structure Move where
  id : Nat
  tenant : Nat
  core : Option Nat := none
  idx : Nat
  addr : W64
  old : W64
  tier : Nat
deriving DecidableEq, Repr

/-- An old block address waiting for its earlier readers before it is pushed onto its free array (R151). -/
structure OldBlock where
  id : Nat
  tenant : Nat
  addr : W64
  tier : Nat
  readers : List Nat
deriving DecidableEq, Repr

/-- The step that comes next: a slot of a context through one of the two vector ports, an event, cycles passing, a TLB replacement (R83), or the firmware's loading of a service kernel with its digest (R388). -/
inductive Choice where
  | issue (c : CtxId) (portB : Bool)
  | event (i : Instr)
  | tick (n : Nat)
  | dropTlb (core index : Nat)
  | logKernel (digest : BitVec 512)
deriving DecidableEq, Repr

/-- The slot being issued: context, bundle address, slot, VALID field, privilege, port (R181, R392). -/
structure Cur where
  c : CtxId
  bundle : Nat
  slot : Nat
  valid : BitVec 4
  priv : Bool
  portB : Bool
deriving DecidableEq, Repr

/-- HALT (R418). -/
structure Halt where
  launchId : W32 := 0
  tenant : Nat := 0
  busy : Bool := false
  all : Bool := false
  op : Nat := 0
deriving DecidableEq, Repr

/-- POWER (R386) and the transition it has asked for (R387). -/
structure Power where
  trip : Bool := false
  busy : Bool := false
  cur : Nat := 0
  req : Nat := 0
  hot : Bool := false
  hotDie : Nat := 0
deriving DecidableEq, Repr

/-- The whole machine. -/
structure State where
  mem : Memory
  memPoison : List Nat
  hashm : List W64
  power : Power
  halt : Halt
  wdog : W32
  ctl : Sparse 8
  logN : Nat
  firmware : Bool
  bbSeq : Sparse 64
  corr : List (Nat × Nat × Nat)
  eweovUp : Bool
  norvanUp : BitVec 18
  clock : Nat
  cores : List Core
  tenants : List Tenant
  launches : List Launch
  teams : List Team
  groups : List Group
  agentTlb : List (Nat × TlbEntry)
  reqs : List Req
  merges : List Merge
  acks : List Ack
  asyncs : List Async
  ops : List EngOp
  faults : List FaultRec
  errs : List ErrRec
  tlw : List TlWaiter
  fronts : List FrontEnt
  hcalls : List HCall
  conts : List Cont
  inbox : List Landing
  moves : List Move
  olds : List OldBlock
  kvw : List Req
  script : List Choice
  cur : Option Cur
  hole : Bool
  fresh : Nat
  nextId : Nat
deriving DecidableEq, Repr

/-- The masks after cold reset (R84). -/
def State.resetMasks : List W64 :=
  [0x0000001000000000, 0x0000002000000000, 0x0000004000000000, 0x0000008000000000,
   0x100, 0x200, 0x400, 0x800, 0x1000, 0x80, 0x2000, 0x4000, 0x8000, 0x10000, 0x80, 0x100]

/-- The module right after cold reset, before the host has written anything: no work, empty queues, every register at its reset value; the values the manual gives none for are zero (log 1-9). -/
def State.reset : State :=
  { mem := [], memPoison := [], hashm := State.resetMasks, power := {}, halt := {}, wdog := 0, ctl := [], logN := 0, firmware := false, bbSeq := [], corr := [],
    eweovUp := true, norvanUp := BitVec.allOnes 18, clock := 0, cores := [], tenants := List.replicate 16 {}, launches := [], teams := [],
    groups := [], agentTlb := [], reqs := [], merges := [], acks := [], asyncs := [], ops := [], faults := [], errs := [], tlw := [], fronts := [],
    hcalls := [], conts := [], inbox := [], moves := [], olds := [], kvw := [], script := [], cur := none, hole := false,
    fresh := 0, nextId := 0 }

end Sys2Proof.Machine
end

