-- ==== Sys2Proof/Machine/Access.lean ====
section
/-! DEFINITION. Reading and writing the parts of the state: cores, teams, groups, arms, launches, tenants, registers, predicates, the black box (R20-R22, R42, R170, R351, R390). -/

namespace Sys2Proof.Machine

/-- No clock runs (R386, R424). -/
def State.stopped (s : State) : Bool := s.power.trip || s.power.cur == 3

/-- Core n; a core that is not listed is as reset left it. -/
def State.core (s : State) (n : Nat) : Core := (s.cores.find? (fun c => c.num == n)).getD { num := n }

/-- A core replaced, or added. -/
def putCore : List Core → Core → List Core
  | [], c => [c]
  | x :: t, c => if x.num = c.num then c :: t else x :: putCore t c

/-- Core n changed. -/
def State.updCore (s : State) (n : Nat) (f : Core → Core) : State := { s with cores := putCore s.cores { f (s.core n) with num := n } }

/-- A team, by its place in the list. -/
def State.team (s : State) (t : Nat) : Option Team := s.teams[t]?
/-- A team changed. -/
def State.updTeam (s : State) (t : Nat) (f : Team → Team) : State := { s with teams := updAt s.teams t f }

/-- Group g of team t. -/
def State.group (s : State) (t g : Nat) : Option Group := s.groups.find? (fun x => x.team == t && x.idx == g)
/-- Group g of team t changed. -/
def State.updGroup (s : State) (t g : Nat) (f : Group → Group) : State :=
  { s with groups := updWhere (fun x => x.team == t && x.idx == g) f s.groups }

/-- A launch changed. -/
def State.updLaunch (s : State) (l : Nat) (f : Launch → Launch) : State := { s with launches := updAt s.launches l f }
/-- Tenant n. -/
def State.tenant (s : State) (n : Nat) : Tenant := (s.tenants[n]?).getD {}
/-- Tenant n changed. -/
def State.updTenant (s : State) (n : Nat) (f : Tenant → Tenant) : State := { s with tenants := updAt s.tenants n f }

/-- An arm of a group; 2 and 3 are the arms of its handler context (R410). -/
def Group.arm (g : Group) (a : Nat) : Arm := if a = 0 then g.arm0 else if a = 1 then g.arm1 else if a = 2 then g.armH0 else g.armH1
/-- An arm of a group changed. -/
def Group.updArm (g : Group) (a : Nat) (f : Arm → Arm) : Group :=
  if a = 0 then { g with arm0 := f g.arm0 } else if a = 1 then { g with arm1 := f g.arm1 } else if a = 2 then { g with armH0 := f g.armH0 } else { g with armH1 := f g.armH1 }
/-- The cycle from which a context's wait counts: its last issue, or the later one in which it became ready (R364). -/
def Arm.readySince (a : Arm) : Nat := Nat.max a.since a.readyAt
/-- Every arm of a group changed. -/
def Group.mapArms (g : Group) (f : Arm → Arm) : Group := { g with arm0 := f g.arm0, arm1 := f g.arm1, armH0 := f g.armH0, armH1 := f g.armH1 }
/-- The arm copy a context reads and writes: a handler's two arms are numbered 2 and 3 (R410). -/
def armSel (c : CtxId) : Nat := c.arm % 2
/-- The arm of a context changed. -/
def State.updArm (s : State) (c : CtxId) (f : Arm → Arm) : State := s.updGroup c.team c.grp (fun g => g.updArm c.arm f)
/-- The arm of a context. -/
def State.armOf (s : State) (c : CtxId) : Option Arm := (s.group c.team c.grp).map (fun g => g.arm c.arm)

/-- Bits hi:lo of a launch record (R351). -/
def Launch.f (l : Launch) (hi lo : Nat) : Nat := fld l.hdr.toNat hi lo
/-- WIDTH. -/
def Launch.width (l : Launch) : Nat := l.f 719 712
/-- GPT. -/
def Launch.gpt (l : Launch) : Nat := l.f 734 728
/-- PAIR. -/
def Launch.pair (l : Launch) : Bool := l.f 744 744 == 1
/-- TASK. -/
def Launch.task (l : Launch) : Bool := l.f 746 746 == 1
/-- PRIORITY. -/
def Launch.prio (l : Launch) : Nat := l.f 721 720
/-- GRIDX. -/
def Launch.gx (l : Launch) : Nat := l.f 479 448
/-- GRIDY. -/
def Launch.gy (l : Launch) : Nat := l.f 511 480
/-- GRIDZ. -/
def Launch.gz (l : Launch) : Nat := l.f 543 512
/-- LAUNCHID. -/
def Launch.id (l : Launch) : Nat := l.f 575 544
/-- Format slot k (R138, R351). -/
def Launch.slot (l : Launch) (k : Nat) : Slot := BitVec.ofNat 256 (l.hdr.toNat / 2 ^ (2048 + 256 * k))

/-- A launch that is not there: all fields zero. -/
def Launch.none : Launch := { recVa := 0, hdr := 0, tenant := 0, args := 0 }
/-- Launch l. -/
def State.launch (s : State) (l : Nat) : Launch := (s.launches[l]?).getD Launch.none
/-- The tenant of team t. -/
def State.tenantOf (s : State) (t : Nat) : Nat := match s.team t with | some x => (s.launch x.launch).tenant | none => 0

/-- A PC laid out as PC0 of R63. -/
def pcWord (bundle slot : Nat) : W64 := BitVec.ofNat 64 (bundle % 2 ^ 56 / 64 * 64 + slot % 4)

/-- The element of vector register r in a lane (R22). -/
def Group.vget (g : Group) (r lane : Nat) : W32 := g.v.get (r * 64 + lane)
/-- The 256-byte register line that holds a vector element (R22, R61). -/
def Group.vline (g : Group) (r lane : Nat) : Nat := (r * g.width + lane) / 64
/-- A vector element written; a poisoned word loses its poison (R455), and its line is to be saved (R62). -/
def Group.vput (g : Group) (r lane : Nat) (x : W32) : Group :=
  { g with v := g.v.set (r * 64 + lane) x, vpo := g.vpo.filter (fun k => k != r * 64 + lane), vclean := g.vclean.filter (fun k => k != g.vline r lane) }
/-- A vector element poisoned (R455). -/
def Group.vpoison (g : Group) (r lane : Nat) : Group := { g with vpo := g.vpo ++ [r * 64 + lane] }

/-- The number of an arm's copy of a uniform register: banked copies of arm 1 stand 128 higher (R42). -/
def ukey (sel r : Nat) : Nat := if sel = 1 ∧ 96 ≤ r then r + 128 else r
/-- A uniform register as an arm sees it (R42). -/
def Group.sget (g : Group) (sel r : Nat) : W32 := if sel = 1 ∧ 96 ≤ r then g.sb1.get r else g.s.get r
/-- A uniform register written as an arm sees it; a handle it held is no longer awaited. -/
def Group.sput (g : Group) (sel r : Nat) (x : W32) : Group :=
  let g := { g with spo := g.spo.filter (fun k => k != ukey sel r), futs := g.futs.filter (fun f => f.1 != ukey sel r) }
  if sel = 1 ∧ 96 ≤ r then { g with sb1 := g.sb1.set r x } else { g with s := g.s.set r x }

/-- Predicate i of a lane; index 7 reads true (R173). -/
def Group.pget (g : Group) (i lane : Nat) : Bool := i == 7 || (g.p.get i).getLsbD lane
/-- Predicate i of a lane written. -/
def Group.pput (g : Group) (i lane : Nat) (b : Bool) : Group :=
  let x := g.p.get i
  let bit := BitVec.ofNat 64 (2 ^ lane)
  { g with p := g.p.set i (if b then x ||| bit else x &&& ~~~bit) }
/-- Uniform predicate i as an arm sees it; index 7 reads true (R42, R173). -/
def Group.qget (g : Group) (sel i : Nat) : Bool := i == 7 || (if sel = 1 ∧ 4 ≤ i then g.q1.getLsbD (i - 4) else g.q.getLsbD i)
/-- Uniform predicate i written as an arm sees it. -/
def Group.qput (g : Group) (sel i : Nat) (b : Bool) : Group :=
  if sel = 1 ∧ 4 ≤ i then
    let bit := BitVec.ofNat 3 (2 ^ (i - 4)); { g with q1 := if b then g.q1 ||| bit else g.q1 &&& ~~~bit }
  else
    let bit := BitVec.ofNat 7 (2 ^ i); { g with q := if b then g.q ||| bit else g.q &&& ~~~bit }

/-- A 64-bit value from the even and the odd register of a pair (R170). -/
def pairOf (lo hi : W32) : W64 := BitVec.ofNat 64 (lo.toNat + 2 ^ 32 * hi.toNat)
/-- The low register of a value. -/
def loOf (x : W64) : W32 := BitVec.ofNat 32 x.toNat
/-- The high register of a value. -/
def hiOf (x : W64) : W32 := BitVec.ofNat 32 (x.toNat / 2 ^ 32)

/-- A fresh name for a record in flight. -/
def State.take (s : State) : State × Nat := ({ s with nextId := s.nextId + 1 }, s.nextId)

/-- The next unconstrained value (log 9). -/
def State.free (s : State) : State × W64 := ({ s with fresh := s.fresh + 1 }, Config.freeValue s.fresh)

/-- A black-box event written to a die's ring (R390, R481). -/
def State.bb (s : State) (die unit tenant cause : Nat) (info : W64) (detail : Nat) : State :=
  let q := (s.bbSeq.get die).toNat
  let v := q * 2 ^ 192 + (s.clock % 2 ^ 64) * 2 ^ 128 + info.toNat * 2 ^ 64 + cause % 256 * 2 ^ 56 + unit % 256 * 2 ^ 48 + tenant % 16 * 2 ^ 44 + detail % 2 ^ 32
  { s with ctl := s.ctl.write (0x100000 + die * 0x20000 + q % 4096 * 32) 32 v, bbSeq := s.bbSeq.set die (BitVec.ofNat 64 (q + 1)) }

/-- The unit number of a core on its die (R390). -/
def coreUnit (n : Nat) : Nat := n % 32
/-- The die of a core (R8). -/
def coreDie (n : Nat) : Nat := n / 32

/-- The home slice of a physical address (R73). -/
def sliceOf (pa : Nat) : Nat := pa / 128 % 192
/-- The die of a home slice (R8). -/
def sliceDie (n : Nat) : Nat := n / 8
/-- The unit number of a home slice on its die (R390). -/
def sliceUnit (n : Nat) : Nat := 32 + n % 8
/-- INFO of a condition that a slice reports: the physical line address with bit 63 set (R446). -/
def lineInfo (pa : Nat) : W64 := BitVec.ofNat 64 (pa / 128 * 128 + 2 ^ 63)

/-- The scratchpad size of a team (R66, R67). -/
def Team.size (t : Team) : Nat := t.scrSize

/-- A team that is gone holds nothing any more. -/
def Place.here : Place → Bool
  | .resident | .stopping => true
  | _ => false

/-- The unretired groups of a team. -/
def State.liveGroups (s : State) (t : Nat) : List Group := s.groups.filter (fun g => g.team == t && !g.retired)

/-- Task records, FSQ and others: the module's own id (R376). -/
def State.modId (s : State) : Nat := (s.ctl.read 0 8) % 4096
/-- The tenant of a cycle of the frame, or none (R76, R376). -/
def State.slotTenant (s : State) : Option Nat :=
  let b := s.ctl.read (64 + s.clock % 64) 1
  if b = 0xFF then none else some b

/-- The slot table gives this cycle to a tenant (R76). -/
def State.ownsSlot (s : State) (tenant : Nat) : Bool := s.slotTenant == some tenant

end Sys2Proof.Machine
end

