-- ==== Sys2Proof/Machine/Form.lean ====
section
/-! DEFINITION. The form of every instruction: its operand kinds, its TYPE and modifier values, its guard, its place in a melded region and in its bundle (R171-R175, R216, R217, R244, R274, R316, R429-R432). -/

namespace Sys2Proof

/-- What an operand field may hold: the kinds of R169, and for registers how many are named, the multiple the first must be, and how many stand there in all (R170, R279): a melded name takes its `n` table entries, and the registers beyond them follow the first one (R260, R261). -/
structure OpRule where
  used : Bool := true
  v : Bool := false
  m : Bool := false
  s : Bool := false
  y : Bool := false
  z : Bool := false
  imm : Bool := false
  n : Nat := 1
  al : Nat := 1
  tot : Nat := n
deriving DecidableEq, Repr

/-- Guards an instruction allows (R217): exactly none (R270, R348), none or always false, none or uniform, or any. -/
inductive GRule where
  | strict | none | q | any
deriving DecidableEq, Repr

/-- Where an instruction may stand against a melded region (R217): any path, path both, not inside, only inside. -/
inductive MRule where
  | any | both | outside | insideAny | insideBoth
deriving DecidableEq, Repr

/-- The form of an instruction word. `mod` is the verdict on TYPE and MOD; `pvec` that it names a per-lane predicate (R172); `uniS` that a uniform destination makes it uniform (R173); `cap` that a capture is allowed with a vector destination (R188); `qw` the predicate it writes. -/
structure Form where
  dst : OpRule := { used := false }
  a : OpRule := { used := false }
  b : OpRule := { used := false }
  c : OpRule := { used := false }
  mod : Bool := true
  guard : GRule := .any
  meld : MRule := .any
  pvec : Bool := false
  uniS : Bool := false
  cap : Bool := false
  async : Bool := false
  oneArm : Bool := false
  noStack : Bool := false
  priv : Bool := false
  matrix : Bool := false
  qw : Option (BitVec 3) := none
  mem : Bool := false
deriving DecidableEq, Repr

/-- An operand field the instruction does not use: it holds 0x19F (R171). -/
def oNone : OpRule := { used := false }
/-- Any source (R245): `n` registers, the first a multiple of `n`; a latch holds one 32-bit element. -/
def oSrc (n : Nat) : OpRule := { v := true, m := true, s := true, y := n == 1, z := true, imm := true, n := n, al := n }
/-- A vector destination (R245). -/
def oVM (n : Nat) : OpRule := { v := true, m := true, n := n, al := n }
/-- vK, mK or z (R249, R254). -/
def oVMZ (n : Nat) : OpRule := { v := true, m := true, z := true, n := n, al := n }
/-- vK, mK or sK (R270). -/
def oVMS (n : Nat) : OpRule := { v := true, m := true, s := true, n := n, al := n }
/-- vK, mK, sK or z. -/
def oVMSZ (n : Nat) : OpRule := { v := true, m := true, s := true, z := true, n := n, al := n }
/-- sK, z or short immediate. -/
def oSZI (n : Nat) : OpRule := { s := true, z := true, imm := true, n := n, al := n }
/-- sK or short immediate. -/
def oSI (n : Nat) : OpRule := { s := true, imm := true, n := n, al := n }
/-- sK or z. -/
def oSZ (n : Nat) : OpRule := { s := true, z := true, n := n, al := n }
/-- sK. -/
def oS (n : Nat) : OpRule := { s := true, n := n, al := n }
/-- vK. -/
def oV : OpRule := { v := true }
/-- An offset operand (R275): vK, mK, sK, short immediate or z. -/
def oOff : OpRule := { v := true, m := true, s := true, z := true, imm := true }
/-- A member mask (R266). -/
def oMask : OpRule := { s := true, imm := true }

/-- The verdict on MOD in the register form: a field that is not given a rule must be zero (R175). -/
def modOk (w : Word) (ty : Bool := w.ty == .i8) (round : Bool := w.round == 0) (sat : Bool := !w.sat) (slot : Bool := w.slot == 0)
    (scope : Bool := w.scope == 0) (chint : Bool := w.chint == 0) (fspec : Bool := w.fspec == 0) : Bool :=
  ty && round && sat && slot && scope && chint && fspec

/-- The verdict on MOD in the immediate form (R177). -/
def modI (w : WordI) (ty : Bool := w.ty == .i32) (round : Bool := w.round == 0) (sat : Bool := !w.sat) (slot : Bool := w.slot == 0)
    (neg : Bool := !w.neg) : Bool :=
  ty && round && sat && slot && neg

/-- TYPE i32, u32, i64 or u64 (R236). -/
def tyS (t : Ty) : Bool := decide (4 ≤ t.code ∧ t.code ≤ 7)
/-- TYPE 0x0 to 0x7 (R247). -/
def tyV (t : Ty) : Bool := t.isInt
/-- TYPE f16, bf16, f32 or f64 (R250). -/
def tyF (t : Ty) : Bool := t.isFloat
/-- The 32- and 64-bit types of R265. -/
def tyX (t : Ty) : Bool := tyS t || t == .f32 || t == .f64
/-- A rounding code 0 to 4 (R126). -/
def rnd (r : BitVec 3) : Bool := decide (r.toNat ≤ 4)
/-- A predicate index in SLOT with bit 12 clear. -/
def scope0 (w : Word) : Bool := w.scope == 0
/-- Bit 12 used as a negation: SCOPE bits 11:10 clear. -/
def neg12 (w : Word) : Bool := w.scope.toNat % 4 == 0
/-- SCOPE 0 to 3, where it is used (R72). -/
def scopeOk (w : Word) : Bool := decide (w.scope.toNat < 4)

/-- The immediate of an I-form fits its type: f16 and bf16 use 16 bits (R177). -/
def immOk (w : WordI) : Bool := if w.ty == .f16 || w.ty == .bf16 then decide (w.imm.toNat < 65536) else true

/-- Register form of majors S: two or more sources (R236). -/
def formS (w : Word) (b c : Bool) (sat : Bool := !w.sat) (round : Bool := w.round == 0) (slot : Bool := w.slot == 0) (scope : Bool := w.scope == 0) : Form :=
  let n := w.ty.regs
  { dst := oSZ n, a := oSZI n, b := if b then oSZI n else oNone, c := if c then oSZI n else oNone, guard := .q,
    mod := modOk w (ty := tyS w.ty) (sat := sat) (round := round) (slot := slot) (scope := scope) }

/-- I-form of major S (R236). -/
def formSI (w : WordI) (sat : Bool := !w.sat) (round : Bool := w.round == 0) (slot : Bool := w.slot == 0) : Form :=
  { dst := oSZ w.ty.regs, a := oSZI w.ty.regs, guard := .q, mod := modI w (ty := tyS w.ty) (sat := sat) (round := round) (slot := slot) }

/-- Register form of majors V and F (R245). -/
def formV (w : Word) (ty : Bool) (b c : Bool) (sat : Bool := !w.sat) (round : Bool := w.round == 0) : Form :=
  let n := w.ty.regs
  { dst := oVM n, a := oSrc n, b := if b then oSrc n else oNone, c := if c then oSrc n else oNone,
    mod := modOk w (ty := ty) (sat := sat) (round := round), cap := !w.ty.is64, pvec := true }

/-- I-form of majors V and F (R248, R250). -/
def formVI (w : WordI) (ty : Bool) (sat : Bool := !w.sat) (round : Bool := w.round == 0) : Form :=
  { dst := oVM w.ty.regs, a := oSrc w.ty.regs, mod := modI w (ty := ty) (sat := sat) (round := round) && immOk w,
    cap := !w.ty.is64, pvec := true }

/-- LD, ST, LDU, STU, SLD, SST with SREC 0 (R277-R279): elements per lane. -/
def vecK (w : Word) : Nat := 2 ^ ((w.fspec.toNat / 4) % 4)
/-- Registers of one lane's access. -/
def vecRegs (w : Word) : Nat := vecK w * w.ty.regs
/-- ORDER of R93, FSPEC bits 7:6. -/
def orderOf (f : BitVec 8) : Nat := f.toNat / 64
/-- SH of R275, FSPEC bits 5:4. -/
def shOf (f : BitVec 8) : Nat := (f.toNat / 16) % 4

/-- The verdict on MOD of a load or store: VEC, size, order, hint (R278, R438). -/
def modMem (w : Word) (load : Bool) (scr : Bool) : Bool :=
  modOk w (ty := decide (w.ty.code ≤ 11)) (scope := scopeOk w)
    (chint := if scr then w.chint == 0 else decide (w.chint.toNat < 3))
    (fspec := (w.fspec.toNat % 4 == 0) && decide ((w.fspec.toNat / 4) % 4 < 3) && decide (vecK w * w.ty.bytes ≤ 16)
      && (orderOf w.fspec == 0 || orderOf w.fspec == (if load then 1 else 2)))

/-- LD and SLD (R278). -/
def formLoad (w : Word) (scr : Bool) : Form :=
  let n := vecRegs w
  { dst := oVMS n, a := if scr then { v := true, m := true, s := true, z := true } else { v := true, m := true, s := true, z := true, n := 2, al := 2 },
    b := oOff, mod := modMem w true scr, uniS := true, async := true, mem := true }

/-- ST and SST (R278): data that is uniform, z or an immediate only with one element. -/
def formStore (w : Word) (scr : Bool) : Form :=
  let n := vecRegs w
  let one := vecK w == 1
  { a := if scr then { v := true, m := true, s := true, z := true } else { v := true, m := true, s := true, z := true, n := 2, al := 2 },
    b := oOff, c := { v := true, m := true, s := one, z := one, imm := one, n := n, al := n }, mod := modMem w false scr, mem := true }

/-- The stream forms of LD and ST (R284). -/
def formSrec (w : Word) : Form :=
  { dst := oSZ 1, a := oS 2, b := oSI 1, c := oSZ 1, guard := .q, mod := modOk w (fspec := w.fspec == 1), mem := true }

/-- ATOM, ATOM.BINC and XACC (R287). -/
def formAtom (w : Word) (dst c : OpRule) (ty : Bool) (round : Bool) (op order : Bool) : Form :=
  { dst := dst, a := { v := true, m := true, s := true, z := true, n := 2, al := 2 }, b := oOff, c := c,
    mod := modOk w (ty := ty) (round := round) (scope := scopeOk w)
      (fspec := (op || w.fspec.toNat % 16 == 0) && (order || orderOf w.fspec == 0)),
    uniS := true, mem := true }

/-- Uniform synchronisation instructions (R291). -/
def formSyn (mod : Bool) (dst a b c : OpRule) : Form :=
  { dst := dst, a := a, b := b, c := c, mod := mod, guard := .q, meld := .both, mem := true }

/-- A matrix instruction or engine operation of MTX, AKV or XPR that must not stand in a melded region (R317). -/
def formEng (mod : Bool) (dst a b c : OpRule) (matrix : Bool) (guard : GRule := .q) : Form :=
  { dst := dst, a := a, b := b, c := c, mod := mod, guard := guard, meld := .outside, matrix := matrix, mem := true }

/-- Control instructions of the register form (R217). -/
def formC (w : Word) (g : GRule) (m : MRule) (dst a : OpRule := oNone) (slot : Bool := w.slot == 0) (scope : Bool := w.scope == 0)
    (fspec : Bool := w.fspec == 0) : Form :=
  { dst := dst, a := a, guard := g, meld := m, mod := modOk w (slot := slot) (scope := scope) (fspec := fspec) }

/-- The type of a load or of a conversion source, FSPEC bits 3:0 (R256). -/
def srcTy (f : BitVec 8) : Option Ty := if f.toNat < 16 then (match tyOf f.toNat with | some .slot => none | t => t) else none

/-- The registers of a source type. -/
def srcRegs (f : BitVec 8) : Nat := match srcTy f with | some t => t.regs | none => 1

/-- CVT: ROUND and SAT by the two types (R256). -/
def cvtMod (w : Word) : Bool :=
  match srcTy w.fspec with
  | none => false
  | some s =>
    modOk w (ty := decide (w.ty.code ≤ 11)) (round := if s.isInt && w.ty.isInt then w.round == 0 else rnd w.round)
      (sat := if s.isInt && w.ty.isInt then true else !w.sat) (fspec := true)

/-- A predicate named in SLOT for writing, 0-6 or none (R313, R340). -/
def slotW (x : BitVec 3) : Option (BitVec 3) := if x == 7 then none else some x

/-- Register numbers of GETSR (R272). -/
def getsrOk (f : BitVec 8) : Bool := decide (f.toNat ≤ 0x14)
/-- System register numbers (R395). -/
def sysOk (f : BitVec 8) : Bool :=
  let n := f.toNat
  decide (n ≤ 2) || (decide (8 ≤ n) && decide (n ≤ 0xB)) || (decide (0x10 ≤ n) && decide (n ≤ 0x13)) || (decide (0x18 ≤ n) && decide (n ≤ 0x1A))
    || (decide (0x20 ≤ n) && decide (n ≤ 0x2F)) || (decide (0x30 ≤ n) && decide (n ≤ 0x32)) || n == 0x38 || n == 0x39

/-- MOD of PRD (R262). -/
def modP (w : WordP) (ty : Bool := w.ty == .i8) (pd : Bool := true) (pa : Bool := true) (pb : Bool := w.pb == 0) (neg : Bool := true) (tt : Bool := w.tt == 0) : Bool :=
  ty && pd && pa && pb && neg && tt

/-- A member-mask predicate operation (R264). -/
def formVote (w : WordP) (dst : OpRule) (ty pd : Bool) (qw : Option (BitVec 3)) : Form :=
  { dst := dst, b := oMask, mod := modP w (ty := ty) (pd := pd), pvec := true, qw := qw }

/-- KV.LOOKUP and KV.ALLOC (R340). -/
def formKv (w : Word) (meld : MRule) : Form :=
  { dst := oVMSZ 1, a := oSrc 1, b := oSrc 1, c := oSrc 1, mod := modOk w (ty := w.ty == .u32) (slot := true), uniS := true, async := true,
    meld := meld, qw := slotW w.slot, mem := true }

/-- PFX.LOOKUP and PFX.INSERT (R340). -/
def formPfx (w : Word) (c : OpRule) : Form :=
  { dst := oSZ 1, a := oS 2, b := oSI 1, c := c, mod := modOk w (slot := true), guard := .q, meld := .outside, async := true, qw := slotW w.slot, mem := true }

/-- The form of every instruction; events have none. -/
def Instr.form : Instr → Form
  | .nop w => formC w .any .any
  | .bra w => { guard := .any, meld := .both, mod := modI w }
  | .brd w => { guard := .none, meld := .outside, mod := modI w (slot := true) (neg := true), pvec := true, mem := true }
  | .join w => { formC w .none .outside with mem := true }
  | .call w => { dst := oSZ 2, guard := .q, meld := .both, mod := modI w }
  | .ret w => formC w .q .both (a := oS 2)
  | .jmpi w => formC w .q .both (dst := oSZ 2) (a := oS 2)
  | .meld w => { formC w .none .outside (slot := true) (scope := neg12 w) with pvec := true, oneArm := true }
  | .meldMap w => { formC w .none .insideAny (dst := ({ m := true, n := 0 } : OpRule)) (a := { v := true, n := 0 }) (fspec := decide (w.fspec.toNat < 64) && (match w.dst with | .m k => decide (k.toNat + w.fspec.toNat + 1 ≤ 64) | _ => true)) with pvec := true }
  | .meldEnd w => formC w .none .insideBoth
  | .exit w => { formC w .any .any with mem := true }
  | .yield w => formC w .q .both
  | .yieldOn w => { a := oSI 1, guard := .q, meld := .both, mod := modI w (round := decide (w.round.toNat < 6)) }
  | .bpt w => formC w .q .both (fspec := true)
  | .trap w => formC w .q .both (fspec := true)
  | .hcall w => { formC w .q .outside (dst := oSZ 1) (a := oSZ 2) (fspec := true) with mem := true }
  | .rfh w => { formC w .none .outside with mem := true }
  | .sAdd w => formS w true false (sat := true)
  | .sSub w => formS w true false (sat := true)
  | .sMul w => formS w true false (sat := true)
  | .sMulh w => formS w true false
  | .sDiv w => formS w true false (sat := true)
  | .sRem w => formS w true false
  | .sAnd w => formS w true false
  | .sOr w => formS w true false
  | .sXor w => formS w true false
  | .sShl w => formS w true false (sat := true)
  | .sShr w => formS w true false
  | .sSar w => formS w true false
  | .sMin w => formS w true false
  | .sMax w => formS w true false
  | .sAddImm w => formSI w (sat := true)
  | .sSubImm w => formSI w (sat := true)
  | .sMulImm w => formSI w (sat := true)
  | .sMulhImm w => formSI w
  | .sDivImm w => formSI w (sat := true)
  | .sRemImm w => formSI w
  | .sAndImm w => formSI w
  | .sOrImm w => formSI w
  | .sXorImm w => formSI w
  | .sShlImm w => formSI w (sat := true)
  | .sShrImm w => formSI w
  | .sSarImm w => formSI w
  | .sMinImm w => formSI w
  | .sMaxImm w => formSI w
  | .sSel w => formS w true false (slot := true) (scope := neg12 w)
  | .sCmp w => { formS w true false (round := decide (w.round.toNat < 6)) (slot := true) with qw := slotW w.slot }
  | .sCmpImm w => { formSI w (round := decide (w.round.toNat < 6)) (slot := true) with qw := slotW w.slot }
  | .sMovi w => { dst := oSZ w.ty.regs, guard := .q, mod := modI w (ty := decide (w.ty.code ≤ 11)) (sat := true) && immOk w }
  | .sLea w => { formS w true false (slot := true) with dst := oS 2, a := oS 2 }
  | .sLeaImm w => { formSI w (slot := true) with dst := oS 2, a := oS 2 }
  | .sClz w => formS w false false
  | .sPopc w => formS w false false
  | .sBfx w => formS w true true
  | .sBfi w => formS w true true
  | .vAdd w => formV w (tyV w.ty) true false (sat := true)
  | .vAddc w => { formV w (w.ty == .u32 || w.ty == .u64) true false with mod := modOk w (ty := w.ty == .u32 || w.ty == .u64) (slot := w.slot != 7), cap := false, qw := slotW w.slot }
  | .vSub w => formV w (tyV w.ty) true false (sat := true)
  | .vMul w => formV w (tyV w.ty) true false (sat := true)
  | .vMulh w => formV w (tyV w.ty) true false
  | .vMad w => formV w (tyV w.ty) true true (sat := true)
  | .vDiv w => formV w (tyV w.ty) true false (sat := true)
  | .vRem w => formV w (tyV w.ty) true false
  | .vAnd w => formV w (tyV w.ty) true false
  | .vOr w => formV w (tyV w.ty) true false
  | .vXor w => formV w (tyV w.ty) true false
  | .vShl w => formV w (tyV w.ty) true false (sat := true)
  | .vShr w => formV w (tyV w.ty) true false
  | .vSar w => formV w (tyV w.ty) true false
  | .vMin w => formV w (tyV w.ty) true false
  | .vMax w => formV w (tyV w.ty) true false
  | .vAbs w => formV w (w.ty.signed) false false (sat := true)
  | .vCmp w => { formV w (tyV w.ty) true false with dst := oVMZ 1, cap := false, qw := slotW w.slot, mod := modOk w (ty := tyV w.ty) (round := decide (w.round.toNat < 6)) (slot := true) }
  | .vSel w => { formV w (tyV w.ty) true false with mod := modOk w (ty := tyV w.ty) (slot := true) (scope := neg12 w) }
  | .vBfx w => formV w (tyV w.ty) true true
  | .vBfi w => formV w (tyV w.ty) true true
  | .vPopc w => formV w (tyV w.ty) false false
  | .vClz w => formV w (tyV w.ty) false false
  | .vAddImm w => formVI w (tyV w.ty) (sat := true)
  | .vSubImm w => formVI w (tyV w.ty) (sat := true)
  | .vMulImm w => formVI w (tyV w.ty) (sat := true)
  | .vAndImm w => formVI w (tyV w.ty)
  | .vOrImm w => formVI w (tyV w.ty)
  | .vXorImm w => formVI w (tyV w.ty)
  | .vShlImm w => formVI w (tyV w.ty) (sat := true)
  | .vShrImm w => formVI w (tyV w.ty)
  | .vSarImm w => formVI w (tyV w.ty)
  | .vMinImm w => formVI w (tyV w.ty)
  | .vMaxImm w => formVI w (tyV w.ty)
  | .vCmpImm w => { formVI w (tyV w.ty) with dst := oVMZ 1, cap := false, qw := slotW w.slot, mod := modI w (ty := tyV w.ty) (round := decide (w.round.toNat < 6)) (slot := true) }
  | .fAdd w => formV w (tyF w.ty) true false (round := rnd w.round)
  | .fSub w => formV w (tyF w.ty) true false (round := rnd w.round)
  | .fMul w => formV w (tyF w.ty) true false (round := rnd w.round)
  | .fFma w => formV w (tyF w.ty) true true (round := rnd w.round)
  | .fMin w => formV w (tyF w.ty) true false
  | .fMax w => formV w (tyF w.ty) true false
  | .fCmp w => { formV w (tyF w.ty) true false with dst := oVMZ 1, cap := false, qw := slotW w.slot, mod := modOk w (ty := tyF w.ty) (round := true) (slot := true) }
  | .fDiv w => formV w (tyF w.ty) true false (round := rnd w.round)
  | .fSqrt w => formV w (tyF w.ty) false false (round := rnd w.round)
  | .fRcp w => formV w (tyF w.ty) false false (round := rnd w.round)
  | .fRsq w => formV w (tyF w.ty) false false (round := rnd w.round)
  | .fExp2 w => formV w (tyF w.ty) false false (round := rnd w.round)
  | .fLog2 w => formV w (tyF w.ty) false false (round := rnd w.round)
  | .fSin w => formV w (tyF w.ty) false false
  | .fCos w => formV w (tyF w.ty) false false
  | .fTanh w => formV w (tyF w.ty) false false
  | .fRound w => formV w (tyF w.ty) false false (round := rnd w.round)
  | .fClass w => { formV w (tyF w.ty) false false with dst := oVM 1, cap := true }
  | .fAddImm w => formVI w (tyF w.ty) (round := rnd w.round)
  | .fSubImm w => formVI w (tyF w.ty) (round := rnd w.round)
  | .fMulImm w => formVI w (tyF w.ty) (round := rnd w.round)
  | .fMinImm w => formVI w (tyF w.ty)
  | .fMaxImm w => formVI w (tyF w.ty)
  | .fCmpImm w => { formVI w (tyF w.ty) with dst := oVMZ 1, cap := false, qw := slotW w.slot, mod := modI w (ty := tyF w.ty) (round := true) (slot := true) && immOk w }
  | .cvt w => { dst := oVM w.ty.regs, a := oSrc (srcRegs w.fspec), mod := cvtMod w, cap := !w.ty.is64, pvec := true }
  | .cvtN w => { dst := oVM 1, a := oSrc (srcRegs w.fspec), b := oSrc 1, cap := true, pvec := true, mem := true, mod := modOk w (ty := w.ty == .slot) (round := decide (w.round.toNat ≤ 5)) (slot := true) (fspec := match srcTy w.fspec with | some s => s.isFloat | none => false) }
  | .cvtW w => { dst := oVM w.ty.regs, a := oSrc 1, cap := !w.ty.is64, pvec := true, mod := modOk w (ty := w.ty == .bf16 || w.ty == .f32 || w.ty == .f64) (slot := true) }
  | .pack w => { dst := oVM 1, a := oSrc 1, b := oSrc 1, cap := true, pvec := true, mod := modOk w (ty := decide (w.ty.code ≤ 3) || w.ty == .f16 || w.ty == .bf16) (round := if w.ty.isFloat then rnd w.round else w.round == 0) (sat := if w.ty.isFloat then !w.sat else true) (fspec := if w.ty.bits == 8 then decide (w.fspec.toNat < 2) else w.fspec == 0) }
  | .unpack w => { dst := oVM 1, a := oSrc 1, cap := true, pvec := true, mod := modOk w (ty := decide (w.ty.code ≤ 3) || w.ty == .f16 || w.ty == .bf16) (fspec := decide (w.fspec.toNat < (if w.ty.bits == 8 then 4 else 2))) }
  | .blkEnc w => { a := oS 2, b := oVM 1, c := oSI 1, pvec := true, mem := true, mod := modOk w (ty := w.ty == .slot) (round := decide (w.round.toNat ≤ 5)) (slot := true) (chint := decide (w.chint.toNat < 3)) (fspec := w.fspec == 8 || w.fspec == 9 || w.fspec == 10) }
  | .blkDec w => { dst := oVM w.ty.regs, a := oS 2, cap := !w.ty.is64, pvec := true, mem := true, mod := modOk w (ty := w.ty == .bf16 || w.ty == .f32 || w.ty == .f64) (slot := true) }
  | .pLogic w => { mod := modP w (pd := w.pd != 7) (pb := true) (neg := !w.neg) (tt := true), pvec := true, qw := slotW w.pd }
  | .qLogic w => { mod := modP w (pd := w.pd != 7) (pb := true) (neg := !w.neg) (tt := true), guard := .q, qw := slotW w.pd }
  | .pAny w => formVote w oNone (w.ty == .i8) (w.pd != 7) (slotW w.pd)
  | .pAll w => formVote w oNone (w.ty == .i8) (w.pd != 7) (slotW w.pd)
  | .pBallot w => formVote w (oS w.ty.regs) (w.ty == .u32 || w.ty == .u64) (w.pd == 7) none
  | .pPopc w => formVote w (oS 1) (w.ty == .u32) (w.pd == 7) none
  | .xShfl w => { dst := oVM w.ty.regs, a := oSrc w.ty.regs, b := oSrc 1, c := oSrc w.ty.regs, cap := !w.ty.is64, pvec := true, mod := modOk w (ty := tyX w.ty) (fspec := decide (w.fspec.toNat < 64) && w.fspec.toNat % 16 == 0) }
  | .xRot w => { dst := oVM w.ty.regs, a := oSrc w.ty.regs, b := oSI 1, cap := !w.ty.is64, pvec := true, mod := modOk w (ty := tyX w.ty) }
  | .xBcast w => { dst := oVM w.ty.regs, a := oSrc w.ty.regs, b := oSI 1, c := oSrc w.ty.regs, cap := !w.ty.is64, pvec := true, mod := modOk w (ty := tyX w.ty) }
  | .xRed w => { dst := oVMS w.ty.regs, a := oSrc w.ty.regs, b := oMask, cap := !w.ty.is64, pvec := true, mod := modOk w (ty := tyS w.ty || (decide (w.fspec.toNat % 8 < 3) && tyF w.ty)) (round := if w.fspec.toNat % 8 == 0 && tyF w.ty then rnd w.round else w.round == 0) (sat := if w.fspec.toNat % 8 == 0 && tyS w.ty then true else !w.sat) (fspec := decide (w.fspec.toNat < 6)) }
  | .xScan w => { dst := oVM w.ty.regs, a := oSrc w.ty.regs, b := oMask, cap := !w.ty.is64, pvec := true, mod := modOk w (ty := tyS w.ty || (decide (w.fspec.toNat % 8 < 3) && tyF w.ty)) (round := if w.fspec.toNat % 8 == 0 && tyF w.ty then rnd w.round else w.round == 0) (sat := if w.fspec.toNat % 8 == 0 && tyS w.ty then true else !w.sat) (fspec := decide (w.fspec.toNat < 16) && decide (w.fspec.toNat % 8 < 6)) }
  | .xMatch w => { dst := oVM 1, a := oSrc w.ty.regs, b := oMask, cap := true, pvec := true, mod := modOk w (ty := tyX w.ty) }
  | .mov w => { dst := oVMS w.ty.regs, a := oSrc w.ty.regs, mod := modOk w (ty := tyX w.ty), uniS := true, cap := !w.ty.is64 }
  | .movImm w => { dst := oVMS w.ty.regs, mod := modI w (ty := tyX w.ty), uniS := true, cap := !w.ty.is64 }
  | .readlane w => { dst := oS w.ty.regs, a := oVM w.ty.regs, b := oSI 1, c := oSZI w.ty.regs, mod := modOk w (ty := tyX w.ty) }
  | .first w => { dst := oS w.ty.regs, a := oVM w.ty.regs, mod := modOk w (ty := tyX w.ty) }
  | .getsr w => { dst := oVMS w.ty.regs, mod := modOk w (ty := w.ty == .u32 || w.ty == .u64) (fspec := getsrOk w.fspec), uniS := true, cap := !w.ty.is64, mem := w.fspec == 0x11 || w.fspec == 0x12 }
  | .setsr w => { a := oSI 1, guard := .q, mod := modOk w (ty := w.ty == .u32) (fspec := w.fspec == 0x13 || w.fspec == 0x14) }
  | .grow w => { guard := .strict, meld := .outside, oneArm := true, mod := modOk w (fspec := decide (1 ≤ w.fspec.toNat) && decide (w.fspec.toNat < 32)) }
  | .growTry w => { dst := oS 1, guard := .strict, meld := .outside, oneArm := true, mod := modOk w (fspec := decide (129 ≤ w.fspec.toNat) && decide (w.fspec.toNat < 160)) }
  | .shrink w => { guard := .strict, meld := .outside, oneArm := true, mod := modOk w (fspec := decide (1 ≤ w.fspec.toNat) && decide (w.fspec.toNat < 32)) }
  | .ld w => formLoad w false
  | .st w => formStore w false
  | .ldu w => { formLoad w false with dst := oS (vecRegs w), a := oSZ 2, b := oSZI 1, guard := .q, uniS := false }
  | .stu w => { formStore w false with a := oSZ 2, b := oSZI 1, c := { s := vecK w == 1, z := vecK w == 1, imm := vecK w == 1, n := w.ty.regs, al := w.ty.regs }, guard := .q }
  | .sld w => formLoad w true
  | .sst w => formStore w true
  | .ldSrec w => formSrec w
  | .stSrec w => formSrec w
  | .l1Wb w => { a := oSZ 2, b := oSZ 1, guard := .q, mod := modOk w, mem := true }
  | .l1Inv w => { a := oSZ 2, b := oSZ 1, guard := .q, mod := modOk w, mem := true }
  | .tierPref w => { dst := oSZ 1, a := oS 2, b := oS 1, c := oSZ 1, guard := .q, mod := modOk w, mem := true }
  | .atom w => { formAtom w (oVMSZ w.ty.regs) (oSrc w.ty.regs) (tyS w.ty) (w.round == 0) (decide (w.fspec.toNat % 16 ≤ 10)) true with async := true }
  | .atomBinc w => { formAtom w (oVMSZ w.ty.regs) (oSrc w.ty.regs) (w.ty == .u32 || w.ty == .u64) (w.round == 0) false true with async := true }
  | .xaccAdd w => formAtom w oNone (oSrc w.ty.regs) (w.ty == .f32 || w.ty == .f64 || w.ty == .bf16) (w.round == 0) false true
  | .xaccFold w => { formAtom w (oVMS w.ty.regs) oNone (w.ty == .f32 || w.ty == .f64 || w.ty == .bf16) (rnd w.round) false true with async := true }
  | .xaccClr w => formAtom w oNone oNone (w.ty == .i8) (w.round == 0) false false
  | .fence w => formSyn (modOk w (scope := scopeOk w) (fspec := w.fspec.toNat % 64 == 0 && w.fspec != 0)) oNone oNone oNone oNone
  | .barArrive w => formSyn (modOk w) oNone (oSI 1) (oSZI 1) oNone
  | .barWait w => formSyn (modOk w) (oSZ 1) (oSI 1) oNone (oSZ 1)
  | .barSync w => formSyn (modOk w) (oSZ 1) (oSI 1) (oSZI 1) (oSZ 1)
  | .bobjInit w => formSyn (modOk w) oNone (oSI 1) (oSI 1) (oSZI 1)
  | .bobjArrive w => formSyn (modOk w (scope := scopeOk w)) (oSZ 1) (oSI 1) (oSI 1) oNone
  | .bobjWait w => formSyn (modOk w (scope := scopeOk w)) (oSZ 1) (oSI 1) (oSI 1) (oSZ 1)
  | .tlSignal w => formSyn (modOk w (scope := scopeOk w)) oNone (oS 2) (oSI 2) oNone
  | .tlWait w => formSyn (modOk w (scope := scopeOk w)) (oSZ 1) (oS 2) (oSI 2) (oSZ 1)
  | .waitcnt w => formSyn (modOk w (round := decide (w.round.toNat < 6)) (fspec := decide (w.fspec.toNat < 64))) oNone oNone oNone oNone
  | .futWait w => formSyn (modOk w) (oSZ 1) (oS 1) oNone oNone
  | .futTest w => formSyn (modOk w) (oSZ 1) (oS 1) oNone oNone
  | .futCancel w => formSyn (modOk w) oNone (oS 1) oNone oNone
  | .frontJoin w => { a := oS 2, b := oSI 1, guard := .q, meld := .outside, oneArm := true, mod := modOk w, mem := true }
  | .frontLeave w => { guard := .q, meld := .outside, oneArm := true, mod := modOk w, mem := true }
  | .frontStep w => { guard := .q, meld := .outside, oneArm := true, mod := modOk w, mem := true }
  | .frontStat w => { dst := oS w.ty.regs, guard := .q, async := true, mem := true, mod := modOk w (ty := if w.fspec == 0 then w.ty == .u64 else w.ty == .u32) (fspec := decide (w.fspec.toNat < 4)) }
  | .kick w => { dst := oSZ 1, a := oSI 1, b := oSI 1, guard := .q, mod := modOk w, mem := true }
  | .cpy w => { dst := oSZ 1, a := oS (if w.fspec.toNat / 2 % 2 == 1 then 1 else 2), b := oS (if w.fspec.toNat % 2 == 1 then 1 else 2), c := oS 1, guard := .q, mod := modOk w (fspec := decide (w.fspec.toNat < 4)), mem := true }
  | .contPark w => { a := oS 2, b := oS 1, guard := .q, meld := .outside, oneArm := true, noStack := true, mod := modOk w (fspec := decide (w.fspec.toNat ≤ 16)), mem := true }
  | .tqInit w => { a := oS 2, b := oS 2, c := oS 1, mod := modOk w (scope := scopeOk w), mem := true }
  | .tqPush w => { dst := oVMSZ 1, a := oS 2, b := { v := true, m := true, s := true }, uniS := true, mod := modOk w (slot := true) (scope := scopeOk w), qw := slotW w.slot, mem := true }
  | .tqPop w => { dst := oVMS 1, a := oS 2, uniS := true, async := true, mod := modOk w (slot := true) (scope := scopeOk w), qw := slotW w.slot, mem := true }
  | .mtokAcq w => formEng (modOk w) oNone oNone oNone oNone false
  | .mtokAcqTry w => formEng (modOk w (fspec := w.fspec == 64)) (oS 1) oNone oNone oNone false
  | .mtokPass w => formEng (modOk w) oNone (oSZI 1) oNone oNone false
  | .mma w => formEng (modOk w (fspec := decide (w.fspec.toNat < 32))) oNone (oSI 1) (oSI 1) (oSZI 1) true
  | .mmaSp w => formEng (modOk w (fspec := decide (w.fspec.toNat < 32))) oNone (oSI 1) (oSI 1) (oSZI 1) true
  | .mmaOut w => formEng (modOk w (fspec := decide (w.fspec.toNat < 64) && w.fspec.toNat / 16 % 2 == 0)) (oSZ 1) (oSI 1) (oSI 1) oNone true
  | .accZero w => formEng (modOk w (fspec := decide (w.fspec.toNat < 32))) oNone oNone oNone oNone true
  | .accLd w => formEng (modOk w (fspec := decide (w.fspec.toNat < 32))) (oSZ 1) (oSI 1) (oSZI 1) oNone true
  | .accSt w => formEng (modOk w (fspec := decide (w.fspec.toNat < 32))) (oSZ 1) (oSI 1) (oSZI 1) oNone true
  | .accMovTov w => { formEng (modOk w (ty := w.ty == .f32) (fspec := decide (w.fspec.toNat < 16))) oV (oSI 1) oNone oNone true (guard := .any) with async := true }
  | .accMovToa w => formEng (modOk w (ty := w.ty == .f32) (fspec := decide (128 ≤ w.fspec.toNat) && decide (w.fspec.toNat < 144))) oNone (oSI 1) oV oNone true (guard := .any)
  | .layout w => formEng (modOk w (fspec := decide (w.fspec.toNat < 16))) oNone (oSI 1) (oSI 1) oNone true
  | .attn w => formEng (modOk w) (oSZ 1) (oSI 1) (oSZI 1) oNone false
  | .attnScore w => formEng (modOk w (fspec := w.fspec == 1)) (oSZ 1) (oSI 1) (oSZI 1) oNone false
  | .kvLookup w => formKv w .any
  | .kvAlloc w => formKv w .outside
  | .kvFree w => { a := oSrc 1, mod := modOk w (ty := w.ty == .u32), meld := .outside, mem := true }
  | .kvCompact w => formEng (modOk w) (oSZ 1) (oSI 1) (oSZI 1) oNone false
  | .kvSweep w => formEng (modOk w) (oSZ 1) (oSI 1) oNone oNone false
  | .scoreClr w => formEng (modOk w) oNone (oS 2) (oS 1) oNone false
  | .topk w => formEng (modOk w) (oSZ 1) (oSI 1) (oSZI 1) oNone false
  | .pfxLookup w => formPfx w oNone
  | .pfxInsert w => formPfx w (oS 1)
  | .exitTest w => { a := oSrc 1, b := oSI 1, c := { v := true, n := 6, al := 2 }, mod := modOk w (ty := w.ty == .f32) (slot := true), pvec := true, qw := slotW w.slot, mem := true }
  | .backfill w => { dst := oSZ 1, a := oSrc 1, b := oSrc 1, mod := modOk w (ty := w.ty == .u32), meld := .outside, mem := true }
  | .ebmSet w => { a := oS 2, b := oSrc 1, mod := modOk w (ty := w.ty == .u32), mem := true }
  | .ebmRank w => { dst := oVMSZ 1, a := oS 2, b := oSrc 1, mod := modOk w (ty := w.ty == .u32), uniS := true, async := true, mem := true }
  | .ebmSelect w => { dst := oVMSZ 1, a := oS 2, b := oSrc 1, c := oSrc 1, mod := modOk w (ty := w.ty == .u32), uniS := true, async := true, mem := true }
  | .regroup w => { dst := oV, a := oSrc 1, b := oV, guard := .strict, meld := .outside, oneArm := true, noStack := true, mod := modOk w (ty := w.ty == .u32) (fspec := decide (w.fspec.toNat ≤ 32)), mem := true }
  | .sysr w => { dst := oS 2, guard := .q, meld := .outside, priv := true, mod := modOk w (ty := w.ty == .u64) (fspec := sysOk w.fspec) }
  | .sysw w => { a := oS 2, guard := .q, meld := .outside, priv := true, mod := modOk w (ty := w.ty == .u64) (fspec := sysOk w.fspec), mem := true }
  | .tlbinv w => { a := oSZ 2, b := oSZ 1, guard := .q, priv := true, mod := modOk w (scope := w.scope == 1 || w.scope == 2), mem := true }
  | .raceClr w => { guard := .q, priv := true, mod := modOk w, mem := true }
  | .perfRd w => { dst := oVMS w.ty.regs, a := { v := true, m := true, s := true, imm := true }, uniS := true, cap := !w.ty.is64, mod := modOk w (ty := w.ty == .u32 || w.ty == .u64) (fspec := decide (1 ≤ w.fspec.toNat) && decide (w.fspec.toNat ≤ 3)) }
  | _ => {}

/-- The fields every instruction word has, whichever layout; `imm` is the I-form's immediate. -/
structure Head where
  dst : Opd
  wbs : Bool
  a : Opd
  b : Opd
  c : Opd
  guard : Guard
  path : Path
  cap : Option (Fin 6)
  yield : Bool
  imm : Option W32
deriving DecidableEq, Repr

/-- The common fields of the register form. -/
def headR (w : Word) : Head := ⟨w.dst, w.wbs, w.a, w.b, w.c, w.guard, w.path, w.cap, w.yield, none⟩
/-- The common fields of the immediate form: no second or third operand (R177). -/
def headI (w : WordI) : Head := ⟨w.dst, w.wbs, w.a, .z, .z, w.guard, w.path, w.cap, w.yield, some w.imm⟩
/-- The common fields of the PRD layout (R262). -/
def headP (w : WordP) : Head := ⟨w.dst, w.wbs, w.a, w.b, w.c, w.guard, w.path, w.cap, w.yield, none⟩

/-- Operand codes that make an instruction a vector instruction (R172). -/
def Opd.isVec : Opd → Bool
  | .v _ | .y _ | .m _ => true
  | _ => false

/-- A guard that names a per-lane predicate (R173): GFILE 0 with an index below 7. -/
def Guard.perLane (g : Guard) : Bool := !g.uni && g.idx != 7

/-- A vector instruction (R172). -/
def isVector (f : Form) (h : Head) : Bool := f.pvec || h.guard.perLane || h.dst.isVec || h.a.isVec || h.b.isVec || h.c.isVec

/-- The guard is of a kind the instruction allows (R217, R429). -/
def guardOk (f : Form) (g : Guard) : Bool :=
  match f.guard with
  | .strict => !g.uni && !g.neg && g.idx == 7
  | .none => !g.uni && g.idx == 7
  | .q => g.uni || g.idx == 7
  | .any => true

/-- A field that the instruction does not use holds 0x19F (R171). -/
def unusedOk (r : OpRule) (o : Opd) : Bool := r.used || o == .z

/-- The conditions of rank 3 that depend on the word alone (R429). -/
def wordOk (f : Form) (h : Head) : Bool :=
  f.mod && unusedOk f.dst h.dst && unusedOk f.a h.a && unusedOk f.b h.b && unusedOk f.c h.c && guardOk f h.guard
    && (!h.wbs || h.dst != .z)
    && (h.cap == none || (f.cap && !f.async && isVector f h && (match h.dst with | .v _ | .m _ => true | _ => false)))

/-- An operand of a kind its field allows, with its first register a multiple of what the rule requires (R432). -/
def opKindOk (r : OpRule) : Opd → Bool
  | .v i => r.v && i.toNat % r.al == 0
  | .s i => r.s && i.toNat % r.al == 0 && decide (i.toNat + r.n ≤ 128)
  | .m i => r.m && decide (i.toNat + r.n ≤ 64)
  | .y _ => r.y
  | .z => r.z || !r.used
  | .imm _ => r.imm
  | .rsv _ => false

/-- Instructions that must be the highest valid slot of their bundle (R182). -/
def Instr.closes : Instr → Bool
  | .bra _ | .brd _ | .call _ | .ret _ | .jmpi _ | .yieldOn _ => true
  | _ => false

/-- The instruction must stand in slot 0 (R33). -/
def Instr.slot0 : Instr → Bool
  | .join _ => true
  | _ => false

/-- The placement rules of the bundle (R182, R429): `valid` is the VALID field. -/
def placeOk (i : Instr) (slot : Nat) (valid : BitVec 4) : Bool :=
  (!i.closes || decide (valid.toNat < 2 ^ (slot + 1))) && (!i.slot0 || slot == 0)

/-- A member mask in an odd register where width 64 needs a pair (R266, R437). -/
def maskBad (W : Nat) : Opd → Bool
  | .s i => W == 64 && (i.toNat % 2 == 1 || i.toNat == 127)
  | _ => false

/-- Conditions of rank 6 that depend on the group's width or register count and on one instruction alone (R432, R435, R437, R442). -/
def Instr.rank6 (i : Instr) (W C : Nat) : Bool :=
  match i with
  | .meldMap w => (match w.a with | .v j => decide (j.toNat + w.fspec.toNat + 1 > C) | _ => false)
  | .pAny w => maskBad W w.b
  | .pAll w => maskBad W w.b
  | .pBallot w => maskBad W w.b
  | .pPopc w => maskBad W w.b
  | .xRed w => maskBad W w.b
  | .xScan w => maskBad W w.b
  | .xMatch w => maskBad W w.b
  | .getsr w => (w.fspec == 0 || w.fspec == 0x0E) && (match w.dst with | .s _ => true | _ => false)
  | .regroup w => (match w.dst, w.b with
      | .v d, .v r => decide (r.toNat + w.fspec.toNat > C) || (decide (r.toNat ≤ d.toNat) && decide (d.toNat < r.toNat + w.fspec.toNat))
      | _, _ => false)
  | _ => false

/-- A capture in X.MATCH at width 64, whose destination is a pair (R188, R269). -/
def Instr.rank3w (i : Instr) (W : Nat) : Bool :=
  match i with
  | .xMatch w => W == 64 && w.cap != none
  | _ => false

/-- The form of an instruction in a group of a width, on which the registers that some operands name depend (R260, R261, R269, R335). BLK.ENC takes melded names as its SRCB too (DEDUCED, log 135). -/
def Instr.formW (i : Instr) (W : Nat) : Form :=
  let f := i.form
  let tile : OpRule := { v := true, n := 64 / W, al := 64 / W }
  match i with
  | .blkEnc _ => if W = 16 then { f with b := { v := true, m := true, al := 2, tot := 2 } } else f
  | .blkDec w => if W = 16 then { f with dst := { v := true, m := true, n := w.ty.regs, al := 2 * w.ty.regs, tot := 2 * w.ty.regs } } else f
  | .xMatch _ => if W = 64 then { f with dst := oVM 2 } else f
  | .accMovTov _ => { f with dst := tile }
  | .accMovToa _ => { f with b := tile }
  | _ => f

/-- The common fields of any instruction; an event has none. -/
def Instr.head : Instr → Option Head
  | .nop w => some (headR w)
  | .bra w => some (headI w)
  | .brd w => some (headI w)
  | .join w => some (headR w)
  | .call w => some (headI w)
  | .ret w => some (headR w)
  | .jmpi w => some (headR w)
  | .meld w => some (headR w)
  | .meldMap w => some (headR w)
  | .meldEnd w => some (headR w)
  | .exit w => some (headR w)
  | .yield w => some (headR w)
  | .yieldOn w => some (headI w)
  | .bpt w => some (headR w)
  | .trap w => some (headR w)
  | .hcall w => some (headR w)
  | .rfh w => some (headR w)
  | .sAdd w => some (headR w)
  | .sSub w => some (headR w)
  | .sMul w => some (headR w)
  | .sMulh w => some (headR w)
  | .sDiv w => some (headR w)
  | .sRem w => some (headR w)
  | .sAnd w => some (headR w)
  | .sOr w => some (headR w)
  | .sXor w => some (headR w)
  | .sShl w => some (headR w)
  | .sShr w => some (headR w)
  | .sSar w => some (headR w)
  | .sMin w => some (headR w)
  | .sMax w => some (headR w)
  | .sAddImm w => some (headI w)
  | .sSubImm w => some (headI w)
  | .sMulImm w => some (headI w)
  | .sMulhImm w => some (headI w)
  | .sDivImm w => some (headI w)
  | .sRemImm w => some (headI w)
  | .sAndImm w => some (headI w)
  | .sOrImm w => some (headI w)
  | .sXorImm w => some (headI w)
  | .sShlImm w => some (headI w)
  | .sShrImm w => some (headI w)
  | .sSarImm w => some (headI w)
  | .sMinImm w => some (headI w)
  | .sMaxImm w => some (headI w)
  | .sSel w => some (headR w)
  | .sCmp w => some (headR w)
  | .sCmpImm w => some (headI w)
  | .sMovi w => some (headI w)
  | .sLea w => some (headR w)
  | .sLeaImm w => some (headI w)
  | .sClz w => some (headR w)
  | .sPopc w => some (headR w)
  | .sBfx w => some (headR w)
  | .sBfi w => some (headR w)
  | .vAdd w => some (headR w)
  | .vAddc w => some (headR w)
  | .vSub w => some (headR w)
  | .vMul w => some (headR w)
  | .vMulh w => some (headR w)
  | .vMad w => some (headR w)
  | .vDiv w => some (headR w)
  | .vRem w => some (headR w)
  | .vAnd w => some (headR w)
  | .vOr w => some (headR w)
  | .vXor w => some (headR w)
  | .vShl w => some (headR w)
  | .vShr w => some (headR w)
  | .vSar w => some (headR w)
  | .vMin w => some (headR w)
  | .vMax w => some (headR w)
  | .vAbs w => some (headR w)
  | .vCmp w => some (headR w)
  | .vSel w => some (headR w)
  | .vBfx w => some (headR w)
  | .vBfi w => some (headR w)
  | .vPopc w => some (headR w)
  | .vClz w => some (headR w)
  | .vAddImm w => some (headI w)
  | .vSubImm w => some (headI w)
  | .vMulImm w => some (headI w)
  | .vAndImm w => some (headI w)
  | .vOrImm w => some (headI w)
  | .vXorImm w => some (headI w)
  | .vShlImm w => some (headI w)
  | .vShrImm w => some (headI w)
  | .vSarImm w => some (headI w)
  | .vMinImm w => some (headI w)
  | .vMaxImm w => some (headI w)
  | .vCmpImm w => some (headI w)
  | .fAdd w => some (headR w)
  | .fSub w => some (headR w)
  | .fMul w => some (headR w)
  | .fFma w => some (headR w)
  | .fMin w => some (headR w)
  | .fMax w => some (headR w)
  | .fCmp w => some (headR w)
  | .fDiv w => some (headR w)
  | .fSqrt w => some (headR w)
  | .fRcp w => some (headR w)
  | .fRsq w => some (headR w)
  | .fExp2 w => some (headR w)
  | .fLog2 w => some (headR w)
  | .fSin w => some (headR w)
  | .fCos w => some (headR w)
  | .fTanh w => some (headR w)
  | .fRound w => some (headR w)
  | .fClass w => some (headR w)
  | .fAddImm w => some (headI w)
  | .fSubImm w => some (headI w)
  | .fMulImm w => some (headI w)
  | .fMinImm w => some (headI w)
  | .fMaxImm w => some (headI w)
  | .fCmpImm w => some (headI w)
  | .cvt w => some (headR w)
  | .cvtN w => some (headR w)
  | .cvtW w => some (headR w)
  | .pack w => some (headR w)
  | .unpack w => some (headR w)
  | .blkEnc w => some (headR w)
  | .blkDec w => some (headR w)
  | .pLogic w => some (headP w)
  | .qLogic w => some (headP w)
  | .pAny w => some (headP w)
  | .pAll w => some (headP w)
  | .pBallot w => some (headP w)
  | .pPopc w => some (headP w)
  | .xShfl w => some (headR w)
  | .xRot w => some (headR w)
  | .xBcast w => some (headR w)
  | .xRed w => some (headR w)
  | .xScan w => some (headR w)
  | .xMatch w => some (headR w)
  | .mov w => some (headR w)
  | .movImm w => some (headI w)
  | .readlane w => some (headR w)
  | .first w => some (headR w)
  | .getsr w => some (headR w)
  | .setsr w => some (headR w)
  | .grow w => some (headR w)
  | .growTry w => some (headR w)
  | .shrink w => some (headR w)
  | .ld w => some (headR w)
  | .st w => some (headR w)
  | .ldu w => some (headR w)
  | .stu w => some (headR w)
  | .sld w => some (headR w)
  | .sst w => some (headR w)
  | .ldSrec w => some (headR w)
  | .stSrec w => some (headR w)
  | .l1Wb w => some (headR w)
  | .l1Inv w => some (headR w)
  | .tierPref w => some (headR w)
  | .atom w => some (headR w)
  | .atomBinc w => some (headR w)
  | .xaccAdd w => some (headR w)
  | .xaccFold w => some (headR w)
  | .xaccClr w => some (headR w)
  | .fence w => some (headR w)
  | .barArrive w => some (headR w)
  | .barWait w => some (headR w)
  | .barSync w => some (headR w)
  | .bobjInit w => some (headR w)
  | .bobjArrive w => some (headR w)
  | .bobjWait w => some (headR w)
  | .tlSignal w => some (headR w)
  | .tlWait w => some (headR w)
  | .waitcnt w => some (headR w)
  | .futWait w => some (headR w)
  | .futTest w => some (headR w)
  | .futCancel w => some (headR w)
  | .frontJoin w => some (headR w)
  | .frontLeave w => some (headR w)
  | .frontStep w => some (headR w)
  | .frontStat w => some (headR w)
  | .kick w => some (headR w)
  | .cpy w => some (headR w)
  | .contPark w => some (headR w)
  | .tqInit w => some (headR w)
  | .tqPush w => some (headR w)
  | .tqPop w => some (headR w)
  | .mtokAcq w => some (headR w)
  | .mtokAcqTry w => some (headR w)
  | .mtokPass w => some (headR w)
  | .mma w => some (headR w)
  | .mmaSp w => some (headR w)
  | .mmaOut w => some (headR w)
  | .accZero w => some (headR w)
  | .accLd w => some (headR w)
  | .accSt w => some (headR w)
  | .accMovTov w => some (headR w)
  | .accMovToa w => some (headR w)
  | .layout w => some (headR w)
  | .attn w => some (headR w)
  | .attnScore w => some (headR w)
  | .kvLookup w => some (headR w)
  | .kvAlloc w => some (headR w)
  | .kvFree w => some (headR w)
  | .kvCompact w => some (headR w)
  | .kvSweep w => some (headR w)
  | .scoreClr w => some (headR w)
  | .topk w => some (headR w)
  | .pfxLookup w => some (headR w)
  | .pfxInsert w => some (headR w)
  | .exitTest w => some (headR w)
  | .backfill w => some (headR w)
  | .ebmSet w => some (headR w)
  | .ebmRank w => some (headR w)
  | .ebmSelect w => some (headR w)
  | .regroup w => some (headR w)
  | .sysr w => some (headR w)
  | .sysw w => some (headR w)
  | .tlbinv w => some (headR w)
  | .raceClr w => some (headR w)
  | .perfRd w => some (headR w)
  | _ => none

end Sys2Proof
end

