-- ==== Sys2Proof/Machine/Operands.lean ====
section
/-! DEFINITION. The issuing context and every operand form: Active(), guards, sources, destinations, predicates, latches, pending marks and poisoned words (R38-R50, R169-R173, R177, R185, R188, R189, R456). -/

namespace Sys2Proof.Machine

/-- A context at the issue of one slot: its group as it stands before the slot writes anything (R7), Active(), and the arm copies a uniform instruction executes for (R45). `wb` is false when WBS is 1. -/
structure Cx where
  c : CtxId
  g : Group
  W : Nat
  act : List Nat
  sels : List Nat
  wb : Bool
  h : Head
  lat : Sparse 32
  bundle : Nat
  slot : Nat
  valid : BitVec 4
  priv : Bool
  portB : Bool
  core : Nat
  tenant : Nat
deriving DecidableEq, Repr

/-- A condition a slot meets: cause, lane, detail, the address it concerns, and the rank among 8 to 10 at which a meaning's own check finds it (R426). -/
structure Bad where
  cause : Nat
  lane : Nat := 0
  detail : Nat := 0
  info : W64 := 0
  rank : Nat := 8
deriving DecidableEq, Repr

/-- The arm whose copies a lane reads: its arm bit in a melded region, the issuing arm elsewhere (R45, R50). -/
def laneArm (g : Group) (arm L : Nat) : Nat := if g.melded then (if g.armBits.getLsbD L then 1 else 0) else arm % 2

/-- PathSelects (R38, R189). -/
def pathSel (g : Group) (p : Path) (L : Nat) : Bool :=
  !g.melded || p == .both || (g.armBits.getLsbD L == (p == .arm1))

/-- The guard as lane L sees it (R173). -/
def guardLane (g : Group) (arm : Nat) (gd : Guard) (L : Nat) : Bool :=
  (if gd.uni then g.qget arm gd.idx.toNat else g.pget gd.idx.toNat L) != gd.neg

/-- GuardU() for an arm's copies (R189). -/
def guardU (g : Group) (sel : Nat) (gd : Guard) : Bool := (if gd.uni then g.qget sel gd.idx.toNat else true) != gd.neg

/-- The lanes of a context before guard: in its mask, not exited, selected by the path (R219). -/
def pathLanes (g : Group) (arm : Nat) (p : Path) : List Nat :=
  (List.range g.width).filter (fun L => (g.arm arm).mask.getLsbD L && !g.xmask.getLsbD L && pathSel g p L)

/-- Active() (R189). -/
def activeLanes (g : Group) (arm : Nat) (p : Path) (gd : Guard) : List Nat :=
  (pathLanes g arm p).filter (fun L => guardLane g (laneArm g arm L) gd L)

/-- CurrentMask() (R189). -/
def Group.curMask (g : Group) (arm : Nat) : W64 := (g.arm arm).mask &&& ~~~g.xmask &&& fullMask g.width

/-- The register a melded name names in a lane (R39). -/
def Group.renOf (g : Group) (arm k : Nat) : Nat := ((if arm = 1 then g.ren1 else g.ren0).get k).toNat

/-- The vector register that an operand names in a lane (R39). -/
def Cx.vreg (cx : Cx) (o : Opd) (L : Nat) : Option Nat :=
  match o with
  | .v i => some i.toNat
  | .m k => some (cx.g.renOf (laneArm cx.g cx.c.arm L) k.toNat)
  | _ => none

/-- A short immediate as a type (R170). -/
def immVal (t : Ty) (i : BitVec 5) : W64 :=
  let x : Int := (i.toNat : Int) - 16
  if t.isFloat then roundF t 0 (FVal.ofInt x) else t.wrap x

/-- The immediate of an I-form as a type (R177). -/
def immI (t : Ty) (x : W32) : W64 :=
  match t with
  | .f64 => BitVec.ofNat 64 (x.toNat * 2 ^ 32)
  | .f32 | .f16 | .bf16 => BitVec.ofNat 64 x.toNat
  | .i8 | .i16 | .i32 | .i64 => t.wrap (sgn 32 x.toNat)
  | _ => t.wrap x.toNat

/-- A vector element or pair (R170). -/
def Group.vval (g : Group) (t : Ty) (r L : Nat) : W64 :=
  if t.is64 then pairOf (g.vget r L) (g.vget (r + 1) L) else BitVec.ofNat 64 (g.vget r L).toNat
/-- A uniform register or pair (R170). -/
def Group.sval (g : Group) (t : Ty) (sel r : Nat) : W64 :=
  if t.is64 then pairOf (g.sget sel r) (g.sget sel (r + 1)) else BitVec.ofNat 64 (g.sget sel r).toNat

/-- Src (R189): the value of an operand in lane L. -/
def Cx.src (cx : Cx) (o : Opd) (t : Ty) (L : Nat) : W64 :=
  let arm := laneArm cx.g cx.c.arm L
  match o with
  | .v i => cx.g.vval t i.toNat L
  | .m k =>
    if t.is64 then pairOf (cx.g.vget (cx.g.renOf arm k.toNat) L) (cx.g.vget (cx.g.renOf arm (k.toNat + 1)) L)
    else cx.g.vval t (cx.g.renOf arm k.toNat) L
  | .s i => cx.g.sval t arm i.toNat
  | .y k => BitVec.ofNat 64 (cx.lat.get (k.val * 64 + L)).toNat
  | .imm i => immVal t i
  | _ => 0

/-- SrcU (R189): the value of an operand in a uniform instruction. -/
def Cx.srcU (cx : Cx) (sel : Nat) (o : Opd) (t : Ty) : W64 :=
  match o with
  | .s i => cx.g.sval t sel i.toNat
  | .imm i => immVal t i
  | _ => 0

/-- SrcB, or the immediate of an I-form (R177). -/
def Cx.srcB (cx : Cx) (t : Ty) (L : Nat) : W64 :=
  match cx.h.imm with
  | some x => immI t x
  | none => cx.src cx.h.b t L

/-- SrcB of a uniform instruction, or the immediate of an I-form (R177). -/
def Cx.srcUB (cx : Cx) (sel : Nat) (t : Ty) : W64 :=
  match cx.h.imm with
  | some x => immI t x
  | none => cx.srcU sel cx.h.b t

/-- Register i of a run that starts at an operand, in a lane (R279): a melded run follows the lane's table. -/
def Cx.runReg (cx : Cx) (o : Opd) (i L : Nat) : Nat :=
  match o with
  | .v r => r.toNat + i
  | .m k => cx.g.renOf (laneArm cx.g cx.c.arm L) (k.toNat + i)
  | _ => 0

/-- A vector value written: a pair for a 64-bit type, an extended element otherwise (R170). -/
def Group.vwrite (g : Group) (t : Ty) (r L : Nat) (x : W64) : Group :=
  if t.is64 then (g.vput r L (loOf x)).vput (r + 1) L (hiOf x) else g.vput r L (loOf (t.extend x))

/-- A uniform value written. -/
def Group.swrite (g : Group) (t : Ty) (sel r : Nat) (x : W64) : Group :=
  if t.is64 then (g.sput sel r (loOf x)).sput sel (r + 1) (hiOf x) else g.sput sel r (loOf (t.extend x))

/-- WriteDst (R189) for the lanes listed. -/
def Cx.writeV (cx : Cx) (t : Ty) (vals : List (Nat × W64)) (s : State) : State :=
  if cx.wb then
    s.updGroup cx.c.team cx.c.grp (fun g => vals.foldl (fun g p => match cx.vreg cx.h.dst p.1 with | some r => g.vwrite t r p.1 p.2 | none => g) g)
  else s

/-- WriteDstU (R189). -/
def Cx.writeU (cx : Cx) (sel : Nat) (t : Ty) (x : W64) (s : State) : State :=
  match cx.h.dst with
  | .s i => if cx.wb then s.updGroup cx.c.team cx.c.grp (fun g => g.swrite t sel i.toNat x) else s
  | _ => s

/-- A predicate written in the lanes listed; index 7 names none. -/
def Cx.writeP (cx : Cx) (i : Nat) (vals : List (Nat × Bool)) (s : State) : State :=
  if i = 7 then s else s.updGroup cx.c.team cx.c.grp (fun g => vals.foldl (fun g p => g.pput i p.1 p.2) g)

/-- A uniform predicate written; index 7 names none. -/
def Cx.writeQ (cx : Cx) (sel i : Nat) (b : Bool) (s : State) : State :=
  if i = 7 then s else s.updGroup cx.c.team cx.c.grp (fun g => g.qput sel i b)

/-- The arms whose copies a vector instruction with a uniform destination writes, each with the lanes its result is formed over (R45): one entry outside a melded region or with a shared destination. -/
def Cx.uniParts (cx : Cx) (banked : Bool) : List (Nat × (Nat → Bool)) :=
  if cx.g.melded then
    (if banked then
      (match cx.h.path with
       | .arm0 => [(0, fun _ => true)]
       | .arm1 => [(1, fun _ => true)]
       | .both => [(0, fun L => !cx.g.armBits.getLsbD L), (1, fun L => cx.g.armBits.getLsbD L)])
     else [(0, fun _ => true)])
  else [(armSel cx.c, fun _ => true)]

/-- A uniform operand that names a banked register (R42). -/
def Opd.banked : Opd → Bool
  | .s i => decide (96 ≤ i.toNat)
  | _ => false

/-- A member mask (R266): the lanes it names, below %width. -/
def Cx.memberMask (cx : Cx) (sel : Nat) : W64 :=
  let t : Ty := if cx.W = 64 then .u64 else .u32
  let x : W64 := match cx.h.b with
    | .imm i => Ty.i64.wrap ((i.toNat : Int) - 16)
    | .s i => cx.g.sval t sel i.toNat
    | _ => 0
  x &&& fullMask cx.W

/-- The PC of the issuing slot, as PC0 of R63. -/
def Cx.pc (cx : Cx) : W64 := pcWord cx.bundle cx.slot

/-- The tag an access of this slot carries (R450): inside a melded region the arm is 0 (R402). -/
def Cx.tag (cx : Cx) : Tag := ⟨cx.pc, armSel cx.c, cx.tenant, cx.c.team, cx.c.grp, cx.priv⟩

/-- The next valid slot of a bundle after a slot (R181). -/
def nextSlot (valid : BitVec 4) (slot : Nat) : Option Nat := (List.range 4).find? (fun i => decide (slot < i) && valid.getLsbD i)

/-- The PC after a slot: the next valid slot, or slot 0 of the next bundle, modulo 2^56 (R181, R428). -/
def pcAfter (bundle slot : Nat) (valid : BitVec 4) : Nat × Nat :=
  match nextSlot valid slot with
  | some i => (bundle, i)
  | none => ((bundle + 64) % 2 ^ 56, 0)

/-- A context's PC moved, and its wait over. -/
def State.jump (s : State) (c : CtxId) (bundle slot : Nat) : State :=
  s.updArm c (fun a => { a with pc := bundle, slot := slot, wait := {}, left := none })

/-- The context goes on to its next slot (R181). -/
def Cx.advance (cx : Cx) (s : State) : State :=
  s.jump cx.c (pcAfter cx.bundle cx.slot cx.valid).1 (pcAfter cx.bundle cx.slot cx.valid).2

/-- The context waits at its slot. -/
def Cx.stay (cx : Cx) (w : Wait) (s : State) : State := s.updArm cx.c (fun a => { a with wait := w, left := none })

/-- Words of the vector registers that an operand of n registers names in a lane, as indices of `vpo`. -/
def Cx.words (cx : Cx) (o : Opd) (n L : Nat) : List Nat :=
  match o with
  | .v _ | .m _ => (List.range n).map (fun i => cx.runReg o i L * 64 + L)
  | _ => []

/-- Uniform words that an operand of n registers names, as keys of `spo`. -/
def uwords (o : Opd) (n sel : Nat) : List Nat :=
  match o with
  | .s i => (List.range n).map (fun k => ukey sel (i.toNat + k))
  | _ => []

/-- The registers and predicates that pending marks stand on: a mark belongs to the group, whichever arm's copy it is (R185). -/
structure Marks where
  v : List Nat := []
  u : List Nat := []
  p : List Nat := []
  q : List Nat := []
deriving DecidableEq, Repr

/-- The marks of one outstanding asynchronous instruction. -/
def Async.marks (x : Async) : Marks :=
  let rs := (x.parts.filter (fun p => !p.skip)).flatMap (fun p => p.regs)
  let ps := match x.pd with | some i => [i] | none => []
  match x.dest with
  | .uni _ | .dead => { u := rs, q := ps }
  | .vec => { v := rs, p := ps }
  | .none => { v := [], p := ps }

/-- The marks of a group (R185). -/
def State.marksOf (s : State) (team grp : Nat) : List Marks :=
  (s.asyncs.filter (fun x => x.tag.team == team && x.tag.grp == grp)).map Async.marks

/-- Register i of an operand in a lane: those its table entries name, then those that follow the first (R170, R260, R261, R279). -/
def Cx.ruleReg (cx : Cx) (r : OpRule) (o : Opd) (i L : Nat) : Nat := if i < r.n then cx.runReg o i L else cx.runReg o 0 L + i

/-- An operand names a marked register (R185): a latch and an immediate name none. -/
def Cx.opMarked (cx : Cx) (ms : List Marks) (o : Opd) (r : OpRule) : Bool :=
  match o with
  | .v _ | .m _ => (List.range cx.W).any (fun L => (List.range r.tot).any (fun i => ms.any (fun m => m.v.contains (cx.ruleReg r o i L))))
  | .s i => (List.range r.n).any (fun k => ms.any (fun m => m.u.contains (i.toNat + k)))
  | _ => false

end Sys2Proof.Machine
end

