-- ==== Sys2Proof/Machine/Translate.lean ====
section
/-! DEFINITION. The physical address space, the four-level walk, the translation caches and permissions (R15, R81-R83, R447-R449, R486), and the physical accesses that every unit makes (R115, R116, R455, R476). -/

namespace Sys2Proof.Machine

/-- HBM4E (R15). -/
def isHbm (pa : Nat) : Bool := decide (pa < 2 ^ 40)
/-- LPDDR-6 (R15). -/
def isLp (pa : Nat) : Bool := decide (2 ^ 40 ≤ pa) && decide (pa < 2 ^ 42)
/-- Host memory (R15). -/
def isHost (pa : Nat) : Bool := decide (2 ^ 51 ≤ pa) && decide (pa < 2 ^ 52)
/-- Where no memory stands: the reserved range, and what is past the map (R15). -/
def isHole (pa : Nat) : Bool := (decide (2 ^ 42 ≤ pa) && decide (pa < 2 ^ 51)) || decide (2 ^ 52 ≤ pa)

/-- An access to the reserved range is noted: the step that makes it ends in a fault (R15; DEDUCED, log 16). -/
def State.note (s : State) (pa : Nat) : State := if isHole pa then { s with hole := true } else s

/-- `n` bytes of physical memory. -/
def State.peek (s : State) (pa n : Nat) : Nat := s.mem.read pa n

/-- A line is poisoned (R455). -/
def State.poisonAt (s : State) (pa : Nat) : Bool := s.memPoison.contains (pa / 128)

/-- Some line of a range is poisoned. -/
def State.poisonIn (s : State) (pa n : Nat) : Bool := s.memPoison.any (fun l => decide (pa / 128 ≤ l) && decide (l ≤ (pa + n - 1) / 128))

/-- The status of a wait that has ended. -/
def State.wake (s : State) (c : CtxId) (v : W32) : State :=
  s.updArm c (fun a => { a with wait := { a.wait with status := some v } })

/-- Waiters of timelines that a write of a range may have raised are evaluated (R115, R116, R476); a poisoned counter reads 0. -/
def State.evalTl (s : State) (lo n : Nat) : State :=
  let hit (w : TlWaiter) : Bool := decide (w.pa < lo + n) && decide (lo < w.pa + 8) &&
    decide (w.t.toNat ≤ (if s.poisonAt w.pa then 0 else s.peek w.pa 8))
  let go := s.tlw.filter hit
  go.foldl (fun s w => s.wake w.c 1) { s with tlw := s.tlw.filter (fun w => !hit w) }

/-- Bytes of a mask written to physical memory at a slice: a line whose 128 bytes are all written loses its poison, outstanding reads of the lines take no more joins, and timelines are evaluated (R74, R116, R455). -/
def State.pokeMask (s : State) (pa n mask v : Nat) : State :=
  let whole := n == 128 && pa % 128 == 0 && mask % 2 ^ 128 == 2 ^ 128 - 1
  let close (m : Merge) : Merge := if pa / 128 ≤ m.line ∧ m.line ≤ (pa + n - 1) / 128 then { m with closed := true } else m
  let s := { s with mem := s.mem.writeMask pa n mask v, memPoison := if whole then s.memPoison.filter (fun l => l != pa / 128) else s.memPoison, merges := s.merges.map close }
  s.evalTl pa n

/-- `n` bytes written to physical memory; a write to the reserved range, whichever unit makes it, ends the step in a fault (R15; DEDUCED, log 16). -/
def State.poke (s : State) (pa n v : Nat) : State := (s.note pa).pokeMask pa n (2 ^ n - 1) v

/-- The outcome of a translation. -/
inductive Tr where
  | ok (e : TlbEntry)
  | bad (cause detail : Nat)
deriving DecidableEq, Repr

/-- The physical address of a virtual one under an entry. -/
def TlbEntry.at (e : TlbEntry) (va : Nat) : Nat := e.pa + (va - e.va)

/-- Page size of a leaf (R82). -/
def pageSize (sz : Nat) : Nat := if sz = 0 then 2 ^ 16 else if sz = 1 then 2 ^ 21 else if sz = 2 then 2 ^ 25 else 2 ^ 29

/-- An entry that R82 calls malformed, at its level. -/
def entryBad (level e : Nat) : Bool :=
  let leaf := e.testBit 4
  let sz := fld e 3 2
  fld e 63 52 != 0 || fld e 11 9 != 0 || e.testBit 1
    || (if level = 0 then !leaf else if level = 1 then false else leaf)
    || (if leaf then (if level = 0 then decide (1 < sz) else decide (sz < 2)) || fld e 51 0 / 4096 * 4096 % pageSize sz != 0
        else fld e 51 0 / 4096 * 4096 % (if level = 1 then 2 ^ 12 else 2 ^ 16) != 0)

/-- The entries of a leaf's group, all identical (R82). -/
def groupOk (s : State) (table idx n e : Nat) : Bool :=
  (List.range n).all (fun i => s.peek (table + (idx / n * n + i) * 8) 8 == e)

/-- A walk from a table at a level (R81, R82, R448): the level, and bits for a malformed entry and a poisoned line. An entry in the reserved range reads zero, which is not valid (R15; DESIGN CHOICE, log 16). -/
def walkFrom (s : State) (tenant va : Nat) : Nat → Nat → Tr
  | 0, table =>
    let idx := fld va 24 16
    leafAt s tenant va 0 table idx 32 1
  | 1, table =>
    let idx := fld va 37 25
    let e := s.peek (table + idx * 8) 8
    if s.poisonAt (table + idx * 8) then .bad 0x10 (1 + 8)
    else if !e.testBit 0 then .bad 0x10 1
    else if entryBad 1 e then .bad 0x10 (1 + 4)
    else if e.testBit 4 then leafAt s tenant va 1 table idx 16 3
    else walkFrom s tenant va 0 (fld e 51 12 * 4096)
  | n + 2, table =>
    let idx := if n = 0 then fld va 50 38 else fld va 55 51
    let e := s.peek (table + idx * 8) 8
    if s.poisonAt (table + idx * 8) then .bad 0x10 (n + 2 + 8)
    else if !e.testBit 0 then .bad 0x10 (n + 2)
    else if entryBad (n + 2) e then .bad 0x10 (n + 2 + 4)
    else walkFrom s tenant va (n + 1) (fld e 51 12 * 4096)
where
  /-- The leaf at an index, with its group when its size takes one. -/
  leafAt (s : State) (tenant va level table idx grp big : Nat) : Tr :=
    let e := s.peek (table + idx * 8) 8
    let sz := fld e 3 2
    let first := if sz = big then table + idx / grp * grp * 8 else table + idx * 8
    if s.poisonIn first (if sz = big then grp * 8 else 8) then .bad 0x10 (level + 8)
    else if !e.testBit 0 then .bad 0x10 level
    else if entryBad level e || (sz == big && !groupOk s table idx grp e) then .bad 0x10 (level + 4)
    else .ok { tenant := tenant, va := va / pageSize sz * pageSize sz, pa := fld e 51 12 * 4096, size := pageSize sz,
               priv := e.testBit 8, x := e.testBit 7, w := e.testBit 6, rd := e.testBit 5 }

/-- A walk of a tenant's tables (R81). -/
def walk (s : State) (tenant va : Nat) : Tr := walkFrom s tenant va 3 (fld (s.tenant tenant).root.toNat 51 8 * 256)

/-- The entry of a translation cache that covers an address. -/
def tlbHit (l : List TlbEntry) (tenant va : Nat) : Option TlbEntry :=
  l.find? (fun e => e.tenant == tenant && decide (e.va ≤ va) && decide (va < e.va + e.size))

/-- A translation through a core's TLB, walking on a miss (R83). -/
def State.trCore (s : State) (core tenant va : Nat) : Tr :=
  match tlbHit (s.core core).tlb tenant va with
  | some e => .ok e
  | none => walk s tenant va

/-- A translation kept in a core's TLB of 512 entries (R83); when it is full, which entry leaves is Config.victim's choice (log 10). -/
def State.fillCore (s : State) (core : Nat) (e : TlbEntry) : State :=
  let l := (s.core core).tlb
  if l.contains e then s
  else if l.length < 512 then s.updCore core (fun c => { c with tlb := e :: l })
  else { s.updCore core (fun c => { c with tlb := e :: l.eraseIdx (Config.victim s.fresh % 512) }) with fresh := s.fresh + 1 }

/-- A translation through a unit's agent translation cache (R486). -/
def State.trAgent (s : State) (unit tenant va : Nat) : Tr :=
  match tlbHit ((s.agentTlb.filter (fun p => p.1 == unit)).map (fun p => p.2)) tenant va with
  | some e => .ok e
  | none => walk s tenant va

/-- A translation kept by a unit. -/
def State.fillAgent (s : State) (unit : Nat) (e : TlbEntry) : State :=
  if s.agentTlb.contains (unit, e) then s else { s with agentTlb := (unit, e) :: s.agentTlb }

/-- What an access needs of its leaf (R82, R447). -/
structure Need where
  rd : Bool := false
  w : Bool := false
  x : Bool := false
  priv : Bool := false
deriving DecidableEq, Repr

/-- A load's, a store's and an atomic's needs (R447). -/
def needR (priv : Bool) : Need := { rd := true, priv := priv }
/-- A store needs W. -/
def needW (priv : Bool) : Need := { w := true, priv := priv }
/-- An atomic needs both. -/
def needRW (priv : Bool) : Need := { rd := true, w := true, priv := priv }

/-- The bits of R448 for a denied access; 0 when it is allowed. -/
def denied (e : TlbEntry) (n : Need) : Nat :=
  b2n (n.rd && !e.rd) + 2 * b2n (n.w && !e.w) + 4 * b2n (n.x && !e.x) + 8 * b2n (e.priv && !n.priv)

/-- A translation with its permission check. -/
def Tr.check (r : Tr) (n : Need) : Tr :=
  match r with
  | .ok e => if denied e n = 0 then .ok e else .bad 0x11 (denied e n)
  | t => t

/-- A virtual address outside 56 bits does not translate (R434, R487). -/
def State.reach (s : State) (core tenant va : Nat) (n : Need) : Tr :=
  if 2 ^ 56 ≤ va then .bad 0x10 16 else (s.trCore core tenant va).check n

/-- The same through an agent translation cache. -/
def State.reachAgent (s : State) (unit tenant va : Nat) (n : Need) : Tr :=
  if 2 ^ 56 ≤ va then .bad 0x10 16 else (s.trAgent unit tenant va).check n

/-- The units that translate without an issuing slot (R486), after the 192 slices. -/
def unitDispatch : Nat := 192
/-- The tier engine and clock. -/
def unitTier : Nat := 193
/-- The backfill engine. -/
def unitBackfill : Nat := 194
/-- The fabric interface and gate scoring. -/
def unitFabric : Nat := 195
/-- The error queue and owner reports. -/
def unitError : Nat := 196

end Sys2Proof.Machine
end

