-- ==== Sys2Proof/Machine/Cache.lean ====
section
/-! DEFINITION. The first-level cache, the requests it sends to the home slices, and the cache steps of acquires and releases (R67-R76, R92, R95, R96, R99, R450, R455, R482). -/

namespace Sys2Proof.Machine

/-- Sets of a core's cache region (R69). -/
def Core.sets (c : Core) : Nat := (90 - c.pbScr) * 32
/-- Lines pinned on a core (R67). -/
def Core.pinned (c : Core) : Nat := c.pins.length
/-- Pinned ways of a set. -/
def Core.pinsIn (c : Core) (set : Nat) : Nat := (c.pins.filter (fun p => p.2 == set)).length
/-- The set of a line (R69). -/
def Core.setOf (c : Core) (ln : Nat) : Nat := if c.sets = 0 then 0 else ln % c.sets
/-- Lines of a set that hold dirty bytes. -/
def Core.dirtyIn (c : Core) (set : Nat) : Nat := (c.lines.filter (fun l => l.dirty != 0 && c.setOf l.addr == set)).length
/-- Ways of a set that can still be pinned: those of its clean and free lines, up to 15 pinned ways in all (R67). -/
def Core.pinSpace (c : Core) (set : Nat) : Nat := Nat.min (15 - c.pinsIn set) (16 - (c.pinsIn set + c.dirtyIn set))
/-- Sets in which a line can be pinned. -/
def Core.pinSets (c : Core) : List Nat := (List.range c.sets).filter (fun k => decide (0 < c.pinSpace k))
/-- A line pinned for a team in a set; a set that is then too full loses its clean lines. -/
def Core.pin (c : Core) (team set : Nat) : Core :=
  let c := { c with pins := (team, set) :: c.pins }
  if (c.lines.filter (fun l => c.setOf l.addr == set)).length + c.pinsIn set ≤ 16 then c
  else { c with lines := c.lines.filter (fun l => l.dirty != 0 || c.setOf l.addr != set) }
/-- The pins of a team released (R67). -/
def Core.unpin (c : Core) (team : Nat) : Core := { c with pins := c.pins.filter (fun p => p.1 != team) }
/-- A line in the cache. -/
def Core.line (c : Core) (ln : Nat) : Option Line := c.lines.find? (fun l => l.addr == ln)
/-- A line in the cache changed. -/
def Core.updLine (c : Core) (ln : Nat) (f : Line → Line) : Core := { c with lines := updWhere (fun l => l.addr == ln) f c.lines }

/-- The bits of a byte mask, eight for each byte. -/
def spread : Nat → Nat → Nat
  | 0, _ => 0
  | n + 1, m => (if m % 2 = 1 then 255 else 0) + 256 * spread n (m / 2)

/-- The bytes of a mask taken from a new value. -/
def mergeBytes (mask : BitVec 128) (old new : BitVec 1024) : BitVec 1024 :=
  let m := BitVec.ofNat 1024 (spread 128 mask.toNat)
  (old &&& ~~~m) ||| (new &&& m)

/-- The mask of n bytes from an offset. -/
def byteMask (off n : Nat) : BitVec 128 := BitVec.ofNat 128 ((2 ^ n - 1) * 2 ^ off)
/-- A value of n bytes placed at an offset of a line. -/
def placeBytes (off v : Nat) : BitVec 1024 := BitVec.ofNat 1024 (v * 2 ^ (8 * off))
/-- The words of a line that a mask writes in full (R455). -/
def fullWords (mask : BitVec 128) : BitVec 32 :=
  BitVec.ofNat 32 ((List.range 32).foldl (fun a i => if mask.toNat / 2 ^ (4 * i) % 16 = 15 then a + 2 ^ i else a) 0)

/-- The words of a line that a mask touches (R458). -/
def anyWords (mask : BitVec 128) : BitVec 32 :=
  BitVec.ofNat 32 ((List.range 32).foldl (fun a i => if mask.toNat / 2 ^ (4 * i) % 16 = 0 then a else a + 2 ^ i) 0)

/-- Bytes whose write-back is on its way. -/
def Line.inFlight (l : Line) : BitVec 128 := l.wb.foldl (fun a p => a ||| p.2) 0

/-- The reads of a core for the lines of a test no longer fill the cache: a later write, atomic, acquire or invalidation comes between (R74, R96). -/
def State.noFill (s : State) (core : Nat) (p : Nat → Bool) : State :=
  let f (r : Req) : Req := if r.core == core && r.kind == .read && p r.line then { r with alloc := false } else r
  { s with reqs := s.reqs.map f, merges := s.merges.map (fun m => { m with joined := m.joined.map f }) }

/-- A request sent to its home slice, after every earlier one of the core for the line (R74). -/
def State.send (s : State) (r : Req) : State :=
  let s := s.note (r.line * 128)
  { s with reqs := s.reqs ++ [{ r with id := s.nextId }], nextId := s.nextId + 1 }

/-- The dirty bytes of a line not yet on their way, sent to the home slice with the line's tag (R70, R72, R450); `strong` holds the strong accesses that it performs besides those that waited in the line (R103, R453). A line that holds a poisoned dirty word is written back as a poisoned line (R458). -/
def State.writeBack (s : State) (core ln : Nat) (strong : List (Nat × Nat) := []) : State :=
  match (s.core core).line ln with
  | none => s
  | some l =>
    let m := l.dirty &&& ~~~l.inFlight
    if m = 0 then s
    else
      let id := s.nextId
      let s := s.noFill core (fun x => x == ln)
      let s := s.send { id := id, core := core, tenant := l.tag.tenant, line := ln, kind := .write l.data m (l.poison &&& anyWords m), tag := l.tag, strong := l.strong ++ strong }
      s.updCore core (fun c => c.updLine ln (fun l => { l with wb := l.wb ++ [(id, m)], strong := [] }))

/-- A line leaves the cache: its dirty bytes are written, the rest discarded (R70). -/
def State.evict (s : State) (core ln : Nat) : State :=
  let s := s.writeBack core ln
  s.updCore core (fun c => { c with lines := c.lines.filter (fun l => l.addr != ln) })

/-- A line is in the cache, allocated without reading memory if it was not; a full set first loses the line marked next to replace, or else one of Config.victim's choice (R69-R71, log 10). -/
def State.alloc (s : State) (core ln : Nat) (next : Bool) (tag : Tag) : State :=
  let c := s.core core
  match c.line ln with
  | some _ => s
  | none =>
    let set := c.setOf ln
    let here := c.lines.filter (fun l => c.setOf l.addr == set)
    let s :=
      if here.length + c.pinsIn set < 16 then s
      else
        match here.find? (fun l => l.next) with
        | some l => s.evict core l.addr
        | none =>
          let k := Config.victim s.fresh % here.length
          match here[k]? with
          | some l => { (s.evict core l.addr) with fresh := s.fresh + 1 }
          | none => s
    s.updCore core (fun c => { c with lines := { addr := ln, next := next, tag := tag } :: c.lines })

/-- Bytes stored into the cache (R70, R71): hint 1 marks a new line next to replace. -/
def State.store (s : State) (core : Nat) (tag : Tag) (pa n v hint : Nat) : State :=
  let s := s.note pa
  let ln := pa / 128
  let m := byteMask (pa % 128) n
  (s.alloc core ln (hint == 1) tag).updCore core (fun c => c.updLine ln (fun l =>
    { l with data := mergeBytes m l.data (placeBytes (pa % 128) v), dirty := l.dirty ||| m,
             poison := l.poison &&& ~~~(fullWords m), tag := tag, wb := l.wb.map (fun p => (p.1, p.2 &&& ~~~m)) }))

/-- A strong store that waits in a line of a cache until its write-back (R453). -/
def State.markStrong (s : State) (core pa n : Nat) : State := s.updCore core (fun c => c.updLine (pa / 128) (fun l => { l with strong := l.strong ++ [(pa % 128, n)] }))

/-- Stores of one instruction with the bypass hint, as (address, bytes, value): one write for each line that they touch, later ones last, and the cached copy kept equal and clean (R71, R90, R482). -/
def State.bypass (s : State) (core : Nat) (tag : Tag) (l : List (Nat × Nat × Nat)) (strong : Bool) : State :=
  ((l.map (fun p => p.1 / 128)).eraseDups).foldl (fun s ln =>
    let here := l.filter (fun p => p.1 / 128 == ln)
    let m := here.foldl (fun a p => a ||| byteMask (p.1 % 128) p.2.1) 0
    let x := here.foldl (fun a p => mergeBytes (byteMask (p.1 % 128) p.2.1) a (placeBytes (p.1 % 128) p.2.2)) 0
    let s := s.noFill core (fun y => y == ln)
    let s := s.send { id := 0, core := core, tenant := tag.tenant, line := ln, kind := .write x m 0, tag := tag,
                      strong := if strong then here.map (fun p => (p.1 % 128, p.2.1)) else [] }
    s.updCore core (fun c => c.updLine ln (fun l =>
      { l with data := mergeBytes m l.data x, dirty := l.dirty &&& ~~~m, poison := l.poison &&& ~~~(fullWords m), wb := l.wb.map (fun p => (p.1, p.2 &&& ~~~m)) }))) s

/-- The registers of a part all of whose bytes pass a test: each takes as many bytes as the others. -/
def Part.whole (p : Part) (ok : Nat → Bool) : List Nat :=
  let b := p.n / p.regs.length
  ((List.range p.regs.length).filter (fun j => (List.range b).all (fun i => ok (b * j + i)))).map (fun j => p.regs.getD j 0)

/-- The share of one lane in a load that the cache supplies at once: every byte of a filled line or of one whose dirty bytes cover it, and else the dirty bytes that are not on their way to the slice, which performs those before the read that fetches the rest; the bypass hint takes dirty bytes only (R70, R71, R102). -/
def Core.take (c : Core) (p : Part) (hint : Nat) : Part :=
  match c.line (p.pa / 128) with
  | none => p
  | some l =>
    let part (m : BitVec 128) : Nat := m.toNat / 2 ^ (p.pa % 128) % 2 ^ p.n
    let have_ : Nat := if (l.filled && hint != 2) || part l.dirty == 2 ^ p.n - 1 then 2 ^ p.n - 1 else part (l.dirty &&& ~~~l.inFlight)
    let bytes := l.data.toNat / 2 ^ (8 * (p.pa % 128)) % 2 ^ (8 * p.n)
    let bad (i : Nat) : Bool := have_.testBit i && l.poison.getLsbD ((p.pa % 128 + i) / 4)
    { p with data := BitVec.ofNat 512 (bytes &&& spread p.n have_), got := BitVec.ofNat 64 have_, done := have_ == 2 ^ p.n - 1,
             poison := (List.range p.n).any bad, clean := p.whole (fun i => !bad i) }

/-- A lane's missing bytes taken from a reply (R70, R457). -/
def Part.fill (p : Part) (line : Nat) (data : BitVec 1024) (poison : Bool) : Part :=
  if p.done || p.skip || p.pa / 128 != line then p
  else
    let miss := (2 ^ p.n - 1) - p.got.toNat
    let bytes := data.toNat / 2 ^ (8 * (p.pa % 128)) % 2 ^ (8 * p.n)
    { p with data := BitVec.ofNat 512 (p.data.toNat + (bytes &&& spread p.n miss)), got := BitVec.ofNat 64 (2 ^ p.n - 1), done := true, poison := p.poison || poison,
             clean := if poison then (p.whole (fun i => p.got.getLsbD i)).filter (fun r => !p.poison || p.clean.contains r) else p.clean }

/-- The strong accesses to a line that are in its merge table and come from another context than a tag's, as (offset, bytes): another group, or the other arm of its own when `arms` says so (R100, R103, R453). -/
def State.strongOn (s : State) (tag : Tag) (line : Nat) (arms : Bool) : List (Nat × Nat) :=
  let others := ((s.merges.filter (fun m => m.line == line)).flatMap (fun m => m.joined.map (fun r => (r.strong, r.tag))))
    ++ (s.acks.filter (fun a => a.line == line)).map (fun a => (a.strong, a.tag))
  (others.filter (fun r => r.2.team != tag.team || r.2.grp != tag.grp || (arms && r.2.arm != tag.arm))).flatMap (fun r => r.1)

/-- The bytes of a line in which strong accesses of a tag overlap strong ones of another size that its merge table holds (R103). -/
def State.clash (s : State) (tag : Tag) (line : Nat) (l : List (Nat × Nat)) : BitVec 128 :=
  let them := s.strongOn tag line true
  l.foldl (fun a x => (them.filter (fun y => y.2 != x.2)).foldl (fun a y => a ||| (byteMask x.1 x.2 &&& byteMask y.1 y.2)) a) 0

/-- A line of free values. -/
def State.freeLine (s : State) : State × BitVec 1024 :=
  ({ s with fresh := s.fresh + 16 }, BitVec.ofNat 1024 ((List.range 16).foldl (fun a i => a + (Config.freeValue (s.fresh + i)).toNat * 2 ^ (64 * i)) 0))

/-- A part of a strong load that the cache supplied: its bytes that overlap a strong access of another size, at its slice now, hold values that nothing predicts (R103, R453; log 116). -/
def State.blurPart (s : State) (tag : Tag) (p : Part) : State × Part :=
  let m := s.clash tag (p.pa / 128) [(p.pa % 128, p.n)] &&& BitVec.ofNat 128 (p.got.toNat * 2 ^ (p.pa % 128))
  if m = 0 then (s, p)
  else
    let f := s.freeLine
    (f.1, { p with data := BitVec.ofNat 512 ((mergeBytes m (placeBytes (p.pa % 128) p.data.toNat) f.2).toNat / 2 ^ (8 * (p.pa % 128))) })

/-- The parts of a strong load, each so. -/
def State.blurParts (s : State) (tag : Tag) : List Part → State × List Part
  | [] => (s, [])
  | p :: t => let a := s.blurPart tag p; let b := State.blurParts a.1 tag t; (b.1, a.2 :: b.2)

/-- The lines that parts touch and do not have, each once (R482). -/
def linesNeeded (l : List Part) : List Nat := ((l.filter (fun p => !p.done && !p.skip)).map (fun p => p.pa / 128)).eraseDups

/-- A load's parts taken from the cache, and one read of each line they still need, with the bypass hint of each line they touch (R71, R482); returns the parts. The bytes taken from the cache are stores of the core that stand after all that the slice performs before the read, so that the load has one value of one moment (R102; DEDUCED, log 118). -/
def State.loadParts (s : State) (core : Nat) (tag : Tag) (async : Nat) (parts : List Part) (hint : Nat) (strong : Bool) : State × List Part :=
  let c := s.core core
  let (s, ps) :=
    let ps := parts.map (fun p => if p.done || p.skip then p else c.take p hint)
    if strong then s.blurParts tag ps else (s, ps)
  let s := parts.foldl (fun s p => if p.skip || p.done then s else s.note p.pa) s
  ((linesNeeded (if hint = 2 then parts else ps)).foldl (fun s ln =>
    let str := if strong then (ps.filter (fun p => !p.done && !p.skip && p.pa / 128 == ln)).map (fun p => (p.pa % 128, p.n)) else []
    s.send { id := 0, core := core, tenant := tag.tenant, line := ln, kind := .read, tag := tag, async := some (async, 0), alloc := hint != 2, next := hint == 1, strong := str }) s, ps)

/-- A reply reaches a core: it fills the bytes that are not dirty, unless something came between (R70, R74). -/
def State.fillLine (s : State) (r : Req) (data : BitVec 1024) (poison : Bool) : State :=
  if !r.alloc then s
  else
    let s := s.alloc r.core r.line r.next r.tag
    s.updCore r.core (fun c => c.updLine r.line (fun l =>
      { l with data := mergeBytes (~~~l.dirty) l.data data, filled := true, poison := if poison then l.poison ||| ~~~(fullWords l.dirty) else l.poison }))

/-- A team spans both cores of a pair. -/
def Team.paired (t : Team) : Bool := t.core2.isSome

/-- The scope that acts in the cache: TEAM acts as DEVICE for a paired team (R72). -/
def effScope (t : Team) (scope : Nat) : Nat := if scope = 1 && t.paired then 2 else scope

/-- The requests and asynchronous results of a group that are still on their way (R95). -/
def State.outstanding (s : State) (team grp : Nat) : List Nat × List Nat :=
  ((s.reqs.filter (fun r => r.tag.team == team && r.tag.grp == grp)).map (fun r => r.id)
    ++ (s.acks.filter (fun a => a.tag.team == team && a.tag.grp == grp)).map (fun a => a.id)
    ++ (s.merges.flatMap (fun m => m.joined)).filterMap (fun r => if r.tag.team == team && r.tag.grp == grp then some r.id else none),
   (s.asyncs.filter (fun x => x.tag.team == team && x.tag.grp == grp)).map (fun x => x.id))

/-- Every dirty byte of a core's cache region is sent to its home slice; the requests to wait for (R72). -/
def State.writeBackAll (s : State) (core : Nat) (p : Nat → Bool) : State × List Nat :=
  let s := ((s.core core).lines.filter (fun l => l.dirty != 0 && p l.addr)).foldl (fun s l => s.writeBack core l.addr) s
  (s, ((s.core core).lines.filter (fun l => p l.addr)).flatMap (fun l => l.wb.map (fun w => w.1)))

/-- Writes of a core that are on their way, those of lines that have left its cache among them (R72, R95). -/
def State.coreWrites (s : State) (core : Nat) : List Nat :=
  let write (r : Req) : Bool := match r.kind with | .write _ _ _ => true | _ => false
  (s.reqs.filter (fun r => r.core == core && write r)).map (fun r => r.id) ++ (s.acks.filter (fun a => a.core == core)).map (fun a => a.id)

/-- The first half of a release of a scope by a group (R72, R95): what it must wait for. -/
def State.startRelease (s : State) (core : Nat) (t : Team) (team grp scope : Nat) : State × Wait :=
  let e := effScope t scope
  if e = 0 then (s, { kind := .release, rel := true })
  else
    let (s, wbs) := if 2 ≤ e then s.writeBackAll core (fun _ => true) else (s, [])
    let (ids, asy) := s.outstanding team grp
    (s, { kind := .release, ids := ids ++ wbs ++ (if 2 ≤ e then s.coreWrites core else []), asy := asy, rel := true })

/-- Some request or result that a wait names is still on its way. -/
def State.pendingOn (s : State) (w : Wait) : Bool :=
  w.ids.any (fun i => s.reqs.any (fun r => r.id == i) || s.acks.any (fun a => a.id == i) || s.merges.any (fun m => m.joined.any (fun r => r.id == i)))
    || w.asy.any (fun i => s.asyncs.any (fun x => x.id == i))

/-- Clean lines of a core invalidated, filled flags of dirty ones cleared (R72, R285). -/
def State.invalidate (s : State) (core : Nat) (p : Nat → Bool) : State :=
  let s := s.noFill core p
  s.updCore core (fun c => { c with lines := (c.lines.filter (fun l => !(p l.addr) || l.dirty != 0)).map (fun l => if p l.addr then { l with filled := false } else l) })

/-- The accesses of a group's two arms come before all that the group does from here on: a later load does not find the clean copy of a line that an atomic of theirs has still to reach (R100). -/
def State.orderArms (s : State) (core team grp : Nat) : State :=
  let op (r : Req) : Bool := match r.kind with | .op _ => r.core == core && r.tag.team == team && r.tag.grp == grp | _ => false
  let ls := (s.reqs.filter op).map (fun r => r.line)
  if ls.isEmpty then s else s.invalidate core (fun l => ls.contains l)

/-- The cache step of an acquire (R72, R96). -/
def State.acquire (s : State) (core : Nat) (t : Team) (scope : Nat) : State :=
  if 2 ≤ effScope t scope then s.invalidate core (fun _ => true) else s

/-- The bytes of a range as the core that reads them at issue sees them: its cache, then its own writes on their way, then memory. -/
def State.coreByte (s : State) (core pa : Nat) : Byte :=
  let ln := pa / 128
  let off := pa % 128
  let c := s.core core
  let cached : Option Byte := match c.line ln with
    | some l => if l.dirty.getLsbD off || l.filled then some (BitVec.ofNat 8 (l.data.toNat / 2 ^ (8 * off))) else none
    | none => none
  match cached with
  | some b => b
  | none =>
    match (s.reqs.reverse.find? (fun r => r.core == core && r.line == ln && (match r.kind with | .write _ m _ => m.getLsbD off | _ => false))) with
    | some r => (match r.kind with | .write d _ _ => BitVec.ofNat 8 (d.toNat / 2 ^ (8 * off)) | _ => 0)
    | none =>
      match s.acks.find? (fun a => a.core == core && a.line == ln && a.mask.getLsbD off) with
      | some a => BitVec.ofNat 8 (a.data.toNat / 2 ^ (8 * off))
      | none => s.mem.get pa

/-- `n` bytes as a core reads them at issue. -/
def State.coreRead (s : State) (core pa : Nat) : Nat → Nat
  | 0 => 0
  | n + 1 => (s.coreByte core pa).toNat + 256 * State.coreRead s core (pa + 1) n

/-- A word of a range within one line is poisoned as a core sees it: in its cache where it holds the line, else in memory (R455, R458). -/
def State.corePoison (s : State) (core pa n : Nat) : Bool :=
  match (s.core core).line (pa / 128) with
  | some l => (List.range n).any (fun i => l.poison.getLsbD ((pa % 128 + i) / 4)) || (!l.filled && s.poisonAt pa && (List.range n).any (fun i => !l.dirty.getLsbD (pa % 128 + i)))
  | none => s.poisonAt pa

end Sys2Proof.Machine
end

