-- ==== Sys2Proof/Machine/Ops.lean ====
section
/-! DEFINITION. The named operations every family uses: queues, interrupts, error records, barriers, scratchpad and barrier objects, fronts, futures, retirement, and taking and returning from a trap (R66, R77-R80, R104-R113, R229, R293, R294, R301, R304, R312-R315, R379, R401-R423, R463, R471, R472, R477). -/

namespace Sys2Proof.Machine

/-- Pieces of a range that each lie within one line. -/
def chunks : Nat → Nat → Nat → List (Nat × Nat)
  | 0, _, _ => []
  | k + 1, va, n =>
    if n = 0 then []
    else
      let m := Nat.min n (128 - va % 128)
      (va, m) :: chunks k (va + m) (n - m)

/-- Pieces of a range, enough of them. -/
def pieces (va n : Nat) : List (Nat × Nat) := chunks (n / 128 + 2) va n

/-- The words that a range of memory touches, each with the bytes of it in the range. -/
def wordsOf : Nat → Nat → Nat → List (Nat × Nat)
  | 0, _, _ => []
  | k + 1, va, n =>
    if n = 0 then []
    else
      let m := Nat.min n (4 - va % 4)
      (va, m) :: wordsOf k (va + m) (n - m)

/-! ### Register lines that others read (R65) -/

/-- The index in `v` of word i of a group's vector area (R22, R59). -/
def Group.areaKey (g : Group) (i : Nat) : Nat := i / g.width * 64 + i % g.width

/-- The 128-byte line k of a group's vector area as its registers hold it, with whether a word of it is poisoned. -/
def Group.lineAt (g : Group) (k : Nat) : BitVec 1024 × Bool :=
  let key (i : Nat) : Nat := g.areaKey (32 * k + i)
  (BitVec.ofNat 1024 ((List.range 32).foldl (fun a i => a + (g.v.get (key i)).toNat * 2 ^ (32 * i)) 0), (List.range 32).any (fun i => g.vpo.contains (key i)))

/-- The 128-byte line of a group's vector area that a physical line is, by the group's translation of its first or last byte. -/
def State.areaLine (s : State) (g : Group) (line : Nat) : Option Nat :=
  let b := g.ctxBase.toNat % 2 ^ 56
  let n := g.count * g.width * 4
  [b, b + n - 1].findSome? (fun va => match s.reach g.core (s.tenantOf g.team) va {} with
    | .ok e =>
      let v := e.va + (line * 128 - e.pa)
      if e.pa ≤ line * 128 ∧ line * 128 < e.pa + e.size ∧ b ≤ v ∧ v + 128 ≤ b + n then some ((v - b) / 128) else none
    | .bad _ _ => none)

/-- A group whose registers stand in a pool. -/
def State.inPool (s : State) (g : Group) : Bool :=
  !g.retired && (match s.team g.team with | some t => t.place.here || t.place == .placed | none => false)

/-- What the registers hold for a physical line that is the place of theirs, while its group's team is in a pool. -/
def State.regLine (s : State) (line : Nat) : Option (BitVec 1024 × Bool) :=
  s.groups.findSome? (fun g =>
    if !s.inPool g then none
    else match s.areaLine g line with | some k => if g.vout.contains (k / 2) then none else some (g.lineAt k) | none => none)

/-- A line as a slice or an engine reads it. A line of the vector area of a group that is resident or pre-empted reads as its registers' current values, which is one of the values that the rule allows (R65; DESIGN CHOICE, log 123). -/
def State.seeLine (s : State) (line : Nat) : BitVec 1024 × Bool :=
  (s.regLine line).getD (BitVec.ofNat 1024 (s.peek (line * 128) 128), s.poisonAt (line * 128))

/-- n bytes within one line, read so, with whether they are poisoned. -/
def State.see (s : State) (pa n : Nat) : Nat × Bool :=
  match s.regLine (pa / 128) with
  | some (x, b) => (x.toNat / 2 ^ (8 * (pa % 128)) % 2 ^ (8 * n), b)
  | none => (s.peek pa n, s.poisonIn pa n)

/-! ### Ranges of virtual memory -/

/-- A range of virtual memory read at the slices by a unit that translates with `tr`, a resident group's vector area as its registers hold it (R65); the failure names the first address that failed. The reserved range reads zero (R15; DESIGN CHOICE, log 16). -/
def State.vread (s : State) (tr : Nat → Tr) (va n : Nat) : Except (Nat × Nat × Nat) Nat :=
  (pieces va n).foldr (fun p acc =>
    match acc, tr p.1 with
    | .error e, .ok _ => .error e
    | _, .bad c d => .error (c, d, p.1)
    | .ok v, .ok e => let x := s.see (e.at p.1) p.2; if x.2 then .error (0x16, 0, p.1) else .ok (x.1 + 2 ^ (8 * p.2) * v)) (.ok 0)

/-- A range of virtual memory written at the slices; nothing is written when an address fails. -/
def State.vwrite (s : State) (tr : Nat → Tr) (va n v : Nat) : Except (Nat × Nat × Nat) State :=
  match (pieces va n).findSome? (fun p => match tr p.1 with | .bad c d => some (c, d, p.1) | .ok _ => none) with
  | some e => .error e
  | none => .ok ((pieces va n).foldl (fun s p => match tr p.1 with
      | .ok e => s.poke (e.at p.1) p.2 (v / 2 ^ (8 * (p.1 - va)) % 2 ^ (8 * p.2))
      | .bad _ _ => s) s)

/-! ### Interrupts and queues -/

/-- Vector v of a tenant is raised: written to the host, or held pending while masked or while Eweov is down (R379, R479). MSIADDR names host memory by its place in the module's map; a message to any other address leaves nothing in the module (DESIGN CHOICE, log 115). -/
def State.msi (s : State) (tenant v : Nat) : State :=
  let t := s.tenant tenant
  if t.msiMask.getLsbD v || !s.eweovUp then s.updTenant tenant (fun t => { t with msiPend := t.msiPend ||| BitVec.ofNat 16 (2 ^ v) })
  else if isHost t.msiAddr.toNat then s.poke t.msiAddr.toNat 4 ((t.msiData.toNat + v) % 2 ^ 32)
  else s

/-- The fields of a task-queue header (R312). -/
structure Hdr where
  ring : Nat
  owner : Nat
  tail : Nat
  head : Nat
  frozen : Bool
  log2e : Nat
  log2c : Nat
  rsv : Bool
deriving DecidableEq, Repr

/-- A task-queue header from its 64 bytes (R312). -/
def hdrOf (x : Nat) : Hdr :=
  ⟨fld x 255 192, fld x 191 128, fld x 127 96, fld x 95 64, x.testBit 16, fld x 10 8, fld x 4 0, fld x 511 256 != 0 || fld x 63 17 != 0 || fld x 15 11 != 0 || fld x 7 5 != 0⟩
/-- Entries held. -/
def Hdr.count (h : Hdr) : Nat := (h.tail + 2 ^ 32 - h.head) % 2 ^ 32
/-- CAP. -/
def Hdr.cap (h : Hdr) : Nat := 2 ^ h.log2c
/-- Bytes of an entry. -/
def Hdr.esize (h : Hdr) : Nat := 2 ^ h.log2e
/-- The address of entry i. -/
def Hdr.entry (h : Hdr) (i : Nat) : Nat := h.ring + i % h.cap * h.esize

/-- The outcome of a queue operation (R314, R315, R471, R487). -/
inductive QOut where
  | done (index data : Nat)
  | refused
  | frozen
  | bad (cause detail info : Nat)
deriving DecidableEq, Repr

/-- An agent's translation of a queue entry: no issuing slot, so PRIV denies (R486). -/
def State.agentTr (s : State) (unit tenant : Nat) (n : Need) : Nat → Tr := fun va => s.reachAgent unit tenant va n

/-- BFQ or BFK of a tenant's table control record (R147), with the pair of them: the launch record and the queue header; none while there is no table or it cannot be read. A record whose reserved field is not zero is malformed, and gives none (R6). The backfill engine takes a KVTSIZE whose LOG2N is below 8 for no table, and tests none of its other fields (R146; DESIGN CHOICE, log 120). -/
def State.bfAddrs (s : State) (tenant : Nat) : Option (Nat × Nat) :=
  if fld (s.tenant tenant).kvtSize.toNat 4 0 < 8 then none
  else
    match s.vread (s.agentTr unitBackfill tenant { rd := true }) ((s.tenant tenant).kvtBase.toNat % 2 ^ 56 / 256 * 256 + 44) 212 with
    | .error _ => none
    | .ok x => if x / 2 ^ 128 ≠ 0 then none else some (fld x 127 64, fld x 63 0)

/-- A header is that of a tenant's backfill queue. -/
def State.isBfq (s : State) (tenant pa : Nat) : Bool :=
  match s.bfAddrs tenant with
  | none => false
  | some (_, q) => (match s.reachAgent unitBackfill tenant q { rd := true, w := true } with | .ok e => e.at q == pa | .bad _ _ => false)

/-- A record pushed at a header is available to the dispatcher from now, if the queue is some tenant's backfill queue (R359). -/
def State.bfStamp (s : State) (pa index : Nat) : State :=
  let l := (List.range 16).filter (fun t => s.isBfq t pa)
  if l.isEmpty then s
  else { (l.foldl (fun s t => s.updTenant t (fun x => { x with bfSeen := (index, s.nextId) :: x.bfSeen.filter (fun p => p.1 != index) })) s) with nextId := s.nextId + 1 }

/-- A push at the header's slice (R314, R471, R487): `tr` translates ring entries. -/
def State.qPush (s : State) (tr : Nat → Tr) (pa data : Nat) : State × QOut :=
  if s.poisonAt pa then (s, .bad 0x16 0 (lineInfo pa).toNat)
  else
    let h := hdrOf (s.peek pa 64)
    if h.frozen then (s, .frozen)
    else if h.count < h.cap then
      match tr (h.entry h.tail) with
      | .bad c d => (s, .bad c d (h.entry h.tail))
      | .ok e => (((s.poke (e.at (h.entry h.tail)) h.esize data).poke (pa + 12) 4 ((h.tail + 1) % 2 ^ 32)).bfStamp pa h.tail, .done h.tail 0)
    else (s, .refused)

/-- A pop at the header's slice (R315, R471, R487). -/
def State.qPop (s : State) (tr : Nat → Tr) (pa : Nat) : State × QOut :=
  if s.poisonAt pa then (s, .bad 0x16 0 (lineInfo pa).toNat)
  else
    let h := hdrOf (s.peek pa 64)
    if h.frozen then (s, .frozen)
    else if h.tail ≠ h.head then
      match tr (h.entry h.head) with
      | .bad c d => (s, .bad c d (h.entry h.head))
      | .ok e => ((s.note (e.at (h.entry h.head))).poke (pa + 8) 4 ((h.head + 1) % 2 ^ 32), .done h.head (s.peek (e.at (h.entry h.head)) h.esize))
    else (s, .refused)

/-- A push by an agent onto a queue of a tenant named by its virtual header address. -/
def State.agentPush (s : State) (unit tenant va data : Nat) : State × QOut :=
  match s.reachAgent unit tenant va { rd := true, w := true } with
  | .bad c d => (s, .bad c d va)
  | .ok e => (s.note (e.at va)).qPush (s.agentTr unit tenant { w := true }) (e.at va) data

/-- A pop by an agent. -/
def State.agentPop (s : State) (unit tenant va : Nat) : State × QOut :=
  match s.reachAgent unit tenant va { rd := true, w := true } with
  | .bad c d => (s, .bad c d va)
  | .ok e => (s.note (e.at va)).qPop (s.agentTr unit tenant { rd := true }) (e.at va)

/-- An error record pushed onto ERRQ as TQ.PUSH.sys does, and vector 1 raised; a record that cannot be written is counted in LOST and kept in the black box (R421). -/
def State.writeErr (s : State) (r : ErrRec) : State :=
  let t := s.tenant r.tenant
  let v := r.info.toNat * 2 ^ 448 + r.pc.toNat * 2 ^ 384 + r.time % 2 ^ 64 * 2 ^ 320 + r.launch % 2 ^ 32 * 2 ^ 288 + r.team % 2 ^ 32 * 2 ^ 256
    + t.lost % 2 ^ 32 * 2 ^ 224 + r.code % 256 * 2 ^ 216 + r.kind % 256 * 2 ^ 208 + r.detail % 256 * 2 ^ 200 + r.grp % 64 * 2 ^ 192 + r.flags % 8 * 2 ^ 184 + r.tenant % 16
  match s.agentPush unitError r.tenant t.errQ.toNat v with
  | (s, .done _ _) => (s.updTenant r.tenant (fun t => { t with lost := 0 })).msi r.tenant 1
  | (s, _) => (s.updTenant r.tenant (fun t => { t with lost := Nat.min (t.lost + 1) (2 ^ 32 - 1) })).bb 0 40 r.tenant 0x47 r.pc r.kind

/-- An error record of this cycle: it is pushed in a slot of its tenant, after the tenant's earlier records (R76, R421). -/
def State.pushErr (s : State) (r : ErrRec) : State :=
  let r := { r with time := s.clock }
  if s.ownsSlot r.tenant && !s.errs.any (fun x => x.tenant == r.tenant) then s.writeErr r else { s with errs := s.errs ++ [r] }

/-- The records that wait for the slot of this cycle, pushed in order (R76). -/
def State.flushErrs (s : State) : State :=
  let now := s.errs.filter (fun r => s.ownsSlot r.tenant)
  if now.isEmpty then s else now.foldl (fun s r => s.writeErr r) { s with errs := s.errs.filter (fun r => !s.ownsSlot r.tenant) }

/-- An error record about a team (R421, R422). -/
def State.teamErr (s : State) (team grp kind : Nat) (t : Trap) (detail : Nat) (info : W64) (flags : Nat) : State :=
  match s.team team with
  | none => s
  | some x =>
    let l := s.launch x.launch
    s.pushErr { tenant := l.tenant, kind := kind, code := t.cause, detail := detail, info := info, pc := t.pc, launch := l.id, team := x.index, grp := grp, flags := flags }

/-- An imprecise fault set on its way to the group that owns a tag (R402); `detail8` is the kind-8 record's DETAIL when it differs (R464). -/
def State.imprecise (s : State) (tag : Tag) (cause lane detail : Nat) (info : W64) (detail8 : Nat) : State :=
  { s with faults := s.faults ++ [{ team := tag.team, grp := tag.grp, trap := { cause := cause, lane := lane, detail := detail, pc := tag.pc, arm := tag.arm, info := info, imp := cause != 0x22, detail8 := if cause = 0x30 ∧ (detail = 0x10 ∨ detail = 0x11) then detail8 else if detail8 = 0 then detail else detail8 } }] }

/-! ### Team barriers (R293, R294) -/

/-- Check(b) of R294: a phase that is complete changes, and the waiters of b leave with status 1. -/
def State.checkBar (s : State) (team b : Nat) : State :=
  match s.team team with
  | none => s
  | some t =>
    match t.bars[b]? with
    | none => s
    | some x =>
      let n := if x.everyone then (s.liveGroups team).length else x.expect
      if 0 < x.arrived && n ≤ x.arrived then
        let s := s.updTeam team (fun t => { t with bars := updAt t.bars b (fun x => { x with phase := !x.phase, arrived := 0 }) })
        let done (a : Arm) : Arm := if a.wait.kind == .bar b && a.wait.status == none then { a with wait := { a.wait with status := some 1 } } else a
        { s with groups := updWhere (fun g => g.team == team && x.lastph.getLsbD g.idx == x.phase) (fun g => g.mapArms done) s.groups }
      else s

/-- Arrive(b, n) of R294; `n` none is z. -/
def State.arriveBar (s : State) (team grp b : Nat) (n : Option Nat) : State :=
  let live := (s.liveGroups team).length
  let bit : W64 := BitVec.ofNat 64 (2 ^ grp)
  let s := s.updTeam team (fun t => { t with bars := updAt t.bars b (fun x =>
    let x := if x.arrived = 0 then { x with expect := n.getD live, everyone := n.isNone } else x
    { x with arrived := x.arrived + 1, lastph := if x.phase then x.lastph ||| bit else x.lastph &&& ~~~bit, ever := x.ever ||| bit }) })
  s.checkBar team b

/-! ### Scratchpad and barrier objects (R66, R109-R113, R368) -/

/-- Bytes of a team image (R353). -/
def imgSize (l : Launch) (scr : Nat) : Nat := 4096 + scr / 128 + scr + 262144 * (if l.pair then 2 else 1)
/-- The virtual address of a team's image (R353). -/
def imgBase (l : Launch) (t : Team) : Nat := l.f 895 832 + t.index * imgSize l t.scrSize
/-- The virtual address of a scratchpad byte in the image (R368). -/
def imgScr (l : Launch) (t : Team) (off : Nat) : Nat := imgBase l t + 4096 + t.scrSize / 128 + off

/-- Scratchpad bytes of a team, in the pool or, while it is unplaced, in its image (R368). -/
def State.scrRead (s : State) (team off n : Nat) : Nat :=
  match s.team team with
  | none => 0
  | some t =>
    if t.place = .unplaced then
      let l := s.launch t.launch
      match s.vread (s.agentTr unitDispatch l.tenant { rd := true }) (imgScr l t off) n with | .ok v => v | .error _ => 0
    else t.scr.read off n

/-- Scratchpad bytes of a team written, wherever they stand; a word written in full loses its poison (R368, R455). -/
def State.scrWrite (s : State) (team off n v : Nat) : State :=
  match s.team team with
  | none => s
  | some t =>
    if t.place = .unplaced then
      let l := s.launch t.launch
      match s.vwrite (s.agentTr unitDispatch l.tenant { w := true }) (imgScr l t off) n v with | .ok s => s | .error _ => s
    else s.updTeam team (fun t => { t with scr := t.scr.write off n v, scrPoison := t.scrPoison.filter (fun w => !(decide (off ≤ 4 * w) && decide (4 * w + 4 ≤ off + n))) })

/-- A poisoned word in a scratchpad range, or a poisoned line of the image that holds it (R368, R455). -/
def State.scrBad (s : State) (team off n : Nat) : Bool :=
  match s.team team with
  | none => false
  | some t =>
    if t.place = .unplaced then
      let l := s.launch t.launch
      match s.vread (s.agentTr unitDispatch l.tenant { rd := true }) (imgScr l t off) n with | .error (c, _, _) => c == 0x16 | .ok _ => false
    else t.scrPoison.any (fun w => decide (off < 4 * w + 4) && decide (4 * w < off + n))

/-- Lines of a range of virtual memory poisoned, as a unit translates it. -/
def State.poisonVa (s : State) (tr : Nat → Tr) (va n : Nat) : State :=
  (pieces va n).foldl (fun s p => match tr p.1 with
    | .ok e => if s.poisonAt (e.at p.1) then s else { s with memPoison := s.memPoison ++ [e.at p.1 / 128] }
    | .bad _ _ => s) s

/-- Words of a scratchpad range poisoned, wherever they stand (R368, R457). -/
def State.scrPoisonSet (s : State) (team off n : Nat) : State :=
  match s.team team with
  | none => s
  | some t =>
  if t.place = .unplaced then s.poisonVa (s.agentTr unitDispatch (s.launch t.launch).tenant { w := true }) (imgScr (s.launch t.launch) t off) n
  else s.updTeam team (fun t => { t with scrPoison := t.scrPoison ++ (List.range ((off + n + 3) / 4 - off / 4)).map (fun i => off / 4 + i) })

/-- The granule of an offset holds an armed object (R110). -/
def State.isArmed (s : State) (team off : Nat) : Bool := match s.team team with | some t => t.armed.contains (off / 16) | none => false

/-- The armed granules that a range touches, ascending. -/
def State.armedIn (s : State) (team off n : Nat) : List Nat :=
  match s.team team with
  | none => []
  | some t => if n = 0 then [] else ((List.range ((off + n - 1) / 16 + 1 - off / 16)).map (fun i => off / 16 + i)).filter (fun k => t.armed.contains k)

/-- Waiters of an object at an offset leave: those on phase p with a status, and afterwards every one whose phase differs from the object's (R111). -/
def State.wakeBobj (s : State) (team off : Nat) (f : Nat → Option W32) : State :=
  let done (a : Arm) : Arm :=
    match a.wait.kind, a.wait.status with
    | .bobj o p, none => if o = off then (match f p with | some v => { a with wait := { a.wait with status := some v } } | none => a) else a
    | _, _ => a
  { s with groups := updWhere (fun g => g.team == team) (fun g => g.mapArms done) s.groups }

/-- Evaluate (R111). -/
def State.evalBobj (s : State) (team off : Nat) : State :=
  if !s.isArmed team off || s.scrBad team off 16 then s
  else
    let x := s.scrRead team off 16
    let phase := fld x 47 32
    if fld x 31 16 ≤ fld x 15 0 && decide (sgn 32 (fld x 127 96) ≤ 0) then
      let s := s.wakeBobj team off (fun p => if p = phase then some (if x.testBit 48 then 1 else 0) else none)
      let ph := (phase + 1) % 65536
      let y := setFld (setFld (setFld (setFld x 15 0 0) 47 32 ph) 48 48 0) 127 96 (fld x 95 64)
      (s.scrWrite team off 16 y).wakeBobj team off (fun p => if p = ph then none else some 0)
    else s.wakeBobj team off (fun p => if p = phase then none else some 0)

/-- An arrival of n on an object (R111). -/
def State.arriveBobj (s : State) (team off n : Nat) : State :=
  let x := s.scrRead team off 16
  (s.scrWrite team off 16 (setFld x 15 0 (Nat.min (fld x 15 0 + n) 65535))).evalBobj team off

/-- An object that an engine operation cannot interpret: poisoned, in a scratchpad that its team still has (R457). -/
def State.objBad (s : State) (team off : Nat) : Bool :=
  match s.team team with | some t => t.place != .gone && s.scrBad team off 16 | none => false

/-- Bytes counted down on an object, with FAULT set when asked, and an armed object evaluated (R109, R111, R463). Nothing happens for a team whose scratchpad is released, nor to a poisoned object, whose operation faults (R457). -/
def State.countDown (s : State) (team off n : Nat) (fault : Bool) : State :=
  match s.team team with
  | none => s
  | some t =>
    if t.place = .gone || s.scrBad team off 16 then s
    else
      let x := s.scrRead team off 16
      let b := clampI (sgn 32 (fld x 127 96) - n) (-(2 ^ 31 : Nat)) (2 ^ 31)
      let y := setFld x 127 96 (wrapN 32 b)
      (s.scrWrite team off 16 (if fault then setFld y 48 48 1 else y)).evalBobj team off

/-! ### What is read back from an image (R62, R370) -/

/-- Bytes of an image read back, with the words of its poisoned lines. -/
def State.imgRead (s : State) (tenant va n : Nat) : Except (Nat × Nat × Nat) (Nat × List Nat) :=
  (pieces va n).foldr (fun p acc =>
    match acc, s.agentTr unitDispatch tenant { rd := true } p.1 with
    | .error e, .ok _ => .error e
    | _, .bad c d => .error (c, d, p.1)
    | .ok (v, l), .ok e => .ok (s.peek (e.at p.1) p.2 + 2 ^ (8 * p.2) * v, if s.poisonAt (e.at p.1) then (List.range (p.2 / 4)).map (fun i => (p.1 - va) / 4 + i) ++ l else l)) (.ok (0, []))

/-- A register line read back from its group's context image, with the poison it carries (R61, R62). -/
def State.loadLine (s : State) (tenant : Nat) (g : Group) (k : Nat) : Except (Nat × Nat × Nat) State :=
  match s.imgRead tenant (g.ctxBase.toNat % 2 ^ 56 + 256 * k) 256 with
  | .error e => .error e
  | .ok (x, bad) =>
    let key (i : Nat) : Nat := g.areaKey (64 * k + i)
    .ok (s.updGroup g.team g.idx (fun g =>
      { g with v := (List.range 64).foldl (fun m i => m.set (key i) (BitVec.ofNat 32 (x / 2 ^ (32 * i)))) g.v, vpo := g.vpo ++ bad.map key,
               vclean := k :: g.vclean, vout := g.vout.filter (fun i => i != k) }))

/-! ### Fronts (R77-R80, R303, R304, R477) -/

/-- The distance from b to a of R78. -/
def stepDist (a b : Nat) : Int := sgn 16 (a + 65536 - b % 65536)

/-- The smallest step among members (R78); none when there is no member. -/
def FrontEnt.minOf (e : FrontEnt) (mem : W64) : Option Nat :=
  (lanesOf mem).foldl (fun m k =>
    let x := (e.steps.get k).toNat
    match m with | none => some x | some y => some (if stepDist x y < 0 then x else y)) none

/-- A front entry changed. -/
def State.updFront (s : State) (pa : Nat) (f : FrontEnt → FrontEnt) : State := { s with fronts := updWhere (fun e => e.pa == pa) f s.fronts }
/-- A front entry. -/
def State.frontAt (s : State) (pa : Nat) : Option FrontEnt := s.fronts.find? (fun e => e.pa == pa)

/-- A step of slot k would be within the slip limit (R79). -/
def FrontEnt.within (e : FrontEnt) (k : Nat) : Bool :=
  match e.minOf e.mem with
  | none => true
  | some m => decide (stepDist (((e.steps.get k).toNat + 1) % 65536) m ≤ (e.slip : Int))

/-- The members in lull that are within the slip limit are released in ascending slot order, and the others evaluated again while that has released one (R79): the entry, and who was released. -/
def FrontEnt.release (e : FrontEnt) : Nat → FrontEnt × List (Nat × Nat × CtxId)
  | 0 => (e, [])
  | n + 1 =>
    let go := (lanesOf e.mem).filterMap (fun k => if e.within k then (e.lull.find? (fun l => l.1 == k)) else none)
    if go.isEmpty then (e, [])
    else
      let r := FrontEnt.release (go.foldl (fun e l => { e with steps := e.steps.set l.1 (e.steps.get l.1 + 1), lull := e.lull.filter (fun x => x.1 != l.1) }) e) n
      (r.1, go ++ r.2)

/-- Members in lull are evaluated and released (R79); when the smallest step has risen, the interval of R80 starts afresh for the rest. -/
def State.evalFront (s : State) (pa : Nat) (oldMin : Option Nat) : State :=
  match s.frontAt pa with
  | none => s
  | some e =>
    let (e', go) := e.release e.lull.length
    let e' := if e'.minOf e'.mem ≠ oldMin then { e' with lull := e'.lull.map (fun l => (l.1, s.clock, l.2.2)) } else e'
    go.foldl (fun s l => s.wake l.2.2 1) (s.updFront pa (fun _ => e'))

/-- A member leaves: its bit is cleared, a step of it that is held has no further effect (R478), and the others are evaluated; when none is left the counters are written back and the entry is freed (R78, R304, R484). -/
def State.frontRemove (s : State) (pa k : Nat) : State :=
  match s.frontAt pa with
  | none => s
  | some e =>
    let m := e.minOf e.mem
    let mem := e.mem &&& ~~~(BitVec.ofNat 64 (2 ^ k))
    let s := (e.lull.filter (fun l => l.1 == k)).foldl (fun s l => s.wake l.2.2 1) s
    if mem = 0 then
      let v := (List.range 64).foldl (fun a i => a + (e.steps.get i).toNat * 2 ^ (16 * i)) 0
      ({ s with fronts := s.fronts.filter (fun x => x.pa != pa) }).poke (pa + 64) 128 v
    else
      (s.updFront pa (fun e => { e with mem := mem, who := e.who.filter (fun w => w.1 != k), lull := e.lull.filter (fun l => l.1 != k) })).evalFront pa m

/-- A bound group leaves its front (R304). -/
def State.leaveFront (s : State) (team grp : Nat) : State :=
  match s.group team grp with
  | none => s
  | some g =>
    match g.front with
    | none => s
    | some (pa, k) => (s.updGroup team grp (fun g => { g with front := none, frontAddr := 0 })).frontRemove pa k

/-! ### Timelines (R115, R460, R476) -/

/-- A tenant's race epoch ends (R460). -/
def State.endEpoch (s : State) (tenant : Nat) : State := s.updTenant tenant (fun t => { t with raceTbl := [], raceOvf := [] })

/-- A timeline raised to v at its slice; a poisoned counter takes v and loses its poison (R115, R476). A signal of a tenant's epoch timeline ends its race epoch (R460). -/
def State.signalTl (s : State) (pa v : Nat) : State :=
  let s :=
    if s.poisonAt pa then ({ s with memPoison := s.memPoison.filter (fun l => l != pa / 128) }).poke pa 8 v
    else if s.peek pa 8 < v then s.poke pa 8 v else s
  (List.range 16).foldl (fun s t => if (s.tenant t).raceEpoch == some pa then s.endEpoch t else s) s

/-! ### Frozen queues (R471, R472) -/

/-- A queue frozen by a trap in a task it supplied: FROZEN set, the owner report written, FREEZES raised last (R471, R472). -/
def State.freeze (s : State) (sup : Supplier) (t : Trap) (launchId team grp tenant : Nat) : State :=
  match s.reachAgent unitError sup.tenant sup.header.toNat { rd := true, w := true } with
  | .bad _ _ => s
  | .ok e =>
    let pa := e.at sup.header.toNat
    let s := s.note pa
    let h := hdrOf (s.peek pa 64)
    let s := (s.poke (pa + 2) 1 (s.peek (pa + 2) 1 ||| 1)).bb (sliceDie (sliceOf pa)) (sliceUnit (sliceOf pa)) sup.tenant 0x48 sup.header t.cause
    if h.owner = 0 then
      s.pushErr { tenant := sup.tenant, kind := 10, code := t.cause, detail := t.detail, info := sup.header, pc := t.pc, launch := launchId, team := team, grp := grp }
    else
      let v := t.pc.toNat * 2 ^ 384 + s.clock % 2 ^ 64 * 2 ^ 320 + launchId % 2 ^ 32 * 2 ^ 288 + team % 2 ^ 32 * 2 ^ 256 + sup.entry % 2 ^ 32 * 2 ^ 224
        + grp % 64 * 2 ^ 192 + t.cause % 256 * 2 ^ 184 + t.detail % 256 * 2 ^ 176 + tenant % 16
      match s.reachAgent unitError sup.tenant h.owner { rd := true, w := true } with
      | .bad _ _ => s
      | .ok o =>
        let p := o.at h.owner
        (s.poke (p + 8) 56 v).signalTl p (((if s.poisonAt p then 0 else s.peek p 8) + 1) % 2 ^ 64)

/-! ### Raising a trap (R401-R403, R409, R411) -/

/-- The CODES bit of a cause set (R405). -/
def Group.mark (g : Group) (cause : Nat) : Group := { g with codes := g.codes ||| BitVec.ofNat 60 (2 ^ (cause - 1)) }

/-- A pending record takes its place: in the order raised, and arm 0 before arm 1 in one cycle (R403, R409). -/
def insertTrap (t : Trap) : List Trap → List Trap
  | [] => [t]
  | x :: l => if x.cycle = t.cycle ∧ t.arm < x.arm then t :: x :: l else x :: insertTrap t l

/-- A trap held pending in a group: up to 8 records, then OVF (R409). -/
def Group.pendTrap (g : Group) (t : Trap) : Group :=
  let g := g.mark t.cause
  if g.pend.length < 8 then { g with pend := insertTrap t g.pend } else { g with ovf := true }

/-- A trap raised while a squall is under way: it is held pending, or takes the origin's place when it comes first of those of its cycle (R403). -/
def State.joinSquall (s : State) (q : Squall) (team grp : Nat) (t : Trap) : State :=
  if !q.entered && !q.fatal && q.cycle == t.cycle && (decide (grp < q.origin) || (grp == q.origin && decide (t.arm < q.trap.arm))) then
    (s.updGroup team q.origin (fun g => g.pendTrap q.trap)).updTeam team (fun x => { x with squall := some { q with origin := grp, trap := t } })
  else s.updGroup team grp (fun g => g.pendTrap t)

/-- What every trap raised in a group of a team leaves: a black-box event, and in a task group the queue that supplied it frozen, but for BREAKPOINT, SWTRAP and HOSTHALT (R471, R481). -/
def State.noteTrap (s : State) (tm : Team) (g : Group) (t : Trap) : State :=
  let l := s.launch tm.launch
  let s := s.bb (coreDie g.core) (coreUnit g.core) l.tenant t.cause t.pc (t.lane + 64 * t.arm)
  match tm.supplier with
  | some sup => if t.cause = 0x38 ∨ t.cause = 0x39 ∨ t.cause = 0x3A then s else s.freeze sup t l.id tm.index g.idx l.tenant
  | none => s

/-- A trap raised in a group (R401): the first of a team starts its squall, and a pre-emption that has not stopped the team starts again later (R416); every other is held pending. -/
def State.raise (s : State) (team grp : Nat) (t : Trap) : State :=
  match s.team team, s.group team grp with
  | some tm, some g =>
    let t := { t with cycle := s.clock }
    let l := s.launch tm.launch
    let s := s.noteTrap tm g t
    match tm.squall with
    | some q =>
      let s := if g.pend.length < 8 then s else s.bb (coreDie g.core) (coreUnit g.core) l.tenant t.cause t.pc (t.lane + 64 * t.arm)
      s.joinSquall q team grp t
    | none => s.updTeam team (fun x => { x with squall := some { origin := grp, trap := t, cycle := s.clock }, place := if x.place = .stopping then .resident else x.place })
  | _, _ => s

/-- A context halts at its slot boundary (R401). -/
def State.haltCtx (s : State) (c : CtxId) : State := s.updArm c (fun a => { a with halted := true })

/-- TAKING AN EXCEPTION at issue: a precise condition met by a slot (R402). The slot has no effect, the context's PC stays at it and the context halts; in handler mode the trap is held and the handler goes on with the next slot (R411). -/
def Cx.trap (cx : Cx) (b : Bad) (s : State) : State :=
  let t : Trap := { cause := b.cause, lane := b.lane, detail := b.detail, pc := cx.pc, arm := armSel cx.c, info := b.info }
  let s := s.raise cx.c.team cx.c.grp t
  if cx.g.hmode then cx.advance s else (s.updArm cx.c (fun a => { a with wait := {} })).haltCtx cx.c

/-! ### Regrouping (R166, R350, R442) -/

/-- The context of a group that may wait at REGROUP: its handler's in handler mode. -/
def Group.mainArm (g : Group) : Nat := if g.hmode then 2 else 0

/-- Ascending insertion by key, behind equal keys. -/
def insertKey (x : Nat × Nat) : List (Nat × Nat) → List (Nat × Nat)
  | [] => [x]
  | y :: t => if y.1 ≤ x.1 then y :: insertKey x t else x :: y :: t

/-- The participants of a group, as (key, origin), origins ascending. -/
def Group.regroupLanes (g : Group) : List (Nat × Nat) :=
  match (g.arm g.mainArm).wait.kind with
  | .regroup _ _ _ keys => ((List.range g.width).filter (fun L => !g.xmask.getLsbD L)).map (fun L => ((keys.getD L 0).toNat, g.idx * g.width + L))
  | _ => []

/-- A slot takes the listed registers of an origin, with the poison they carry. -/
def Group.regroupLane (g o : Group) (vr c L K : Nat) : Group :=
  (List.range c).foldl (fun g r =>
    let g := g.vput (vr + r) L (o.vget (vr + r) K)
    if o.vpo.contains ((vr + r) * 64 + K) then g.vpoison (vr + r) L else g) g

/-- The lanes of a team moved (R166), each from the group `old` that its origin stood in. -/
def State.regroupMove (s : State) (team vr c : Nat) (old : List Group) (moves : List (Nat × Nat)) : State :=
  moves.foldl (fun s m =>
    match old.find? (fun g => decide (m.1 / g.width = g.idx)), old.find? (fun g => decide (m.2 / g.width = g.idx)) with
    | some o, some d =>
      s.updGroup team d.idx (fun g =>
        let g := g.regroupLane o vr c (m.2 % d.width) (m.1 % o.width)
        match (d.arm d.mainArm).wait.kind with
        | .regroup _ _ (some v) _ => g.vput v (m.2 % d.width) (BitVec.ofNat 32 m.1)
        | _ => g)
    | _, _ => s) s

/-- The slot after one, in its bundle or the next: a slot that is not valid is passed over when the context comes to it. -/
def slotAfter (pc slot : Nat) : Nat × Nat := if slot < 3 then (pc, slot + 1) else ((pc + 64) % 2 ^ 56, 0)

/-- Every group of a team meets BADOPERAND at its REGROUP slot, in the order of R403 (R442); a handler goes on with the next slot (R411). -/
def State.regroupTrap (s : State) (team : Nat) (gs : List Group) : State :=
  gs.foldl (fun s g =>
    let a := g.arm g.mainArm
    let c : CtxId := { team := team, grp := g.idx, arm := g.mainArm }
    let s := (s.raise team g.idx { cause := 0x03, pc := pcWord a.pc a.slot }).updArm c (fun a => { a with wait := {} })
    if g.hmode then s.jump c (slotAfter a.pc a.slot).1 (slotAfter a.pc a.slot).2 else s.haltCtx c) s

/-- Groups in ascending number. -/
def insertGroup (x : Group) : List Group → List Group
  | [] => [x]
  | y :: t => if x.idx ≤ y.idx then x :: y :: t else y :: insertGroup x t

/-- The regrouping of a team, once every unretired group of it waits at REGROUP (R166, R350). -/
def State.regroupTeam (s : State) (team : Nat) : State :=
  let gs := (s.liveGroups team).foldr insertGroup []
  let at_ (g : Group) : Option (Nat × Nat) :=
    match (g.arm g.mainArm).wait.kind, (g.arm g.mainArm).wait.status with | .regroup vr c _ _, none => some (vr, c) | _, _ => none
  match gs.map at_ with
  | [] => s
  | x :: t =>
    if x.isNone || t.any (fun y => y.isNone) then s
    else if t.any (fun y => y != x) then s.regroupTrap team gs
    else
      let l := gs.flatMap Group.regroupLanes
      let order := l.foldl (fun acc x => insertKey x acc) []
      let vr := match x with | some p => p.1 | none => 0
      let c := match x with | some p => p.2 | none => 0
      let s := s.regroupMove team vr c gs (List.zipWith (fun (m p : Nat × Nat) => (m.2, p.2)) order l)
      gs.foldl (fun s g => s.wake { team := team, grp := g.idx, arm := g.mainArm } 1) s

/-! ### Futures and engine operations (R104-R108, R301, R463) -/

/-- An operation changed. -/
def State.updOp (s : State) (id : Nat) (f : EngOp → EngOp) : State := { s with ops := updWhere (fun o => o.id == id) f s.ops }
/-- An operation. -/
def State.op (s : State) (id : Nat) : Option EngOp := s.ops.find? (fun o => o.id == id)

/-- The STATE of a ticket (R108): pending unless recorded otherwise. -/
def Tenant.stateOf (t : Tenant) (ticket : Nat) : Nat := match t.tix.find? (fun p => p.1 == ticket) with | some p => p.2 | none => 0
/-- The STATE of a ticket recorded. -/
def Tenant.setTicket (t : Tenant) (ticket st : Nat) : Tenant := { t with tix := (ticket, st) :: t.tix.filter (fun p => p.1 != ticket) }

/-- The futures whose handles a group's registers hold and that are pending (R108). -/
def State.awaited (s : State) (g : Group) : List Nat := (g.futs.map (fun f => f.2)).filter (fun k => (s.tenant (s.tenantOf g.team)).stateOf k == 0)

/-- An arm halts where it may wait for a future (R401, R413). -/
def Arm.halt (a : Arm) (awaits : List Nat) : Arm := if a.halted then a else { a with halted := true, awaits := awaits }

/-- A context halts at a slot that it has come to, and for which it may wait (R401, R413). -/
def State.haltAt (s : State) (c : CtxId) : State :=
  match s.group c.team c.grp with
  | some g => s.updArm c (fun a => a.halt (s.awaited g))
  | none => s

/-- The ticket of a handle is among the last 2^23 that the tenant assigned, and its reserved bits are zero (R301, R433). -/
def Tenant.handleOk (t : Tenant) (h : W32) : Bool :=
  fld h.toNat 29 24 == 0 && decide ((t.ticket + 2 ^ 24 - h.toNat % 2 ^ 24) % 2 ^ 24 < 2 ^ 23) && t.tix.any (fun p => p.1 == h.toNat % 2 ^ 24)

/-- A future is settled: waiters on it leave, and continuations attached to it become eligible, after those that already are (R108, R310, R311). -/
def State.settle (s : State) (tenant ticket st : Nat) : State :=
  let s := s.updTenant tenant (fun t => t.setTicket ticket st)
  let v : W32 := BitVec.ofNat 32 (st * 2 ^ 30 + ticket)
  let done (a : Arm) : Arm := if a.wait.kind == .future ticket && a.wait.status == none then { a with wait := { a.wait with status := some v } } else a
  let mine (g : Group) : Bool := s.tenantOf g.team == tenant
  { s with groups := updWhere mine (fun g => g.mapArms done) s.groups,
           conts := s.conts.filter (fun c => !(c.tenant == tenant && c.ticket == ticket && !c.eligible))
             ++ (s.conts.filter (fun c => c.tenant == tenant && c.ticket == ticket && !c.eligible)).map (fun c => { c with eligible := true, order := s.nextId }),
           nextId := s.nextId + 1 }

/-- The engine counter of a class, changed. -/
def State.bumpCnt (s : State) (team grp cls : Nat) (f : Nat → Nat) : State :=
  s.updGroup team grp (fun g => { g with ecnt := updAt g.ecnt cls f })

/-- An operation stops at a fault (R463): it counts down what is left on its object with FAULT and raises one imprecise trap; it still completes in issue order, with STATE 3. An ENGINE trap of an operation that has skipped an armed granule gives that as its reason (R464; DEDUCED, log 127). -/
def State.opFault (s : State) (id cause detail : Nat) (info : W64) (detail8 : Nat) : State :=
  match s.op id with
  | none => s
  | some o =>
    let s := if cause = 0x30 ∧ o.bar17 = true then s.imprecise o.tag cause 0 0x17 info 0 else s.imprecise o.tag cause 0 detail info detail8
    let s := match o.bobj with | some b => s.countDown o.tag.team b (o.total - o.counted) true | none => s
    s.updOp id (fun o => { o with counted := o.total, ready := true, faulted := true })

/-! ### The matrix token (R318, R319, R322, R323) -/

/-- The token of a team on a core. -/
def Team.tokOn (t : Team) (core : Nat) : Option Nat := if t.core == core then t.tok else t.tok2
/-- The token of a team on a core given away. -/
def Team.setTok (t : Team) (core : Nat) (x : Option Nat) : Team := if t.core == core then { t with tok := x } else { t with tok2 := x }
/-- The cores of a team. -/
def Team.cores (t : Team) : List Nat := t.core :: t.core2.toList

/-- The engines of a team's cores are unbound, or bound to it (R318). -/
def State.engineFree (s : State) (team : Nat) (t : Team) : Bool :=
  t.cores.all (fun c => match (s.core c).bound with | none => true | some b => b == team)

/-- A team's engines bound to it; new tiles are zero (R318). -/
def State.bindEngine (s : State) (team : Nat) (t : Team) : State :=
  t.cores.foldl (fun s c => if (s.core c).bound = some team then s else s.updCore c (fun x => { x with bound := some team, tiles := [], tilePoison := [] })) s

/-- The contexts on a core that wait in MTOK.ACQ, with the order of their requests. -/
def State.tokWaiters (s : State) (core : Nat) : List (Nat × CtxId) :=
  (s.groups.filter (fun g => g.core == core && !g.retired)).flatMap (fun g =>
    [0, 1, 2, 3].filterMap (fun a => match (g.arm a).live, (g.arm a).wait.kind, (g.arm a).wait.status with
      | true, .mtok q, none => some (q, { team := g.team, grp := g.idx, arm := a })
      | _, _, _ => none))

/-- The request made first. -/
def firstWaiter : List (Nat × CtxId) → Option (Nat × CtxId)
  | [] => none
  | x :: t => match firstWaiter t with | none => some x | some y => some (if y.1 < x.1 then y else x)

/-- The places of the MTOK.ACQ requests that a resumed team's groups on a core are still to make again (R369). -/
def State.tokAgain (s : State) (team core : Nat) : List Nat :=
  ((s.liveGroups team).filter (fun g => g.core == core)).flatMap (fun g => [0, 1].filterMap (fun a => (g.arm a).tokSeq))

/-- The waits of a group for the token end. -/
def State.tokenGiven (s : State) (team grp : Nat) : State :=
  s.updGroup team grp (fun g => g.mapArms (fun a => match a.wait.kind with | .mtok _ => { a with wait := { a.wait with status := some 1 } } | _ => a))

/-- A core's token that is free goes to the first waiter that can take it, and no request of its team that comes before is to be made again (R322, R369); a resumed holder that waited for the engine goes on (R318). -/
def State.grantTok (s : State) (core : Nat) : State :=
  let can (w : Nat × CtxId) : Bool := match s.team w.2.team with
    | some t => t.place == .resident && s.engineFree w.2.team t
        && (t.tokOn core == some w.2.grp || (t.tokOn core == none && !(s.tokAgain w.2.team core).any (fun k => decide (k < w.1))))
    | none => false
  match firstWaiter ((s.tokWaiters core).filter can) with
  | none => s
  | some (_, c) =>
    match s.team c.team with
    | none => s
    | some t => ((s.bindEngine c.team t).updTeam c.team (fun t => t.setTok core (some c.grp))).tokenGiven c.team c.grp

/-! ### Commands of the host (R380, R418) -/

/-- A team has finished a command: 1 pre-empts, 2 resumes; a team that has retired has finished any (R367, R380). -/
def Place.finished (p : Place) (op : Nat) : Bool :=
  match p with
  | .retired | .gone => true
  | .placed | .unplaced => op == 1
  | .resident => op == 2
  | .stopping => false

/-- A HOSTHALT is still to be delivered to a team (R418). -/
def State.haltOwed (s : State) (team : Nat) (t : Team) : Bool :=
  t.haltCmd && !t.place.finished 0 && (s.faults.any (fun f => f.team == team && f.trap.cause == 0x3A) || (match t.squall with | some q => !q.entered && q.trap.cause == 0x3A | none => false)
    || (s.liveGroups team).any (fun g => g.pend.any (fun p => p.cause == 0x3A)))

/-- A tenant's command that every named team has finished: BUSY falls and vector 2 is raised (R380). -/
def State.cmdPass (s : State) (tenant : Nat) : State :=
  let x := s.tenant tenant
  let done (k : Nat) : Bool := match s.team k with | some t => t.place.finished (x.cmd.toNat % 16) | none => true
  if x.cmd.getLsbD 5 && x.cmdTeams.all done then (s.updTenant tenant (fun t => { t with cmd := t.cmd &&& ~~~32, cmdTeams := [] })).msi tenant 2 else s

/-- Commands that are over: each tenant's CMD, and HALT once no named team still awaits its trap (R380, R418). -/
def State.commands (s : State) : State :=
  let s := (List.range 16).foldl (fun s t => s.cmdPass t) s
  if !s.halt.busy || (List.range s.teams.length).any (fun k => match s.team k with | some t => s.haltOwed k t | none => false) then s
  else ({ s with halt := { s.halt with busy := false }, teams := s.teams.map (fun (t : Team) => { t with haltCmd := false }) }).msi s.halt.tenant 2

/-! ### Retirement (R229, R323, R367, R420) -/

/-- A group retires (R229): its arms end, its registers and slot return, its outstanding asynchronous writes are discarded, it leaves its front, its token is freed, and the team barriers and a REGROUP that waits are checked. -/
def State.retireGroup (s : State) (team grp : Nat) : State :=
  let s := s.leaveFront team grp
  let s := { s with asyncs := s.asyncs.filter (fun x => !(x.tag.team == team && x.tag.grp == grp)),
                    faults := s.faults, hcalls := s.hcalls.filter (fun h => !(h.c.team == team && h.c.grp == grp)),
                    tlw := s.tlw.filter (fun w => !(w.c.team == team && w.c.grp == grp)) }
  let s := s.updGroup team grp (fun g => { g with retired := true, arm0 := { g.arm0 with live := false, wait := {} }, arm1 := { g.arm1 with live := false, wait := {} }, armH0 := {}, armH1 := {}, v := [], vpo := [], s := [], sb1 := [], spo := [], p := [], q := 0, q1 := 0, futs := [], pend := [], hmode := false })
  let s := s.updTeam team (fun t => { t with tok := if t.tok = some grp then none else t.tok, tok2 := if t.tok2 = some grp then none else t.tok2 })
  let s := match s.group team grp with | some g => s.grantTok g.core | none => s
  let s := ((List.range 16).foldl (fun s b => s.checkBar team b) s).regroupTeam team
  if (s.liveGroups team).isEmpty then (s.updTeam team (fun t => { t with place := .retired, squall := none })).commands else s

/-! ### The control area (R59, R63, R64) -/

/-- Entries of sparse contents laid side by side in fields of w bits, from an index. -/
def packSparse {w : Nat} (l : Sparse w) (from_ n : Nat) : Nat :=
  l.foldl (fun a p => if from_ ≤ p.1 && p.1 < from_ + n then a + p.2.toNat * 2 ^ (w * (p.1 - from_)) else a) 0

/-- Fields of w bits read back as sparse contents from an index. -/
def unpackSparse (w : Nat) (x from_ : Nat) : Nat → Sparse w → Sparse w
  | 0, m => m
  | n + 1, m => unpackSparse w x from_ n (m.set (from_ + n) (BitVec.ofNat w (x / 2 ^ (w * n))))

/-- The uniform registers and predicates of a group as its control area lays them out (R63). -/
def Group.ctrlRegs (g : Group) : Nat :=
  packSparse g.s 0 128 + packSparse g.sb1 96 32 * 2 ^ 4096 + packSparse g.p 0 7 * 2 ^ 5120 + (g.q.toNat + g.q1.toNat * 2 ^ 7) * 2 ^ 5568

/-- The 8192 bits of a group's control area (R63). -/
def Group.ctrl (g : Group) : Nat :=
  let st := b2n g.split + 2 * b2n g.melded + g.arm0.depth % 256 * 4 + g.arm1.depth % 256 * 2 ^ 10 + b2n g.oor * 2 ^ 30
    + (g.count / 8 - 1) % 64 * 2 ^ 31 + b2n g.arm0.parked * 2 ^ 37 + b2n g.arm1.parked * 2 ^ 38
  let fr := match g.front with | some (_, k) => g.frontAddr.toNat % 2 ^ 56 / 256 * 256 + 64 + k % 64 | none => 0
  let ec := (List.range 6).foldl (fun a k => a + (g.ecnt.getD k 0) % 64 * 2 ^ (6 * k)) 0
  g.ctrlRegs
    + (pcWord g.arm0.pc g.arm0.slot).toNat * 2 ^ 5632 + (pcWord g.arm1.pc g.arm1.slot).toNat * 2 ^ 5696
    + (g.arm0.mask &&& fullMask g.width).toNat * 2 ^ 5760 + (g.arm1.mask &&& fullMask g.width).toNat * 2 ^ 5824
    + (g.xmask &&& fullMask g.width).toNat * 2 ^ 5888 + st * 2 ^ 5952 + (g.armBits &&& fullMask g.width).toNat * 2 ^ 6016
    + fr * 2 ^ 6080 + packSparse g.ren0 0 64 * 2 ^ 6144 + packSparse g.ren1 0 64 * 2 ^ 6656 + ec * 2 ^ 7168

/-- An arm as a control area gives it: where the PC is still the waiting slot's, a wait goes on and one that was satisfied meanwhile is behind it; a PC the handler has changed abandons the wait (R413). A slot that was still making its release has not issued, and starts again (R401). -/
def Arm.restore (a : Arm) (live : Bool) (pc : Nat) (mask : W64) (depth : Nat) (parked : Bool) : Arm :=
  let b := pc % 2 ^ 56 / 64 * 64
  let same := a.pc == b && a.slot == pc % 4
  let at_ : Nat × Nat := if same then a.after.getD (b, pc % 4) else (b, pc % 4)
  { a with tokSeq := if same then a.tokSeq else none, live := live, pc := at_.1, slot := at_.2, after := none, mask := mask, depth := depth, parked := parked, parkPc := if parked then b else a.parkPc,
           wait := if same && a.wait.kind != .release && a.wait.kind != .acks then a.wait else {}, left := if same then a.left else none, halted := false, awaits := [] }

/-- A handle stands in the uniform register of its key. -/
def Group.holdsHandle (g : Group) (f : Nat × Nat) : Bool :=
  (if 128 ≤ f.1 then g.sget 1 (f.1 - 128) else g.sget 0 f.1).toNat % 2 ^ 24 == f.2

/-- A group as its control area gives it; the engine counters and C are not read (R63, R412). A register that still holds the handle it held when the area was written is awaited as before (R108; DEDUCED, log 128). -/
def Group.unctrl (g : Group) (x : Nat) : Group :=
  let h : Group := { g with s := unpackSparse 32 x 0 128 [], sb1 := unpackSparse 32 (x / 2 ^ 4096) 96 32 [] }
  let split := x.testBit 5952
  let w64 (i : Nat) : W64 := BitVec.ofNat 64 (x / 2 ^ i)
  let full := fullMask g.width
  { g with s := unpackSparse 32 x 0 128 [], sb1 := unpackSparse 32 (x / 2 ^ 4096) 96 32 [], p := unpackSparse 64 (x / 2 ^ 5120) 0 7 [],
           q := BitVec.ofNat 7 (x / 2 ^ 5568), q1 := BitVec.ofNat 3 (x / 2 ^ 5575), xmask := w64 5888 &&& full, split := split, melded := x.testBit 5953,
           armBits := w64 6016 &&& full, oor := x.testBit 5982,
           ren0 := unpackSparse 8 (x / 2 ^ 6144) 0 64 [], ren1 := unpackSparse 8 (x / 2 ^ 6656) 0 64 [],
           arm0 := g.arm0.restore true (fld x 5695 5632) (w64 5760 &&& full) (fld x 5961 5954) (x.testBit 5989),
           arm1 := g.arm1.restore split (fld x 5759 5696) (w64 5824 &&& full) (fld x 5969 5962) (x.testBit 5990),
           armH0 := {}, armH1 := {}, hmode := false, exited := false, causeArm := false, delivered := 0, spo := [], futs := g.ctrlFuts.filter h.holdsHandle }

/-- The virtual address of a group's control area (R59). -/
def Group.ctrlVa (g : Group) : Nat := g.ctxBase.toNat % 2 ^ 56 + 1024 * g.width

/-- The lines of a group's control area, as its core translates it. -/
def State.ctrlLines (s : State) (g : Group) : List Nat :=
  (pieces g.ctrlVa 1024).filterMap (fun p => match s.reach g.core (s.tenantOf g.team) p.1 (needW false) with | .ok e => some (e.at p.1 / 128) | .bad _ _ => none)

/-- A write to a group's control area is on its way (R64). -/
def State.ctrlBusy (s : State) (g : Group) : Bool :=
  let l := s.ctrlLines g
  s.reqs.any (fun r => l.contains r.line && (match r.kind with | .write _ _ _ => true | _ => false)) || s.acks.any (fun a => l.contains a.line)

/-- A control area written in full (R64): at the slices, no cached copy of it left on the group's core. -/
def State.writeCtrl (s : State) (g : Group) : Except (Nat × Nat × Nat) State :=
  let tenant := s.tenantOf g.team
  let tr (va : Nat) : Tr := s.reach g.core tenant va (needW false)
  match s.vwrite tr g.ctrlVa 1024 g.ctrl with
  | .error e => .error e
  | .ok s =>
    let lines := s.ctrlLines g
    let s := s.noFill g.core (fun l => lines.contains l)
    .ok (s.updCore g.core (fun c => { c with lines := c.lines.filter (fun l => !lines.contains l.addr) }))

/-- A control area read in full by a core (R64, R412), with the address of its first poisoned line, if one is (R446, R458). -/
def State.readCtrl (s : State) (core : Nat) (g : Group) : Except (Nat × Nat × Nat) (Nat × Option Nat) :=
  let tenant := s.tenantOf g.team
  (pieces g.ctrlVa 1024).foldr (fun p acc =>
    match acc, s.reach core tenant p.1 (needR false) with
    | .error e, .ok _ => .error e
    | _, .bad c d => .error (c, d, p.1)
    | .ok (v, b), .ok e => .ok (s.coreRead core (e.at p.1) p.2 + 2 ^ (8 * p.2) * v, if s.corePoison core (e.at p.1) p.2 then some p.1 else b)) (.ok (0, none))

/-- Bytes of a group's control area, at an offset of it, written at their slice while the group does not run (R64). -/
def State.ctrlPut (s : State) (g : Group) (off n v : Nat) : State :=
  match s.reach g.core (s.tenantOf g.team) (g.ctrlVa + off) (needW false) with
  | .bad _ _ => s
  | .ok e =>
    let pa := e.at (g.ctrlVa + off)
    let m := byteMask (pa % 128) n
    (s.poke pa n v).updCore g.core (fun c => c.updLine (pa / 128) (fun l => { l with data := mergeBytes m l.data (placeBytes (pa % 128) v), dirty := l.dirty &&& ~~~m }))

/-- The FRONT field of a group's control area as its core reads it (R63, R483). -/
def State.ctrlFront (s : State) (g : Group) : Nat :=
  match s.reach g.core (s.tenantOf g.team) (g.ctrlVa + 760) (needR false) with
  | .bad _ _ => 0
  | .ok e => s.coreRead g.core (e.at (g.ctrlVa + 760)) 8

/-- Slot k of the front record at an address of a group's tenant, when it can be reached. -/
def State.recordAt (s : State) (core : Nat) (g : Group) (va k : Nat) : Option (Nat × Nat) :=
  match s.reach core (s.tenantOf g.team) va (needRW false) with | .ok e => some (e.at va, k) | .bad _ _ => none

/-- The binding that a FRONT field gives: bits 55:8 the record, 5:0 the slot, bit 6 bound (R63). -/
def State.frontField (s : State) (core : Nat) (g : Group) (x : Nat) : Option (Nat × Nat) :=
  let va := x % 2 ^ 56 / 256 * 256
  if !x.testBit 6 then none
  else
    match g.front with
    | some (pa, _) => if g.frontAddr.toNat = va then some (pa, x % 64) else s.recordAt core g va (x % 64)
    | none => s.recordAt core g va (x % 64)

/-- The front a group is bound to: in handler mode the one that FRONT of its control area names (R483). -/
def State.frontOf (s : State) (g : Group) : Option (Nat × Nat) := if g.hmode then s.frontField g.core g (s.ctrlFront g) else g.front

/-- A group bound as its control area's FRONT field says (R63). -/
def State.bindFront (s : State) (core : Nat) (g : Group) (x : Nat) : State :=
  let va := x % 2 ^ 56 / 256 * 256
  let b := s.frontField core g x
  s.updGroup g.team g.idx (fun g => { g with front := b, frontAddr := if b.isSome then BitVec.ofNat 64 va else 0 })
/-- Every unretired group of a team writes its control area (R408, R367). -/
def State.writeAllCtrl (s : State) (team : Nat) : Except (Nat × Nat × Nat) State :=
  (s.liveGroups team).foldl (fun acc g => match acc with
    | .error e => .error e
    | .ok s => match s.writeCtrl g with | .error e => .error e | .ok s => .ok (s.updGroup team g.idx (fun g => { g with ctrlFuts := g.futs }))) (.ok s)

/-- A live arm with an unexited lane. -/
def Group.runs (g : Group) (k : Nat) : Bool := (g.arm k).live && (g.arm k).mask &&& ~~~g.xmask != 0

/-- The context, of the two from `base` on, that holds the slot a group issues next: one that is not parked and has an unexited lane (R418). -/
def Group.nextArm (g : Group) (base : Nat) : Nat := if !(g.runs base && !(g.arm base).parked) && g.runs (base + 1) && !(g.arm (base + 1)).parked then base + 1 else base

/-- A context's wait abandoned: what stands for it elsewhere goes, a late answer finds nothing, and what it has done stands (R233, R413). -/
def State.abandon (s : State) (c : CtxId) : State :=
  { s with tlw := s.tlw.filter (fun w => w.c != c), hcalls := s.hcalls.filter (fun h => h.c != c),
           fronts := s.fronts.map (fun (e : FrontEnt) => { e with lull := e.lull.filter (fun l => l.2.2 != c) }) }

/-- The waits that a restored group `g` has abandoned, of those it had as `old` (R413). -/
def State.abandoned (s : State) (old g : Group) : State :=
  [0, 1].foldl (fun s k =>
    let s := if (old.arm k).wait.kind != .idle && (g.arm k).wait.kind == .idle then s.abandon { team := g.team, grp := g.idx, arm := k } else s
    if (old.arm k).tokSeq.isSome && (g.arm k).tokSeq.isNone then s.grantTok g.core else s) s

/-- A group goes on as a control area `x` of it, that a core has read, says (R63, R370, R412): a poisoned one raises POISON at the PC it gives, where the group halts (R402, R446, R458). -/
def State.resumeCtrl (s : State) (core : Nat) (g : Group) (x : Nat × Option Nat) : State :=
  let g' := g.unctrl x.1
  let s := ((s.updGroup g.team g.idx (fun g => g.unctrl x.1)).bindFront core g (x.1 / 2 ^ 6080 % 2 ^ 64)).abandoned g g'
  match x.2 with
  | none => s
  | some va =>
    let k := g'.nextArm 0
    let a := g'.arm k
    (s.raise g.team g.idx { cause := 0x16, pc := pcWord a.pc a.slot, arm := k, info := BitVec.ofNat 64 va }).haltCtx { team := g.team, grp := g.idx, arm := k }

/-- Every unretired group of a team reads its control area and goes on where it says; a poisoned area raises POISON at the PC it gives (R412, R458, R370). -/
def State.readAllCtrl (s : State) (team : Nat) (core : Option Nat) : Except (Nat × Nat × Nat) State :=
  (s.liveGroups team).foldl (fun acc g =>
    match acc with
    | .error e => .error e
    | .ok s =>
      match s.readCtrl (core.getD g.core) g with
      | .error e => .error e
      | .ok x => .ok (s.resumeCtrl (core.getD g.core) g x)) (.ok s)

/-! ### Termination, handler entry and return (R404-R412, R420) -/

/-- A team is terminated (R420): its groups retire, its tiles are discarded, and one error record is pushed. -/
def State.terminate (s : State) (team grp kind : Nat) (t : Trap) (detail : Nat) (info : W64) : State :=
  let armBit := 2 * t.arm
  let core := match s.team team with | some x => x.core | none => 0
  let s := s.bb (coreDie core) (coreUnit core) (s.tenantOf team) 0x46 t.pc kind
  let s := { s with groups := updWhere (fun g => g.team == team) (fun g => g.mapArms (fun a => { a with wait := {} })) s.groups }
  let s := (s.liveGroups team).foldl (fun s g => s.retireGroup team g.idx) s
  let s := { s with ops := s.ops.map (fun (o : EngOp) => if o.tag.team == team && o.susp then { o with susp := false, faulted := true, ready := true } else o) }
  s.teamErr team (t.exited.getD grp) kind t detail info (b2n t.exited.isSome + armBit)

/-- State of a running team that cannot be read back: the team ends, with an error record of kind 6, once the squall is complete (R401, R420, R422); one whose contexts have all halted ends at once. -/
def State.loseTeam (s : State) (team grp : Nat) (t : Trap) : State :=
  let go (q : Squall) : State := s.updTeam team (fun x => { x with squall := some q, place := if x.place = .stopping then .resident else x.place })
  match s.team team with
  | none => s
  | some tm =>
    match tm.squall with
    | some q => if q.entered then s.terminate team grp 6 t t.detail t.info else if q.fatal then s else go { q with origin := grp, trap := t, fatal := true }
    | none => go { origin := grp, trap := t, cycle := s.clock, fatal := true }

/-- The latches that a context holds in the vector ports are invalid: a handler context is a fresh one (R188, R410). -/
def State.dropLatches (s : State) (c : CtxId) : State :=
  let off (p : Port) : Port := if p.cur = some c then {} else p
  { s with cores := s.cores.map (fun (x : Core) => { x with portA := off x.portA, portB := off x.portB }) }

/-- CAUSE, TPC and SKID set for a trap that is delivered to a group, and its handler context started at TRAPVEC.ENTRY, slot 0 (R405-R410). -/
def State.deliver (s : State) (team grp origin : Nat) (t : Trap) : State :=
  let s := if t.imp then s.teamErr team (t.exited.getD grp) 8 t t.detail8 t.info (b2n t.exited.isSome + 2 * t.arm) else s
  let skid (g : Group) : Nat := t.detail % 256 * 2 ^ 48 + t.cause % 256 * 2 ^ 40 + g.skidSlots * 2 ^ 32 + (t.exited.getD origin) % 64 * 2 ^ 20 + t.lane % 64 * 2 ^ 10
  let s := s.dropLatches { team := team, grp := grp, arm := 2 }
  State.commands <| s.updGroup team grp (fun g =>
    let h : Arm := { live := true, pc := g.trapVec.toNat % 2 ^ 56 / 64 * 64, slot := 0, mask := fullMask g.width &&& ~~~g.xmask, depth := g.arm0.depth, since := s.clock }
    { g.mark t.cause with hmode := true, delivered := t.cause, exited := t.exited.isSome, causeArm := t.arm == 1, tpc := t.pc, skid := BitVec.ofNat 64 (skid g),
                          split := false, melded := false, hAt := s.clock, armH0 := h, armH1 := {} })

/-- A team that cannot take a trap delivered to it ends: by a host halt with an error record of kind 5, else of kind 0 (R418, R420, R422). -/
def State.undelivered (s : State) (team grp : Nat) (t : Trap) : State :=
  if t.cause = 0x3A then s.terminate team grp 5 t 0 0 else s.terminate team grp 0 t t.detail t.info

/-- A trap taken from a pending list and delivered to its group, which has a handler or ends its team (R412, R420). -/
def State.receive (s : State) (team grp origin : Nat) (t : Trap) : State :=
  match s.group team grp with
  | some g => if g.trapVec.getLsbD 0 then s.deliver team grp origin t else s.undelivered team grp t
  | none => s

/-- An arm stands inside a slot that has sent its request and must still complete; a FRONT.JOIN that waits for its tenant's share has not begun (R303, R401). -/
def State.midSlot (s : State) (a : Arm) : Bool :=
  let joins (r : Req) : Bool := match r.kind, r.async with | .op (.frontJoin _ _ _), some (x, _) => a.wait.asy.contains x | _, _ => false
  a.live && a.wait.kind == .slice && !s.reqs.any joins

/-- Every context of a team has halted: nothing asynchronous of it is still to land, and no slot of it is half done (R401, R408). -/
def State.quiet (s : State) (team : Nat) : Bool :=
  !s.asyncs.any (fun x => x.tag.team == team && x.blk.isNone) && !(s.liveGroups team).any (fun g => [0, 1].any (fun k => s.midSlot (g.arm k)))

/-- Steps 1 to 3 of R408: the control areas are written, and the origin group enters handler mode; with TRAPVEC.EN 0, when a control area cannot be written, or when state of the team was lost, the team is terminated (R420, R422). -/
def State.enterHandler (s : State) (team : Nat) : State :=
  match s.team team with
  | none => s
  | some tm =>
    match tm.squall with
    | none => s
    | some q =>
      match s.group team q.origin with
      | none => s
      | some g =>
        if q.fatal then s.terminate team q.origin 6 q.trap q.trap.detail q.trap.info
        else if !g.trapVec.getLsbD 0 then s.undelivered team q.origin q.trap
        else
          match s.writeAllCtrl team with
          | .error (c, d, va) => s.terminate team q.origin 6 { q.trap with cause := c } d (BitVec.ofNat 64 va)
          | .ok s =>
            let halt (g : Group) : Group :=
              { g with skid := BitVec.ofNat 64 (g.skidSlots * 2 ^ 32 + q.origin % 64 * 2 ^ 20 + 2 ^ 19), arm0 := g.arm0.halt (s.awaited g), arm1 := g.arm1.halt (s.awaited g) }
            let s := { s with groups := updWhere (fun g => g.team == team && !g.retired) halt s.groups }
            let s := s.updTeam team (fun t => { t with squall := some { q with entered := true } })
            s.deliver team q.origin q.origin q.trap

/-- Clean lines on the cores of a paired team go: what another core of it wrote before is read afresh (R72, R408, R412). -/
def State.syncPair (s : State) (team : Nat) : State :=
  match s.team team with
  | some t => if t.paired then t.cores.foldl (fun s c => s.invalidate c (fun _ => true)) s else s
  | none => s

/-- The team is restored at the final RFH: control areas read, traps over, suspended attention ready to recompute (R412, R468). -/
def State.restoreTeam (s : State) (team core : Nat) : State :=
  let s := (s.syncPair team).updTeam team (fun t => { t with squall := none })
  match s.readAllCtrl team (some core) with
  | .error (c, d, va) => s.terminate team 0 6 { cause := c } d (BitVec.ofNat 64 va)
  | .ok s =>
    { s with groups := updWhere (fun g => g.team == team) (fun g => { g with skidSlots := 0 }) s.groups,
             ops := updWhere (fun o => o.tag.team == team && o.susp) (fun o => { o with again := true }) s.ops }

/-- THE RETURN FROM AN EXCEPTION (R412), after the release: the delivered trap's CODES bit, then the next pending trap of this group, of another group, or the restored team. -/
def State.returnHandler (s : State) (team grp core : Nat) : State :=
  match s.team team, s.group team grp with
  | some tm, some g =>
    let code := g.delivered
    let origin := match tm.squall with | some q => q.origin | none => grp
    let s := if g.pend.any (fun t => t.cause == code) || code == 0 then s
      else s.updGroup team grp (fun g => { g with codes := g.codes &&& ~~~(BitVec.ofNat 60 (2 ^ (code - 1))) })
    match g.pend with
    | t :: rest => (s.updGroup team grp (fun g => { g with pend := rest })).receive team grp origin t
    | [] =>
      match (s.liveGroups team).find? (fun x => x.idx != grp && !x.pend.isEmpty) with
      | some x =>
        let s := s.updGroup team grp (fun g => { g with hmode := false, armH0 := {}, armH1 := {} })
        (match x.pend with
         | t :: rest => (s.updGroup team x.idx (fun g => { g with pend := rest })).receive team x.idx origin t
         | [] => s)
      | none => (s.updGroup team grp (fun g => { g with hmode := false, armH0 := {}, armH1 := {} })).restoreTeam team core
  | _, _ => s

end Sys2Proof.Machine
end

