-- ==== Sys2Proof/Machine/Issue.lean ====
section
/-! DEFINITION. Issuing one slot: what holds it, the checks of ranks 4 to 7 that every instruction shares, and the way a meaning's own checks and effect are run (R44, R45, R173, R184-R188, R363, R364, R426-R433, R447, R456). -/


namespace Sys2Proof

/-! ### What an instruction names -/

/-- Uniform predicates that a uniform instruction reads besides its guard (R239, R263). -/
def Instr.qReads : Instr → List Nat
  | .sSel w => [w.slot.toNat]
  | .qLogic w => [w.pa.toNat, w.pb.toNat]
  | _ => []

/-- Per-lane predicates that an instruction reads besides its guard (R220, R224, R249, R263, R264). -/
def Instr.pReads : Instr → List Nat
  | .brd w => [w.slot.toNat]
  | .meld w => [w.slot.toNat]
  | .vAddc w => [w.slot.toNat]
  | .vSel w => [w.slot.toNat]
  | .pLogic w => [w.pa.toNat, w.pb.toNat]
  | .pAny w => [w.pa.toNat]
  | .pAll w => [w.pa.toNat]
  | .pBallot w => [w.pa.toNat]
  | .pPopc w => [w.pa.toNat]
  | _ => []

/-- The predicate it writes is a uniform one (R240, R264, R313, R340). -/
def Instr.qUni (i : Instr) (vec : Bool) : Bool :=
  match i with
  | .pAny _ | .pAll _ | .sCmp _ | .sCmpImm _ => true
  | _ => !vec

/-- The destination is also read (R243). -/
def Instr.readsDst : Instr → Bool
  | .sBfi _ => true
  | .vBfi _ => true
  | _ => false

/-- A handle named by these is not waited for: they act on the handle itself (R108, R300, R310). -/
def Instr.takesHandle : Instr → Bool
  | .futWait _ => true
  | .futTest _ => true
  | .futCancel _ => true
  | .contPark _ => true
  | _ => false

/-- Indices of banked uniform predicates. -/
def bankedQ (i : Nat) : Bool := decide (4 ≤ i) && decide (i < 7)

/-- A run of n registers from an operand has a banked one. -/
def Opd.bankedRun (o : Opd) (n : Nat) : Bool :=
  match o with
  | .s i => decide (96 < i.toNat + n)
  | _ => false

/-- A uniform instruction names a banked register or predicate (R45). -/
def Instr.banks (i : Instr) (f : Form) (h : Head) : Bool :=
  h.dst.bankedRun f.dst.n || h.a.bankedRun f.a.n || h.b.bankedRun f.b.n || h.c.bankedRun f.c.n || (h.guard.uni && bankedQ h.guard.idx.toNat)
    || i.qReads.any bankedQ || (match f.qw with | some q => bankedQ q.toNat | none => false)

/-- A branch that a melded region restricts to one direction (R40). -/
def Instr.branches : Instr → Bool
  | .bra _ | .call _ | .ret _ | .jmpi _ | .yieldOn _ => true
  | _ => false

/-- Its link or target pair must be shared inside a melded region (R222, R223). -/
def Instr.linked : Instr → Bool
  | .call _ | .ret _ | .jmpi _ => true
  | _ => false

/-- The PAIR bit of a matrix instruction (R317, R328, R333, R334, R336). -/
def Instr.pairBit : Instr → Bool
  | .mma w | .mmaSp w | .accZero w | .accLd w | .accSt w => w.fspec.getLsbD 4
  | _ => false

end Sys2Proof

namespace Sys2Proof.Machine

/-- The arms a uniform instruction executes for, in order (R45). -/
def execArms (g : Group) (c : CtxId) (p : Path) (banks : Bool) : List Nat :=
  if g.melded then (match p with | .arm0 => [0] | .arm1 => [1] | .both => if banks then [0, 1] else [0]) else [armSel c]

/-- The context of a slot, as the instruction finds it. -/
def Cx.make (i : Instr) (h : Head) (cur : Cur) (g : Group) (s : State) : Cx :=
  let f := i.form
  let vec := isVector f h
  let port := if cur.portB then (s.core g.core).portB else (s.core g.core).portA
  { c := cur.c, g := g, W := g.width,
    act := if vec then activeLanes g cur.c.arm h.path h.guard else [],
    sels := if vec then execArms g cur.c h.path true else execArms g cur.c h.path (i.banks f h),
    wb := !h.wbs, h := h, lat := port.latch, bundle := cur.bundle, slot := cur.slot, valid := cur.valid, priv := cur.priv, portB := cur.portB,
    core := g.core, tenant := s.tenantOf cur.c.team }

/-- The context whose slot is being issued: its live arm, in a group of a team on its cores. -/
def State.context (s : State) (c : CtxId) : Option Group :=
  match s.team c.team, s.group c.team c.grp with
  | some t, some g => if t.place.here && (g.arm c.arm).live && !g.retired && !(g.arm c.arm).halted && (g.hmode == decide (2 ≤ c.arm)) then some g else none
  | _, _ => none

/-! ### What holds a slot (R108, R185, R363) -/

/-- A wait has not ended. -/
def State.waiting (s : State) (g : Group) (w : Wait) : Bool :=
  match w.kind with
  | .idle | .member _ _ => false
  | .release | .acks => s.pendingOn w
  | .yieldOn cls n => decide (n < g.ecnt.getD cls 0)
  | _ => w.status.isNone

/-- A slot in the middle of its own wait: the checks of its first issue stand. -/
def Wait.resumed (w : Wait) : Bool :=
  match w.kind with
  | .idle | .member _ _ | .yieldOn _ _ => false
  | _ => true

/-- Registers and predicates that a slot names hold a pending mark (R185). -/
def marked (i : Instr) (f : Form) (vec : Bool) (cx : Cx) (ms : List Marks) : Bool :=
  let h := cx.h
  let q (k : Nat) : Bool := ms.any (fun m => m.q.contains k)
  let p (k : Nat) : Bool := ms.any (fun m => m.p.contains k)
  cx.opMarked ms h.dst f.dst || cx.opMarked ms h.a f.a || cx.opMarked ms h.b f.b || cx.opMarked ms h.c f.c
    || (h.guard.idx != 7 && (if h.guard.uni then q h.guard.idx.toNat else p h.guard.idx.toNat))
    || i.qReads.any q || i.pReads.any p
    || (match f.qw with | some x => if i.qUni vec then q x.toNat else p x.toNat | none => false)

/-- Handles that a slot names as a source and no later instruction has read (R108): key and ticket. -/
def Cx.handles (cx : Cx) (i : Instr) : List (Nat × Nat) :=
  if i.takesHandle then []
  else
    let f := i.form
    let ws (a : Nat) := uwords cx.h.a f.a.n a ++ uwords cx.h.b f.b.n a ++ uwords cx.h.c f.c.n a ++ (if i.readsDst then uwords cx.h.dst f.dst.n a else [])
    cx.g.futs.filter (fun x => cx.sels.any (fun a => (ws a).contains x.1))

/-- A handle's register rewritten with STATE as it stands (R108). -/
def Group.readHandle (g : Group) (key : Nat) (v : W32) : Group :=
  if 128 ≤ key then g.sput 1 (key - 128) v else g.sput 0 key v

/-- The handles a slot reads are settled in their registers before it reads them. -/
def State.readHandles (s : State) (cx : Cx) (l : List (Nat × Nat)) : State :=
  l.foldl (fun s x => s.updGroup cx.c.team cx.c.grp (fun g => g.readHandle x.1 (BitVec.ofNat 32 ((s.tenant cx.tenant).stateOf x.2 * 2 ^ 30 + x.2)))) s

/-- An acquire of the group still to come holds its later accesses (R96). -/
def State.heldBy (s : State) (cx : Cx) (f : Form) : Bool :=
  s.asyncs.any (fun x => x.tag.team == cx.c.team && x.tag.grp == cx.c.grp && f.mem && x.acq.isSome)

/-- The slot cannot issue now. -/
def State.held (s : State) (i : Instr) (vec : Bool) (cx : Cx) : Bool :=
  let f := i.formW cx.W
  s.waiting cx.g (cx.g.arm cx.c.arm).wait || marked i f vec cx (s.marksOf cx.c.team cx.c.grp) || s.heldBy cx f
    || (cx.handles i).any (fun x => (s.tenant cx.tenant).stateOf x.2 == 0)

/-! ### Ranks 4 to 7 -/

/-- PERIOD of a tenant's table (R147). -/
def State.period (s : State) (t : Nat) : Nat :=
  let b := (s.tenant t).kvtBase.toNat % 2 ^ 56 / 256 * 256
  match s.reachAgent unitTier t b { rd := true } with
  | .ok e => s.peek (e.at b + 40) 4
  | .bad _ _ => 0

/-- The conditions of R86 and R393 for a write of a hash mask. -/
def State.maskQuiet (s : State) (team : Nat) : Bool :=
  let others := (List.range s.teams.length).any (fun t => t != team && (match s.team t with | some x => x.place.here || x.place == .placed || x.place == .unplaced | none => false))
  !others && s.ops.isEmpty && s.inbox.isEmpty && s.moves.isEmpty && (List.range 16).all (fun t => decide (fld (s.tenant t).kvtSize.toNat 4 0 < 8) || s.period t == 0)

/-- Rank 4 (R430). -/
def rank4 (i : Instr) (cx : Cx) (s : State) : Option Bad :=
  let bad : Bool := match i with
    | .rfh _ => !cx.g.hmode
    | .contPark _ => (match s.team cx.c.team with | some t => !(s.launch t.launch).task | none => true)
    | .sysw w => !cx.priv || (decide (0x20 ≤ w.fspec.toNat) && decide (w.fspec.toNat ≤ 0x2F) && !s.maskQuiet cx.c.team)
    | _ => i.form.priv && !cx.priv
  if bad then some { cause := 0x07 } else none

/-- The guard makes the whole instruction take no effect (R173): the always-false guard, or a uniform guard false for every arm it runs for. -/
def Cx.noEffect (cx : Cx) : Bool :=
  let g := cx.h.guard
  if g.idx == 7 then g.neg else g.uni && cx.sels.all (fun a => !guardU cx.g a g)

/-- Rank 5 (R431, R435). -/
def rank5 (i : Instr) (vec : Bool) (cx : Cx) : Option Bad :=
  let f := i.form
  let h := cx.h
  let g := cx.g
  let sharedDst : Bool := match h.dst with | .s k => (!h.wbs || i.linked) && decide (k.toNat < 96) | _ => false
  let sharedQ : Bool := match f.qw with | some q => i.qUni vec && decide (q.toNat < 4) | none => false
  let melds : Bool := [h.dst, h.a, h.b, h.c].any (fun o => match o with | .m _ => true | _ => false)
  let bad : Bool :=
    ((sharedDst || sharedQ) && (g.split || (g.melded && h.path != .both)))
    || (!g.melded && (h.path != .both || melds))
    || (g.melded && (f.meld == .outside || ((f.meld == .both || f.meld == .insideBoth) && h.path != .both)))
    || (!g.melded && (f.meld == .insideAny || f.meld == .insideBoth))
    || (f.oneArm && (g.split || g.melded)) || (f.noStack && decide ((g.arm cx.c.arm).depth ≠ 0))
    || (g.melded && i.branches && (h.guard.perLane || (h.guard.uni && bankedQ h.guard.idx.toNat)))
    || (g.melded && i.linked && (h.dst.bankedRun f.dst.n || h.a.bankedRun f.a.n))
  if bad then some { cause := 0x05 } else none

/-- A melded run in a lane: entries that name consecutive registers, the first a multiple of what the rule requires, and all the operand's registers below C (R226, R260, R261, R279). -/
def Cx.meldBad (cx : Cx) (r : OpRule) (o : Opd) (L : Nat) : Bool :=
  match o with
  | .m _ =>
    let k := cx.runReg o 0 L
    decide (0 < r.n) && (k % r.al != 0 || (List.range r.n).any (fun j => cx.runReg o j L != k + j) || decide (cx.g.count < k + r.tot))
  | _ => false

/-- A register operand outside the group's counts (R43, R51). -/
def countBad (g : Group) (r : OpRule) : Opd → Bool
  | .v i => decide (g.count < i.toNat + r.tot)
  | .s i => decide (i.toNat < 96) && decide (g.ureg < i.toNat + r.n)
  | _ => false

/-- The context reads a latch that it does not hold: its port passed to another since it captured into it (R188, R437). -/
def Cx.stale (cx : Cx) (s : State) : Bool :=
  let port := if cx.portB then (s.core cx.core).portB else (s.core cx.core).portA
  [cx.h.a, cx.h.b, cx.h.c].any (fun o => match o with | .y k => port.cur != some cx.c || !port.valid.getLsbD k.val | _ => false)

/-- Rank 6 (R432, R437). MELD.MAP names table entries and no register of theirs. -/
def rank6 (i : Instr) (vec : Bool) (cx : Cx) (s : State) : Option Bad :=
  let f := i.formW cx.W
  let h := cx.h
  let ops := [(f.dst, h.dst), (f.a, h.a), (f.b, h.b), (f.c, h.c)]
  let plain := ops.any (fun p => p.1.used && (!opKindOk p.1 p.2 || countBad cx.g p.1 p.2))
  let uni : Bool := f.uniS && vec && (match h.dst with | .s _ => true | _ => false)
  if plain || uni || i.rank6 cx.W cx.g.count then some { cause := 0x03 }
  else
    match cx.act.find? (fun L => ops.any (fun p => p.1.used && cx.meldBad p.1 p.2 L)) with
    | some L => some { cause := 0x03, lane := L }
    | none => if cx.stale s then some { cause := 0x04 } else none

/-- The group holds its core's token (R319). -/
def State.holdsToken (s : State) (c : CtxId) (core : Nat) : Bool :=
  match s.team c.team with
  | some t => if t.core == core then t.tok == some c.grp else t.tok2 == some c.grp
  | none => false

/-- Rank 7 (R440). -/
def rank7 (i : Instr) (cx : Cx) (s : State) : Option Bad :=
  let pass : Bool := match i with | .mtokPass _ => true | _ => false
  let follower : Bool := match s.team cx.c.team with | some t => !t.paired || t.core != cx.core | none => true
  if ((i.form.matrix || pass) && !s.holdsToken cx.c cx.core) || (i.pairBit && follower) then some { cause := 0x23 } else none

/-- What the shared conditions say of a slot. -/
inductive Gate where
  | noContext
  | hold
  | trap (cx : Cx) (b : Bad)
  | skip (cx : Cx)
  | go (cx : Cx)
deriving DecidableEq, Repr

/-- A wait for what a slot must have performed before it issues: its release, or lines on their way (R95, R285). -/
def Wait.unissued (w : Wait) : Bool := w.kind == .release || w.kind == .acks

/-- The shared conditions of a slot, in their order (R426, R427). A slot in the middle of its own wait is not checked again, but that one whose release has just ended reads its latches only now: the port may have passed meanwhile (R188). -/
def gate (i : Instr) (s : State) : Gate :=
  match s.cur, i.head with
  | some cur, some h =>
    match s.context cur.c with
    | none => .noContext
    | some g =>
      let vec := isVector i.form h
      let cx := Cx.make i h cur g s
      if s.held i vec cx then .hold
      else
        let s := s.readHandles cx (cx.handles i)
        let cx := { cx with g := (s.group cur.c.team cur.c.grp).getD g }
        let w := (cx.g.arm cx.c.arm).wait
        if w.resumed then (if w.unissued && cx.stale s then .trap cx { cause := 0x04 } else .go cx)
        else
          match rank4 i cx s with
          | some b => .trap cx b
          | none =>
            if cx.noEffect then .skip cx
            else
              match (rank5 i vec cx).or ((rank6 i vec cx s).or (rank7 i cx s)) with
              | some b => .trap cx b
              | none => .go cx
  | _, _ => .noContext

/-! ### Poisoned words (R456) -/

/-- The words that an operand of n registers names in a lane, as (lane, key): a vector word's key is its index, a uniform word's is 2^20 higher. -/
def Cx.opWords (cx : Cx) (o : Opd) (n arm L : Nat) : List (Nat × Nat) :=
  (cx.words o n L).map (fun k => (L, k)) ++ (uwords o n arm).map (fun k => (L, 2 ^ 20 + k))

/-- The words of an operand of a form in a lane: those its entries name, and those that follow the first (R260, R261). -/
def Cx.ruleWords (cx : Cx) (r : OpRule) (o : Opd) (arm L : Nat) : List (Nat × Nat) :=
  match o with
  | .v _ | .m _ => (List.range r.tot).map (fun i => (L, cx.ruleReg r o i L * 64 + L))
  | _ => (uwords o r.n arm).map (fun k => (L, 2 ^ 20 + k))

/-- The words that an instruction names as sources in a list of lanes, or for a list of arms when it is uniform (R456). -/
def Cx.namedWords (cx : Cx) (i : Instr) (vec : Bool) (lanes arms : List Nat) : List (Nat × Nat) :=
  let f := i.formW cx.W
  let ops := [(f.a, cx.h.a), (f.b, cx.h.b), (f.c, cx.h.c)] ++ (if i.readsDst then [(f.dst, cx.h.dst)] else [])
  if vec then lanes.flatMap (fun L => ops.flatMap (fun p => cx.ruleWords p.1 p.2 (laneArm cx.g cx.c.arm L) L))
  else arms.flatMap (fun a => ops.flatMap (fun p => cx.ruleWords p.1 p.2 a 0))

/-- The source words that an instruction uses by its form: in each lane of Active(), or once in a uniform instruction. -/
def Cx.srcWords (cx : Cx) (i : Instr) (vec : Bool) (sel : Nat) : List (Nat × Nat) :=
  cx.namedWords i vec cx.act [sel]

/-- A word is poisoned. -/
def Group.badWord (g : Group) (k : Nat) : Bool := if k < 2 ^ 20 then g.vpo.contains k else g.spo.contains (k - 2 ^ 20)

/-- POISON of rank 11 over the words an instruction uses. -/
def Cx.poison (cx : Cx) (ws : List (Nat × Nat)) : Option Bad :=
  (ws.find? (fun w => cx.g.badWord w.2)).map (fun w => { cause := 0x16, lane := w.1, detail := 1 })

/-- The register number in the key of a word. -/
def keyReg (k : Nat) : Nat := if k < 2 ^ 20 then k / 64 else (k - 2 ^ 20) % 128

/-- The slot goes on after a wait of its own, its release apart: it has issued before. -/
def Cx.again (cx : Cx) : Bool := let w := (cx.g.arm cx.c.arm).wait; w.resumed && !w.unissued

/-- Poisoned source words that a slot names, in every lane or for every arm it executes for, and does not use: a deferred event for each (R456, R481). `used` are the words it uses, none when its guard keeps it from taking effect. -/
def Cx.deferred (cx : Cx) (i : Instr) (vec : Bool) (used : List (Nat × Nat)) (s : State) : State :=
  let u := used.map (fun w => w.2)
  let ks := if cx.again then [] else ((cx.namedWords i vec (List.range cx.W) cx.sels).map (fun w => w.2)).eraseDups.filter (fun k => cx.g.badWord k && !u.contains k)
  ks.foldl (fun s k => s.bb (coreDie cx.core) (coreUnit cx.core) cx.tenant 0x40 cx.pc (keyReg k)) s

/-! ### Running a meaning -/

/-- The part of a meaning that is its own: what keeps it from issuing, its checks of ranks 8 to 10, the words it uses when they are not those of its operands, its checks of rank 11 after POISON, the scope of a release that it makes first, the lines whose dirty bytes must reach their slices first, and its effect for an arm. `own` says that the effect moves the PC itself, and `once` that it is not made for each arm: its executions raise one condition or exit one set of lanes (R228, R426). -/
structure Body where
  hold : Cx → State → Bool := fun _ _ => false
  check : Cx → Nat → State → Option Bad := fun _ _ _ => none
  used : Option (Cx → Nat → List (Nat × Nat)) := none
  check2 : Cx → Nat → State → Option Bad := fun _ _ _ => none
  rel : Cx → Option Nat := fun _ => none
  flush : Cx → State → List Nat := fun _ _ => []
  run : Cx → Nat → State → State
  own : Bool := false
  once : Bool := false

/-- A vector port passes to a context: its latches become invalid when it comes from another (R188, R364). -/
def Port.take (p : Port) (c : CtxId) : Port := if p.cur = some c then p else { cur := some c }

/-- A port of a core changed. -/
def State.updPort (s : State) (core : Nat) (portB : Bool) (f : Port → Port) : State :=
  s.updCore core (fun x => if portB then { x with portB := f x.portB } else { x with portA := f x.portA })

/-- The context gives up the vector ports it holds (R187, R230). -/
def State.yieldPorts (s : State) (c : CtxId) (core : Nat) : State :=
  let y (p : Port) : Port := if p.cur = some c then { p with yielded := true } else p
  s.updCore core (fun x => { x with portA := y x.portA, portB := y x.portB })

/-- What issuing leaves besides the effect: the port, its yield, the time of issue, and SLOTS in the cycles after a squall's origin cycle (R187, R364, R407). A slot that completes after its own wait takes its port again, so that the latches of a context that became current meanwhile are invalid (DESIGN CHOICE, log 134). -/
def Cx.issued (cx : Cx) (vec : Bool) (s : State) : State :=
  let s := if vec then s.updPort cx.core cx.portB (fun p => { p.take cx.c with yielded := false }) else s
  let s := if cx.h.yield then s.yieldPorts cx.c cx.core else s
  let skid : Bool := match s.team cx.c.team with | some t => (match t.squall with | some q => !q.entered && decide (q.cycle < s.clock) | none => false) | none => false
  s.updGroup cx.c.team cx.c.grp (fun g =>
    { (g.updArm cx.c.arm (fun a => { a with since := s.clock, due := false })) with skidSlots := if skid && !cx.again then Nat.min (g.skidSlots + 1) 255 else g.skidSlots })

/-- The latch that CAP names takes the destination's value in every lane, as the state `d` holds it (R188). Of the two registers that BLK.DEC writes at width 16 it takes the first (DESIGN CHOICE, log 112). -/
def Cx.capture (cx : Cx) (d s : State) : State :=
  match cx.h.cap, d.group cx.c.team cx.c.grp with
  | some k, some g =>
    s.updPort cx.core cx.portB (fun p =>
      { p with valid := p.valid ||| BitVec.ofNat 6 (2 ^ k.val),
               latch := (List.range cx.W).foldl (fun l L => match cx.vreg cx.h.dst L with | some r => l.set (k.val * 64 + L) (g.vget r L) | none => l) p.latch })
  | _, _ => s

/-- The group refreshed between the two executions of R45. -/
def Cx.refresh (cx : Cx) (s : State) : Cx := { cx with g := (s.group cx.c.team cx.c.grp).getD cx.g }

/-- The arms whose effect runs: those it executes for whose guard held when it issued. -/
def Cx.arms (cx : Cx) (vec : Bool) : List Nat :=
  let w := (cx.g.arm cx.c.arm).wait
  if vec then [armSel cx.c] else if cx.again then (if w.arms.isEmpty then cx.sels else w.arms) else cx.sels.filter (fun a => guardU cx.g a cx.h.guard)

/-- The arms for which a meaning acts. -/
def Body.arms (b : Body) (cx : Cx) (vec : Bool) : List Nat := if b.once then (cx.arms vec).take 1 else cx.arms vec

/-- The place of a condition in the order of ranks 8 to 11 and, within a rank, of its causes (R426, R447). -/
def Bad.order (b : Bad) : Nat :=
  match b.cause with
  | 0x02 => 0 | 0x05 => 1 | 0x31 => 2 | 0x20 => 3 | 0x03 => if b.rank = 10 then 9 else 4 | 0x06 => 5
  | 0x08 => 6 | 0x09 => 7
  | 0x10 => 8 | 0x12 => 10 | 0x13 => 11
  | _ => 12

/-- The condition that comes first in the order of ranks and causes, the earliest of equals. -/
def firstBad : List Bad → Option Bad
  | [] => none
  | b :: t => match firstBad t with | some x => if x.order < b.order then some x else some b | none => some b

/-- The words that a slot uses, over every execution. -/
def Body.words (b : Body) (i : Instr) (vec : Bool) (cx : Cx) : List (Nat × Nat) :=
  (b.arms cx vec).flatMap (fun sel => match b.used with | some f => f cx sel | none => cx.srcWords i vec sel)

/-- The first condition that a meaning's own checks find: rank by rank over every execution before the first effect (R426), and none for a vector instruction with an empty Active() (R427). -/
def Body.first (b : Body) (i : Instr) (vec : Bool) (cx : Cx) (s : State) : Option Bad :=
  if (cx.g.arm cx.c.arm).wait.resumed || (vec && cx.act.isEmpty) then none
  else
    let l := b.arms cx vec
    (firstBad (l.filterMap (fun a => b.check cx a s))).or ((cx.poison (b.words i vec cx)).or (firstBad (l.filterMap (fun a => b.check2 cx a s))))

/-- A context waits at its slot. -/
def State.stays (s : State) (c : CtxId) : Bool := match s.armOf c with | some a => a.wait.kind != .idle | none => false

/-- The executions of R45 in order, from the one that waited; one that waits keeps the others of the arms `all` back. -/
def Body.runArms (b : Body) (cx : Cx) (all : List Nat) (k : Nat) : List Nat → State → State
  | [], s => s
  | a :: t, s =>
    let s := b.run (cx.refresh s) a s
    if !b.own && s.stays cx.c then s.updArm cx.c (fun x => { x with wait := { x.wait with rel := true, exec := k, arms := all } }) else Body.runArms b cx all (k + 1) t s

/-- The effect of a slot that passed its checks and made its release. A slot that still waits captures nothing yet and keeps its PC. -/
def Body.perform (b : Body) (i : Instr) (vec : Bool) (cx : Cx) (s : State) : State :=
  let k := (cx.g.arm cx.c.arm).wait.exec
  let go (cx : Cx) (s : State) : State := b.runArms cx (b.arms cx vec) k ((b.arms cx vec).drop k) s
  let s0 := cx.issued vec (cx.deferred i vec (b.words i vec cx) s)
  let s1 := go cx s0
  let s2 := if cx.h.cap.isSome && !(s1.stays cx.c) then cx.capture (if cx.wb then s1 else go { cx with wb := true } s0) s1 else s1
  if b.own || s1.stays cx.c then s2 else cx.advance s2

/-- Requests of a core for a line that its slice has not yet performed and acknowledged. -/
def State.lineIds (s : State) (core ln : Nat) : List Nat :=
  (s.reqs.filter (fun r => r.core == core && r.line == ln)).map (fun r => r.id) ++ (s.acks.filter (fun a => a.core == core && a.line == ln)).map (fun a => a.id)

/-- Dirty bytes of lines sent to their slices; what must come back (R99, R285). -/
def State.flushLines (s : State) (core : Nat) (l : List Nat) : State × List Nat :=
  let s := l.foldl (fun s ln => s.writeBack core ln) s
  (s, l.flatMap (s.lineIds core))

/-- What must be over before the effect: a release (R95), and the write-back of lines. -/
def Body.before (b : Body) (cx : Cx) (s : State) : State × Wait :=
  let r := match b.rel cx, s.team cx.c.team with
    | some scope, some t => s.startRelease cx.core t cx.c.team cx.c.grp scope
    | _, _ => (s, { kind := .acks, rel := true })
  let f := r.1.flushLines cx.core (b.flush cx r.1)
  (f.1, { r.2 with ids := r.2.ids ++ f.2 })

/-- The effect of a slot that passed its checks: a release comes first, and the context waits at its slot until what it names is performed (R95). -/
def Body.effect (b : Body) (i : Instr) (vec : Bool) (cx : Cx) (s : State) : State :=
  let w := (cx.g.arm cx.c.arm).wait
  if w.unissued then b.perform i vec cx (s.updArm cx.c (fun a => { a with wait := {} }))
  else if w.rel then b.perform i vec cx s
  else
    let p := b.before cx s
    if p.1.pendingOn p.2 then cx.stay p.2 p.1 else b.perform i vec cx p.1

/-- A YIELD.ON that is over, or a slot's wait for the other arm, leaves nothing at the slot that its context goes on with (R49, R231). -/
def Group.endYield (g : Group) (k : Nat) : Group :=
  g.updArm k (fun a => match a.wait.kind with | .yieldOn _ _ | .member _ _ => { a with wait := {} } | _ => a)

/-- What a slot leaves that its guard keeps from taking effect: it has issued, and a per-lane guard that is always false still lets CAP take the destination's unchanged value in every lane (R173, R188). -/
def Cx.passed (cx : Cx) (i : Instr) (s : State) : State :=
  let vec := isVector i.form cx.h
  let s := cx.issued vec (cx.deferred i vec [] s)
  if cx.h.guard.uni then s else cx.capture s s

/-- Issue of one slot with a meaning. -/
def issue (i : Instr) (s : State) (b : Body) : Host.Outcome State Fault Refusal :=
  match gate i s with
  | .noContext => .fault .noContext
  | .hold => .next s
  | .trap cx bad => .next (cx.trap bad s)
  | .skip cx => .next (cx.advance (cx.passed i s))
  | .go cx =>
    let vec := isVector i.form cx.h
    if b.hold cx s then .next s
    else
      match b.first i vec cx s with
      | some bad => .next (cx.trap bad s)
      | none => .next (b.effect i vec cx (s.updGroup cx.c.team cx.c.grp (fun _ => cx.g.endYield cx.c.arm)))

end Sys2Proof.Machine
end

