-- ==== Sys2Proof/Machine/Address.lean ====
section
/-! DEFINITION. Addresses that instructions form from operands, their checks of ranks 10 and 11, the group's own vector area, and plain accesses through a core (R65, R90, R275, R276, R434, R447, R450). -/

namespace Sys2Proof.Machine

/-- One access that an instruction forms: its lane, its address or scratchpad offset, and its bytes. -/
structure Acc where
  lane : Nat
  va : Nat
  n : Nat
deriving DecidableEq, Repr

/-- Addr and SAddr (R275, R276) from a base and an offset. -/
def addrOf (bits : Nat) (base off : W64) (sh : Nat) : Nat := wrapN bits ((base.toNat : Int) + sgn 32 off.toNat * (2 ^ sh : Nat))

/-- Addr in a lane, or once for the copies of an arm (R275). -/
def Cx.addr (cx : Cx) (vec : Bool) (sel sh L : Nat) : Nat :=
  if vec then addrOf 64 (cx.src cx.h.a .u64 L) (cx.src cx.h.b .i32 L) sh else addrOf 64 (cx.srcU sel cx.h.a .u64) (cx.srcU sel cx.h.b .i32) sh

/-- SAddr in a lane, or once for the copies of an arm (R276). -/
def Cx.saddr (cx : Cx) (vec : Bool) (sel sh L : Nat) : Nat :=
  if vec then addrOf 32 (cx.src cx.h.a .u32 L) (cx.src cx.h.b .i32 L) sh else addrOf 32 (cx.srcU sel cx.h.a .u32) (cx.srcU sel cx.h.b .i32) sh

/-- The accesses of an instruction: one for each lane of Active(), or one in lane 0 when it is uniform (R280, R281). -/
def Cx.accs (cx : Cx) (vec : Bool) (f : Nat → Nat) (n : Nat) : List Acc :=
  if vec then cx.act.map (fun L => ⟨L, f L, n⟩) else [⟨0, f 0, n⟩]

/-- The arm whose copy of a uniform operand a vector instruction reads once for all lanes: arm 1's under path both, as R45 states for a shared result. -/
def Cx.oneSel (cx : Cx) : Nat :=
  if cx.g.melded then (match cx.h.path with | .arm0 => 0 | _ => 1) else armSel cx.c

/-! ### Checks -/

/-- The guard span of a group: its start and its length (R434). -/
def Group.guardSpan (g : Group) : Nat × Nat :=
  (g.privBase.toNat + fld g.privLim.toNat 19 0 * g.width * 4, Nat.max (2 * fld g.divLim.toNat 7 0 * 16) (g.width * 4))

/-- Rank 10 (R434), cause by cause and lane by lane: memory accesses and scratchpad accesses, each with the alignment it must have; `stack` says that STACKLIMIT is checked. -/
def State.rank10 (s : State) (cx : Cx) (mem scr : List (Acc × Nat)) (stack : Bool) : Option Bad :=
  let sp := cx.g.guardSpan
  let size := match s.team cx.c.team with | some t => t.scrSize | none => 0
  let bad (c d : Nat) (p : Acc × Nat) : Bad := { cause := c, lane := p.1.lane, detail := d, info := BitVec.ofNat 64 p.1.va, rank := 10 }
  let bads (c : Nat) (p : Acc × Nat) : Bad := { cause := c, lane := p.1.lane, rank := 10 }
  let t := (mem.find? (fun p => decide (2 ^ 56 ≤ p.1.va))).map (bad 0x10 16)
  let o := (scr.find? (fun p => decide (0 < p.1.n) && decide (size < p.1.va + p.1.n))).map (bads 0x03)
  let m := ((mem.find? (fun p => p.1.va % p.2 != 0)).map (bad 0x12 0)).or ((scr.find? (fun p => p.1.va % p.2 != 0)).map (bads 0x12))
  let k := (mem.find? (fun p => stack && !cx.priv && decide (p.1.va < sp.1 + sp.2) && decide (sp.1 < p.1.va + p.1.n))).map (bad 0x13 0)
  t.or (o.or (m.or k))

/-- Accesses of one alignment. -/
def aligned (l : List Acc) (al : Nat) : List (Acc × Nat) := l.map (fun a => (a, al))

/-- The first condition of a cause that translating an access meets, in any line it touches. -/
def State.accBad (s : State) (cx : Cx) (need : Need) (cause : Nat) (a : Acc) : Option Bad :=
  (pieces a.va a.n).findSome? (fun p =>
    match s.reach cx.core cx.tenant p.1 need with
    | .bad c d => if c = cause then some { cause := c, lane := a.lane, detail := d, info := BitVec.ofNat 64 p.1 } else none
    | .ok _ => none)

/-- Rank 11 over memory addresses: TRANSLATE in every lane, then PERMISSION in every lane (R447). -/
def State.rank11 (s : State) (cx : Cx) (l : List Acc) (need : Need) : Option Bad :=
  (l.findSome? (s.accBad cx need 0x10)).or (l.findSome? (s.accBad cx need 0x11))

/-- Translations that accesses used are kept in the core's TLB (R83). -/
def State.fills (s : State) (core tenant : Nat) (l : List Acc) : State :=
  l.foldl (fun s a => (pieces a.va a.n).foldl (fun s p => match s.trCore core tenant p.1 with | .ok e => s.fillCore core e | .bad _ _ => s) s) s

/-- The physical address of a virtual one, as a core translates it. -/
def State.phys (s : State) (core tenant va : Nat) : Nat := match s.trCore core tenant va with | .ok e => e.at va | .bad _ _ => 0

/-! ### The group's own vector area (R59, R65) -/

/-- A range lies in the group's own register lines; the answer is its offset. -/
def Group.own (g : Group) (va n : Nat) : Option Nat :=
  let b := g.ctxBase.toNat % 2 ^ 56
  if b ≤ va ∧ va + n ≤ b + g.count * g.width * 4 then some (va - b) else none

/-- The index in `v` of the element that a byte of the vector area belongs to. -/
def Group.ownWord (g : Group) (o : Nat) : Nat := o / (g.width * 4) * 64 + o % (g.width * 4) / 4

/-- Bytes of the group's register lines. -/
def Group.ownRead (g : Group) (o : Nat) : Nat → Nat
  | 0 => 0
  | n + 1 => (g.v.get (g.ownWord o)).toNat / 2 ^ (8 * (o % 4)) % 256 + 256 * Group.ownRead g (o + 1) n

/-- Bytes stored into the group's register lines; a word keeps its poison unless all of it is written (R455). -/
def Group.ownBytes (g : Group) (o : Nat) : Nat → Nat → Group
  | 0, _ => g
  | n + 1, v =>
    let k := g.ownWord o
    let x := (g.v.get k).toNat
    let g := { g with v := g.v.set k (BitVec.ofNat 32 (setFld x (8 * (o % 4) + 7) (8 * (o % 4)) v)), vclean := g.vclean.filter (fun i => i != o / 256) }
    Group.ownBytes g (o + 1) n (v / 256)

/-- A store to the vector area. -/
def Group.ownWrite (g : Group) (o n v : Nat) : Group :=
  let whole (k : Nat) : Bool := (List.range ((o + n) / 4)).any (fun j => decide (o ≤ 4 * j) && g.ownWord (4 * j) == k)
  { g.ownBytes o n v with vpo := g.vpo.filter (fun k => !whole k) }

/-- A poisoned word in a range of the vector area. -/
def Group.ownBad (g : Group) (o n : Nat) : Bool := (List.range n).any (fun i => g.vpo.contains (g.ownWord (o + i)))

/-- An access touches a register of the group's own vector area that holds a pending mark (R185). -/
def State.ownMarked (s : State) (cx : Cx) (l : List Acc) : Bool :=
  let ms := s.marksOf cx.c.team cx.c.grp
  l.any (fun a => (pieces a.va a.n).any (fun p => match cx.g.own p.1 p.2 with
    | some o => (List.range p.2).any (fun i => ms.any (fun m => m.v.contains (cx.g.ownWord (o + i) / 64)))
    | none => false))

/-! ### Plain accesses -/

/-- Stores into the core's cache, as (address, bytes, value) in order: one access to each line that they touch (R70, R482). -/
def Cx.storeLines (cx : Cx) (l : List (Nat × Nat × Nat)) (hint : Nat) (s : State) : State :=
  ((l.map (fun p => p.1 / 128)).eraseDups).foldl (fun s ln => (l.filter (fun p => p.1 / 128 == ln)).foldl (fun s p => s.store cx.core cx.tag p.1 p.2.1 p.2.2 hint) s) s

/-- Virtual ranges stored by a slot, as (address, bytes, value) in order: into the group's register lines, into the core's cache, or past it with the bypass hint 2 (R65, R70, R71, R482). The lanes of one store become visible together (R90; DESIGN CHOICE, log 117). -/
def Cx.storeMany (cx : Cx) (l : List (Nat × Nat × Nat)) (hint : Nat) (strong : Bool) (s : State) : State :=
  let ps := l.flatMap (fun a => (pieces a.1 a.2.1).map (fun p => (p.1, p.2, a.2.2 / 2 ^ (8 * (p.1 - a.1)) % 2 ^ (8 * p.2))))
  let s' := ps.foldl (fun s p =>
    match cx.g.own p.1 p.2.1 with
    | some o => s.updGroup cx.c.team cx.c.grp (fun g => g.ownWrite o p.2.1 p.2.2)
    | none => s) s
  let out := (ps.filter (fun p => (cx.g.own p.1 p.2.1).isNone)).map (fun p => (s.phys cx.core cx.tenant p.1, p.2))
  if hint = 2 then s'.bypass cx.core cx.tag out strong else cx.storeLines out hint s'

/-- The bytes of a release store, written to their slices once they are stored: the scope of the release is the store's (R95, R473; log 22). -/
def Cx.storeOut (cx : Cx) (l : List (Nat × Nat)) (s : State) : State :=
  let ps := ((l.flatMap (fun a => pieces a.1 a.2)).filter (fun p => (cx.g.own p.1 p.2).isNone)).map (fun p => (s.phys cx.core cx.tenant p.1, p.2))
  ((ps.map (fun p => p.1 / 128)).eraseDups).foldl (fun s ln =>
    s.writeBack cx.core ln ((ps.filter (fun p => p.1 / 128 == ln)).map (fun p => (p.1 % 128, p.2)))) s

/-- The bytes of a strong store that stays in the cache, remembered in their lines (R453). -/
def Cx.storeKept (cx : Cx) (l : List (Nat × Nat)) (s : State) : State :=
  ((l.flatMap (fun a => pieces a.1 a.2)).filter (fun p => (cx.g.own p.1 p.2).isNone)).foldl (fun s p => s.markStrong cx.core (s.phys cx.core cx.tenant p.1) p.2) s

/-- The share of a load that covers a virtual range within one line: taken at once from the group's register lines, or still to be read (R65, R70). -/
def Cx.part (cx : Cx) (s : State) (lane : Nat) (regs : List Nat) (va n : Nat) : Part :=
  match cx.g.own va n with
  | some o =>
    let p : Part := { lane := lane, regs := regs, n := n, data := BitVec.ofNat 512 (cx.g.ownRead o n), done := true, poison := cx.g.ownBad o n }
    { p with clean := p.whole (fun i => !cx.g.ownBad (o + i) 1) }
  | none => { lane := lane, regs := regs, pa := s.phys cx.core cx.tenant va, n := n }

/-- An asynchronous instruction recorded with its parts, under a fresh name (R184). -/
def State.addAsync (s : State) (x : Async) : State := { s with asyncs := s.asyncs ++ [{ x with id := s.nextId }], nextId := s.nextId + 1 }

/-- A load issued: its parts taken from the cache as far as it can supply them, the missing lines requested, and the result awaited (R70, R184, R482). -/
def State.startLoad (s : State) (x : Async) (hint : Nat) (strong : Bool) : State :=
  let id := s.nextId
  let s := { s with nextId := s.nextId + 1 }
  let (s, ps) := s.loadParts x.core x.tag id x.parts hint strong
  { s with asyncs := s.asyncs ++ [{ x with id := id, parts := ps, load := true }] }

end Sys2Proof.Machine
end

