-- ==== Sys2Proof/Machine/Slice.lean ====
section
/-! DEFINITION. What a home slice does for every request that reaches it: slots and quotas, the mixed-size and race detectors, engine writes, and outlier appends (R74-R76, R103, R105, R137, R450-R461, R466, R487). -/

namespace Sys2Proof.Machine

/-- The bytes of a clash hold values that nothing predicts: in the reads of the line that are on their way, and, where `mem` says so, in memory (R103; log 116). -/
def State.blur (s : State) (line : Nat) (m : BitVec 128) (mem : Bool) : State × BitVec 1024 :=
  if m = 0 then (s, 0)
  else
    let (s, x) := s.freeLine
    let s := { s with merges := updWhere (fun k => k.line == line) (fun k => { k with data := mergeBytes m k.data x }) s.merges }
    (if mem then s.pokeMask (line * 128) 128 m.toNat x.toNat else s, x)

/-- The mixed-size detector: strong accesses to a line, as (offset, bytes), against those to it in the merge table (R103, R453). -/
def State.mixedAll (s : State) (tag : Tag) (line : Nat) (l : List (Nat × Nat)) : State :=
  if !(s.tenant tag.tenant).debugCfg.getLsbD 0 then s
  else
    let them := s.strongOn tag line false
    match l.findSome? (fun x => (them.find? (fun y => y.2 != x.2 && decide (y.1 < x.1 + x.2) && decide (x.1 < y.1 + y.2))).map (fun y => (x.2, y.2))) with
    | some p => s.imprecise tag 0x14 0 (Nat.log2 p.1 + 16 * Nat.log2 p.2) (BitVec.ofNat 64 (line * 128 + 2 ^ 63)) 0
    | none => s

/-- One strong access of n bytes. -/
def State.mixed (s : State) (tag : Tag) (line off n : Nat) : State := s.mixedAll tag line [(off, n)]

/-- An error record about the writer that a tag names (R461). -/
def State.raceErr (s : State) (tag : Tag) (count : Nat) (info : W64) : State :=
  match s.team tag.team with
  | some t => s.pushErr { tenant := tag.tenant, kind := 9, code := 0x3C, detail := count, info := info, pc := tag.pc, launch := (s.launch t.launch).id, team := t.index, grp := tag.grp }
  | none => s.pushErr { tenant := tag.tenant, kind := 9, code := 0x3C, detail := count, info := info, pc := tag.pc, grp := tag.grp }

/-- The race detector: a write of a line, by the team its tag names (R461). -/
def State.raceWrite (s : State) (tag : Tag) (line : Nat) : State :=
  let t := s.tenant tag.tenant
  if !t.raceCfg.getLsbD 0 then s
  else
    let who : Nat × Nat := ((match s.team tag.team with | some x => x.launch | none => 0), tag.team)
    match t.raceTbl.find? (fun r => r.line == line) with
    | none =>
      if (t.raceTbl.filter (fun r => r.line % 192 == line % 192)).length < 4096 then
        s.updTenant tag.tenant (fun t => { t with raceTbl := t.raceTbl ++ [{ line := line, ids := [who], count := 1 }] })
      else if t.raceOvf.contains (line % 192) then s
      else (s.updTenant tag.tenant (fun t => { t with raceOvf := (line % 192) :: t.raceOvf })).pushErr { tenant := tag.tenant, kind := 9, code := 0x3C }
    | some r =>
      if r.ids.contains who || decide (5 ≤ r.count) then s
      else
        let s := s.updTenant tag.tenant (fun t => { t with raceTbl := updWhere (fun x => x.line == line) (fun x =>
          { x with count := x.count + 1, ids := if x.ids.length < 4 then x.ids ++ [who] else x.ids, reported := true }) t.raceTbl })
        if r.reported then s
        else
          let info : W64 := BitVec.ofNat 64 (line * 128 + 2 ^ 63)
          let s := s.raceErr tag (r.count + 1) info
          if t.raceCfg.getLsbD 1 then s.imprecise tag 0x3C 0 (r.count + 1) info 0 else s

/-- Lines of a physical range. -/
def linesOf (pa n : Nat) : List Nat := if n = 0 then [] else (List.range ((pa + n - 1) / 128 + 1 - pa / 128)).map (fun i => pa / 128 + i)

/-- The issuing core's clean copies of lines go, and reads on their way no longer fill them (R99, R105). -/
def State.dropClean (s : State) (core : Nat) (lines : List Nat) : State := s.invalidate core (fun l => lines.contains l)

/-! ### The performance counters (R84, R397) -/

/-- Whether a number has an odd count of set bits. -/
def parity (x : Nat) : Bool := popcount 64 x % 2 == 1

/-- Target bits of masks i, i+1, … for a tier offset (R84). -/
def State.target (s : State) (off i n : Nat) : Nat :=
  (List.range n).foldl (fun a k => a + b2n (parity (off &&& (s.hashm.getD (i + k) 0).toNat)) * 2 ^ k) 0

/-- The counter of a line's channel: .pch counters stand at 0, .lpc at 1024, .mrg at 2048 (R397). -/
def State.perfIndex (s : State) (pa : Nat) : Option Nat :=
  if isHbm pa then some (s.target pa 0 4 * 64 + s.target pa 4 5 * 2 + s.target pa 9 1)
  else if isLp pa then some (1024 + s.target (pa - 2 ^ 40) 14 2)
  else none

/-- A tenant's counter raised by 1 modulo 2^64. -/
def State.perfBump (s : State) (tenant k : Nat) : State := s.updTenant tenant (fun t => { t with perf := t.perf.set k (t.perf.get k + 1) })

/-- One line access that a slice starts for a tenant (R397). -/
def State.perfLine (s : State) (tenant line : Nat) : State := match s.perfIndex (line * 128) with | some k => s.perfBump tenant k | none => s

/-- Bytes written by an engine operation at their home slices (R105, R457, R461). -/
def State.engineWrite (s : State) (core : Nat) (tag : Tag) (pa n v : Nat) (poison : Bool) : State :=
  let ls := linesOf pa n
  let s := (ls.foldl (fun s l => (s.raceWrite tag l).perfLine tag.tenant l) s).poke pa n v
  let s := if poison then { s with memPoison := s.memPoison ++ ls.filter (fun l => !s.memPoison.contains l) } else s
  s.dropClean core ls

/-- The agent translation cache used for the addresses that records hold: that of the slice of the address's line (R486). -/
def recUnit (va : Nat) : Nat := va / 128 % 192

/-- A translation that an agent used is kept (R83, R486). -/
def State.keepAgent (s : State) (unit tenant va : Nat) : State :=
  match s.trAgent unit tenant va with | .ok e => s.fillAgent unit e | .bad _ _ => s

/-- AppendOutlier (R137, R446, R466, R487): the count word and the record, and the condition it meets, with the DETAIL of its kind-8 record. The increment is one access of the count word's line, whose clean copy on the issuing core goes (R99, R105, R397). A count word in the host range cannot be reached while Eweov is down: there is no increment, as of an atomic whose old value is poisoned (R479). A record of a core instruction is stored through its cache, one of an engine operation at its slice, with the poison of the element it holds (R457). -/
def State.appendOutlier (s : State) (core : Nat) (tag : Tag) (f : Slot) (slot : Nat) (engine : Bool) (idx : Nat) (v : W32) (bad : Bool) : State × Option (Bad × Nat) :=
  let u := recUnit f.ocount
  match s.reachAgent u tag.tenant f.ocount (needRW tag.priv) with
  | .bad c d => (s, some ({ cause := 0x30, detail := c, info := BitVec.ofNat 64 f.ocount }, d))
  | .ok e =>
    let pa := e.at f.ocount
    let s := (s.keepAgent u tag.tenant f.ocount).note pa
    let m := s.clash tag (pa / 128) [(pa % 128, 4)]
    let s := ((s.mixed tag (pa / 128) (pa % 128) 4).perfLine tag.tenant (pa / 128)).dropClean core [pa / 128]
    if s.poisonAt pa || (isHost pa && !s.eweovUp) then (s, some ({ cause := 0x16, info := lineInfo pa }, 0))
    else
      let old := s.peek pa 4
      if f.cap ≤ old then (s, some ({ cause := 0x21, detail := slot, info := lineInfo pa }, 0))
      else
        let va := f.obase + old * 8
        match s.reachAgent u tag.tenant va (needW tag.priv) with
        | .bad c d => (s, some ({ cause := 0x30, detail := c, info := BitVec.ofNat 64 va }, d))
        | .ok r =>
          let s := (((s.keepAgent u tag.tenant va).poke pa 4 (old + 1)).blur (pa / 128) m true).1
          let x := v.toNat * 2 ^ 32 + idx % 2 ^ 32
          if engine && isHost (r.at va) && !s.eweovUp then (s, some ({ cause := 0x30, detail := 0x82, info := BitVec.ofNat 64 va }, 0))
          else (if engine then s.engineWrite core tag (r.at va) 8 x bad else s.store core tag (r.at va) 8 x 0, none)

/-- The appends of one instruction in order; each cause is raised once (R466, R487). No other agent's append comes between them (R137; DESIGN CHOICE, log 131). -/
def State.appendAll (s : State) (core : Nat) (tag : Tag) (f : Slot) (slot : Nat) (engine : Bool) (l : List (Nat × W32)) : State :=
  (l.foldl (fun (acc : State × List Nat) r =>
    match acc.1.appendOutlier core tag f slot engine r.1 r.2 false with
    | (s, none) => (s, acc.2)
    | (s, some (b, d)) => if acc.2.contains b.cause then (s, acc.2) else (s.imprecise tag b.cause b.lane b.detail b.info d, b.cause :: acc.2)) (s, [])).1

/-- The physical line of a slot's count word, when it can be reached. -/
def State.countLine (s : State) (tag : Tag) (f : Slot) : Option Nat :=
  match s.reachAgent (recUnit f.ocount) tag.tenant f.ocount (needRW tag.priv) with | .ok e => some (e.at f.ocount / 128) | .bad _ _ => none

end Sys2Proof.Machine
end

