-- ==== Sys2Proof/Machine/Engine.lean ====
section
/-! DEFINITION. Engine operations: issuing one, its reads and writes of memory and scratchpad, its count-downs and its end (R104-R109, R301, R454, R457, R463-R465, R479, R486). -/

namespace Sys2Proof.Machine

/-- Classes of engine operations (R104). -/
def clsCopy : Nat := 0
/-- MATRIX. -/
def clsMatrix : Nat := 1
/-- STREAM. -/
def clsStream : Nat := 2
/-- FABRIC. -/
def clsFabric : Nat := 3
/-- ATTN. -/
def clsAttn : Nat := 4
/-- TIER. -/
def clsTier : Nat := 5

/-- One of the tickets that the tenant's next n operations with a handle take is still outstanding (R301). -/
def State.ticketBusy (s : State) (tenant n : Nat) : Bool :=
  let t := s.tenant tenant
  (List.range n).any (fun k => t.tix.any (fun p => p.1 == (t.ticket + 1 + k) % 2 ^ 24 && p.2 == 0))

/-- An operation of a class does not issue now: its counter would pass 63, or a ticket that it takes is outstanding, of either execution of R45 (R104, R301). -/
def Cx.opHeld (cx : Cx) (cls : Nat) (s : State) : Bool :=
  decide (63 < cx.g.ecnt.getD cls 0 + cx.sels.length) || (cx.h.dst != .z && s.ticketBusy cx.tenant (Nat.max 1 (cx.arms false).length))

/-- A ticket assigned: one above the previous one; final states are kept for 2^23 further tickets (R301). -/
def Tenant.newTicket (t : Tenant) : Tenant :=
  let k := (t.ticket + 1) % 2 ^ 24
  { t with ticket := k, tix := (k, 0) :: t.tix.filter (fun p => p.1 != k && (p.2 == 0 || decide ((k + 2 ^ 24 - p.1) % 2 ^ 24 < 2 ^ 23))) }

/-- An operation issued (R104, R108): its class counter rises, and a destination sK receives a handle that the first later reader awaits. -/
def Cx.issueOp (cx : Cx) (sel cls : Nat) (kind : OpKind) (bobj : Option Nat) (total : Nat) (s : State) : State :=
  let takes : Bool := cx.wb && (match cx.h.dst with | .s _ => true | _ => false)
  let s := if takes then s.updTenant cx.tenant Tenant.newTicket else s
  let k := (s.tenant cx.tenant).ticket
  let (s, id) := s.take
  let tag : Tag := { cx.tag with arm := if cx.g.melded then 0 else sel }
  let op : EngOp := { id := id, cls := cls, tag := tag, core := cx.core, ticket := if takes then some k else none, bobj := bobj, kind := kind, total := total }
  let s := { s with ops := s.ops ++ [op] }
  let s := s.bumpCnt cx.c.team cx.c.grp cls (· + 1)
  match cx.h.dst with
  | .s r =>
    if takes then
      (cx.writeU sel .u32 (BitVec.ofNat 64 k) s).updGroup cx.c.team cx.c.grp (fun g => { g with futs := (ukey sel r.toNat, k) :: g.futs.filter (fun f => f.1 != ukey sel r.toNat) })
    else s
  | _ => s

/-- The name of the operation that `issueOp` is about to record. -/
def State.nextOp (s : State) : Nat := s.nextId

/-- An operation may go on: it has not ended, was not cancelled, and its tenant's cycle has come (R76, R108). -/
def State.opRuns (s : State) (o : EngOp) : Bool := !s.stopped && !o.ready && !o.cancelled && s.ownsSlot o.tag.tenant

/-- How an engine's access fails: cause, DETAIL bits, address (R464, R487). -/
abbrev EFault := Nat × Nat × Nat

/-- An engine's translation of an address (R486). -/
def State.engReach (s : State) (o : EngOp) (va : Nat) (need : Need) : Except EFault Nat :=
  match s.reach o.core o.tag.tenant va need with
  | .bad c d => .error (c, d, va)
  | .ok e => if isHost (e.at va) && !s.eweovUp then .error (0x82, 0, va) else .ok (e.at va)

/-- Bytes an engine reads at the slices, and whether a poisoned line was among them (R65, R106, R457). The reserved range reads zero (R15; DESIGN CHOICE, log 16). -/
def State.engRead (s : State) (o : EngOp) (va n : Nat) : Except EFault (Nat × Bool) :=
  (pieces va n).foldr (fun p acc =>
    match s.engReach o p.1 (needR o.tag.priv), acc with
    | .error e, _ => .error e
    | .ok _, .error e => .error e
    | .ok pa, .ok (v, b) => let x := s.see pa p.2; .ok (x.1 + 2 ^ (8 * p.2) * v, b || x.2)) (.ok (0, false))

/-- The line accesses of an engine's read are counted (R397). -/
def State.engCount (s : State) (o : EngOp) (va n : Nat) : State :=
  (pieces va n).foldl (fun s p => match s.engReach o p.1 (needR o.tag.priv) with | .ok pa => s.perfLine o.tag.tenant (pa / 128) | .error _ => s) s

/-- Bytes an engine writes at the slices; it stops at the first piece that fails, and the earlier ones stand (R463). -/
def State.engWrite (s : State) (o : EngOp) (va n v : Nat) (poison : Bool) : State × Option EFault :=
  (pieces va n).foldl (fun (acc : State × Option EFault) p =>
    match acc.2 with
    | some _ => acc
    | none =>
      match acc.1.engReach o p.1 (needW o.tag.priv) with
      | .error e => (acc.1, some e)
      | .ok pa => ((acc.1.fills o.core o.tag.tenant [⟨0, p.1, p.2⟩]).engineWrite o.core o.tag pa p.2 (v / 2 ^ (8 * (p.1 - va)) % 2 ^ (8 * p.2)) poison, none)) (s, none)

/-- Scratchpad bytes an engine writes, with their poison: an armed granule is skipped and reported once while CLOBBER is set, else written and its object evaluated (R113, R454, R457). -/
def State.engScr (s : State) (o : EngOp) (off n v : Nat) (poison : Bool) : State :=
  let armed := s.armedIn o.tag.team off n
  let clob := (s.tenant o.tag.tenant).debugCfg.getLsbD 1
  if clob && !armed.isEmpty then
    let s := (wordsOf (n + 1) off n).foldl (fun s p =>
      if armed.contains (p.1 / 16) then s
      else
        let s := s.scrWrite o.tag.team p.1 p.2 (v / 2 ^ (8 * (p.1 - off)) % 2 ^ (8 * p.2))
        if poison then s.scrPoisonSet o.tag.team p.1 p.2 else s) s
    match s.op o.id with
    | some x => if x.bar17 then s else (s.imprecise o.tag 0x17 0 0 0 0).updOp o.id (fun x => { x with bar17 := true })
    | none => s
  else
    let s := s.scrWrite o.tag.team off n v
    let s := if poison then s.scrPoisonSet o.tag.team off n else s
    armed.foldl (fun s k => s.evalBobj o.tag.team (16 * k)) s

/-- An end of a copy: memory or scratchpad. -/
structure End where
  scr : Bool
  addr : Nat
deriving DecidableEq, Repr

/-- n bytes at an end, with whether they are poisoned. -/
def State.endRead (s : State) (o : EngOp) (e : End) (n : Nat) : Except EFault (Nat × Bool) :=
  if e.scr then .ok (s.scrRead o.tag.team e.addr n, s.scrBad o.tag.team e.addr n) else s.engRead o e.addr n

/-- What a copy leaves in a destination whose bytes from `lo` to `hi` are also its source: each of those holds its old byte or the copied one, which a free value chooses (R308). -/
def State.lapped (s : State) (o : EngOp) (dst : End) (lo hi m v : Nat) (bad : Bool) : State × Nat × Bool :=
  if hi ≤ dst.addr ∨ dst.addr + m ≤ lo then (s, v, bad)
  else
    let f := s.free
    let g := f.1.free
    let old := match s.endRead o dst m with | .ok x => x | .error _ => (0, false)
    let keeps (j : Nat) : Bool := decide (lo ≤ dst.addr + j) && decide (dst.addr + j < hi) && (f.2.toNat + 2 ^ 64 * g.2.toNat).testBit j
    (g.1, (List.range m).foldl (fun a j => a + (if keeps j then old.1 else v) / 2 ^ (8 * j) % 256 * 2 ^ (8 * j)) 0, bad || ((List.range m).any keeps && old.2))

/-- Bytes copied from one end to the other, line by line, or word by word where a word of the scratchpad is poisoned; it stops at the first fault (R307, R308, R457, R463). The addresses from `lo` to `hi` are the overlap of the whole copy. -/
def State.copyRun (o : EngOp) (lo hi : Nat) (dst src : End) : Nat → Nat → State → State × Option EFault
  | 0, _, s => (s, none)
  | k + 1, n, s =>
    if n = 0 then (s, none)
    else
      let m := Nat.min n (Nat.min (128 - src.addr % 128) (128 - dst.addr % 128))
      let m := if src.scr && s.scrBad o.tag.team src.addr m then Nat.min m 4 else m
      match s.endRead o src m with
      | .error e => (s, some e)
      | .ok (v, b) =>
        let (s, v, b) := (if src.scr then s else s.engCount o src.addr m).lapped o dst lo hi m v b
        match (if dst.scr then (s.engScr o dst.addr m v b, none) else s.engWrite o dst.addr m v b) with
        | (s, some e) => (s, some e)
        | (s, none) => State.copyRun o lo hi { dst with addr := dst.addr + m } { src with addr := src.addr + m } k (n - m) s

/-- A copy of n bytes. -/
def State.engCopy (s : State) (o : EngOp) (dst src : End) (n : Nat) : State × Option EFault :=
  let hi := if dst.scr = src.scr then Nat.min dst.addr src.addr + n else 0
  State.copyRun o (Nat.max dst.addr src.addr) hi dst src (n / 4 + 1) n s

/-- ENGINE (R463, R464): translation and permission carry their bits in the kind-8 record. -/
def State.engFault (s : State) (id : Nat) (e : EFault) : State := s.opFault id 0x30 e.1 (BitVec.ofNat 64 e.2.2) e.2.1

/-- A share of an operation is performed, and n bytes are counted down on its object (R109, R284). An operation whose object is poisoned faults there (R457, R463, R464). -/
def State.opShare (s : State) (id piece n : Nat) : State :=
  match s.op id with
  | none => s
  | some o =>
    let share (s : State) : State := s.updOp id (fun o => { o with counted := o.counted + n, prog := o.prog ++ [piece] })
    match o.bobj with
    | none => share s
    | some b => if s.objBad o.tag.team b then (share s).engFault id (0x16, 0, 0) else share (s.countDown o.tag.team b n false)

/-- The operation has performed all its effects. -/
def State.opReady (s : State) (id : Nat) : State := s.updOp id (fun o => { o with ready := true })

/-- Earlier operations of the same group and class come first (R105). -/
def opsBefore (l : List EngOp) (o : EngOp) : Bool :=
  (l.takeWhile (fun x => x.id != o.id)).any (fun x => x.cls == o.cls && x.tag.team == o.tag.team && x.tag.grp == o.tag.grp)

end Sys2Proof.Machine
end

