-- ==== Sys2Proof/Machine/Memory.lean ====
section
/-! DEFINITION. Major MEM: loads, stores, scratchpad accesses, stream records, cache operations and tier promotion, with the events that perform a stream row and promote a page (R87, R88, R275-R286, R438, R454, R482). -/

namespace Sys2Proof.Machine

/-! ### Loads and stores -/

/-- The value stored for a lane, or for an arm's copies: k elements of e bytes, lowest register first (R279). -/
def Cx.data (cx : Cx) (w : Word) (vec : Bool) (sel L : Nat) : Nat :=
  let t := w.ty
  let elem (i : Nat) : Nat :=
    match w.c with
    | .v _ | .m _ =>
      un t (if t.is64 then pairOf (cx.g.vget (cx.runReg w.c (2 * i) L) L) (cx.g.vget (cx.runReg w.c (2 * i + 1) L) L) else BitVec.ofNat 64 (cx.g.vget (cx.runReg w.c i L) L).toNat)
    | .s r => if vec then un t (cx.src w.c t L) else un t (cx.g.sval t sel (r.toNat + i * t.regs))
    | _ => un t (cx.src w.c t L)
  (List.range (vecK w)).foldr (fun i a => a + elem i * 2 ^ (8 * t.bytes * i)) 0

/-- Bytes of one lane's access (R279). -/
def accBytes (w : Word) : Nat := vecK w * w.ty.bytes

/-- The accesses of a load or store in memory. -/
def Cx.memAccs (cx : Cx) (w : Word) (vec : Bool) (sel : Nat) : List Acc := cx.accs vec (fun L => cx.addr vec sel (shOf w.fspec) L) (accBytes w)

/-- The accesses of a load or store in scratchpad. -/
def Cx.scrAccs (cx : Cx) (w : Word) (vec : Bool) (sel : Nat) : List Acc := cx.accs vec (fun L => cx.saddr vec sel (shOf w.fspec) L) (accBytes w)

/-- The destination of an asynchronous result. -/
def Cx.asyncDest (cx : Cx) (vec : Bool) (sel : Nat) : Dest :=
  match cx.h.dst with
  | .s _ => .uni sel
  | _ => if vec then .vec else .uni sel

/-- The registers that a run of n from the destination names in a lane; none with WBS 1 or a discarded destination. -/
def Cx.dstRegs (cx : Cx) (n L : Nat) : List Nat :=
  if !cx.wb then []
  else
    match cx.h.dst with
    | .s i => (List.range n).map (fun k => i.toNat + k)
    | .v _ | .m _ => (List.range n).map (fun k => cx.runReg cx.h.dst k L)
    | _ => []

/-- A load's asynchronous record. -/
def Cx.loadRec (cx : Cx) (w : Word) (vec : Bool) (sel : Nat) (parts : List Part) : Async :=
  { id := 0, core := cx.core, tag := cx.tag, dest := cx.asyncDest vec sel, ty := w.ty, parts := parts, load := true,
    acq := if orderOf w.fspec == 1 then some w.scope.toNat else none }

/-- LD and LDU (R280, R281). -/
def loadBody (w : Word) (vec : Bool) : Body :=
  { hold := fun cx s => s.ownMarked cx ((cx.arms vec).flatMap (cx.memAccs w vec))
    check := fun cx a s => s.rank10 cx (aligned (cx.memAccs w vec a) (accBytes w)) [] true
    check2 := fun cx a s => s.rank11 cx (cx.memAccs w vec a) (needR cx.priv)
    run := fun cx a s =>
      let l := cx.memAccs w vec a
      let s := s.fills cx.core cx.tenant l
      s.startLoad (cx.loadRec w vec a (l.map (fun x => cx.part s x.lane (cx.dstRegs (vecRegs w) x.lane) x.va x.n))) w.chint.toNat (orderOf w.fspec != 0) }

/-- ST and STU (R280, R281): the lanes in ascending order, after the release. -/
def storeBody (w : Word) (vec : Bool) : Body :=
  { hold := fun cx s => s.ownMarked cx ((cx.arms vec).flatMap (cx.memAccs w vec))
    check := fun cx a s => s.rank10 cx (aligned (cx.memAccs w vec a) (accBytes w)) [] true
    check2 := fun cx a s => s.rank11 cx (cx.memAccs w vec a) (needW cx.priv)
    rel := fun _ => if orderOf w.fspec == 2 then some w.scope.toNat else none
    run := fun cx a s =>
      let l := cx.memAccs w vec a
      let s := cx.storeMany (l.map (fun x => (x.va, x.n, cx.data w vec a x.lane))) w.chint.toNat (orderOf w.fspec != 0) (s.fills cx.core cx.tenant l)
      let wide : Bool := match s.team cx.c.team with | some t => decide (2 ≤ effScope t w.scope.toNat) | none => false
      if orderOf w.fspec != 2 || w.chint == 2 then s
      else if wide then cx.storeOut (l.map (fun x => (x.va, x.n))) s
      else cx.storeKept (l.map (fun x => (x.va, x.n))) s }

/-- LD (R280). -/
def execLd (w : Word) (s : State) : Host.Outcome State Fault Refusal := issue (.ld w) s (loadBody w (isVector (Instr.ld w).form (headR w)))
/-- ST (R280). -/
def execSt (w : Word) (s : State) : Host.Outcome State Fault Refusal := issue (.st w) s (storeBody w (isVector (Instr.st w).form (headR w)))
/-- LDU (R281). -/
def execLdu (w : Word) (s : State) : Host.Outcome State Fault Refusal := issue (.ldu w) s (loadBody w false)
/-- STU (R281). -/
def execStu (w : Word) (s : State) : Host.Outcome State Fault Refusal := issue (.stu w) s (storeBody w false)

/-- SLD (R276, R282, R457): the bytes are taken at issue and land asynchronously, each word with its poison. -/
def execSld (w : Word) (s : State) : Host.Outcome State Fault Refusal :=
  let vec := isVector (Instr.sld w).form (headR w)
  issue (.sld w) s {
    check := fun cx a s => s.rank10 cx [] (aligned (cx.scrAccs w vec a) (accBytes w)) false
    run := fun cx a s =>
      let part (x : Acc) : Part :=
        let p : Part := { lane := x.lane, regs := cx.dstRegs (vecRegs w) x.lane, n := x.n, data := BitVec.ofNat 512 (s.scrRead cx.c.team x.va x.n), done := true, poison := s.scrBad cx.c.team x.va x.n }
        { p with clean := p.whole (fun i => !s.scrBad cx.c.team (x.va + i) 1) }
      s.addAsync (cx.loadRec w vec a ((cx.scrAccs w vec a).map part)) }

/-- Armed granules that accesses touch, each once (R113). -/
def State.armedAll (s : State) (team : Nat) (l : List Acc) : List Nat := (l.flatMap (fun x => s.armedIn team x.va x.n)).eraseDups

/-- SST (R282, R454): an armed object it touches is evaluated once; with CLOBBER set, it is a trap. -/
def execSst (w : Word) (s : State) : Host.Outcome State Fault Refusal :=
  let vec := isVector (Instr.sst w).form (headR w)
  issue (.sst w) s {
    check := fun cx a s => s.rank10 cx [] (aligned (cx.scrAccs w vec a) (accBytes w)) false
    check2 := fun cx a s =>
      if (s.tenant cx.tenant).debugCfg.getLsbD 1 then
        ((cx.scrAccs w vec a).find? (fun x => !(s.armedIn cx.c.team x.va x.n).isEmpty)).map (fun x => ({ cause := 0x17, lane := x.lane } : Bad))
      else none
    rel := fun _ => if orderOf w.fspec == 2 then some w.scope.toNat else none
    run := fun cx a s =>
      let l := cx.scrAccs w vec a
      let armed := s.armedAll cx.c.team l
      let s := l.foldl (fun s x => s.scrWrite cx.c.team x.va x.n (cx.data w vec a x.lane)) s
      armed.foldl (fun s k => s.evalBobj cx.c.team (16 * k)) s }

/-! ### Stream records (R283, R284) -/

/-- A barrier object named by SRCC: its scratchpad offset, or none with z. -/
def Cx.bobjC (cx : Cx) (sel : Nat) : Option Nat := match cx.h.c with | .s _ => some (cx.srcU sel cx.h.c .u32).toNat | _ => none

/-- The check of a barrier object operand. -/
def Cx.bobjAcc (cx : Cx) (sel : Nat) : List (Acc × Nat) := match cx.bobjC sel with | some b => [(⟨0, b, 16⟩, 16)] | none => []

/-- LD.srec and ST.srec (R284): one STREAM operation. -/
def streamBody (w : Word) (load : Bool) : Body :=
  { hold := fun cx s => cx.opHeld clsStream s
    check := fun cx a s =>
      s.rank10 cx [(⟨0, (cx.srcU a w.a .u64).toNat, 32⟩, 32)] ((⟨0, (cx.srcU a w.b .u32).toNat, 0⟩, 4) :: cx.bobjAcc a) false
    run := fun cx a s => cx.issueOp a clsStream (.stream load (cx.srcU a w.a .u64).toNat (cx.srcU a w.b .u32).toNat) (cx.bobjC a) 0 s }

/-- LD.srec (R284). -/
def execLdSrec (w : Word) (s : State) : Host.Outcome State Fault Refusal := issue (.ldSrec w) s (streamBody w true)
/-- ST.srec (R284). -/
def execStSrec (w : Word) (s : State) : Host.Outcome State Fault Refusal := issue (.stSrec w) s (streamBody w false)

/-- A malformed stream record (R283). -/
def srecBad (x : Nat) : Bool :=
  fld x 55 0 % 4 != 0 || fld x 127 56 != 0 || fld x 159 128 % 4 != 0 || fld x 159 128 == 0 || decide (2 ^ 31 ≤ fld x 159 128) || fld x 175 160 == 0 || fld x 191 176 == 0
    || fld x 223 192 % 4 != 0 || fld x 255 224 % 4 != 0 || decide (2 ^ 31 ≤ fld x 191 176 * fld x 175 160 * fld x 159 128)

/-- The record of a stream operation read at its start, once; a fault ends the operation. -/
def State.streamStart (s : State) (o : EngOp) (rec_ so : Nat) : State × Bool :=
  if o.started then (s, true)
  else
    let s := s.updOp o.id (fun o => { o with started := true })
    match s.engRead o rec_ 32 with
    | .error e => (s.engFault o.id e, false)
    | .ok (x, bad) =>
      let t := fld x 191 176 * fld x 175 160 * fld x 159 128
      let s := (s.engCount o rec_ 32).updOp o.id (fun o => { o with result := x, total := t })
      let size := match s.team o.tag.team with | some t => t.scrSize | none => 0
      if bad then (s.engFault o.id (0x16, 0, rec_), false)
      else if srecBad x then (s.engFault o.id (0x80, 0, rec_), false)
      else if size < so + t then (s.engFault o.id (0x83, 0, rec_), false)
      else (s, true)

/-- STREAM_ROW_PERFORMED (R284): a row not yet performed, in any order. -/
def execStreamRowPerformed (id row : Nat) (s : State) : Host.Outcome State Fault Refusal :=
  match s.op id with
  | none => .next s
  | some o =>
    match o.kind with
    | .stream load rec_ so =>
      if !s.opRuns o || o.prog.contains row then .next s
      else
        let p := s.streamStart o rec_ so
        if !p.2 then .next p.1
        else
          let x := match p.1.op id with | some o => o.result | none => 0
          let rows := fld x 191 176 * fld x 175 160
          let n := fld x 159 128
          if rows ≤ row then .next s
          else
            let i := row / Nat.max (fld x 175 160) 1
            let j := row % Nat.max (fld x 175 160) 1
            let a := wrapN 64 ((fld x 55 0 : Int) + i * sgn 32 (fld x 255 224) + j * sgn 32 (fld x 223 192))
            let m : End := ⟨false, a⟩
            let c : End := ⟨true, so + row * n⟩
            match (if load then p.1.engCopy o c m n else p.1.engCopy o m c n) with
            | (s, some e) => .next (s.engFault id e)
            | (s, none) =>
              let s := s.opShare id row n
              .next (if o.prog.length + 1 = rows then s.opReady id else s)
    | _ => .next s

/-! ### Cache operations (R285) -/

/-- A virtual range as physical ranges, page by page; a page without a translation is passed over. -/
def State.physRanges (s : State) (core tenant : Nat) : Nat → Nat → Nat → List (Nat × Nat)
  | 0, _, _ => []
  | k + 1, va, n =>
    if n = 0 ∨ 2 ^ 56 ≤ va then []
    else
      let m := Nat.min n (65536 - va % 65536)
      (match s.trCore core tenant va with | .ok e => [(e.at va, m)] | .bad _ _ => []) ++ State.physRanges s core tenant k (va + m) (n - m)

/-- The lines that L1.WB and L1.INV name: those of a range, or all when both operands are z. -/
def State.inRange (s : State) (cx : Cx) (w : Word) (sel : Nat) : Nat → Bool :=
  if w.a == .z && w.b == .z then fun _ => true
  else
    let n := (cx.srcU sel w.b .u32).toNat
    let r := s.physRanges cx.core cx.tenant (n / 65536 + 2) (cx.srcU sel w.a .u64).toNat n
    fun ln => r.any (fun p => decide (ln * 128 < p.1 + p.2) && decide (p.1 < ln * 128 + 128))

/-- The operand checks that both share: exactly one z, and the address (R434, R438). -/
def Cx.cacheCheck (cx : Cx) (w : Word) (sel : Nat) (s : State) : Option Bad :=
  if (w.a == .z) != (w.b == .z) then some { cause := 0x03 }
  else if w.a == .z then none else s.rank10 cx [(⟨0, (cx.srcU sel w.a .u64).toNat, 1⟩, 1)] [] false

/-- L1.WB (R285): the dirty bytes of the range are at their slices, acknowledged, before the slot ends. -/
def execL1Wb (w : Word) (s : State) : Host.Outcome State Fault Refusal :=
  issue (.l1Wb w) s {
    check := fun cx a s => cx.cacheCheck w a s
    flush := fun cx s => (cx.arms false).flatMap (fun a => ((s.core cx.core).lines.filter (fun l => s.inRange cx w a l.addr)).map (fun l => l.addr))
    run := fun _ _ s => s }

/-- L1.INV (R285): after the group's earlier loads. -/
def execL1Inv (w : Word) (s : State) : Host.Outcome State Fault Refusal :=
  issue (.l1Inv w) s {
    hold := fun cx s => s.asyncs.any (fun x => x.load && x.tag.team == cx.c.team && x.tag.grp == cx.c.grp)
    check := fun cx a s => cx.cacheCheck w a s
    run := fun cx a s => s.invalidate cx.core (s.inRange cx w a) }

/-! ### Tier promotion (R87, R88, R286, R470) -/

/-- TIER.PREF (R286): one TIER operation. -/
def execTierPref (w : Word) (s : State) : Host.Outcome State Fault Refusal :=
  let va (cx : Cx) (a : Nat) : Nat := (cx.srcU a w.a .u64).toNat
  let len (cx : Cx) (a : Nat) : Nat := (cx.srcU a w.b .u32).toNat
  issue (.tierPref w) s {
    hold := fun cx s => cx.opHeld clsTier s
    check := fun cx a s =>
      if va cx a % 65536 != 0 || len cx a == 0 || len cx a % 65536 != 0 then some { cause := 0x03 }
      else s.rank10 cx [(⟨0, va cx a, 1⟩, 1)] (cx.bobjAcc a) false
    run := fun cx a s => cx.issueOp a clsTier (.tier (va cx a) (len cx a)) (cx.bobjC a) (len cx a) s }

/-- The physical address of the level-0 entry that maps a 64 KiB page (R81). -/
def State.leafAt (s : State) (tenant va : Nat) : Nat :=
  let e3 := s.peek (fld (s.tenant tenant).root.toNat 51 8 * 256 + fld va 55 51 * 8) 8
  let e2 := s.peek (fld e3 51 12 * 4096 + fld va 50 38 * 8) 8
  let e1 := s.peek (fld e2 51 12 * 4096 + fld va 37 25 * 8) 8
  fld e1 51 12 * 4096 + fld va 24 16 * 8

/-- A range of memory copied to another, poison and all (R87, R470). -/
def State.moveRange (s : State) (dst src n : Nat) : State :=
  let ents := s.mem.filter (fun p => decide (src ≤ p.1) && decide (p.1 < src + n))
  let base : Memory := s.mem.filter (fun p => !(decide (dst ≤ p.1) && decide (p.1 < dst + n)))
  let bad := s.memPoison.filter (fun l => decide (src / 128 ≤ l) && decide (l < (src + n) / 128))
  let keep := s.memPoison.filter (fun l => !(decide (dst / 128 ≤ l) && decide (l < (dst + n) / 128)))
  { s with mem := ents.foldl (fun m p => Sparse.set m (p.1 - src + dst) p.2) base, memPoison := keep ++ bad.map (fun l => l - src / 128 + dst / 128) }

/-- Every translation cache drops the translations of a tenant's page (R87). -/
def State.dropPage (s : State) (tenant va n : Nat) : State :=
  let hit (e : TlbEntry) : Bool := e.tenant == tenant && decide (e.va < va + n) && decide (va < e.va + e.size)
  { s with cores := s.cores.map (fun c => { c with tlb := c.tlb.filter (fun e => !hit e) }), agentTlb := s.agentTlb.filter (fun p => !hit p.2) }

/-- The return list has room (R88): it does not, or a push would fail: its header or its next entry cannot be reached, or the header is poisoned. A list that is frozen gives or takes no frame, as one that is empty (DESIGN CHOICE, log 35). -/
def State.retRoom (s : State) (tenant : Nat) : Except EFault Bool :=
  let va := (s.tenant tenant).retQ.toNat
  match s.reachAgent unitTier tenant va { rd := true, w := true } with
  | .bad c d => .error (c, d, va)
  | .ok e =>
    let h := hdrOf (s.peek (e.at va) 64)
    if s.poisonAt (e.at va) then .error (0x16, 0, va)
    else if h.frozen then .error (0x81, 0, va)
    else if h.cap ≤ h.count then .ok false
    else match s.agentTr unitTier tenant { w := true } (h.entry h.tail) with | .bad c d => .error (c, d, h.entry h.tail) | .ok _ => .ok true

/-- The lines that a push onto an agent's queue writes: its header's and its next entry's (R314). -/
def State.pushLines (s : State) (unit tenant va : Nat) : List Nat :=
  match s.reachAgent unit tenant va { rd := true, w := true } with
  | .bad _ _ => []
  | .ok e =>
    let h := hdrOf (s.peek (e.at va) 64)
    e.at va / 128 :: (match s.agentTr unit tenant { w := true } (h.entry h.tail) with | .ok x => [x.at (h.entry h.tail) / 128] | .bad _ _ => [])

/-- A frame popped from the promotion list of a tenant for an operation of a core, whose clean copy of the line written goes (R88, R105). -/
def State.takeFrame (s : State) (core tenant : Nat) : State × QOut :=
  let q := (s.tenant tenant).promQ.toNat
  let r := s.agentPop unitTier tenant q
  (r.1.dropClean core ((s.pushLines unitTier tenant q).take 1), r.2)

/-- A frame pushed onto the return list, whose lines leave the issuing core's clean copies (R88, R105). -/
def State.giveFrame (s : State) (core tenant f : Nat) : State :=
  let q := (s.tenant tenant).retQ.toNat
  (s.agentPush unitTier tenant q f).1.dropClean core (s.pushLines unitTier tenant q)

/-- TIER_PROMOTE_PAGE (R87, R88, R105, R286, R470, R486): the next page of the range, translated as the issuing core does; whether the old frame can be returned is known before the new one is popped. -/
def execTierPromotePage (id : Nat) (s : State) : Host.Outcome State Fault Refusal :=
  match s.op id with
  | none => .next s
  | some o =>
    match o.kind with
    | .tier va0 len =>
      if !s.opRuns o then .next s
      else
        let t := o.tag.tenant
        let k := o.prog.length
        let va := va0 + 65536 * k
        let fin (s : State) : State :=
          let s := (s.opShare id k 65536).updOp id (fun o => { o with started := true })
          if (k + 1) * 65536 = len then s.opReady id else s
        match s.reach o.core t va { priv := o.tag.priv } with
        | .bad c d => .next (s.engFault id (c, d, va))
        | .ok e =>
          let s := s.fillCore o.core e
          if !isLp (e.at va) then .next (fin s)
          else if e.size ≠ 65536 then .next (s.engFault id (0x80, 0, va))
          else
            match s.retRoom t with
            | .error f => .next (s.engFault id f)
            | .ok false => .next s
            | .ok true =>
              match s.takeFrame o.core t with
              | (s, .bad c d i) => .next (s.engFault id (c, d, i))
              | (s, .refused) => .next (s.engFault id (0x81, 0, va))
              | (s, .frozen) => .next (s.engFault id (0x81, 0, va))
              | (s, .done _ f) =>
                if 2 ^ 40 ≤ f || f % 65536 ≠ 0 then
                  .next ((s.giveFrame o.core t f).engFault id (0x80, 0, va))
                else
                  let leaf := s.leafAt t va
                  let s := (s.moveRange f e.pa 65536).poke leaf 8 (setFld (s.peek leaf 8) 51 12 (f / 4096))
                  let s := (s.dropPage t va 65536).dropClean o.core (leaf / 128 :: linesOf f 65536)
                  .next (fin (s.giveFrame o.core t e.pa))
    | _ => .next s

end Sys2Proof.Machine
end

