-- ==== Sys2Proof/Machine/Atomic.lean ====
section
/-! DEFINITION. Major ATM: atomics and exact accumulators, sent lane by lane to the home slices, and what a slice does with one (R99, R118, R139-R141, R287-R290, R457, R479). -/

namespace Sys2Proof.Machine

/-- The access bytes of an atomic: its element, or a whole object. -/
def Cx.atomAccs (cx : Cx) (w : Word) (vec : Bool) (sel n : Nat) : List Acc := cx.accs vec (fun L => cx.addr vec sel (shOf w.fspec) L) n

/-- A source operand in a lane, or once for an arm's copies. -/
def Cx.srcAny (cx : Cx) (vec : Bool) (sel : Nat) (o : Opd) (t : Ty) (L : Nat) : W64 := if vec then cx.src o t L else cx.srcU sel o t

/-- Operations sent to the home slices of their lines, lane by lane in order, each after the core's own dirty bytes of its line, and answered into the parts of one asynchronous record (R99). -/
def State.sendOps (s : State) (x : Async) (l : List (Part × SliceOp × Nat)) : State :=
  let id := s.nextId
  let s := { s with nextId := s.nextId + 1 }
  let s := (List.range l.length).foldl (fun s k =>
    match l[k]? with
    | none => s
    | some (p, o, n) =>
      let ln := p.pa / 128
      let s := (s.writeBack x.core ln).noFill x.core (fun y => y == ln)
      s.send { id := 0, core := x.core, tenant := x.tag.tenant, line := ln, kind := .op o, tag := x.tag, async := some (id, k), strong := if n = 0 then [] else [(p.pa % 128, n)] }) s
  { s with asyncs := s.asyncs ++ [{ x with id := id, parts := l.map (fun p => p.1) }] }

/-- The body that all atomics share (R287): `n` bytes, one operation per lane, `dn` destination registers of type `t`. -/
def atomBody (w : Word) (vec : Bool) (n dn : Nat) (t : Ty) (cas : Bool) (op : Cx → Nat → Nat → Nat → SliceOp) : Body :=
  { check := fun cx a s => s.rank10 cx (aligned (cx.atomAccs w vec a n) n) [] true
    used := if cas then some (fun cx sel =>
        let ws (o : Opd) (k : Nat) : List (Nat × Nat) :=
          if vec then cx.act.flatMap (fun L => cx.opWords o k (laneArm cx.g cx.c.arm L) L) else cx.opWords o k sel 0
        ws w.a 2 ++ ws w.b 1 ++ ws w.c t.regs ++ ws w.dst t.regs)
      else none
    check2 := fun cx a s => s.rank11 cx (cx.atomAccs w vec a n) (needRW cx.priv)
    rel := fun _ => if orderOf w.fspec == 2 || orderOf w.fspec == 3 then some w.scope.toNat else none
    run := fun cx a s =>
      let l := cx.atomAccs w vec a n
      let s := s.fills cx.core cx.tenant l
      let item (x : Acc) : Part × SliceOp × Nat :=
        let pa := s.phys cx.core cx.tenant x.va
        ({ lane := x.lane, regs := cx.dstRegs dn x.lane, pa := pa, n := Nat.min n 8 }, op cx a x.lane pa, n)
      s.sendOps { id := 0, core := cx.core, tag := cx.tag, dest := cx.asyncDest vec a, ty := t, parts := [],
                  acq := if orderOf w.fspec == 1 || orderOf w.fspec == 3 then some w.scope.toNat else none } (l.map item) }

/-- ATOM (R288). -/
def execAtom (w : Word) (s : State) : Host.Outcome State Fault Refusal :=
  let vec := isVector (Instr.atom w).form (headR w)
  let k := w.fspec.toNat % 16
  issue (.atom w) s (atomBody w vec w.ty.bytes w.ty.regs w.ty (k == 8)
    (fun cx a L pa => .atom pa w.ty k (cx.srcAny vec a w.c w.ty L) (if k = 8 then cx.srcAny vec a w.dst w.ty L else 0)))

/-- ATOM.BINC (R289). -/
def execAtomBinc (w : Word) (s : State) : Host.Outcome State Fault Refusal :=
  let vec := isVector (Instr.atomBinc w).form (headR w)
  issue (.atomBinc w) s (atomBody w vec w.ty.bytes w.ty.regs w.ty false (fun cx a L pa => .binc pa w.ty (cx.srcAny vec a w.c w.ty L)))

/-- XACC.ADD (R140, R290). -/
def execXaccAdd (w : Word) (s : State) : Host.Outcome State Fault Refusal :=
  let vec := isVector (Instr.xaccAdd w).form (headR w)
  issue (.xaccAdd w) s (atomBody w vec 128 0 w.ty false (fun cx a L pa => .xadd pa w.ty (cx.srcAny vec a w.c w.ty L)))

/-- XACC.FOLD (R141, R290). -/
def execXaccFold (w : Word) (s : State) : Host.Outcome State Fault Refusal :=
  let vec := isVector (Instr.xaccFold w).form (headR w)
  issue (.xaccFold w) s (atomBody w vec 128 w.ty.regs w.ty false (fun _ _ _ pa => .xfold pa w.ty w.round.toNat))

/-- XACC.CLR (R290). -/
def execXaccClr (w : Word) (s : State) : Host.Outcome State Fault Refusal :=
  let vec := isVector (Instr.xaccClr w).form (headR w)
  issue (.xaccClr w) s (atomBody w vec 128 0 .u32 false (fun _ _ _ pa => .xclr pa))

/-! ### At the slice -/

/-- The answer to a request: its part of the asynchronous record is done (R184). -/
def State.answer (s : State) (r : Req) (f : Part → Part) : State :=
  match r.async with
  | some (id, k) => { s with asyncs := updWhere (fun x => x.id == id) (fun x => { x with parts := updAt x.parts k (fun p => { f p with done := true }) }) s.asyncs }
  | none => s

/-- An answer that is a value. -/
def State.answerVal (s : State) (r : Req) (v : Nat) (poison : Bool) : State := s.answer r (fun p => { p with data := BitVec.ofNat 512 v, poison := poison })

/-- An atomic that reads or changes n bytes (R99, R457, R479): not performed on a poisoned line, nor in the host range while the link is down; `f` gives the new bytes, if it writes, and the answer. -/
def State.atomic (s : State) (r : Req) (pa n : Nat) (f : Nat → Option Nat × Nat) : State :=
  if s.poisonAt pa || (isHost pa && !s.eweovUp) then s.answerVal r 0 true
  else
    let x := f (s.peek pa n)
    let s := match x.1 with | some v => s.poke pa n v | none => s
    s.answerVal r x.2 false

/-- What a slice does with an atomic instruction's operation (R288-R290, R349). -/
def State.atomOp (s : State) (r : Req) (o : SliceOp) : State :=
  match o with
  | .atom pa ty op v c => s.atomic r pa ty.bytes (fun old => (some (un ty (atomNew ty op (BitVec.ofNat 64 old) v c)), old))
  | .binc pa ty b => s.atomic r pa ty.bytes (fun old => (if old < un ty b then some (old + 1) else none, old))
  | .xadd pa ty v => s.atomic r pa 128 (fun old => (some (xaccAdd (BitVec.ofNat 1024 old) (decodeF ty v)).toNat, 0))
  | .xfold pa ty md => s.atomic r pa 128 (fun old => (none, (xaccFold (BitVec.ofNat 1024 old) ty md).toNat))
  | .xclr pa => s.atomic r pa 128 (fun _ => (some 0, 0))
  | .orBit pa bit => s.atomic r pa 4 (fun old => (some (old ||| 2 ^ bit), old))
  | _ => s

end Sys2Proof.Machine
end

