-- ==== Sys2Proof/Machine/Sync.lean ====
section
/-! DEFINITION. Major SYN: fences, team barriers, barrier objects, timelines, counters and futures, with the event that ends a timed wait (R93-R98, R107-R117, R291-R301, R457). -/

namespace Sys2Proof.Machine

/-- A wait that has ended is cleared before its slot goes on. -/
def Cx.done (cx : Cx) (s : State) : State := s.updArm cx.c (fun a => { a with wait := {} })

/-- The status with which this slot's wait of a kind has ended, if it has. -/
def Cx.ended (cx : Cx) (p : WaitKind → Bool) : Option W32 := if p (cx.g.arm cx.c.arm).wait.kind then (cx.g.arm cx.c.arm).wait.status else none

/-- The acquire of a scope by the issuing group (R72, R96). -/
def Cx.acquire (cx : Cx) (scope : Nat) (s : State) : State :=
  match s.team cx.c.team with | some t => s.acquire cx.core t scope | none => s

/-- The cycle at which a wait times out: SRCC in cycles, none with z (R291); a wait that a pre-emption stopped counts on from the cycles left of it (R369). -/
def Cx.deadline (cx : Cx) (sel : Nat) (o : Opd) (s : State) : Option Nat :=
  match (cx.g.arm cx.c.arm).left with
  | some n => some (s.clock + n)
  | none => match o with | .z => none | _ => some (s.clock + (cx.srcU sel o .u32).toNat % 2 ^ 32)

/-- FENCE (R98, R292): an acquire waits for the context's earlier loads and atomics. -/
def execFence (w : Word) (s : State) : Host.Outcome State Fault Refusal :=
  let k := w.fspec.toNat / 64
  issue (.fence w) s {
    hold := fun cx s => k % 2 == 1 && s.asyncs.any (fun x => x.tag.team == cx.c.team && x.tag.grp == cx.c.grp && (!cx.g.split || x.tag.arm == armSel cx.c))
    rel := fun _ => if 2 ≤ k then some w.scope.toNat else none
    run := fun cx _ s => if k % 2 = 1 then cx.acquire w.scope.toNat s else s }

/-! ### Team barriers (R293, R294) -/

/-- The barrier number and the expected count; none is z. -/
def Cx.barN (cx : Cx) (sel : Nat) (o : Opd) : Option Nat := match o with | .z => none | _ => some (cx.srcU sel o .u32).toNat

/-- Values outside their limits (R438). -/
def Cx.barCheck (cx : Cx) (w : Word) (sel : Nat) (count : Bool) : Option Bad :=
  let badN : Bool := match cx.barN sel w.b with | some n => count && (n == 0 || decide (64 < n)) | none => false
  if 15 < (cx.srcU sel w.a .u32).toNat || badN then some { cause := 0x03 } else none

/-- BAR.ARRIVE (R294). -/
def execBarArrive (w : Word) (s : State) : Host.Outcome State Fault Refusal :=
  issue (.barArrive w) s {
    check := fun cx a _ => cx.barCheck w a true
    rel := fun _ => some 1
    run := fun cx a s => s.arriveBar cx.c.team cx.c.grp (cx.srcU a w.a .u32).toNat (cx.barN a w.b) }

/-- Wait(b, tmo) of R294, and its end: status 1 with an acquire of TEAM scope, or 0 without one. -/
def Cx.barWait (cx : Cx) (sel b : Nat) (tmo : Opd) (sync : Bool) (s : State) : State :=
  let fin (v : W32) (s : State) : State :=
    let s := cx.writeU sel .u32 (BitVec.ofNat 64 v.toNat) (cx.done s)
    if v = 1 then cx.acquire 1 s else s
  match cx.ended (fun k => match k with | .bar _ => true | _ => false) with
  | some v => fin v s
  | none =>
    match s.team cx.c.team with
    | none => s
    | some t =>
      match t.bars[b]? with
      | none => s
      | some x =>
        if !x.ever.getLsbD cx.c.grp || x.phase != x.lastph.getLsbD cx.c.grp then fin 1 s
        else cx.stay { kind := .bar b, deadline := cx.deadline sel tmo s, sync := sync } s

/-- BAR.WAIT (R294). -/
def execBarWait (w : Word) (s : State) : Host.Outcome State Fault Refusal :=
  issue (.barWait w) s {
    check := fun cx a _ => cx.barCheck w a false
    run := fun cx a s => cx.barWait a (cx.srcU a w.a .u32).toNat w.c false s }

/-- BAR.SYNC (R294): an arrival, then the wait. -/
def execBarSync (w : Word) (s : State) : Host.Outcome State Fault Refusal :=
  issue (.barSync w) s {
    check := fun cx a _ => cx.barCheck w a true
    rel := fun _ => some 1
    run := fun cx a s =>
      let b := (cx.srcU a w.a .u32).toNat
      match (cx.g.arm cx.c.arm).wait.kind with
      | .bar _ => cx.barWait a b w.c true s
      | _ => cx.barWait a b w.c true (s.arriveBar cx.c.team cx.c.grp b (cx.barN a w.b)) }

/-! ### Barrier objects (R109-R113, R295-R297) -/

/-- The offset of the object. -/
def Cx.bobjOff (cx : Cx) (sel : Nat) : Nat := (cx.srcU sel cx.h.a .u32).toNat % 2 ^ 32

/-- Its checks: armed, where the instruction needs that, then the access (R434, R438). -/
def Cx.bobjCheck (cx : Cx) (sel : Nat) (armed : Bool) (s : State) : Option Bad :=
  if armed && !s.isArmed cx.c.team (cx.bobjOff sel) then some { cause := 0x03 } else s.rank10 cx [] [(⟨0, cx.bobjOff sel, 16⟩, 16)] false

/-- A poisoned object: POISON raised imprecisely, the object unchanged, and a result the manual does not give (R457, log 9). -/
def Cx.bobjPoison (cx : Cx) (sel : Nat) (s : State) : State :=
  let f := (s.imprecise cx.tag 0x16 0 0 0 0).free
  cx.writeU sel .u32 f.2 f.1

/-- BOBJ.INIT (R110, R295). -/
def execBobjInit (w : Word) (s : State) : Host.Outcome State Fault Refusal :=
  issue (.bobjInit w) s {
    check := fun cx a s => cx.bobjCheck a false s
    rel := fun _ => some 1
    run := fun cx a s =>
      let off := cx.bobjOff a
      let e := (cx.srcU a w.b .u32).toNat % 65536
      let b := (cx.srcU a w.c .i32).toNat % 2 ^ 32
      let s := s.scrWrite cx.c.team off 16 (e * 2 ^ 16 + b * 2 ^ 64 + b * 2 ^ 96)
      (s.updTeam cx.c.team (fun t => { t with armed := if t.armed.contains (off / 16) then t.armed else (off / 16) :: t.armed })).evalBobj cx.c.team off }

/-- SCOPE of BOBJ.ARRIVE and BOBJ.WAIT: 0 means TEAM (R296, R297). -/
def bobjScope (w : Word) : Nat := Nat.max 1 w.scope.toNat

/-- BOBJ.ARRIVE (R111, R296). -/
def execBobjArrive (w : Word) (s : State) : Host.Outcome State Fault Refusal :=
  issue (.bobjArrive w) s {
    check := fun cx a s => cx.bobjCheck a true s
    rel := fun _ => some (bobjScope w)
    run := fun cx a s =>
      let off := cx.bobjOff a
      if s.scrBad cx.c.team off 16 then cx.bobjPoison a s
      else
        let phase := fld (s.scrRead cx.c.team off 16) 47 32
        cx.writeU a .u32 (BitVec.ofNat 64 phase) (s.arriveBobj cx.c.team off ((cx.srcU a w.b .u32).toNat % 65536)) }

/-- BOBJ.WAIT (R112, R297). -/
def execBobjWait (w : Word) (s : State) : Host.Outcome State Fault Refusal :=
  issue (.bobjWait w) s {
    check := fun cx a s => cx.bobjCheck a true s
    run := fun cx a s =>
      let off := cx.bobjOff a
      let p := (cx.srcU a w.b .u32).toNat % 65536
      let fin (v : W32) (s : State) : State :=
        let s := cx.writeU a .u32 (BitVec.ofNat 64 v.toNat) (cx.done s)
        if v = 2 then s else cx.acquire (bobjScope w) s
      match cx.ended (fun k => match k with | .bobj _ _ => true | _ => false) with
      | some v => fin v s
      | none =>
        if s.scrBad cx.c.team off 16 then cx.bobjPoison a s
        else if fld (s.scrRead cx.c.team off 16) 47 32 ≠ p then fin 0 s
        else cx.stay { kind := .bobj off p, deadline := cx.deadline a w.c s } s }

/-! ### Timelines (R115-R117, R298, R476) -/

/-- An operation sent to the home slice of an address named by an operand, behind the core's own dirty bytes of its line; with its name. -/
def Cx.sendOp (cx : Cx) (pa : Nat) (o : SliceOp) (s : State) : State × Nat :=
  let ln := pa / 128
  let s := (s.writeBack cx.core ln).noFill cx.core (fun y => y == ln)
  (s.send { id := 0, core := cx.core, tenant := cx.tenant, line := ln, kind := .op o, tag := cx.tag }, s.nextId)

/-- The access of an instruction whose pair SRCA names an object of n bytes in memory. -/
def Cx.objAcc (cx : Cx) (sel n : Nat) : Acc := ⟨0, (cx.srcU sel cx.h.a .u64).toNat, n⟩

/-- TL.SIGNAL (R115, R298). -/
def execTlSignal (w : Word) (s : State) : Host.Outcome State Fault Refusal :=
  issue (.tlSignal w) s {
    check := fun cx a s => s.rank10 cx [(cx.objAcc a 8, 8)] [] false
    check2 := fun cx a s => s.rank11 cx [cx.objAcc a 8] (needRW cx.priv)
    rel := fun _ => some w.scope.toNat
    run := fun cx a s =>
      let s := s.fills cx.core cx.tenant [cx.objAcc a 8]
      let pa := s.phys cx.core cx.tenant (cx.objAcc a 8).va
      (cx.sendOp pa (.tlSignal pa (cx.srcU a w.b .u64)) s).1 }

/-- TL.WAIT (R115, R298): status 1 with an acquire, or 0 when the time passes. -/
def execTlWait (w : Word) (s : State) : Host.Outcome State Fault Refusal :=
  issue (.tlWait w) s {
    check := fun cx a s => s.rank10 cx [(cx.objAcc a 8, 8)] [] false
    check2 := fun cx a s => s.rank11 cx [cx.objAcc a 8] (needR cx.priv)
    run := fun cx a s =>
      match cx.ended (fun k => match k with | .timeline => true | _ => false) with
      | some v =>
        let s := cx.writeU a .u32 (BitVec.ofNat 64 v.toNat) (cx.done s)
        if v = 1 then cx.acquire w.scope.toNat s else s
      | none =>
        let s := s.fills cx.core cx.tenant [cx.objAcc a 8]
        let pa := s.phys cx.core cx.tenant (cx.objAcc a 8).va
        let p := cx.sendOp pa (.tlWait pa (cx.srcU a w.b .u64) cx.c) s
        cx.stay { kind := .timeline, deadline := cx.deadline a w.c s, ids := [p.2] } p.1 }

/-- A timeline's operations at its slice (R115, R476). -/
def State.tlOp (s : State) (r : Req) (o : SliceOp) : State :=
  match o with
  | .tlSignal pa v =>
    if isHost pa && !s.eweovUp then s.imprecise r.tag 0x15 0 3 (BitVec.ofNat 64 (pa / 128 * 128 + 2 ^ 63)) 0
    else s.signalTl pa v.toNat
  | .tlWait pa t c =>
    match s.armOf c with
    | some a =>
      if a.wait.kind == .timeline && a.wait.status == none && a.wait.ids == [r.id] then
        (if t.toNat ≤ (if s.poisonAt pa then 0 else s.peek pa 8) then s.wake c 1 else { s with tlw := s.tlw ++ [{ pa := pa, t := t, c := c }] })
      else s
    | none => s
  | _ => s

/-! ### Counters and futures (R107, R108, R299, R300) -/

/-- WAITCNT (R107, R299). -/
def execWaitcnt (w : Word) (s : State) : Host.Outcome State Fault Refusal :=
  issue (.waitcnt w) s { hold := fun cx _ => decide (w.fspec.toNat % 64 < cx.g.ecnt.getD w.round.toNat 0), run := fun _ _ s => s }

/-- The handle in SRCA. -/
def Cx.handle (cx : Cx) (sel : Nat) (o : Opd) : W32 := loOf (cx.srcU sel o .u32)

/-- FUTURE (R433). -/
def Cx.futCheck (cx : Cx) (sel : Nat) (o : Opd) (s : State) : Option Bad := if (s.tenant cx.tenant).handleOk (cx.handle sel o) then none else some { cause := 0x31 }

/-- A handle with its STATE as it stands (R300). -/
def State.handleNow (s : State) (tenant : Nat) (h : W32) : Nat := (s.tenant tenant).stateOf (h.toNat % 2 ^ 24) * 2 ^ 30 + h.toNat % 2 ^ 24

/-- FUT.WAIT (R108, R300). -/
def execFutWait (w : Word) (s : State) : Host.Outcome State Fault Refusal :=
  issue (.futWait w) s {
    check := fun cx a s => cx.futCheck a w.a s
    run := fun cx a s =>
      let h := cx.handle a w.a
      if (s.tenant cx.tenant).stateOf (h.toNat % 2 ^ 24) = 0 then cx.stay { kind := .future (h.toNat % 2 ^ 24) } s
      else cx.acquire 2 (cx.writeU a .u32 (BitVec.ofNat 64 (s.handleNow cx.tenant h)) (cx.done s)) }

/-- FUT.TEST (R108, R300). -/
def execFutTest (w : Word) (s : State) : Host.Outcome State Fault Refusal :=
  issue (.futTest w) s {
    check := fun cx a s => cx.futCheck a w.a s
    run := fun cx a s =>
      let h := cx.handle a w.a
      let s' := cx.writeU a .u32 (BitVec.ofNat 64 (s.handleNow cx.tenant h)) s
      if (s.tenant cx.tenant).stateOf (h.toNat % 2 ^ 24) = 1 then cx.acquire 2 s' else s' }

/-- FUT.CANCEL (R108): an operation that has not started never starts. -/
def execFutCancel (w : Word) (s : State) : Host.Outcome State Fault Refusal :=
  issue (.futCancel w) s {
    check := fun cx a s => cx.futCheck a w.a s
    run := fun cx a s =>
      let k := (cx.handle a w.a).toNat % 2 ^ 24
      match s.ops.find? (fun o => o.tag.tenant == cx.tenant && o.ticket == some k && !o.started && !o.ready && !o.cancelled) with
      | some o => (s.updOp o.id (fun o => { o with cancelled := true })).settle cx.tenant k 2
      | none => s }

/-- WAIT_TIMEOUT (R291): a timed wait of a resident team ends with its timed-out status; a waiter of a timeline is forgotten. -/
def execWaitTimeout (c : CtxId) (s : State) : Host.Outcome State Fault Refusal :=
  match s.armOf c, s.team c.team with
  | some a, some t =>
    let due : Bool := match a.wait.deadline with | some d => decide (d ≤ s.clock) | none => false
    if s.stopped || !a.live || a.wait.status.isSome || !due || !t.place.here then .next s
    else
      let v : W32 := match a.wait.kind with | .bobj _ _ => 2 | _ => 0
      .next ({ s with tlw := s.tlw.filter (fun w => w.c != c) }.wake c v)
  | _, _ => .next s

end Sys2Proof.Machine
end

