-- ==== Sys2Proof/Machine/Front.lean ====
section
/-! DEFINITION. Major FRN: joining, stepping, reading and leaving a front, what its home slice does, and ejection (R77-R80, R302-R305, R439, R477, R478, R483, R484). -/

namespace Sys2Proof.Machine

/-- An operation that this slot sends to a slice and whose answer it awaits before it ends; the answer stands in a record that the slot finds again by `answered`. -/
def Cx.ask (cx : Cx) (l : List (Part × SliceOp × Nat)) (s : State) : State :=
  let id := s.nextId
  cx.stay { kind := .slice, asy := [id], rel := true } (s.sendOps { id := 0, core := cx.core, tag := cx.tag, dest := .none, ty := .u32, parts := [], blk := some 0 } l)

/-- The answers to the operations that this slot sent. -/
def Cx.answered (cx : Cx) (s : State) : Option Async :=
  match (cx.g.arm cx.c.arm).wait.kind with
  | .slice => s.asyncs.find? (fun x => (cx.g.arm cx.c.arm).wait.asy.contains x.id)
  | _ => none

/-- A record whose answers have been taken. -/
def State.dropAsync (s : State) (id : Nat) : State := { s with asyncs := s.asyncs.filter (fun x => x.id != id) }

/-- The conditions of R303 that the record's slice knows: slot k already a member, or a TENANT that is not the joining group's. -/
def State.frontRefuses (s : State) (pa k tenant : Nat) : Bool :=
  match s.frontAt pa with
  | some e => e.mem.getLsbD k || e.tenant != tenant
  | none => s.peek (pa + 12) 4 % 16 != tenant

/-- The record address and slot of FRONT.JOIN. -/
def Cx.joinOps (cx : Cx) (sel : Nat) : Nat × Nat := ((cx.srcU sel cx.h.a .u64).toNat, (cx.srcU sel cx.h.b .u32).toNat)

/-- FRONT.JOIN's operand conditions (R439). -/
def Cx.joinCheck (cx : Cx) (sel : Nat) (s : State) : Option Bad :=
  let o := cx.joinOps sel
  let refused : Bool := match s.reach cx.core cx.tenant o.1 { priv := true } with
    | .ok e => o.1 % 256 == 0 && s.frontRefuses (e.at o.1) o.2 cx.tenant
    | .bad _ _ => false
  if 63 < o.2 || (s.frontOf cx.g).isSome || (s.tenant cx.tenant).fquota == 0 || refused then some { cause := 0x03 }
  else s.rank10 cx [(⟨0, o.1, 256⟩, 256)] [] false

/-- FRONT.JOIN (R78, R302, R303). -/
def execFrontJoin (w : Word) (s : State) : Host.Outcome State Fault Refusal :=
  issue (.frontJoin w) s {
    check := fun cx a s => cx.joinCheck a s
    check2 := fun cx a s => s.rank11 cx [⟨0, (cx.joinOps a).1, 256⟩] (needRW cx.priv)
    own := true
    run := fun cx a s =>
      match cx.answered s with
      | some x =>
        let s := s.dropAsync x.id
        if x.parts.any (fun p => p.data == 2) then cx.trap { cause := 0x03 } s else cx.advance s
      | none =>
        let o := cx.joinOps a
        let s := s.fills cx.core cx.tenant [⟨0, o.1, 256⟩]
        let pa := s.phys cx.core cx.tenant o.1
        cx.ask [({ pa := pa, n := 4 }, .frontJoin pa (BitVec.ofNat 64 o.1) o.2, 0)] s }

/-- FRONT.LEAVE (R304): nothing in an unbound group. -/
def execFrontLeave (w : Word) (s : State) : Host.Outcome State Fault Refusal :=
  issue (.frontLeave w) s {
    own := true
    run := fun cx _ s =>
      match cx.answered s with
      | some x => cx.advance (s.dropAsync x.id)
      | none =>
        match s.frontOf cx.g with
        | none => cx.advance s
        | some (pa, k) => cx.ask [({ pa := pa, n := 4 }, .frontLeave pa k, 0)] s }

/-- FRONT.STEP (R79, R304): nothing in an unbound group. -/
def execFrontStep (w : Word) (s : State) : Host.Outcome State Fault Refusal :=
  issue (.frontStep w) s {
    own := true
    run := fun cx _ s =>
      match cx.ended (fun k => k == .lull), s.frontOf cx.g with
      | some _, _ => cx.advance s
      | none, none => cx.advance s
      | none, some (pa, k) =>
        let p := cx.sendOp pa (.frontStep pa k cx.c) s
        cx.stay { kind := .lull, ids := [p.2], rel := true } p.1 }

/-- FRONT.STAT (R305): an unbound group reads 0. -/
def execFrontStat (w : Word) (s : State) : Host.Outcome State Fault Refusal :=
  issue (.frontStat w) s {
    run := fun cx a s =>
      let x : Async := { id := 0, core := cx.core, tag := cx.tag, dest := cx.asyncDest false a, ty := w.ty, parts := [] }
      let p : Part := { regs := cx.dstRegs w.ty.regs 0, n := w.ty.bytes }
      match s.frontOf cx.g with
      | none => s.addAsync { x with parts := [{ p with done := true }] }
      | some (pa, k) => s.sendOps x [({ p with pa := pa }, .frontStat pa k w.fspec.toNat, 0)] }

/-! ### At the slice -/

/-- The member that a slot of a front stands for. -/
def State.isMember (s : State) (pa k team grp : Nat) : Bool :=
  match s.frontAt pa with | some e => e.mem.getLsbD k && e.who.contains (k, team, grp) | none => false

/-- A new entry for the record has room in its tenant's share of the slice (R303). Shares whose sum is above the 32 entries of a slice are still all given (DESIGN CHOICE, log 124). -/
def State.frontRoom (s : State) (pa tenant : Nat) : Bool :=
  (s.frontAt pa).isSome || decide ((s.fronts.filter (fun e => sliceOf e.pa == sliceOf pa && e.tenant == tenant)).length < (s.tenant tenant).fquota)

/-- A join performed: the entry, its STEP k, and the group's binding, with the FRONT field of its control area (R78, R303, R484). -/
def State.frontJoin (s : State) (pa : Nat) (va : W64) (k tenant team grp : Nat) : State :=
  let s : State :=
    if (s.frontAt pa).isSome then s
    else
      let x := s.peek pa 256
      { s with fronts := s.fronts ++ [{ pa := pa, va := va, tenant := tenant, slip := fld x 47 32, pat := fld x 95 64, steps := unpackSparse 16 (x / 2 ^ 512) 0 64 [] }] }
  let m := match s.frontAt pa with | some e => e.minOf e.mem | none => none
  let s := s.updFront pa (fun e => { e with mem := e.mem ||| BitVec.ofNat 64 (2 ^ k), steps := e.steps.set k (BitVec.ofNat 16 (m.getD 0)), who := e.who ++ [(k, team, grp)] })
  let s := s.updGroup team grp (fun g => { g with front := some (pa, k), frontAddr := va })
  match s.group team grp with
  | some g => s.ctrlPut g 760 8 (va.toNat % 2 ^ 56 / 256 * 256 + 64 + k)
  | none => s

/-- A step performed, or the member put in lull (R79). -/
def State.frontStep (s : State) (pa k : Nat) (c : CtxId) : State :=
  match s.frontAt pa with
  | none => s.wake c 1
  | some e =>
    if !s.isMember pa k c.team c.grp then s.wake c 1
    else if e.within k then
      let m := e.minOf e.mem
      ((s.updFront pa (fun e => { e with steps := e.steps.set k (e.steps.get k + 1) })).wake c 1).evalFront pa m
    else s.updFront pa (fun e => { e with lull := e.lull ++ [(k, s.clock, c)] })

/-- The value that FRONT.STAT selects (R305). -/
def State.frontValue (s : State) (pa k what : Nat) : Nat :=
  match s.frontAt pa with
  | none => 0
  | some e => if what = 0 then e.mem.toNat else if what = 1 then (e.steps.get k).toNat else if what = 2 then (e.minOf e.mem).getD 0 else e.slip

/-- The slot that a group's context would issue next or is held at, as PC0 of R63; a halted team's comes from the control area (R477). -/
def State.ejectPc (s : State) (g : Group) : W64 :=
  let halted : Bool := match s.team g.team with | some t => !t.place.here || (match t.squall with | some q => q.entered | none => false) | none => false
  if halted then
    match s.reach g.core (s.tenantOf g.team) (g.ctrlVa + 704) (needR false) with
    | .ok e => BitVec.ofNat 64 (s.coreRead g.core (e.at (g.ctrlVa + 704)) 8)
    | .bad _ _ => pcWord g.arm0.pc g.arm0.slot
  else pcWord g.arm0.pc g.arm0.slot

/-- A member is ejected: the notice to its group, a kind-13 record, and R78 for the others (R80, R477). -/
def State.frontEject (s : State) (pa k : Nat) : State :=
  match s.frontAt pa with
  | none => s
  | some e =>
    let va := e.va
    match e.who.find? (fun w => w.1 == k) with
    | none => s
    | some (_, team, grp) =>
      let s := match s.group team grp, s.team team with
        | some g, some t =>
          let pc := s.ejectPc g
          let halted : Bool := !t.place.here || (match t.squall with | some q => q.entered | none => false)
          let l := s.launch t.launch
          let s := if g.front = some (pa, k) then s.updGroup team grp (fun g => { g with front := none, frontAddr := 0 }) else s
          let s := if halted then s.ctrlPut g 760 1 (setFld (s.ctrlFront g % 256) 6 6 0) else s
          (s.pushErr { tenant := l.tenant, kind := 13, code := 0x35, detail := k, info := va, pc := pc, launch := l.id, team := t.index, grp := grp }).bb
            (sliceOf pa / 8) (32 + sliceOf pa % 8) l.tenant 0x49 va k
        | _, _ => s
      s.frontRemove pa k

/-- What a slice does for a front (R77, R303-R305, R457): a record it must interpret and finds poisoned is left unchanged, and POISON is raised imprecisely. `none` is a join that waits for its tenant's share. -/
def State.frontOp (s : State) (r : Req) (o : SliceOp) : Option State :=
  match o with
  | .frontJoin pa va k =>
    if !s.frontRoom pa r.tenant then none
    else if (s.frontAt pa).isNone && s.poisonIn pa 256 then
      some ((s.imprecise r.tag 0x16 0 0 (BitVec.ofNat 64 (pa / 128 * 128 + 2 ^ 63)) 0).answerVal r 0 false)
    else if s.frontRefuses pa k r.tenant then some (s.answerVal r 2 false)
    else some ((s.frontJoin pa va k r.tenant r.tag.team r.tag.grp).answerVal r 1 false)
  | .frontLeave pa k =>
    let s := if s.isMember pa k r.tag.team r.tag.grp then s.leaveFront r.tag.team r.tag.grp else s
    some ((match s.group r.tag.team r.tag.grp with
      | some g => if g.hmode then s.ctrlPut g 760 1 (setFld (s.ctrlFront g % 256) 6 6 0) else s
      | none => s).answerVal r 1 false)
  | .frontStep pa k c =>
    match s.armOf c with
    | some a => if a.wait.kind == .lull && a.wait.status == none && a.wait.ids == [r.id] then some (s.frontStep pa k c) else some s
    | none => some s
  | .frontStat pa k what => some (s.answerVal r (if s.isMember pa k r.tag.team r.tag.grp then s.frontValue pa k what else 0) false)
  | _ => some s

/-- FRONT_EJECTION (R80, R477): once a member has been in lull for FRPAT cycles, the lowest slot with the smallest step is ejected, and the interval starts afresh. -/
def execFrontEjection (record : Nat) (s : State) : Host.Outcome State Fault Refusal :=
  match s.frontAt record with
  | none => .next s
  | some e =>
    if s.stopped || !e.lull.any (fun l => decide (l.2.1 + e.pat ≤ s.clock)) then .next s
    else
      match e.minOf e.mem with
      | none => .next s
      | some m =>
        match (lanesOf e.mem).find? (fun k => (e.steps.get k).toNat == m) with
        | none => .next s
        | some k => .next ((s.updFront record (fun e => { e with lull := e.lull.map (fun l => (l.1, s.clock, l.2.2)) })).frontEject record k)

end Sys2Proof.Machine
end

