-- ==== Sys2Proof/Machine/Copy.lean ====
section
/-! DEFINITION. Copies of major CPT: KICK, CPY, and the event that performs a copy record (R105, R106, R306-R308, R439, R463, R464). -/

namespace Sys2Proof.Machine

/-- KICK (R307): one COPY operation. -/
def execKick (w : Word) (s : State) : Host.Outcome State Fault Refusal :=
  let so (cx : Cx) (a : Nat) : Nat := (cx.srcU a w.a .u32).toNat
  let n (cx : Cx) (a : Nat) : Nat := (cx.srcU a w.b .u32).toNat
  issue (.kick w) s {
    hold := fun cx s => cx.opHeld clsCopy s
    check := fun cx a s =>
      if n cx a == 0 || decide (64 < n cx a) then some { cause := 0x03 } else s.rank10 cx [] [(⟨0, so cx a, 32 * n cx a⟩, 32)] false
    run := fun cx a s => cx.issueOp a clsCopy (.kick (so cx a) (n cx a)) none 0 s }

/-- The end of a copy that an operand of CPY names. -/
def Cx.copyEnd (cx : Cx) (sel : Nat) (o : Opd) (scr : Bool) : End := ⟨scr, (cx.srcU sel o (if scr then .u32 else .u64)).toNat⟩

/-- The accesses of CPY, of memory and of scratchpad. -/
def Cx.cpyAccs (cx : Cx) (w : Word) (sel : Nat) (scr : Bool) : List (Acc × Nat) :=
  let len := (cx.srcU sel w.c .u32).toNat
  let e (o : Opd) (b : Bool) : List (Acc × Nat) := if b == scr then [(⟨0, (cx.copyEnd sel o b).addr, len⟩, 4)] else []
  e w.a (w.fspec.getLsbD 1) ++ e w.b (w.fspec.getLsbD 0)

/-- CPY (R308). -/
def execCpy (w : Word) (s : State) : Host.Outcome State Fault Refusal :=
  let len (cx : Cx) (a : Nat) : Nat := (cx.srcU a w.c .u32).toNat
  issue (.cpy w) s {
    hold := fun cx s => cx.opHeld clsCopy s
    check := fun cx a s => if len cx a % 4 != 0 then some { cause := 0x03 } else s.rank10 cx (cx.cpyAccs w a false) (cx.cpyAccs w a true) false
    run := fun cx a s =>
      cx.issueOp a clsCopy (.cpy (cx.copyEnd a w.a (w.fspec.getLsbD 1)).addr (cx.copyEnd a w.b (w.fspec.getLsbD 0)).addr (len cx a) (w.fspec.toNat % 4)) none (len cx a) s }

/-! ### The copy engine -/

/-- A copy record (R306). -/
structure CopyRec where
  dst : End
  src : End
  len : Nat
  bobj : Nat
  rsv : Nat
deriving DecidableEq, Repr

/-- A copy record from its 32 bytes. -/
def copyRec (x : Nat) : CopyRec :=
  let e (scr : Bool) (v : Nat) : End := ⟨scr, if scr then v % 2 ^ 32 else v⟩
  { dst := e (x.testBit 1) (fld x 255 192), src := e (x.testBit 0) (fld x 191 128), len := fld x 127 96, bobj := fld x 95 64, rsv := fld x 63 2 }

/-- A range of scratchpad that does not fit the team's. -/
def End.outside (e : End) (n size : Nat) : Bool := e.scr && decide (0 < n) && decide (size < e.addr + n)

/-- The scratchpad size of an operation's team. -/
def State.sizeOf (s : State) (team : Nat) : Nat := match s.team team with | some t => t.scrSize | none => 0

/-- Record k of a kick. -/
def State.kickRec (s : State) (o : EngOp) (so k : Nat) : CopyRec := copyRec (s.scrRead o.tag.team (so + 32 * k) 32)

/-- The fault that starting a record meets: poisoned, malformed, or outside the scratchpad (R306, R457, R464). -/
def State.kickBad (s : State) (o : EngOp) (so k : Nat) : Option Nat :=
  let r := s.kickRec o so k
  let size := s.sizeOf o.tag.team
  if s.scrBad o.tag.team (so + 32 * k) 32 then some 0x16
  else if r.rsv != 0 || r.len % 4 != 0 || r.dst.addr % 4 != 0 || r.src.addr % 4 != 0 || (r.bobj != 0xFFFFFFFF && r.bobj % 16 != 0) then some 0x80
  else if r.dst.outside r.len size || r.src.outside r.len size || (r.bobj != 0xFFFFFFFF && decide (size < r.bobj + 16)) then some 0x83
  else none

/-- LEN of a record counted down on its object, when it names one within the scratchpad. -/
def State.kickCount (s : State) (o : EngOp) (so k : Nat) (fault : Bool) : State :=
  let r := s.kickRec o so k
  if r.bobj == 0xFFFFFFFF || r.bobj % 16 != 0 || decide (s.sizeOf o.tag.team < r.bobj + 16) then s else s.countDown o.tag.team r.bobj r.len fault

/-- The object that a record names is poisoned (R457). -/
def State.kickObjBad (s : State) (o : EngOp) (so k : Nat) : Bool :=
  let r := s.kickRec o so k
  r.bobj != 0xFFFFFFFF && s.objBad o.tag.team r.bobj

/-- A kick stops (R463): every record that has not landed counts down with FAULT. -/
def State.kickFault (s : State) (o : EngOp) (so n : Nat) (e : EFault) : State :=
  (((List.range n).filter (fun k => !o.prog.contains k)).foldl (fun s k => s.kickCount o so k true) s).engFault o.id e

/-- Earlier kicks of the core have been taken (R307). -/
def State.kickTurn (s : State) (o : EngOp) : Bool :=
  (s.ops.takeWhile (fun x => x.id != o.id)).all (fun x => x.core != o.core || x.started || x.ready || x.cancelled || (match x.kind with | .kick _ _ => false | _ => true))

/-- COPY_RECORD_LANDED (R307, R308): all bytes of one record are performed. The records are started in order, so a record that cannot start stops the later ones. -/
def execCopyRecordLanded (id index : Nat) (s : State) : Host.Outcome State Fault Refusal :=
  match s.op id with
  | none => .next s
  | some o =>
    if !s.opRuns o || o.prog.contains index then .next s
    else
      let s' := s.updOp id (fun o => { o with started := true })
      match o.kind with
      | .kick so n =>
        if n ≤ index || !s.kickTurn o then .next s
        else
          match (List.range (index + 1)).findSome? (fun k => if o.prog.contains k then none else s.kickBad o so k) with
          | some d => .next (s'.kickFault o so n (d, 0, 0))
          | none =>
            let r := s.kickRec o so index
            match s'.engCopy o r.dst r.src r.len with
            | (s, some e) => .next (s.kickFault o so n e)
            | (s, none) =>
              if s.kickObjBad o so index then .next (s.kickFault o so n (0x16, 0, 0)) else
              let s := (s.kickCount o so index false).opShare id index 0
              .next (if o.prog.length + 1 = n then s.opReady id else s)
      | .cpy dst src len dir =>
        if index ≠ 0 then .next s
        else
          match s'.engCopy o ⟨dir.testBit 1, dst⟩ ⟨dir.testBit 0, src⟩ len with
          | (s, some e) => .next (s.engFault id e)
          | (s, none) => .next ((s.opShare id 0 len).opReady id)
      | _ => .next s

end Sys2Proof.Machine
end

