-- ==== Sys2Proof/Machine/Task.lean ====
section
/-! DEFINITION. Tasks of major CPT: parking a continuation, and task queues with what their home slice does (R309-R315, R439, R457, R471, R487). -/

namespace Sys2Proof.Machine

/-! ### CONT.PARK (R309, R310) -/

/-- The bytes of a continuation record: its header, and n vector registers lane by lane (R309). -/
def Cx.contBytes (cx : Cx) (n : Nat) (krn : W64) (handle : W32) : Nat :=
  let su := (List.range 4).foldl (fun a k => a + (cx.g.sget (armSel cx.c) k).toNat * 2 ^ (32 * k)) 0
  let next := pcAfter cx.bundle cx.slot cx.valid
  let vs := (List.range n).foldl (fun a r => a + ((List.range cx.W).foldl (fun b L => b + (cx.g.vget r L).toNat * 2 ^ (32 * L)) 0) * 2 ^ (32 * cx.W * r)) 0
  n * 2 ^ 64 + handle.toNat * 2 ^ 96 + (pcWord next.1 next.2).toNat * 2 ^ 128 + krn.toNat * 2 ^ 192 + (cx.g.curMask cx.c.arm).toNat * 2 ^ 320 + su * 2 ^ 384
    + vs * 2 ^ 512

/-- The bytes of a record with n registers. -/
def Cx.contSize (cx : Cx) (n : Nat) : Nat := 64 + n * cx.W * 4

/-- Words that a park reads besides its operands: s0-s3 and every lane of the registers it saves. -/
def Cx.contWords (cx : Cx) (n : Nat) : List (Nat × Nat) :=
  ((List.range 4).map (fun k => (0, 2 ^ 20 + k))) ++ (List.range n).flatMap (fun r => (List.range cx.W).map (fun L => (L, r * 64 + L)))

/-- Bytes written at the home slices for a slot, past its core's cache (R105). -/
def Cx.sliceWrite (cx : Cx) (va n v : Nat) (s : State) : State :=
  (pieces va n).foldl (fun s p => s.engineWrite cx.core cx.tag (s.phys cx.core cx.tenant p.1) p.2 (v / 2 ^ (8 * (p.1 - va)) % 2 ^ (8 * p.2)) false) s

/-- CONT.PARK (R310): after a release of DEVICE scope the record is written and attached, and the group retires with its pins. -/
def execContPark (w : Word) (s : State) : Host.Outcome State Fault Refusal :=
  let n := w.fspec.toNat
  let acc (cx : Cx) (a : Nat) : Acc := ⟨0, (cx.srcU a w.a .u64).toNat, cx.contSize n⟩
  issue (.contPark w) s {
    hold := fun cx s => (s.marksOf cx.c.team cx.c.grp).any (fun m => m.v.any (fun r => decide (r < n)) || m.u.any (fun r => decide (r < 4)))
    check := fun cx a s => (cx.futCheck a w.b s).or (s.rank10 cx [(acc cx a, 64)] [] false)
    used := some (fun cx a => (cx.srcWords (.contPark w) false a ++ cx.contWords n))
    check2 := fun cx a s => s.rank11 cx [acc cx a] (needW cx.priv)
    rel := fun _ => some 2
    own := true
    run := fun cx a s =>
      match s.team cx.c.team with
      | none => s
      | some t =>
        let h := cx.handle a w.b
        let va := (acc cx a).va
        let s := (s.fills cx.core cx.tenant [acc cx a])
        let s := cx.sliceWrite va (cx.contSize n) (cx.contBytes n (s.launch t.launch).recVa h) s
        let c : Cont := { id := s.nextId, tenant := cx.tenant, va := BitVec.ofNat 64 va, ticket := h.toNat % 2 ^ 24, supplier := t.supplier,
                          eligible := (s.tenant cx.tenant).stateOf (h.toNat % 2 ^ 24) != 0, order := s.nextId, grp := cx.c.grp, index := t.index }
        let s := { s with conts := s.conts ++ [c], nextId := s.nextId + 1 }
        let s := s.updCore cx.core (fun x => x.unpin cx.c.team)
        s.retireGroup cx.c.team cx.c.grp }

/-! ### Task queues (R312-R315) -/

/-- The header address in a lane, or once for an arm's copies. -/
def Cx.hdrVa (cx : Cx) (vec : Bool) (sel L : Nat) : Nat := (cx.srcAny vec sel cx.h.a .u64 L).toNat

/-- The accesses of a queue instruction: its header in each lane, or once. -/
def Cx.hdrAccs (cx : Cx) (vec : Bool) (sel : Nat) : List Acc := cx.accs vec (cx.hdrVa vec sel) 64

/-- The geometry that an entry of a header takes: the registers, or none when the header is malformed (R6, R312, R439). -/
def Hdr.regs (h : Hdr) : Option Nat := if 3 ≤ h.log2e ∧ h.log2e ≤ 6 ∧ h.log2c ≤ 24 ∧ h.rsv = false then some (2 ^ h.log2e / 4) else none

/-- Registers that an entry takes, by the header that the issuing core expects the queue to have when its action is performed: that of a TQ.INIT on its way, else as it reads it (R313). -/
def State.entryLen (s : State) (cx : Cx) (va : Nat) : Option Nat :=
  match s.trCore cx.core cx.tenant va with
  | .bad _ _ => none
  | .ok e =>
    let init (r : Req) : Option Nat := match r.kind with | .op (.tqInit pa _ _ l) => if pa = e.at va then some (2 ^ l / 4) else none | _ => none
    (s.reqs.reverse.findSome? init).or (hdrOf (s.coreRead cx.core (e.at va) 64)).regs

/-- The uniform registers that stand in a row from sK: s0 to s127 when U is 96, else those below U, or the banked ones (R42, R43). -/
def uniRoom (ureg k : Nat) : Nat := if 96 ≤ k ∨ 96 ≤ ureg then 128 - k else ureg - k

/-- Consecutive registers that an operand names in a lane, at most 16: below C, within the uniform file, or as far as the table entries run on (R313). -/
def Cx.roomOf (cx : Cx) (o : Opd) (L : Nat) : Nat :=
  match o with
  | .v i => Nat.min 16 (cx.g.count - i.toNat)
  | .s i => Nat.min 16 (uniRoom cx.g.ureg i.toNat)
  | .m k =>
    let r := cx.runReg o 0 L
    Nat.min (cx.g.count - r) (((List.range 16).takeWhile (fun j => decide (k.toNat + j < 64) && cx.runReg o j L == r + j)).length)
  | _ => 16

/-- The room of every lane that acts: the smallest. -/
def Cx.room (cx : Cx) (o : Opd) (vec : Bool) : Nat := if vec then cx.act.foldl (fun a L => Nat.min a (cx.roomOf o L)) 16 else cx.roomOf o 0

/-- The registers of an operand that one action moves, so far as the issuing core can tell: those of its own queue's entry, or all that it may come to where that queue has no geometry (R185, R313). -/
def State.entryRun (s : State) (cx : Cx) (o : Opd) (x : Acc) : Nat := Nat.min (cx.roomOf o x.lane) ((s.entryLen cx x.va).getD 16)

/-- The registers that any of a slot's actions moves: what must hold no pending mark (R185). -/
def State.entryRegs (s : State) (cx : Cx) (vec : Bool) (o : Opd) : Nat :=
  ((cx.arms vec).flatMap (cx.hdrAccs vec)).foldl (fun n x => Nat.max n (s.entryRun cx o x)) 0

/-- The words of the registers that a push moves. -/
def State.tqWords (s : State) (cx : Cx) (vec : Bool) (sel : Nat) (o : Opd) : List (Nat × Nat) :=
  (cx.hdrAccs vec sel).flatMap (fun x =>
    let a := if vec then laneArm cx.g cx.c.arm x.lane else sel
    cx.opWords cx.h.a 2 a x.lane ++ cx.opWords o (s.entryRun cx o x) a x.lane)

/-- The value of register j of a run in a lane. -/
def Cx.runVal (cx : Cx) (vec : Bool) (sel : Nat) (o : Opd) (j L : Nat) : W32 :=
  match o with
  | .s i => cx.g.sget (if vec then laneArm cx.g cx.c.arm L else sel) (i.toNat + j)
  | .v _ | .m _ => cx.g.vget (cx.runReg o j L) L
  | _ => 0

/-- The checks that queue instructions share: a header aligned to 64 bytes that can be read and written. -/
def State.hdrCheck (s : State) (cx : Cx) (vec : Bool) (sel : Nat) : Option Bad := s.rank10 cx (aligned (cx.hdrAccs vec sel) 64) [] false

/-- TQ.INIT (R312, R313). -/
def execTqInit (w : Word) (s : State) : Host.Outcome State Fault Refusal :=
  let vec := isVector (Instr.tqInit w).form (headR w)
  let bad (cx : Cx) (a L : Nat) : Bool :=
    let g := (cx.srcAny vec a w.c .u32 L).toNat
    let e := fld g 10 8
    fld g 7 5 != 0 || fld g 31 11 != 0 || decide (24 < fld g 4 0) || decide (e < 3) || decide (6 < e) || (cx.srcAny vec a w.b .u64 L).toNat % 2 ^ e != 0
  issue (.tqInit w) s {
    check := fun cx a s =>
      (((cx.hdrAccs vec a).find? (fun x => bad cx a x.lane)).map (fun x => ({ cause := 0x03, lane := x.lane } : Bad))).or (s.hdrCheck cx vec a)
    check2 := fun cx a s => s.rank11 cx (cx.hdrAccs vec a) (needRW cx.priv)
    rel := fun _ => some w.scope.toNat
    run := fun cx a s =>
      (cx.hdrAccs vec a).foldl (fun s x =>
        let pa := s.phys cx.core cx.tenant x.va
        let g := (cx.srcAny vec a w.c .u32 x.lane).toNat
        (cx.sendOp pa (.tqInit pa (cx.srcAny vec a w.b .u64 x.lane) (fld g 4 0) (fld g 10 8)) s).1) (s.fills cx.core cx.tenant (cx.hdrAccs vec a)) }

/-- A header is that of its tenant's fabric send queue; FSQ 0 names none (R382). -/
def State.isFsq (s : State) (tenant pa : Nat) : Bool :=
  let q := (s.tenant tenant).fsq.toNat
  q != 0 && (match s.reachAgent unitFabric tenant q { rd := true, w := true } with | .ok e => e.at q == pa | .bad _ _ => false)

/-- A push that would raise the FABRIC counter above 63 does not issue; pushes on their way count (R104, R382). -/
def Cx.fsqHeld (cx : Cx) (vec : Bool) (s : State) : Bool :=
  let onto (r : Req) : Bool := match r.kind with | .op (.tqPush pa _ _ _) => r.tag.team == cx.c.team && r.tag.grp == cx.c.grp && s.isFsq cx.tenant pa | _ => false
  let n := (cx.sels.flatMap (fun a => (cx.hdrAccs vec a).filter (fun x => s.isFsq cx.tenant (s.phys cx.core cx.tenant x.va)))).length
  (cx.g.arm cx.c.arm).wait.kind != .slice && decide (0 < n) && decide (63 < cx.g.ecnt.getD clsFabric 0 + n + (s.reqs.filter onto).length)

/-- A fabric send pushed: it counts in its group's FABRIC class (R382). -/
def State.newSend (s : State) (r : Req) (index : Nat) : State :=
  let (s, id) := s.take
  let op : EngOp := { id := id, cls := clsFabric, tag := r.tag, core := r.core, kind := .send index 0 }
  { s with ops := s.ops ++ [op] }.bumpCnt r.tag.team r.tag.grp clsFabric (· + 1)

/-- TQ.PUSH (R313, R314): its results are written when every lane's action has been answered. -/
def execTqPush (w : Word) (s : State) : Host.Outcome State Fault Refusal :=
  let vec := isVector (Instr.tqPush w).form (headR w)
  issue (.tqPush w) s {
    hold := fun cx s => cx.opMarked (s.marksOf cx.c.team cx.c.grp) w.b { n := s.entryRegs cx vec w.b } || cx.fsqHeld vec s
    check := fun cx a s => s.hdrCheck cx vec a
    used := some (fun _ _ => [])
    check2 := fun cx a s => (cx.poison (s.tqWords cx vec a w.b)).or (s.rank11 cx (cx.hdrAccs vec a) (needRW cx.priv))
    rel := fun _ => some w.scope.toNat
    run := fun cx a s =>
      match cx.answered s with
      | some x =>
        let s := cx.done (s.dropAsync x.id)
        if vec then
          cx.writeP w.slot.toNat (x.parts.map (fun p => (p.lane, p.pred))) (cx.writeV .u32 (x.parts.map (fun p => (p.lane, BitVec.ofNat 64 (p.data.toNat % 2 ^ 32)))) s)
        else
          match x.parts with
          | p :: _ => cx.writeQ a w.slot.toNat p.pred (cx.writeU a .u32 (BitVec.ofNat 64 (p.data.toNat % 2 ^ 32)) s)
          | [] => s
      | none =>
        let room := cx.room w.b vec
        let item (x : Acc) : Part × SliceOp × Nat :=
          let pa := s.phys cx.core cx.tenant x.va
          ({ lane := x.lane, pa := pa, n := 4 }, .tqPush pa (BitVec.ofNat 64 x.va) ((List.range room).map (fun j => cx.runVal vec a w.b j x.lane)) room, 0)
        if (cx.hdrAccs vec a).isEmpty then s else cx.ask ((cx.hdrAccs vec a).map item) (s.fills cx.core cx.tenant (cx.hdrAccs vec a)) }

/-- TQ.POP (R313, R315). -/
def execTqPop (w : Word) (s : State) : Host.Outcome State Fault Refusal :=
  let vec := isVector (Instr.tqPop w).form (headR w)
  issue (.tqPop w) s {
    hold := fun cx s => cx.opMarked (s.marksOf cx.c.team cx.c.grp) w.dst { n := s.entryRegs cx vec w.dst }
    check := fun cx a s => s.hdrCheck cx vec a
    check2 := fun cx a s => s.rank11 cx (cx.hdrAccs vec a) (needRW cx.priv)
    run := fun cx a s =>
      let room := cx.room w.dst vec
      let item (x : Acc) : Part × SliceOp × Nat :=
        let pa := s.phys cx.core cx.tenant x.va
        let k := Nat.max 1 (s.entryRun cx w.dst x)
        ({ lane := x.lane, regs := cx.dstRegs k x.lane, pa := pa, n := 4 * k }, .tqPop pa (BitVec.ofNat 64 x.va) room, 0)
      let l := cx.hdrAccs vec a
      if l.isEmpty then s
      else
        (s.fills cx.core cx.tenant l).sendOps
          { id := 0, core := cx.core, tag := cx.tag, dest := cx.asyncDest vec a, ty := .u32, parts := [], acq := some w.scope.toNat, hit := true,
            pd := if w.slot = 7 then none else some w.slot.toNat } (l.map item) }

/-! ### At the slice -/

/-- n unconstrained words of 64 bits laid side by side. -/
def State.freeBits : State → Nat → State × Nat
  | s, 0 => (s, 0)
  | s, n + 1 =>
    let f := s.free
    let r := State.freeBits f.1 n
    (r.1, f.2.toNat + 2 ^ 64 * r.2)

/-- Registers re-run from the first when the header changed after issue. -/
def runFrom (l : List Nat) (k : Nat) : List Nat := match l with | [] => [] | r :: _ => (List.range k).map (fun j => r + j)

/-- A queue operation that is not performed: ENGINE or POISON raised imprecisely, and the kind-8 record's bits (R439, R457, R487). -/
def State.qTrap (s : State) (r : Req) (cause detail info : Nat) : State :=
  if cause = 0x16 then s.imprecise r.tag 0x16 0 0 (BitVec.ofNat 64 info) 0 else s.imprecise r.tag 0x30 0 cause (BitVec.ofNat 64 info) detail

/-- A slice's translation of an address that a header holds, for an operation that a group issued (R486). -/
def State.sliceTr (s : State) (r : Req) (pa : Nat) (n : Bool → Need) : Nat → Tr := fun va => s.reachAgent (sliceOf pa) r.tag.tenant va (n r.tag.priv)

/-- TQ.INIT, TQ.PUSH and TQ.POP at the header's slice (R313-R315, R471). Of a frozen queue whose entry also runs past the operand's file, ENGINE alone is raised (DESIGN CHOICE, log 136). -/
def State.tqOp (s : State) (r : Req) (o : SliceOp) : State :=
  match o with
  | .tqInit pa ring c e => s.poke pa 32 (ring.toNat * 2 ^ 192 + e * 2 ^ 8 + c)
  | .tqPush pa _ data room =>
    let fail (s : State) : State := s.answer r (fun p => { p with data := 0xFFFFFFFF, pred := false })
    match (if s.poisonAt pa then some 0 else (hdrOf (s.peek pa 64)).regs) with
    | none => (fail s).qTrap r 0x80 0 (lineInfo pa).toNat
    | some k =>
      if room < k then fail (match r.async with | some (_, 0) => s.qTrap r 0x80 0 (lineInfo pa).toNat | _ => s)
      else
        match s.qPush (s.sliceTr r pa needW) pa (ofBytes ((data.take k).flatMap (fun x => bytesOf 4 x.toNat))) with
        | (s, .done i _) =>
          let s := if s.isFsq r.tag.tenant pa then s.newSend r i else s
          (s.keepAgent (sliceOf pa) r.tag.tenant ((hdrOf (s.peek pa 64)).entry i)).answer r (fun p => { p with data := BitVec.ofNat 512 i, pred := true })
        | (s, .refused) => fail s
        | (s, .frozen) => (fail s).imprecise r.tag 0x32 0 0 (lineInfo pa) 0
        | (s, .bad c d i) =>
          let s := s.qTrap r c d i
          if c = 0x16 then
            let f := s.free
            f.1.answer r (fun p => { p with data := BitVec.ofNat 512 f.2.toNat, pred := f.2.getLsbD 32 })
          else fail s
  | .tqPop pa _ room =>
    let fail (s : State) : State := s.answer r (fun p => { p with pred := false, skip := true })
    match (if s.poisonAt pa then some 0 else (hdrOf (s.peek pa 64)).regs) with
    | none => (fail s).qTrap r 0x80 0 (lineInfo pa).toNat
    | some k =>
      if room < k then fail (match r.async with | some (_, 0) => s.qTrap r 0x80 0 (lineInfo pa).toNat | _ => s)
      else
        let old := hdrOf (s.peek pa 64)
        match s.qPop (s.sliceTr r pa needR) pa with
        | (s, .done i v) =>
          let va := old.entry i
          let bad := match s.sliceTr r pa needR va with | .ok e => s.poisonIn (e.at va) old.esize | .bad _ _ => false
          (s.keepAgent (sliceOf pa) r.tag.tenant va).answer r (fun p => { p with regs := runFrom p.regs k, n := 4 * k, data := BitVec.ofNat 512 v, pred := true, poison := bad })
        | (s, .refused) => fail s
        | (s, .frozen) => (fail s).imprecise r.tag 0x32 0 0 (lineInfo pa) 0
        | (s, .bad c d i) =>
          let s := s.qTrap r c d i
          if c = 0x16 then
            let f := s.freeBits 9
            f.1.answer r (fun p => { p with data := BitVec.ofNat 512 f.2, pred := f.2.testBit 512 })
          else fail s
  | _ => s

end Sys2Proof.Machine
end

