-- ==== Sys2Proof/Machine/Table.lean ====
section
/-! DEFINITION. The key-value block table: its control record and entries, hashing, lookup, allocation and freeing, the tier clock and its demotions, and the prefix index (R144-R153, R399, R464, R467, R470, R486). -/

namespace Sys2Proof.Machine

/-- A tenant's table as an access sees it: KVTBASE and KVTSIZE, and who walks it: a core for an issuing slot, or an agent unit (R146, R486). `own` says that a group of `core` asked for the access, so its clean copies go (R105), `perf` that it is made for the engine operation of a `tag`: its accesses are counted, and its writes are engine writes of the race detector (R397, R461). -/
structure Tab where
  tenant : Nat
  core : Nat
  unit : Option Nat
  priv : Bool
  own : Bool
  perf : Bool
  base : Nat
  size : Nat
  tag : Tag := {}
deriving DecidableEq, Repr

/-- The table of a tenant as an engine operation of the group of a tag walks it. -/
def State.tabOf (s : State) (core : Nat) (tag : Tag) : Tab :=
  ⟨tag.tenant, core, none, tag.priv, true, true, (s.tenant tag.tenant).kvtBase.toNat % 2 ^ 56 / 256 * 256, (s.tenant tag.tenant).kvtSize.toNat, tag⟩

/-- The table as the slice operation of an instruction walks it: the operation is counted as one access of its line, and what it does there is not counted again (log 70). -/
def State.tabReq (s : State) (core : Nat) (tag : Tag) : Tab := { s.tabOf core tag with perf := false }

/-- The table of a tenant as an agent walks it. -/
def State.tabAgent (s : State) (unit tenant : Nat) : Tab :=
  ⟨tenant, 0, some unit, false, false, false, (s.tenant tenant).kvtBase.toNat % 2 ^ 56 / 256 * 256, (s.tenant tenant).kvtSize.toNat, {}⟩

/-- Table entries N. -/
def Tab.n (t : Tab) : Nat := 2 ^ fld t.size 4 0
/-- ECODE. -/
def Tab.ecode (t : Tab) : Nat := fld t.size 11 8
/-- The head dimension D. -/
def Tab.d (t : Tab) : Nat := 32 * (fld t.size 18 16 + 1)
/-- Bytes of a block (R144). -/
def Tab.bytes (t : Tab) : Nat := fld t.size 47 32 * 128
/-- The element code names dual-exponent blocks. -/
def isDeb (ec : Nat) : Bool := decide (5 ≤ ec) && decide (ec ≤ 7)
/-- ROWB (R144). -/
def Tab.rowb (t : Tab) : Nat := if isDeb t.ecode then t.d / 32 * blockBytes t.ecode else t.d * elemBits t.ecode / 8
/-- A valid KVTSIZE (R146). -/
def Tab.ok (t : Tab) : Bool :=
  decide (8 ≤ fld t.size 4 0) && decide (fld t.size 4 0 ≤ 24) && decide (t.ecode ≤ 9) && decide (64 + 32 * t.rowb ≤ t.bytes)
    && fld t.size 63 48 == 0 && fld t.size 31 19 == 0 && fld t.size 15 12 == 0 && fld t.size 7 5 == 0

/-- A translation for the table's walker; host memory cannot be reached while Eweov is down. -/
def State.tabTr (s : State) (t : Tab) (need : Need) (va : Nat) : Tr :=
  match (match t.unit with | none => s.reach t.core t.tenant va need | some u => s.reachAgent u t.tenant va need) with
  | .ok e => if isHost (e.at va) && !s.eweovUp then .bad 0x82 0 else .ok e
  | b => b

/-- Bytes that the walker interprets. -/
def State.tRead (s : State) (t : Tab) (va n : Nat) : Except EFault Nat := s.vread (s.tabTr t (needR t.priv)) va n

/-- Bytes that the walker only carries, with whether a line of them is poisoned (R65, R457). -/
def State.tCarry (s : State) (t : Tab) (va n : Nat) : Except EFault (Nat × Bool) :=
  (pieces va n).foldr (fun p acc =>
    match s.tabTr t (needR t.priv) p.1, acc with
    | .bad c d, _ => .error (c, d, p.1)
    | .ok _, .error e => .error e
    | .ok e, .ok (v, b) => let x := s.see (e.at p.1) p.2; .ok (x.1 + 2 ^ (8 * p.2) * v, b || x.2)) (.ok (0, false))

/-- Lines that a virtual range stands in. -/
def State.tLines (s : State) (t : Tab) (va n : Nat) : List Nat :=
  (pieces va n).filterMap (fun p => match s.tabTr t { priv := true } p.1 with | .ok e => some (e.at p.1 / 128) | .bad _ _ => none)

/-- The line accesses that an engine operation makes to a virtual range are counted (R397, R398). -/
def State.tCount (s : State) (t : Tab) (va n : Nat) : State :=
  if t.perf then (s.tLines t va n).foldl (fun s l => s.perfLine t.tenant l) s else s

/-- The lines that an engine operation writes meet the race detector (R461). -/
def State.tRace (s : State) (t : Tab) (va n : Nat) : State := if t.perf then (s.tLines t va n).foldl (fun s l => s.raceWrite t.tag l) s else s

/-- Bytes that the walker writes at their slices; the issuing core's clean copies go (R105, R149). -/
def State.tWrite (s : State) (t : Tab) (va n v : Nat) : Except EFault State :=
  match s.vwrite (s.tabTr t (needW t.priv)) va n v with
  | .error e => .error e
  | .ok s' => .ok (((if t.own then s'.dropClean t.core (s.tLines t va n) else s').tCount t va n).tRace t va n)

/-- Bytes written that may carry poison. -/
def State.tCarryTo (s : State) (t : Tab) (va n v : Nat) (poison : Bool) : Except EFault State :=
  match s.tWrite t va n v with
  | .error e => .error e
  | .ok s' => .ok (if poison then { s' with memPoison := s'.memPoison ++ (s.tLines t va n).filter (fun l => !s'.memPoison.contains l) } else s')

/-- ENGINE, DETAIL 0x80: something malformed (R464). -/
def malformed (va : Nat) : EFault := (0x80, 0, va)
/-- KVFULL (R467), with the address of the entry or count word that the walker found full or empty (R446). -/
def kvFull (va : Nat) : EFault := (0x33, 0, va)

/-! ### Entries (R148-R150) -/

/-- The address of entry i. -/
def Tab.entry (t : Tab) (i : Nat) : Nat := t.base + 256 + 32 * i
/-- Entry i. -/
def State.tGet (s : State) (t : Tab) (i : Nat) : Except EFault Nat := s.tRead t (t.entry i) 32
/-- Entry i written. -/
def State.tPut (s : State) (t : Tab) (i v : Nat) : Except EFault State := s.tWrite t (t.entry i) 32 v

/-- STATE of an entry. -/
def entState (x : Nat) : Nat := fld x 2 0
/-- TIER of an entry. -/
def entTier (x : Nat) : Nat := fld x 5 4
/-- ADDR of an entry, as an address. -/
def entAddr (x : Nat) : Nat := fld x 247 192 / 128 * 128
/-- The key of an entry. -/
def entKey (x : Nat) : KvKey := ⟨fld x 63 32, fld x 79 64, fld x 87 80, fld x 127 96⟩
/-- A reserved field of an entry is not zero (R6, R148). -/
def entRsv (x : Nat) : Bool := fld x 255 248 != 0 || fld x 95 88 != 0 || fld x 31 6 != 0
/-- A malformed entry (R6, R148, R150). -/
def entBad (x : Nat) : Bool := decide (3 < entState x) || entTier x == 3 || entRsv x || fld x 198 192 != 0
/-- No entry. -/
def noEntry : Nat := 0xFFFFFFFF

/-- Hash (R149). -/
def KvKey.hash (k : KvKey) (n : Nat) : Nat :=
  let x := (k.seq * 0x9E3779B9 + k.layer * 0x7FEB352D + k.head * 0x846CA68B + k.lblk) % 2 ^ 32
  let y := (x ^^^ (x >>> 16)) * 0x2C1B3C6D % 2 ^ 32
  (y ^^^ (y >>> 13)) % n

/-- The entry holds a key and is not FREE. -/
def entIs (x : Nat) (k : KvKey) : Bool := entState x != 0 && entKey x == k

/-- The overflow list from a link: `fuel` more entries may be visited (R149). -/
def State.kvChain (s : State) (t : Tab) (k : KvKey) : Nat → Nat → Except EFault (Option Nat)
  | 0, j => if j = noEntry then .ok none else .error (malformed (t.entry j))
  | fuel + 1, j =>
    if j = noEntry then .ok none
    else if t.n ≤ j then .error (malformed t.base)
    else do
      let x ← s.tGet t j
      if entIs x k then (if entBad x then .error (malformed (t.entry j)) else .ok (some j)) else State.kvChain s t k fuel (fld x 191 160)

/-- The window of i more entries from an index. -/
def State.kvWindow (s : State) (t : Tab) (k : KvKey) : Nat → Nat → Except EFault (Option Nat)
  | 0, _ => .ok none
  | i + 1, j => do
    let x ← s.tGet t (j % t.n)
    if entIs x k then (if entBad x then .error (malformed (t.entry (j % t.n))) else .ok (some (j % t.n))) else State.kvWindow s t k i (j + 1)

/-- The indices up to the first that passes a test, that one included. -/
def upTo (p : Nat → Bool) : List Nat → List Nat
  | [] => []
  | x :: l => if p x then [x] else x :: upTo p l

/-- The entries of an overflow list from a link, up to the first that passes a test (R149). -/
def State.chainFrom (s : State) (t : Tab) (p : Nat → Bool) : Nat → Nat → List Nat
  | 0, _ => []
  | n + 1, j => if t.n ≤ j then [] else if p j then [j] else j :: State.chainFrom s t p n (match s.tGet t j with | .ok x => fld x 191 160 | .error _ => noEntry)

/-- Entries that an engine operation has read are counted (R397, R398). -/
def State.tSeen (s : State) (t : Tab) (l : List Nat) : State := if t.perf then l.foldl (fun s j => s.tCount t (t.entry j) 32) s else s

/-- The entries that a lookup reads: the window, and the overflow list when the window does not hold the key (R149). -/
def State.kvWalk (s : State) (t : Tab) (k : KvKey) : List Nat :=
  let h := k.hash t.n
  let hit (j : Nat) : Bool := match s.tGet t j with | .ok x => entIs x k | .error _ => true
  let w := upTo hit ((List.range 8).map (fun i => (h + i) % t.n))
  if w.any hit then w else w ++ s.chainFrom t hit t.n (match s.tGet t h with | .ok x => fld x 159 128 | .error _ => noEntry)

/-- The entries that the search for a FREE one reads, of n from an index (R150). -/
def State.freeWalk (s : State) (t : Tab) (n j : Nat) : List Nat :=
  upTo (fun j => match s.tGet t j with | .ok x => entState x == 0 | .error _ => true) ((List.range n).map (fun i => (j + i) % t.n))

/-- Lookup (R149), without its mark. -/
def State.kvFind (s : State) (t : Tab) (k : KvKey) : Except EFault (Option Nat) := do
  match ← s.kvWindow t k 8 (k.hash t.n) with
  | some j => .ok (some j)
  | none => s.kvChain t k t.n (fld (← s.tGet t (k.hash t.n)) 159 128)

/-- A lookup by the table walker: REF is set in the entry it finds (R149). -/
def State.kvLook (s : State) (t : Tab) (k : KvKey) : Except EFault (State × Option Nat) := do
  if !t.ok then .error (malformed t.base)
  else
    let r ← s.kvFind t k
    let s := if t.perf then s.tSeen t (s.kvWalk t k) else s
    match r with
    | none => .ok (s, none)
    | some j => do
      let x ← s.tGet t j
      .ok ((← s.tPut t j (setFld x 3 3 1)), some j)

/-- The first FREE entry among i from an index. -/
def State.kvFreeFrom (s : State) (t : Tab) : Nat → Nat → Except EFault (Option Nat)
  | 0, _ => .ok none
  | i + 1, j => do
    let x ← s.tGet t (j % t.n)
    if entState x = 0 then .ok (some (j % t.n)) else State.kvFreeFrom s t i (j + 1)

/-! ### Free arrays (R147) -/

/-- The count word of a tier. -/
def Tab.count (t : Tab) (tier : Nat) : Nat := t.base + 24 + 4 * tier

/-- A free array as its count word's slice reaches it (R486). -/
def State.freeTab (s : State) (t : Tab) (tier : Nat) : Tab :=
  match s.tabTr t { priv := true } (t.count tier) with | .ok e => { t with unit := some (sliceOf (e.at (t.count tier))) } | .bad _ _ => t

/-- The control record's reserved field is zero (R6, R147); else the record is malformed. -/
def State.ctlOk (s : State) (t : Tab) : Except EFault Unit := do
  if (← s.tRead t (t.base + 60) 196) ≠ 0 then .error (malformed t.base) else .ok ()

/-- An address popped from a tier's free array; none when it is empty. -/
def State.kvPop (s : State) (t : Tab) (tier : Nat) : Except EFault (State × Option Nat) := do
  s.ctlOk t
  let c ← s.tRead t (t.count tier) 4
  if c = 0 then .ok (s, none)
  else do
    let va := (← s.tRead t (t.base + 8 * tier) 8) + 8 * (c - 1)
    let a ← s.tRead (s.freeTab t tier) va 8
    .ok ((← ((s.tCount t t.base 256).tCount t va 8).tWrite t (t.count tier) 4 (c - 1)), some a)

/-- An address pushed onto a tier's free array. -/
def State.kvPush (s : State) (t : Tab) (tier a : Nat) : Except EFault State := do
  s.ctlOk t
  let c ← s.tRead t (t.count tier) 4
  let s' ← (s.tCount t t.base 256).tWrite (s.freeTab t tier) ((← s.tRead t (t.base + 8 * tier) 8) + 8 * c) 8 a
  s'.tWrite t (t.count tier) 4 ((c + 1) % 2 ^ 32)

/-! ### Allocation and freeing (R150) -/

/-- The entry that a new key takes: its index, and whether it joins the overflow list of the home index. -/
def State.kvSlot (s : State) (t : Tab) (k : KvKey) : Except EFault (Option (Nat × Bool)) := do
  match ← s.kvFreeFrom t 8 (k.hash t.n) with
  | some j => .ok (some (j, false))
  | none =>
    match ← s.kvFreeFrom t (t.n - 8) (k.hash t.n + 8) with
    | some j => .ok (some (j, true))
    | none => .ok none

/-- A FREE entry filled with a key and a block's address: REF 1, TIER 0, LIVE stored last. One whose reserved fields are not zero is malformed (R6). -/
def State.kvFill (s : State) (t : Tab) (k : KvKey) (j : Nat) (ovr : Bool) (a : Nat) : Except EFault State := do
  let x ← s.tGet t j
  if entRsv x then Except.error (malformed (t.entry j))
  let h := k.hash t.n
  let hx ← s.tGet t h
  let s := s.tSeen t (if ovr then [j, h] else [j])
  let s ← if ovr then s.tPut t h (setFld hx 159 128 j) else .ok s
  let x := if ovr then setFld x 191 160 (fld hx 159 128) else x
  let x := setFld (setFld (setFld (setFld (setFld x 63 32 k.seq) 79 64 k.layer) 87 80 k.head) 127 96 k.lblk) 247 192 (a % 2 ^ 56 / 128 * 128)
  s.tPut t j (setFld x 5 0 9)

/-- Allocation of a key (R150, R467): the index, and whether the entry is new. `addr` is the storage that KV.COMPACT has already filled (R399). -/
def State.kvAlloc (s : State) (t : Tab) (k : KvKey) (base : Nat) (addr : Option Nat) : Except EFault (State × Nat × Bool) := do
  match ← s.kvLook t k with
  | (s, some j) => .ok (s, j, false)
  | (s, none) =>
    let slot ← s.kvSlot t k
    let s := if t.perf then s.tSeen t (s.freeWalk t t.n (k.hash t.n)) else s
    match slot with
    | none => .error (kvFull (t.entry (k.hash t.n)))
    | some (j, ovr) =>
      match addr with
      | some a => .ok ((← s.kvFill t k j ovr a), j, true)
      | none =>
        match ← s.kvPop t 0 with
        | (_, none) => .error (kvFull (t.count 0))
        | (s, some a) => do
          let s ← s.tWrite t (if a < 2 ^ 56 then a / 128 * 128 else a) 12 (base % 2 ^ 32 * 2 ^ 64)
          .ok ((← s.kvFill t k j ovr a), j, true)

/-- The entry that links to entry j in the overflow list of a home index: none when the list does not hold it, `some none` when it is the head. -/
def State.kvLink (s : State) (t : Tab) (j : Nat) : Nat → Option Nat → Nat → Except EFault (Option (Option Nat))
  | 0, _, k => if k = noEntry then .ok none else .error (malformed (t.entry k))
  | fuel + 1, last, k =>
    if k = noEntry then .ok none
    else if t.n ≤ k then .error (malformed t.base)
    else if k = j then .ok (some last)
    else do State.kvLink s t j fuel (some k) (fld (← s.tGet t k) 191 160)

/-- An entry unlinked from the overflow list that holds it. -/
def State.kvUnlink (s : State) (t : Tab) (j x : Nat) : Except EFault State := do
  let h := (entKey x).hash t.n
  let hx ← s.tGet t h
  let r ← s.kvLink t j t.n none (fld hx 159 128)
  let s := if t.perf then s.tSeen t (h :: s.chainFrom t (fun i => i == j) t.n (fld hx 159 128)) else s
  match r with
  | none => .ok s
  | some none => s.tPut t h (setFld hx 159 128 (fld x 191 160))
  | some (some p) => do s.tPut t p (setFld (← s.tGet t p) 191 160 (fld x 191 160))

/-- Freeing an entry that is not FREE (R150): `push` says that its storage returns now (R399). -/
def State.kvFreeEnt (s : State) (t : Tab) (j : Nat) (push : Bool) : Except EFault State := do
  let x ← s.tGet t j
  if entState x = 0 then .ok s
  else if entBad x then .error (malformed (t.entry j))
  else do
    let s ← (s.tSeen t [j]).kvUnlink t j x
    let s ← if push then s.kvPush t (entTier x) (entAddr x) else .ok s
    s.tPut t j (setFld (← s.tGet t j) 2 0 0)

/-! ### The tier clock (R151, R152, R470) -/

/-- The tier engine could not demote the block of an entry (R445, R470). -/
def State.clockErr (s : State) (tenant idx : Nat) (e : EFault) : State :=
  s.pushErr { tenant := tenant, kind := 12, code := 0x30, detail := e.1, info := BitVec.ofNat 64 idx }

/-- A demotion begun: an address popped from the next tier's free array, the entry MOVING. -/
def State.kvDemote (s : State) (t : Tab) (i x : Nat) : Except EFault State := do
  match ← s.kvPop t (entTier x + 1) with
  | (_, none) => .ok s
  | (s, some a) => do
    let s ← s.tPut t i (setFld x 2 0 2)
    let m : Move := { id := s.nextId, tenant := t.tenant, core := if t.own then some t.core else none, idx := i, addr := BitVec.ofNat 64 a, old := BitVec.ofNat 64 (entAddr x), tier := entTier x }
    .ok { s with moves := s.moves ++ [m], nextId := s.nextId + 1 }

/-- A demotion that the clock or a sweep would make: one that fails is recorded and passed over by the clock, and stops a sweep (R150, R463, R470). -/
def State.kvTryDemote (s : State) (t : Tab) (i x : Nat) : Except EFault State :=
  let r := if entBad x then .error (malformed (t.entry i)) else if entTier x = 2 then .ok s else s.kvDemote t i x
  match r, t.unit with
  | .error e, some _ => .ok (s.clockErr t.tenant i e)
  | r, _ => r

/-- One visit (R151, R152): the entry, and HAND moved on. An entry that is malformed is not visited, whatever its REF (R6). -/
def State.kvVisit (s : State) (t : Tab) : Except EFault State := do
  s.ctlOk t
  let i := (← s.tRead t (t.base + 36) 4) % t.n
  let x ← s.tGet t i
  let s := (s.tCount t t.base 256).tSeen t [i]
  let s ← if entState x = 1 ∨ 3 < entState x then (if x.testBit 3 && !entBad x then s.tPut t i (setFld x 3 3 0) else s.kvTryDemote t i x) else .ok s
  s.tWrite t (t.base + 36) 4 ((i + 1) % t.n)

/-- n visits, one after another, up to the first that fails. -/
def State.kvVisits (t : Tab) : Nat → State → State × Option EFault
  | 0, s => (s, none)
  | n + 1, s => match s.kvVisit t with | .error e => (s, some e) | .ok s => State.kvVisits t n s

/-- CLOCK_VISIT (R152): once every PERIOD cycles, while the table is valid. The condition of R342 and R442 for an invalid KVTSIZE names instructions only: the clock makes no visit while it lasts and reports nothing (R146; DESIGN CHOICE, log 122). -/
def execClockVisit (tenant : Nat) (s : State) : Host.Outcome State Fault Refusal :=
  let p := s.period tenant
  let t := s.tabAgent unitTier tenant
  if s.stopped || p == 0 || !t.ok || decide (15 < tenant) || !s.ownsSlot tenant || decide (s.clock < (s.tenant tenant).tierAt + p) then .next s
  else
    let s := s.updTenant tenant (fun x => { x with tierAt := s.clock })
    match s.kvVisit t with
    | .ok s => .next s
    | .error e => .next (s.clockErr tenant 0 e)

/-- A block copied whole, poison and all. -/
def State.copyLines (t : Tab) (dst src : Nat) : Nat → State → Except EFault State
  | 0, s => .ok s
  | n + 1, s => do
    let (v, b) ← s.tCarry t (src + 128 * n) 128
    State.copyLines t dst src n (← s.tCarryTo t (dst + 128 * n) 128 v b)

/-- The table of a move as the tier engine walks it; the copies of a sweep drop the clean copies of the core that issued it (R105, R344). -/
def State.moveTab (s : State) (m : Move) : Tab :=
  let t := s.tabAgent unitTier m.tenant
  match m.core with | some c => { t with core := c, own := true } | none => t

/-- How the write of a finished copy went, by the result that its slice gives: 0 performed, 1 a channel failure, 2 a host refusal of a write to its range (R451, R470). R464 lists no reason for a failed write: DETAIL is then a free value (DESIGN CHOICE, log 126). -/
def moveWrote (result : Nat) (m : Move) (v : W64) : Except EFault Unit := if result = 0 then .ok () else .error (v.toNat % 256, 0, m.addr.toNat)

/-- The table entry that a finished move leaves: LIVE, at the new address and tier, or as it was when the copy failed. -/
def State.moveDone (s : State) (t : Tab) (m : Move) (wrote : Except EFault Unit) : State × Option EFault :=
  let r : Except EFault State := do
    wrote
    let s ← State.copyLines t m.addr.toNat m.old.toNat (t.bytes / 128) s
    let x ← s.tGet t m.idx
    s.tPut t m.idx (setFld (setFld (setFld x 247 192 (m.addr.toNat % 2 ^ 56 / 128 * 128)) 5 4 (m.tier + 1)) 2 0 1)
  match r with
  | .ok s =>
    let reads (o : EngOp) : Bool := !o.ready && o.tag.tenant == m.tenant && o.blks.any (fun b => b.addr == m.old.toNat)
    let o : OldBlock := { id := s.nextId, tenant := m.tenant, addr := m.old, tier := m.tier, readers := (s.ops.filter reads).map (fun o => o.id) }
    ({ s with olds := s.olds ++ [o], nextId := s.nextId + 1 }, none)
  | .error e =>
    let back : Except EFault State := do
      let s ← s.tPut t m.idx (setFld (← s.tGet t m.idx) 2 0 1)
      s.kvPush t (m.tier + 1) m.addr.toNat
    (match back with | .ok s => s | .error _ => s, some e)

/-- Sweeps whose moves are all over have performed their effects. -/
def State.sweepsDone (s : State) : State :=
  { s with ops := s.ops.map (fun (o : EngOp) => match o.kind with
      | .sweep _ => if o.started && !o.ready && o.prog.all (fun k => s.moves.all (fun m => m.id != k)) then { o with ready := true } else o
      | _ => o) }

/-- A slice can refuse the write of a move's copy: the new block stands in host memory (R451). -/
def State.moveToHost (s : State) (m : Move) : Bool :=
  (s.tLines (s.tabAgent unitTier m.tenant) m.addr.toNat 1).any (fun l => isHost (l * 128))

/-- DEMOTION_COPY_COMPLETE (R151, R152, R470): `e.result` says how the write went. -/
def execDemotionCopyComplete (e : Finish) (s : State) : Host.Outcome State Fault Refusal :=
  match s.moves.find? (fun m => m.id == e.id) with
  | none => .next s
  | some m =>
    if s.stopped || !s.ownsSlot m.tenant || decide (2 < e.result) || (e.result == 2 && !s.moveToHost m) then .next s
    else
      let s := { s with moves := s.moves.filter (fun x => x.id != e.id) }
      let (s, v) := if e.result = 0 then (s, (0 : W64)) else s.free
      match s.moveDone (s.moveTab m) m (moveWrote e.result m v) with
      | (s, none) => .next s.sweepsDone
      | (s, some x) => .next (s.clockErr m.tenant m.idx x).sweepsDone

/-- OLD_BLOCK_FREE_PUSH (R151): after every operation that looked the entry up before has finished reading. -/
def execOldBlockFreePush (id : Nat) (s : State) : Host.Outcome State Fault Refusal :=
  match s.olds.find? (fun o => o.id == id) with
  | none => .next s
  | some o =>
    if s.stopped || !s.ownsSlot o.tenant || o.readers.any (fun k => s.ops.any (fun x => x.id == k && !x.ready)) then .next s
    else
      let s := { s with olds := s.olds.filter (fun x => x.id != id) }
      match s.kvPush (s.tabAgent unitTier o.tenant) o.tier o.addr.toNat with
      | .ok s => .next s
      | .error e => .next (s.clockErr o.tenant 0 e)

/-! ### The prefix index (R153) -/

/-- The address of entry i of the prefix index. -/
def State.pfxEntry (s : State) (tenant i : Nat) : Nat :=
  let b := (s.tenant tenant).pfxBase.toNat
  b % 2 ^ 56 / 256 * 256 + 16 * (i % 2 ^ fld b 4 0)

/-- A valid PFXBASE (R146). -/
def State.pfxOk (s : State) (tenant : Nat) : Bool :=
  let l := fld (s.tenant tenant).pfxBase.toNat 4 0
  decide (4 ≤ l) && decide (l ≤ 24)

/-- The TOK fields of a block header, in entry order. -/
def tokens (hdr : Nat) : List W32 := (List.range 16).map (fun e => BitVec.ofNat 32 (fld hdr (241 + 18 * e) (224 + 18 * e)))

/-- The header of a block; one whose reserved field is not zero is malformed (R6, R145). -/
def State.hdrGet (s : State) (t : Tab) (addr : Nat) : Except EFault Nat := do
  let h ← s.tRead t addr 64
  if fld h 63 32 ≠ 0 then .error (malformed addr) else .ok h

/-- Entry i of the prefix index; one whose reserved field is not zero is malformed (R6, R153). -/
def State.pfxGet (s : State) (t : Tab) (i : Nat) : Except EFault Nat := do
  let x ← s.tRead t (s.pfxEntry t.tenant i) 16
  if fld x 127 96 ≠ 0 then .error (malformed (s.pfxEntry t.tenant i)) else .ok x

/-- The hit test of R153 for a block: LIVE, every entry valid, and the token ids that are given. A table entry that is malformed is ENGINE, DETAIL 0x80 (R6, R148, R464). -/
def State.pfxHit (s : State) (t : Tab) (blk : Nat) (ids : Option (List W32)) : Except EFault Bool := do
  if t.n ≤ blk then .ok false
  else do
    let x ← s.tGet t blk
    if entState x ≠ 0 && entBad x then .error (malformed (t.entry blk))
    else if entState x ≠ 1 then .ok false
    else do
      let hdr ← s.hdrGet t (entAddr x)
      .ok (fld hdr 15 0 == 0xFFFF && (match ids with | some l => tokens hdr == l | none => true))

/-- The eight probes of PFX.LOOKUP: the block found. -/
def State.pfxFind (s : State) (t : Tab) (h : Nat) (ids : List W32) : Nat → Nat → Except EFault (Option Nat)
  | 0, _ => .ok none
  | k + 1, i => do
    let x ← s.pfxGet t i
    let hit ← if fld x 63 0 = h then s.pfxHit t (fld x 95 64) (some ids) else .ok false
    if hit then .ok (some (fld x 95 64)) else State.pfxFind s t h ids k (i + 1)

/-- The eight probes of PFX.INSERT: the first entry that is empty or whose block fails the hit test. Only an entry of the same hash stands for the same ids, so the ids of another are not compared (DEDUCED, from the rule that of two inserts racing for one slot the later passes to the next). -/
def State.pfxFree (s : State) (t : Tab) (h : Nat) (ids : List W32) : Nat → Nat → Except EFault (Option Nat)
  | 0, _ => .ok none
  | k + 1, i => do
    let x ← s.pfxGet t i
    let held ← if fld x 63 0 = 0 then .ok false else s.pfxHit t (fld x 95 64) (if fld x 63 0 = h then some ids else none)
    if held then State.pfxFree s t h ids k (i + 1) else .ok (some (i % 2 ^ fld (s.tenant t.tenant).pfxBase.toNat 4 0))

end Sys2Proof.Machine
end

