-- ==== Sys2Proof/Machine/Attend.lean ====
section
/-! DEFINITION. Attention at the home slices, top-k selection and compaction, with the completion of engine operations (R105, R108, R154-R158, R339-R344, R399, R400, R463, R467, R468). -/

namespace Sys2Proof.Machine

/-! ### Operation records and the blocks they name (R339) -/

/-- An operation's KV record; a poisoned one is a fault (R457). -/
def State.kvRec (s : State) (o : EngOp) (rec_ : Nat) : Except EFault Nat :=
  if s.scrBad o.tag.team rec_ 64 then .error (0x16, 0, rec_) else .ok (s.scrRead o.tag.team rec_ 64)

/-- A malformed record, or an invalid KVTSIZE (R339, R442). -/
def recBad (t : Tab) (x : Nat) : Bool := !t.ok || fld x 95 0 != 0 || decide (2 ^ 28 ≤ fld x 191 160)

/-- The key that a record gives logical block j. -/
def recKey (x j : Nat) : KvKey := ⟨fld x 159 128, fld x 127 112, fld x 111 104, j⟩

/-- Logical blocks i to i + n - 1 of a record's set, as the walker finds them; a miss is left out (R341). -/
def State.kvSet (t : Tab) (x : Nat) : Nat → Nat → State → Except EFault (State × List KvBlk)
  | 0, _, s => .ok (s, [])
  | n + 1, i, s => do
    match ← s.kvLook t (recKey x i) with
    | (s, none) => State.kvSet t x n (i + 1) s
    | (s, some j) => do
      let e ← s.tGet t j
      let (s, l) ← State.kvSet t x n (i + 1) s
      .ok (s, ⟨i, j, entAddr e, 192⟩ :: l)

/-- The value of element d of a row (R130, R132, R144). -/
def rowElem (ec row d : Nat) : FVal :=
  if isDeb ec then blockElem ec (row / 2 ^ (8 * blockBytes ec * (d / 32)) % 2 ^ (8 * blockBytes ec)) (d % 32)
  else decodeElem ec (row / 2 ^ (elemBits ec * d) % 2 ^ elemBits ec)

/-- The bytes of a row that element d is formed from: first and count. -/
def elemSpan (ec d : Nat) : Nat × Nat :=
  if isDeb ec then (blockBytes ec * (d / 32), 2 + (elemBits ec * (d % 32) + elemBits ec + 7) / 8)
  else (elemBits ec * d / 8, (elemBits ec * d % 8 + elemBits ec + 7) / 8)

/-- Some line of a virtual range is poisoned. -/
def State.tBad (s : State) (t : Tab) (va n : Nat) : Bool := (s.tLines t va n).any (fun l => s.memPoison.contains l)

/-- A row's elements, each with whether it is formed from poisoned bytes. -/
def State.rowOf (s : State) (t : Tab) (va : Nat) : Except EFault (List (FVal × Bool)) := do
  let (v, b) ← s.tCarry t va t.rowb
  .ok ((List.range t.d).map (fun d => (rowElem t.ecode v d, b && s.tBad t (va + (elemSpan t.ecode d).1) (elemSpan t.ecode d).2)))

/-- The address of row e of the K area, and of row e of the V area at e + 16 (R144). -/
def Tab.row (t : Tab) (addr e : Nat) : Nat := addr + 64 + e * t.rowb

/-- The position of entry e of a block header (R145). -/
def entPos (hdr e : Nat) : Nat := fld hdr 95 64 + fld hdr (103 + 8 * e) (96 + 8 * e)
/-- VALID bit e of a header. -/
def entValid (hdr e : Nat) : Bool := hdr.testBit e
/-- PEND bit e of a header. -/
def entPend (hdr e : Nat) : Bool := hdr.testBit (16 + e)

/-! ### ATTN (R154-R156) -/

/-- A position that attention covers: its score index, and its key and value. -/
structure AttnRow where
  i : Nat
  k : List (FVal × Bool)
  v : List (FVal × Bool)
deriving DecidableEq, Repr

/-- The rows of a block whose positions lie in range and are valid, and the count of those that are pending (R120, R154). -/
def State.blockRows (s : State) (t : Tab) (x : Nat) (b : KvBlk) : Except EFault (List AttnRow × Nat) := do
  let hdr ← s.hdrGet t b.addr
  let inRange := (List.range 16).filter (fun e => decide (fld x 287 256 ≤ entPos hdr e) && decide (entPos hdr e ≤ fld x 319 288))
  let rows ← (inRange.filter (fun e => entValid hdr e && !entPend hdr e)).foldr (fun e acc => do
    let l ← acc
    let k ← s.rowOf t (t.row b.addr e)
    let v ← s.rowOf t (t.row b.addr (e + 16))
    .ok (({ i := 16 * b.lblk + e, k := k, v := v } : AttnRow) :: l)) (.ok [])
  .ok (rows, (inRange.filter (entPend hdr)).length)

/-- The rows of several blocks. -/
def State.rowsOf (s : State) (t : Tab) (x : Nat) (l : List KvBlk) : Except EFault (List AttnRow × Nat) :=
  l.foldr (fun b acc => do
    let (rs, n) ← acc
    let (r, k) ← s.blockRows t x b
    .ok (r ++ rs, k + n)) (.ok ([], 0))

/-- A 64-bit pattern that holds an f32 one. -/
def w32 (x : W32) : W64 := BitVec.ofNat 64 x.toNat
/-- The larger of two f32 values, leaving a NaN out (R253). -/
def maxF32 (a b : W32) : W32 := loOf (minMaxF true .f32 (w32 a) (w32 b))
/-- RoundFP32(2^RNE_FP32(a - b), rne). -/
def exp2Diff (a b : W32) : W32 := loOf (exp2F .f32 0 (roundF .f32 0 (exactSum 0 [valF32 a, (valF32 b).neg])))
/-- Negative infinity. -/
def negInf : W32 := 0xFF800000

/-- The score of a key against a query head (R154), with whether it is poisoned. -/
def scoreOf (q k : List (FVal × Bool)) : W32 × Bool :=
  (rneF32 (exactSum 0 (List.zipWith (fun a b => a.1.mul b.1) q k)), (q ++ k).any (fun p => p.2))

/-- A slice's tile for one head over its rows (R154); `o` is empty in the empty triple. -/
def attnTile (slice head d : Nat) (q : List (FVal × Bool)) (rows : List AttnRow) (masked : Nat) : AttnTile :=
  let ss := rows.map (fun r => scoreOf q r.k)
  match ss with
  | [] => { slice := slice, head := head, m := negInf, l := 0, o := [], pm := false, po := [], masked := masked }
  | s0 :: _ =>
    let m := ss.foldl (fun a p => maxF32 a p.1) s0.1
    let ws := ss.map (fun p => valF32 (exp2Diff p.1 m))
    let bad := ss.any (fun p => p.2)
    let elem (j : Nat) (r : AttnRow) : FVal × Bool := r.v.getD j (.fin false 0 0, false)
    { slice := slice, head := head, m := m, l := rneF32 (exactSum 0 ws),
      o := (List.range d).map (fun j => rneF32 (exactSum 0 (List.zipWith (fun w r => w.mul (elem j r).1) ws rows))),
      pm := bad, po := (List.range d).map (fun j => bad || rows.any (fun r => (elem j r).2)), masked := masked }

/-- Combine (R155). -/
def combine (a b : AttnTile) : AttnTile :=
  if b.o.isEmpty then a
  else if a.o.isEmpty then b
  else
    let m := maxF32 a.m b.m
    let x := valF32 (exp2Diff a.m m)
    let y := valF32 (exp2Diff b.m m)
    let mix (u v : W32) : W32 := rneF32 (exactSum 0 [(valF32 u).mul x, (valF32 v).mul y])
    { a with m := m, l := mix a.l b.l, o := List.zipWith mix a.o b.o, pm := a.pm || b.pm,
             po := List.zipWith (fun u v => u || v || a.pm || b.pm) a.po b.po }

/-- H and D. -/
def recHeads (x : Nat) : Nat := fld x 103 100 + 1

/-- The queries of a head (R341). -/
def State.queryOf (s : State) (team : Nat) (t : Tab) (x h : Nat) : List (FVal × Bool) :=
  let f32 := fld x 99 96 == 10
  let w := if f32 then 4 else 2
  (List.range t.d).map (fun d =>
    let off := fld x 351 320 + (h * t.d + d) * w
    let v := s.scrRead team off w
    (if f32 then valF32 (BitVec.ofNat 32 v) else valBf16 v, s.scrBad team off w))

/-- Output bytes of an attention. -/
def attnBytes (t : Tab) (x : Nat) : Nat := recHeads x * (t.d + 2) * 4

/-- The home slices of blocks that have none yet, where their storage can be reached; else the fault met first (R154, R468). -/
def State.homesOf (s : State) (t : Tab) (l : List KvBlk) : List KvBlk × Option EFault :=
  l.foldr (fun b acc =>
    if b.home != 192 then (b :: acc.1, acc.2)
    else
      match s.tabTr t (needR t.priv) b.addr with
      | .ok e => ({ b with home := sliceOf (e.at b.addr) } :: acc.1, acc.2)
      | .bad c d => (b :: acc.1, some (c, d, b.addr))) ([], none)

/-- Attention suspends (R468): ENGINE is raised once, and the slice's tile is discarded; entries of `prog` from 4096 are slices that wait for RFH. -/
def State.attnSuspend (s : State) (id slice : Nat) (e : EFault) : State :=
  match s.op id with
  | none => s
  | some o =>
    let s := if o.susp then s else s.imprecise o.tag 0x30 0 e.1 (BitVec.ofNat 64 e.2.2) e.2.1
    s.updOp id (fun o => { o with susp := true, again := o.susp && o.again, prog := o.prog ++ [4096 + slice] })

/-- A fault of attention on a block's storage: TRANSLATE and PERMISSION suspend it, another stops it (R463, R468). -/
def State.attnFault (s : State) (id slice : Nat) (e : EFault) : State :=
  if e.1 = 0x10 ∨ e.1 = 0x11 then s.attnSuspend id slice e else s.engFault id e

/-- The home slices that blocks which had none have now. -/
def newHomes (before after : List KvBlk) : List Nat := (List.zipWith (fun (a b : KvBlk) => if a.home = 192 then b.home else 192) before after).filter (fun k => decide (k < 192))

/-- The home slices of an operation's blocks resolved. A slice that is found to hold a block of a faulting page only now has touched that page: its tile was discarded, and is computed in full (R468). -/
def State.attnHomes (s : State) (id : Nat) (t : Tab) : State :=
  match s.op id with
  | none => s
  | some o =>
    let r := s.homesOf t o.blks
    let l := newHomes o.blks r.1
    let s := s.updOp id (fun o => { o with blks := r.1, tiles := o.tiles.filter (fun k => !l.contains k.slice), prog := o.prog.filter (fun k => decide (4096 ≤ k) || !l.contains (k / 16)) })
    match r.2 with | some e => s.attnFault id 192 e | none => s

/-- The start of an attention: its record, its blocks and their slices (R154, R339, R341). -/
def State.attnStart (s : State) (o : EngOp) (rec_ : Nat) (score : Bool) : State :=
  if o.started then s
  else
    let t := s.tabOf o.core o.tag
    let s := s.updOp o.id (fun o => { o with started := true })
    match s.kvRec o rec_ with
    | .error e => s.engFault o.id e
    | .ok x =>
      let s := s.updOp o.id (fun o => { o with result := x, total := attnBytes t x })
      let size := s.sizeOf o.tag.team
      let w := if fld x 99 96 = 10 then 4 else 2
      if recBad t x || (fld x 99 96 != 9 && fld x 99 96 != 10) || fld x 351 320 % 4 != 0 || fld x 383 352 % 4 != 0 || (score && fld x 511 448 == 0) then
        s.engFault o.id (0x80, 0, rec_)
      else if size < fld x 351 320 + recHeads x * t.d * w ∨ size < fld x 383 352 + attnBytes t x then s.engFault o.id (0x83, 0, rec_)
      else
        match State.kvSet t x (fld x 191 160) 0 s with
        | .error e => s.engFault o.id e
        | .ok (s, l) => (s.updOp o.id (fun o => { o with blks := l })).attnHomes o.id t

/-- The slices whose triples matter: those of its blocks; slice 0 sends an empty triple when there is none. -/
def EngOp.slices (o : EngOp) : List Nat := if o.blks.isEmpty then [0] else (o.blks.map (fun b => b.home)).eraseDups

/-- A slice's tiles computed, for every head, unless it has them (R154). -/
def State.attnTiles (s : State) (o : EngOp) (slice : Nat) : Except EFault State :=
  if o.tiles.any (fun k => k.slice == slice) then .ok s
  else do
    let t := s.tabOf o.core o.tag
    let (rows, n) ← s.rowsOf t o.result (o.blks.filter (fun b => b.home == slice))
    let l := (List.range (recHeads o.result)).map (fun h => attnTile slice h t.d (s.queryOf o.tag.team t o.result h) rows n)
    let s := (o.blks.filter (fun b => b.home == slice)).foldl (fun s b => s.engCount o b.addr t.bytes) s
    .ok (s.updOp o.id (fun o => { o with tiles := o.tiles ++ l }))

/-- Every triple has reached the return network. -/
def EngOp.arrived (o : EngOp) (prog : List Nat) : Bool :=
  o.slices.all (fun k => decide (k < 192) && (List.range (recHeads o.result)).all (fun h => prog.contains (k * 16 + h)))

/-- Ascending insertion. -/
def insertNat (x : Nat) : List Nat → List Nat
  | [] => [x]
  | y :: t => if x ≤ y then x :: y :: t else y :: insertNat x t
/-- Numbers in ascending order. -/
def sortNat (l : List Nat) : List Nat := l.foldr insertNat []

/-- The final triple of a head: a left fold in ascending slice index (R155). -/
def EngOp.final (o : EngOp) (h : Nat) : AttnTile :=
  let empty : AttnTile := { slice := 0, head := h, m := negInf, l := 0, o := [], pm := false, po := [], masked := 0 }
  (sortNat o.slices).foldl (fun a k => match o.tiles.find? (fun x => x.slice == k && x.head == h) with | some x => combine a x | none => a) empty

/-- The probability of a position for a head (R156). -/
def probOf (s m l : W32) : W32 := loOf (roundF .f32 0 ((valF32 (exp2Diff s m)).div (valF32 l)))

/-- The score adds of one position, head by head (R156). -/
def State.scoreAdd (s : State) (t : Tab) (va : Nat) (ps : List (W32 × Bool)) : Except EFault State := do
  let (v, b) ← s.tCarry t va 4
  let r := ps.foldl (fun a p => rneF32 (exactSum 0 [valF32 a, valF32 p.1])) (BitVec.ofNat 32 v)
  (s.tCount t va 4).tCarryTo t va 4 r.toNat (b || ps.any (fun p => p.2))

/-- The second phase of ATTN.SCORE over rows: it stops at the first word that cannot be reached. -/
def State.scoreRows (o : EngOp) (t : Tab) (fin : List AttnTile) (qs : List (List (FVal × Bool))) : List AttnRow → State → State × Option EFault
  | [], s => (s, none)
  | r :: l, s =>
    let ps := List.zipWith (fun q (f : AttnTile) => let p := scoreOf q r.k; (probOf p.1 f.m f.l, p.2 || f.pm)) qs fin
    match s.scoreAdd t (fld o.result 511 448 + 4 * r.i) ps with
    | .error e => (s, some e)
    | .ok s => State.scoreRows o t fin qs l s

/-- The words that attention delivers for a head, each with its poison: m, l and o (R341). -/
def AttnTile.words (f : AttnTile) (d : Nat) : List (W32 × Bool) :=
  (f.m, f.pm) :: (f.l, f.pm) :: (List.range d).map (fun j => (f.o.getD j 0, f.po.getD j false))

/-- Scratchpad words written by an engine from an offset. -/
def State.engWords (o : EngOp) : Nat → List (W32 × Bool) → State → State
  | _, [], s => s
  | off, p :: l, s => State.engWords o (off + 4) l (s.engScr o off 4 p.1.toNat p.2)

/-- The end of an attention: its score adds, its output, its count of masked positions, and its count-down (R155, R156, R341). No other operation's score add comes between its own (R142; DESIGN CHOICE, log 131). -/
def State.attnFinish (s : State) (o : EngOp) (rec_ : Nat) (score : Bool) (slice : Nat) : State :=
  let t := s.tabOf o.core o.tag
  let x := o.result
  let hs := List.range (recHeads x)
  let fin := hs.map o.final
  let rows : Except EFault (List AttnRow × Nat) := if score then s.rowsOf t x o.blks else .ok ([], 0)
  match rows with
  | .error e => s.attnFault o.id slice e
  | .ok (rows, _) =>
    match State.scoreRows o t fin (hs.map (s.queryOf o.tag.team t x)) rows s with
    | (s, some e) => s.engFault o.id e
    | (s, none) =>
      let s := if score then o.blks.foldl (fun s b => s.engCount o b.addr t.bytes) s else s
      let s := State.engWords o (fld x 383 352) (fin.flatMap (fun f => f.words t.d)) s
      let masked := (o.tiles.filter (fun k => k.head == 0)).foldl (fun a k => a + k.masked) 0
      let s := s.engScr o (rec_ + 28) 4 (masked % 2 ^ 32) false
      (s.opShare o.id (slice * 16) (attnBytes t x)).opReady o.id

/-- An earlier ATTN.SCORE of the same group has not added its scores yet (R156). -/
def State.scoreTurn (s : State) (o : EngOp) : Bool :=
  (s.ops.takeWhile (fun x => x.id != o.id)).all (fun x =>
    x.tag.team != o.tag.team || x.tag.grp != o.tag.grp || x.ready || x.cancelled || (match x.kind with | .attn _ b => !b | _ => true))

/-- ATTN_TILE_COMPLETE (R154, R155, R468): a slice's triple for a head reaches the return network; with the last one the operation ends. -/
def execAttnTileComplete (id slice head : Nat) (s : State) : Host.Outcome State Fault Refusal :=
  match s.op id with
  | none => .next s
  | some o =>
    match o.kind with
    | .attn rec_ score =>
      if !s.opRuns o then .next s
      else
        let s := s.attnStart o rec_ score
        match s.op id with
        | none => .next s
        | some o =>
          if o.ready || !o.slices.contains slice || decide (192 ≤ slice) || decide (recHeads o.result ≤ head) || o.prog.contains (slice * 16 + head)
              || o.prog.contains (4096 + slice) then .next s
          else
            match s.attnTiles o slice with
            | .error e => .next (s.attnFault id slice e)
            | .ok s' =>
              let o' := (s'.op id).getD o
              let prog := o.prog ++ [slice * 16 + head]
              if !o'.arrived prog then .next (s'.updOp id (fun o => { o with prog := prog }))
              else if o'.susp || (score && !s'.scoreTurn o') then .next s
              else .next (s'.attnFinish o' rec_ score slice)
    | _ => .next s

/-- ATTN_RECOMPUTE (R468): once RFH has restored the team, the discarded tiles may be computed again. -/
def execAttnRecompute (id : Nat) (s : State) : Host.Outcome State Fault Refusal :=
  match s.op id with
  | none => .next s
  | some o =>
    if !o.susp || !o.again || !s.opRuns o then .next s
    else
      .next ((s.updOp id (fun o => { o with susp := false, again := false, prog := o.prog.filter (fun k => decide (k < 4096)) })).attnHomes id (s.tabOf o.core o.tag))

/-! ### TOPK (R157, R343) -/

/-- A candidate: its rank, its position, and its entry index. -/
structure Cand where
  rank : Int
  pos : Nat
  i : Nat
deriving DecidableEq, Repr

/-- The rank of a score: equal zeros, and a NaN below every number (R157). -/
def scoreRank (x : Nat) : Int := if (valF32 (BitVec.ofNat 32 x)).isNan then -(2 ^ 40) else keyF .f32 false (BitVec.ofNat 64 x)

/-- A comes before B: the larger score, then the lower position. -/
def Cand.before (a b : Cand) : Bool := decide (b.rank < a.rank) || (a.rank == b.rank && decide (a.pos < b.pos))
/-- Insertion in order, after equal ones. -/
def insertCand (x : Cand) : List Cand → List Cand
  | [] => [x]
  | y :: t => if y.before x then y :: insertCand x t else x :: y :: t

/-- The keep bit of an entry index. -/
def State.keepBit (s : State) (t : Tab) (keep i : Nat) : Except EFault Bool := do
  .ok ((← s.tRead t (keep + i / 8) 1).testBit (i % 8))

/-- The candidates of a block: entries that hold a position and are not set already. -/
def State.blockCands (s : State) (t : Tab) (x : Nat) (b : KvBlk) : Except EFault (List Cand) := do
  let hdr ← s.hdrGet t b.addr
  ((List.range 16).filter (fun e => entValid hdr e || entPend hdr e)).foldr (fun e acc => do
    let l ← acc
    let i := 16 * b.lblk + e
    if ← s.keepBit t (fld x 447 384) i then .ok l
    else do .ok ((⟨scoreRank (← s.tRead t (fld x 511 448 + 4 * i) 4), entPos hdr e, i⟩ : Cand) :: l)) (.ok [])

/-- Keep bits set one by one with atomic OR (R343); it stops at the first that cannot be reached, and earlier ones stay set (R467). -/
def State.setKeep (t : Tab) (keep : Nat) : List Cand → State → State × Option EFault
  | [], s => (s, none)
  | c :: l, s =>
    let r : Except EFault State := do
      let va := keep + c.i / 8
      s.tWrite t va 1 ((← s.tRead t va 1) ||| 2 ^ (c.i % 8))
    match r with
    | .error e => (s, some e)
    | .ok s => State.setKeep t keep l s

/-- An operation whose fault may be KVFULL stops (R446, R463, R467). -/
def State.kvFault (s : State) (id : Nat) (e : EFault) : State := if e.1 = 0x33 then s.opFault id 0x33 0 (BitVec.ofNat 64 e.2.2) 0 else s.engFault id e

/-- The lines that the selection of a record reads are counted: the headers of its blocks, their keep bits, and, for TOPK, their scores (R397, R398). -/
def State.countSel (s : State) (t : Tab) (x : Nat) (scores : Bool) (l : List KvBlk) : State :=
  l.foldl (fun s b =>
    let s := (s.tCount t b.addr 64).tCount t (fld x 447 384 + 2 * b.lblk) 2
    if scores then s.tCount t (fld x 511 448 + 64 * b.lblk) 64 else s) s

/-- TOPK performed (R157, R343). -/
def State.topkRun (s : State) (o : EngOp) (rec_ : Nat) : State :=
  let t := s.tabOf o.core o.tag
  let s := s.updOp o.id (fun o => { o with started := true })
  let r : Except EFault (State × Nat × List Cand) := do
    let x ← s.kvRec o rec_
    if recBad t x || fld x 511 448 == 0 || fld x 447 384 % 8 != 0 then .error (0x80, 0, rec_)
    else do
      let (s, l) ← State.kvSet t x (fld x 191 160) 0 s
      let cs ← l.foldr (fun b acc => do let cs ← acc; .ok ((← s.blockCands t x b) ++ cs)) (.ok [])
      .ok (s.countSel t x true l, x, ((cs.reverse.foldl (fun a c => insertCand c a) [])).take (fld x 223 192))
  match r with
  | .error e => s.engFault o.id e
  | .ok (s, x, pick) =>
    match State.setKeep t (fld x 447 384) pick s with
    | (s, some e) => s.engFault o.id e
    | (s, none) => ((s.engScr o (rec_ + 28) 4 pick.length false).opShare o.id 0 64).opReady o.id

/-! ### KV.COMPACT (R158, R399, R400) -/

/-- A kept position: its position, token id and old entry index, and the block and entry that hold its rows. -/
structure Kept where
  pos : Nat
  tok : Nat
  i : Nat
  addr : Nat
  e : Nat
deriving DecidableEq, Repr

/-- Ascending by position. -/
def insertKept (x : Kept) : List Kept → List Kept
  | [] => [x]
  | y :: t => if x.pos ≤ y.pos then x :: y :: t else y :: insertKept x t

/-- The kept positions of a block: keep bit and VALID set. -/
def State.blockKept (s : State) (t : Tab) (x : Nat) (b : KvBlk) : Except EFault (List Kept) := do
  let hdr ← s.hdrGet t b.addr
  ((List.range 16).filter (entValid hdr)).foldr (fun e acc => do
    let l ← acc
    let i := 16 * b.lblk + e
    if ← s.keepBit t (fld x 447 384) i then .ok (({ pos := entPos hdr e, tok := fld hdr (241 + 18 * e) (224 + 18 * e), i := i, addr := b.addr, e := e } : Kept) :: l)
    else .ok l) (.ok [])

/-- New blocks: one starts whenever the current one holds 16 entries or the next position exceeds its BASE + 255 (R158). -/
def packKept : List Kept → List Kept → List (List Kept)
  | cur, [] => if cur.isEmpty then [] else [cur]
  | cur, k :: l =>
    match cur with
    | [] => packKept [k] l
    | b :: _ => if cur.length = 16 ∨ b.pos + 255 < k.pos then cur :: packKept [k] l else packKept (cur ++ [k]) l

/-- The header of a new block (R400). -/
def newHeader (l : List Kept) : Nat :=
  let base := match l with | k :: _ => k.pos | [] => 0
  (List.range l.length).foldl (fun a e => match l[e]? with
    | some k => a + 2 ^ e + (k.pos - base) % 256 * 2 ^ (96 + 8 * e) + k.tok * 2 ^ (224 + 18 * e)
    | none => a) (base % 2 ^ 32 * 2 ^ 64)

/-- Row r of a new block written: a row of an old one with its poison, or zero where no entry stands (R400, R457). -/
def State.fillRow (s : State) (t : Tab) (addr r : Nat) (src : Option Nat) : Except EFault State := do
  match src with
  | none => s.tCarryTo t (t.row addr r) t.rowb 0 false
  | some va =>
    let (v, b) ← s.tCarry t va t.rowb
    (s.tCount t va t.rowb).tCarryTo t (t.row addr r) t.rowb v b

/-- A new block filled: its header, and every row (R400). -/
def State.fillBlock (s : State) (t : Tab) (addr : Nat) (l : List Kept) : Except EFault State := do
  let s ← s.tWrite t addr 64 (newHeader l)
  (List.range 16).foldl (fun acc e => do
    let s ← (← acc).fillRow t addr e (l[e]?.map (fun k => t.row k.addr k.e))
    s.fillRow t addr (e + 16) (l[e]?.map (fun k => t.row k.addr (k.e + 16)))) (.ok s)

/-- n addresses popped from the tier-0 free array, in order; KVFULL when it holds fewer. -/
def State.kvPops (t : Tab) : Nat → State → Except EFault (State × List Nat)
  | 0, s => .ok (s, [])
  | n + 1, s => do
    match ← s.kvPop t 0 with
    | (_, none) => .error (kvFull (t.count 0))
    | (s, some a) => do
      let (s, l) ← State.kvPops t n s
      .ok (s, a :: l)

/-- Fresh entries for the new blocks whose old lookup missed (R399). -/
def State.kvFresh (t : Tab) (x : Nat) (old : List KvBlk) (new : List (Nat × Nat)) (s : State) : Except EFault State :=
  (new.filter (fun p => old.all (fun b => b.lblk != p.1))).foldl (fun acc p => do
    let s ← acc
    .ok (← s.kvAlloc t (recKey x p.1) 0 (some p.2)).1) (.ok s)

/-- The table rewritten: kept entries at their new storage, the rest freed, and every old block's storage returned once, in ascending order (R399). -/
def State.kvRewrite (t : Tab) (old : List KvBlk) (tiers : List Nat) (new : List (Nat × Nat)) (s : State) : Except EFault State := do
  let s ← (new.foldl (fun acc p => do
    let s ← acc
    match old.find? (fun b => b.lblk == p.1) with
    | none => .ok s
    | some b => do (s.tSeen t [b.idx]).tPut t b.idx (setFld (setFld (← s.tGet t b.idx) 247 192 (p.2 % 2 ^ 56 / 128 * 128)) 5 0 9)) (.ok s))
  let s ← ((old.filter (fun b => decide (new.length ≤ b.lblk))).foldl (fun acc b => do (← acc).kvFreeEnt t b.idx false) (.ok s))
  (old.zip tiers).foldl (fun acc p => do (← acc).kvPush t p.2 p.1.addr) (.ok s)

/-- Score words moved to their new indices, and +0 written to the rest (R400). -/
def State.moveScores (t : Tab) (score n : Nat) (new : List (List Kept)) (s : State) : Except EFault State := do
  let w ← new.foldr (fun g acc => do
    let l ← acc
    let r ← g.foldr (fun k acc => do let l ← acc; .ok ((← s.tCarry t (score + 4 * k.i) 4) :: l)) (.ok [])
    .ok (r :: l)) (.ok [])
  let s := new.foldl (fun s g => g.foldl (fun s k => s.tCount t (score + 4 * k.i) 4) s) s
  (List.range n).foldl (fun acc i => do
    let s ← acc
    let v : Nat × Bool := (w.getD (i / 16) []).getD (i % 16) (0, false)
    s.tCarryTo t (score + 4 * i) 4 v.1 v.2) (.ok s)

/-- The set of a compaction that may start: no PEND bit, and every entry LIVE (R151, R158); none while it must wait. -/
def State.compactSet (s : State) (t : Tab) (x : Nat) : Except EFault (Option (State × List KvBlk)) := do
  let (s, l) ← State.kvSet t x (fld x 191 160) 0 s
  let wait ← l.foldr (fun b acc => do
    let w ← acc
    let e ← s.tGet t b.idx
    .ok (w || entState e != 1 || fld (← s.hdrGet t b.addr) 31 16 != 0)) (.ok false)
  if wait then .ok none
  else do
    let s := l.foldl (fun s b => (s.tSeen t [b.idx]).tCount t b.addr 64) s
    let s ← l.foldl (fun acc b => do let s ← acc; s.tPut t b.idx (setFld (← s.tGet t b.idx) 2 0 3)) (.ok s)
    .ok (some (s, l))

/-- Steps 3 to 5 of R158; the new block count. Every pop and every fresh entry comes before the first row is copied (R399, R467). -/
def State.compactRun (s : State) (o : EngOp) : Except EFault (State × Nat) := do
  let t := s.tabOf o.core o.tag
  let x := o.result
  let ks ← o.blks.foldr (fun b acc => do let l ← acc; .ok ((← s.blockKept t x b) ++ l)) (.ok [])
  let new := packKept [] (ks.foldr insertKept [])
  let tiers ← o.blks.foldr (fun b acc => do let l ← acc; .ok (entTier (← s.tGet t b.idx) :: l)) (.ok [])
  let (s, addrs) ← State.kvPops t new.length (s.tSeen t (o.blks.map (fun b => b.idx)))
  let nums := (List.range new.length).zip addrs
  let s ← State.kvFresh t x o.blks nums (s.countSel t x false o.blks)
  let s ← (addrs.zip new).foldl (fun acc p => do (← acc).fillBlock t p.1 p.2) (.ok s)
  let s ← State.kvRewrite t o.blks tiers nums s
  let s ← if fld x 511 448 = 0 then .ok s else State.moveScores t (fld x 511 448) (16 * Nat.max (fld x 191 160) new.length) new s
  .ok (s, new.length)

/-- The entries of a compaction that stops are LIVE again, as they were (R467). -/
def State.uncompact (s : State) (o : EngOp) : State :=
  let t := s.tabOf o.core o.tag
  o.blks.foldl (fun s b => match (do s.tPut t b.idx (setFld (← s.tGet t b.idx) 2 0 1) : Except EFault State) with | .ok s => s | .error _ => s) s

/-- COMPACTION_START (R158, R467): first the set becomes COMPACT, once no block of it holds a PEND bit; then it is copied, the table rewritten and the score words moved. -/
def execCompactionStart (id : Nat) (s : State) : Host.Outcome State Fault Refusal :=
  match s.op id with
  | none => .next s
  | some o =>
    match o.kind with
    | .compact rec_ =>
      let t := s.tabOf o.core o.tag
      if !s.opRuns o then .next s
      else if o.started then
        match s.compactRun o with
        | .ok (s, n) => .next (((s.engScr o (rec_ + 28) 4 n false).opShare id 0 64).opReady id)
        | .error e => .next ((s.uncompact o).kvFault id e)
      else
        match s.kvRec o rec_ with
        | .error e => .next (s.engFault id e)
        | .ok x =>
          if recBad t x || fld x 447 384 % 8 != 0 then .next (s.engFault id (0x80, 0, rec_))
          else
            match s.compactSet t x with
            | .error e => .next (s.engFault id e)
            | .ok none => .next s
            | .ok (some (s, l)) => .next (s.updOp id (fun o => { o with started := true, blks := l, result := x }))
    | _ => .next s

/-! ### Completion of engine operations (R105, R108) -/

/-- KV.SWEEP performed (R344): n visits at once; it has performed its effects when the demotions they began are over (DEDUCED). -/
def State.sweepRun (s : State) (o : EngOp) (n : Nat) : State :=
  let t := s.tabOf o.core o.tag
  let s := s.updOp o.id (fun o => { o with started := true })
  if !t.ok then s.engFault o.id (malformed t.base)
  else
    let before := s.moves.map (fun m => m.id)
    match State.kvVisits t n s with
    | (s, some e) => s.engFault o.id e
    | (s, none) => (s.updOp o.id (fun o => { o with prog := (s.moves.map (fun m => m.id)).filter (fun k => !before.contains k) })).sweepsDone

/-- Operations that have no event of their own are performed when they come to complete. -/
def State.opPerform (s : State) (o : EngOp) : State :=
  match o.kind with
  | .topk rec_ => s.topkRun o rec_
  | .sweep n => s.sweepRun o n
  | _ => s

/-- ENGINE_OP_COMPLETE (R105, R108): an operation that has no event of its own is performed; one that has performed its effects completes in class order, its future is settled and its counter falls. A MATRIX-class one that was cancelled comes after the matrix instructions before it, as any (R320). -/
def execEngineOpComplete (id : Nat) (s : State) : Host.Outcome State Fault Refusal :=
  match s.op id with
  | none => .next s
  | some o =>
    if s.stopped then .next s
    else if !(o.ready || o.cancelled) then (if s.opRuns o && !o.started then .next (s.opPerform o) else .next s)
    else if opsBefore s.ops o || s.cores.any (fun c => c.mq.any (fun m => m.op == some id)) then .next s
    else
      let s := { s with ops := s.ops.filter (fun x => x.id != id) }
      let s := s.bumpCnt o.tag.team o.tag.grp o.cls (· - 1)
      .next (match o.ticket with
        | some k => s.settle o.tag.tenant k (if o.cancelled then 2 else if o.faulted then 3 else 1)
        | none => s)

end Sys2Proof.Machine
end

