-- ==== Sys2Proof/Machine/Akv.lean ====
section
/-! DEFINITION. Major AKV: attention, table, prefix-index, early-exit and backfill instructions, what the home slices do for them, and the events that publish backfilled entries and let a waiting free go on (R151-R161, R339-R347, R442, R467, R469). -/

namespace Sys2Proof.Machine

/-! ### Operations with a record -/

/-- A barrier object named by SRCB, or none with z. -/
def Cx.bobjB (cx : Cx) (sel : Nat) : Option Nat := match cx.h.b with | .z => none | _ => some (cx.srcU sel cx.h.b .u32).toNat

/-- ATTN, TOPK and KV.COMPACT (R340, R442): one ATTN-class operation on a record in scratchpad. -/
def recBody (kind : Nat → OpKind) (total : Nat) : Body :=
  let off (cx : Cx) (a : Nat) : Nat := (cx.srcU a cx.h.a .u32).toNat
  { hold := fun cx s => cx.opHeld clsAttn s
    check := fun cx a s =>
      s.rank10 cx [] ((⟨0, off cx a, 64⟩, 64) :: (match cx.bobjB a with | some b => [(⟨0, b, 16⟩, 16)] | none => [])) false
    run := fun cx a s => cx.issueOp a clsAttn (kind (off cx a)) (cx.bobjB a) total s }

/-- ATTN (R341). -/
def execAttn (w : Word) (s : State) : Host.Outcome State Fault Refusal := issue (.attn w) s (recBody (fun r => .attn r false) 0)
/-- ATTN.SCORE (R156, R341). -/
def execAttnScore (w : Word) (s : State) : Host.Outcome State Fault Refusal := issue (.attnScore w) s (recBody (fun r => .attn r true) 0)
/-- TOPK (R343). -/
def execTopk (w : Word) (s : State) : Host.Outcome State Fault Refusal := issue (.topk w) s (recBody .topk 64)
/-- KV.COMPACT (R343). -/
def execKvCompact (w : Word) (s : State) : Host.Outcome State Fault Refusal := issue (.kvCompact w) s (recBody .compact 64)

/-- KV.SWEEP (R344). -/
def execKvSweep (w : Word) (s : State) : Host.Outcome State Fault Refusal :=
  let n (cx : Cx) (a : Nat) : Nat := (cx.srcU a w.a .u32).toNat % 2 ^ 32
  issue (.kvSweep w) s {
    hold := fun cx s => cx.opHeld clsTier s
    check := fun cx a _ => if n cx a == 0 || decide (65535 < n cx a) then some { cause := 0x03 } else none
    run := fun cx a s => cx.issueOp a clsTier (.sweep (n cx a)) none 0 s }

/-! ### KV.LOOKUP, KV.ALLOC, KV.FREE (R340, R342) -/

/-- The lanes of an instruction: those of Active(), or lane 0 once. -/
def Cx.lanes (cx : Cx) (vec : Bool) : List Nat := if vec then cx.act else [0]

/-- The key that a lane names: lh is LAYER × 256 + HEAD, whose bits from 24 on are dropped (R340; DESIGN CHOICE, log 137). -/
def Cx.kvKey (cx : Cx) (vec : Bool) (sel L : Nat) : KvKey :=
  let lh := (cx.srcAny vec sel cx.h.c .u32 L).toNat
  ⟨(cx.srcAny vec sel cx.h.a .u32 L).toNat % 2 ^ 32, lh / 256 % 65536, lh % 256, (cx.srcAny vec sel cx.h.b .u32 L).toNat % 2 ^ 32⟩

/-- KV.LOOKUP and KV.ALLOC: one operation per lane at the home slice of its home entry, in lane order (R90, R150). -/
def kvBody (w : Word) (vec : Bool) (acq : Option Nat) (op : KvKey → SliceOp) : Body :=
  { run := fun cx a s =>
      let t := s.tabOf cx.core cx.tag
      let item (L : Nat) : Part × SliceOp × Nat :=
        let k := cx.kvKey vec a L
        ({ lane := L, regs := cx.dstRegs 1 L, pa := s.phys cx.core cx.tenant (t.entry (k.hash t.n)), n := 4 }, op k, 0)
      if (cx.lanes vec).isEmpty then s
      else
        s.sendOps { id := 0, core := cx.core, tag := cx.tag, dest := cx.asyncDest vec a, ty := .u32, parts := [], acq := acq, hit := true,
                    pd := if w.slot = 7 then none else some w.slot.toNat } ((cx.lanes vec).map item) }

/-- KV.LOOKUP (R342): a hit is an acquire of DEVICE scope. -/
def execKvLookup (w : Word) (s : State) : Host.Outcome State Fault Refusal :=
  issue (.kvLookup w) s (kvBody w (isVector (Instr.kvLookup w).form (headR w)) (some 2) .kvLookup)
/-- KV.ALLOC (R342). -/
def execKvAlloc (w : Word) (s : State) : Host.Outcome State Fault Refusal :=
  issue (.kvAlloc w) s (kvBody w (isVector (Instr.kvAlloc w).form (headR w)) none .kvAlloc)

/-- A table index at or above N (R442, rank 8). -/
def Cx.idxCheck (cx : Cx) (vec : Bool) (sel : Nat) (s : State) : Option Bad :=
  let t := s.tabOf cx.core cx.tag
  ((cx.lanes vec).find? (fun L => decide (t.n ≤ (cx.srcAny vec sel cx.h.a .u32 L).toNat % 2 ^ 32))).map (fun L => ({ cause := 0x03, lane := L } : Bad))

/-- KV.FREE (R342): a release of DEVICE scope, then one operation per lane. -/
def execKvFree (w : Word) (s : State) : Host.Outcome State Fault Refusal :=
  let vec := isVector (Instr.kvFree w).form (headR w)
  issue (.kvFree w) s {
    check := fun cx a s => cx.idxCheck vec a s
    rel := fun _ => some 2
    run := fun cx a s =>
      let t := s.tabOf cx.core cx.tag
      let item (L : Nat) : Part × SliceOp × Nat :=
        let i := (cx.srcAny vec a w.a .u32 L).toNat % 2 ^ 32
        ({ lane := L, pa := s.phys cx.core cx.tenant (t.entry i), n := 4 }, .kvFree i, 0)
      if (cx.lanes vec).isEmpty then s
      else s.sendOps { id := 0, core := cx.core, tag := cx.tag, dest := .none, ty := .u32, parts := [], blk := some 0 } ((cx.lanes vec).map item) }

/-! ### SCORE.CLR (R344) -/

/-- The words that SCORE.CLR clears. -/
def Cx.clrCount (cx : Cx) (w : Word) (a : Nat) : Nat := (cx.srcU a w.b .u32).toNat % 2 ^ 32

/-- Its stores. -/
def Cx.clrAccs (cx : Cx) (w : Word) (a : Nat) : List Acc := (List.range (cx.clrCount w a)).map (fun k => ⟨0, ((cx.srcU a w.a .u64).toNat + 4 * k) % 2 ^ 64, 4⟩)

/-- SCORE.CLR (R344): plain stores of +0. -/
def execScoreClr (w : Word) (s : State) : Host.Outcome State Fault Refusal :=
  issue (.scoreClr w) s {
    hold := fun cx s => s.ownMarked cx ((cx.arms false).flatMap (cx.clrAccs w))
    check := fun cx a s =>
      if 2 ^ 24 < cx.clrCount w a then some { cause := 0x03 } else s.rank10 cx ((⟨0, (cx.srcU a w.a .u64).toNat, 0⟩, 4) :: aligned (cx.clrAccs w a) 4) [] false
    check2 := fun cx a s => s.rank11 cx (cx.clrAccs w a) (needW cx.priv)
    run := fun cx a s => cx.storeMany ((cx.clrAccs w a).map (fun x => (x.va, 4, 0))) 0 false (s.fills cx.core cx.tenant (cx.clrAccs w a)) }

/-! ### The prefix index (R153, R345) -/

/-- PFX.LOOKUP and PFX.INSERT: the ids are taken from scratchpad at issue. -/
def pfxBody (w : Word) (insert : Bool) : Body :=
  let h (cx : Cx) (a : Nat) : W64 := cx.srcU a w.a .u64
  let ids (cx : Cx) (a : Nat) : Nat := (cx.srcU a w.b .u32).toNat
  { check := fun cx a s => if h cx a == 0 then some { cause := 0x03 } else s.rank10 cx [] [(⟨0, ids cx a, 64⟩, 4)] false
    rel := fun _ => if insert then some 2 else none
    run := fun cx a s =>
      let x : Async := { id := 0, core := cx.core, tag := cx.tag, dest := cx.asyncDest false a, ty := .u32, parts := [], pd := if w.slot = 7 then none else some w.slot.toNat }
      let p : Part := { regs := cx.dstRegs 1 0, n := 4 }
      if s.scrBad cx.c.team (ids cx a) 64 then
        let f := (s.imprecise cx.tag 0x16 0 0 0 0).free
        f.1.addAsync { x with parts := [{ p with data := BitVec.ofNat 512 f.2.toNat, done := true, pred := f.2.getLsbD 32 }] }
      else
        let l := (List.range 16).map (fun k => BitVec.ofNat 32 (s.scrRead cx.c.team (ids cx a + 4 * k) 4))
        let o : SliceOp := if insert then .pfxInsert (h cx a) l (loOf (cx.srcU a w.c .u32)) else .pfxLookup (h cx a) l
        s.sendOps x [({ p with pa := s.phys cx.core cx.tenant (s.pfxEntry cx.tenant (h cx a).toNat) }, o, 0)] }

/-- PFX.LOOKUP (R345). -/
def execPfxLookup (w : Word) (s : State) : Host.Outcome State Fault Refusal := issue (.pfxLookup w) s (pfxBody w false)
/-- PFX.INSERT (R345): a release of DEVICE scope. -/
def execPfxInsert (w : Word) (s : State) : Host.Outcome State Fault Refusal := issue (.pfxInsert w) s (pfxBody w true)

/-! ### EXIT.TEST (R159, R346) -/

/-- A lane passes: confidence at least the threshold, and neither a NaN. -/
def Cx.passes (cx : Cx) (w : Word) (L : Nat) : Bool := floatCond 5 .f32 (cx.src w.a .f32 L) (cx.src w.b .f32 L)

/-- The backfill record of a lane (R159, R346). -/
def Cx.backRec (cx : Cx) (w : Word) (L : Nat) : Nat :=
  let r (k : Nat) : Nat := (cx.g.vget (cx.runReg w.c k L) L).toNat
  r 0 + r 1 * 2 ^ 64 + r 3 / 65536 * 2 ^ 128 + r 2 * 2 ^ 144 + r 3 % 16 * 2 ^ 176 + r 4 * 2 ^ 192 + r 5 * 2 ^ 224

/-- The backfill queue's header: its virtual and physical address (R147, R486, R487). -/
def State.backQueue (s : State) (t : Tab) : Except EFault (Nat × Nat) := do
  s.ctlOk t
  let va ← s.tRead t (t.base + 44) 8
  if va % 64 ≠ 0 then .error (malformed va)
  else
    match s.tabTr t (needRW t.priv) va with
    | .ok e => .ok (va, e.at va)
    | .bad c d => .error (c, d, va)

/-- An imprecise trap of a table instruction: KVFULL, POISON and QUEUEFROZEN by name, ENGINE with its reason for the rest (R342, R457, R467, R487). -/
def State.kvTrap (s : State) (tag : Tag) (e : EFault) : State :=
  if e.1 = 0x33 ∨ e.1 = 0x16 ∨ e.1 = 0x32 then s.imprecise tag e.1 0 0 (BitVec.ofNat 64 e.2.2) 0 else s.imprecise tag 0x30 0 e.1 (BitVec.ofNat 64 e.2.2) e.2.1

/-- EXIT.TEST (R346): the passing lanes' records are pushed in lane order, and the predicate is written when every push has been answered. -/
def execExitTest (w : Word) (s : State) : Host.Outcome State Fault Refusal :=
  let put (cx : Cx) (p : Nat → Bool) (s : State) : State := cx.writeP w.slot.toNat (cx.act.map (fun L => (L, p L))) s
  issue (.exitTest w) s {
    hold := fun cx s => cx.opMarked (s.marksOf cx.c.team cx.c.grp) w.c { n := 6 }
    used := some (fun cx sel => cx.srcWords (.exitTest w) true sel ++ cx.act.flatMap (fun L => cx.opWords w.c 6 sel L))
    rel := fun cx => if cx.act.any (cx.passes w) then some 2 else none
    run := fun cx _ s =>
      match cx.answered s with
      | some x => put cx (fun L => x.parts.any (fun p => p.lane == L && p.pred)) (cx.done (s.dropAsync x.id))
      | none =>
        let go := cx.act.filter (cx.passes w)
        if go.isEmpty then put cx (fun _ => false) s
        else
          match s.backQueue (s.tabOf cx.core cx.tag) with
          | .error e => put cx (fun _ => false) (s.kvTrap cx.tag e)
          | .ok (va, pa) =>
            cx.ask (go.map (fun L =>
              (({ lane := L, pa := pa, n := 4 } : Part), SliceOp.exitPush pa (BitVec.ofNat 64 va) ((List.range 8).map (fun k => BitVec.ofNat 32 (cx.backRec w L / 2 ^ (32 * k)))), 0))) s }

/-! ### BACKFILL (R160, R161, R347) -/

/-- BACKFILL (R347): one ATTN-class operation over the lanes, behind a release of DEVICE scope that the operation itself waits for. -/
def execBackfill (w : Word) (s : State) : Host.Outcome State Fault Refusal :=
  let vec := isVector (Instr.backfill w).form (headR w)
  issue (.backfill w) s {
    hold := fun cx s => !(cx.lanes vec).isEmpty && cx.opHeld clsAttn s
    check := fun cx a s => cx.idxCheck vec a s
    run := fun cx a s =>
      if (cx.lanes vec).isEmpty then s
      else
        let l := (cx.lanes vec).map (fun L => ((cx.srcAny vec a w.a .u32 L).toNat % 2 ^ 32, (cx.srcAny vec a w.b .u32 L).toNat % 2 ^ 32))
        match s.team cx.c.team with
        | none => s
        | some t =>
          let r := s.startRelease cx.core t cx.c.team cx.c.grp 2
          let id := r.1.nextOp
          (cx.issueOp a clsAttn (.backfill l) none 0 r.1).updOp id (fun o => { o with ids := r.2.ids, asy := r.2.asy }) }

/-- The indivisible update of a header's word 63:0 that publishes entry e, or marks it pending (R119, R160, R338). -/
def pubWord (h e : Nat) (valid : Bool) : Nat := setFld (setFld h e e (b2n valid)) (16 + e) (16 + e) (b2n !valid)

/-- The word 63:0 of a block's header published for entry e, or marked pending; one whose reserved field is not zero is malformed (R6, R145). -/
def State.publishAt (s : State) (t : Tab) (addr e : Nat) (valid : Bool) : Except EFault State := do
  let h ← s.tRead t addr 8
  if fld h 63 32 ≠ 0 then .error (malformed addr) else (s.tCount t addr 8).tWrite t addr 8 (pubWord h e valid)

/-- One lane of BACKFILL. -/
def State.publish (s : State) (t : Tab) (idx e : Nat) : Except EFault State := do
  let x ← s.tGet t idx
  if entBad x || entState x == 0 || decide (15 < e) then .error (malformed (t.entry idx)) else (s.tSeen t [idx]).publishAt t (entAddr x) e true

/-- An entry is in a STATE. -/
def State.entIn (s : State) (t : Tab) (idx st : Nat) : Bool := match s.tGet t idx with | .ok x => entState x == st | .error _ => false

/-- An entry is MOVING or COMPACT, so a write through it waits (R151). -/
def State.entBusy (s : State) (t : Tab) (idx : Nat) : Bool := s.entIn t idx 2 || s.entIn t idx 3

/-- BACKFILL_PUBLISH (R119, R151, R347, R469): once the earlier writes are performed, every lane's entry is published in lane order; a fault sets no bit. It names a table index, so after a wait for a COMPACT entry it publishes at that index: it has no key to look up again (R151; DESIGN CHOICE, log 121). -/
def execBackfillPublish (id : Nat) (s : State) : Host.Outcome State Fault Refusal :=
  match s.op id with
  | none => .next s
  | some o =>
    match o.kind with
    | .backfill l =>
      let t := s.tabOf o.core o.tag
      if !s.opRuns o || s.pendingOn { ids := o.ids, asy := o.asy } then .next s
      else if !t.ok then .next (s.engFault id (malformed t.base))
      else if l.any (fun p => s.entBusy t p.1) then .next s
      else
        let s' := s.updOp id (fun o => { o with started := true })
        let r : Except EFault State := l.foldl (fun acc p => do (← acc).publish t p.1 p.2) (.ok s')
        match r with
        | .error e => .next (s'.engFault id e)
        | .ok s => .next (s.opReady id)
    | _ => .next s

/-! ### At the slice -/

/-- A lane that fails: its answer, and the trap that its instruction raises once (R342). -/
def State.laneErr (s : State) (r : Req) (e : EFault) (f : Part → Part) : State :=
  let c := if e.1 = 0x33 ∨ e.1 = 0x16 ∨ e.1 = 0x32 then e.1 else 0x30
  let seen : Bool := match r.async with
    | some (id, _) => (match s.asyncs.find? (fun x => x.id == id) with | some x => x.parts.any (fun p => p.err == c) | none => false)
    | none => false
  (if seen then s else s.kvTrap r.tag e).answer r (fun p => { f p with err := c })

/-- The answer of a lane without a result. -/
def missing (p : Part) : Part := { p with data := 0xFFFFFFFF, pred := false }
/-- The answer of a lane with one. -/
def found (v : Nat) (b : Bool) (p : Part) : Part := { p with data := BitVec.ofNat 512 v, pred := b }

/-- A free performed (R150, R342). The table of states lists no free of a COMPACT entry, and an event that is not listed leaves the state unchanged (R151). -/
def State.kvFreeOp (s : State) (r : Req) (idx : Nat) : State :=
  let t := s.tabReq r.core r.tag
  if !t.ok then s.laneErr r (malformed t.base) (fun p => p)
  else if s.entIn t idx 3 then s.answer r (fun p => p)
  else match s.kvFreeEnt t idx true with | .ok s => s.answer r (fun p => p) | .error e => s.laneErr r e (fun p => p)

/-- The push of EXIT.TEST (R6, R346, R439, R446, R487). -/
def State.exitPush (s : State) (r : Req) (pa : Nat) (data : List W32) : State :=
  if s.poisonAt pa then
    let f := s.free
    f.1.laneErr r (0x16, 0, (lineInfo pa).toNat) (fun p => { p with pred := f.2.getLsbD 0 })
  else if (hdrOf (s.peek pa 64)).log2e ≠ 5 || decide (24 < (hdrOf (s.peek pa 64)).log2c) || (hdrOf (s.peek pa 64)).rsv then
    s.laneErr r (malformed (lineInfo pa).toNat) missing
  else
    match s.qPush (s.sliceTr r pa needW) pa (ofBytes (data.flatMap (fun x => bytesOf 4 x.toNat))) with
    | (s, .done i _) => s.answer r (found i true)
    | (s, .refused) => s.answer r missing
    | (s, .frozen) => s.laneErr r (0x32, 0, (lineInfo pa).toNat) missing
    | (s, .bad c d i) => s.laneErr r (c, d, i) missing

/-- What a slice does for the table and the prefix index (R150, R151, R342, R345, R346). A free of an entry that is MOVING is kept back. -/
def State.kvOp (s : State) (r : Req) (o : SliceOp) : State :=
  let t := s.tabReq r.core r.tag
  match o with
  | .kvLookup k =>
    (match s.kvLook t k with
     | .error e => s.laneErr r e missing
     | .ok (s, none) => s.answer r missing
     | .ok (s, some j) => s.answer r (found j true))
  | .kvAlloc k =>
    (match s.kvAlloc t k (k.lblk * 16) none with
     | .error e => s.laneErr r e missing
     | .ok (s, j, new) => s.answer r (found j new))
  | .kvFree idx => if t.ok && s.entIn t idx 2 then { s with kvw := s.kvw ++ [r] } else s.kvFreeOp r idx
  | .pfxLookup h ids =>
    if !t.ok || !s.pfxOk r.tag.tenant then s.laneErr r (malformed (s.pfxEntry r.tag.tenant h.toNat)) missing
    else
      (match s.pfxFind t h.toNat ids 8 h.toNat with
       | .error e => s.laneErr r e missing
       | .ok none => s.answer r missing
       | .ok (some j) => s.answer r (found j true))
  | .pfxInsert h ids blk =>
    if !t.ok || !s.pfxOk r.tag.tenant then s.laneErr r (malformed (s.pfxEntry r.tag.tenant h.toNat)) missing
    else
      (match s.pfxFree t h.toNat ids 8 h.toNat with
       | .error e => s.laneErr r e missing
       | .ok none => s.answer r missing
       | .ok (some i) =>
         (match s.tWrite t (s.pfxEntry r.tag.tenant i) 16 (h.toNat + blk.toNat * 2 ^ 64) with
          | .error e => s.laneErr r e missing
          | .ok s => s.answer r (found i true)))
  | .exitPush pa _ data => s.exitPush r pa data
  | _ => s

/-- TABLE_WRITE_AFTER_MOVE (R151): a free that waited goes on once its entry is no longer MOVING. -/
def execTableWriteAfterMove (id : Nat) (s : State) : Host.Outcome State Fault Refusal :=
  match s.kvw.find? (fun r => r.id == id) with
  | none => .next s
  | some r =>
    match r.kind with
    | .op (.kvFree idx) =>
      if s.stopped || !s.ownsSlot r.tenant || s.entIn (s.tabOf r.core r.tag) idx 2 then .next s
      else .next ({ s with kvw := s.kvw.filter (fun x => x.id != id) }.kvFreeOp r idx)
    | _ => .next { s with kvw := s.kvw.filter (fun x => x.id != id) }

end Sys2Proof.Machine
end

