-- ==== Sys2Proof/Machine/Control.lean ====
section
/-! DEFINITION. Major CTL: branches, the divergence stack and rejoin, calls, melding, exit, yielding, breakpoints, host calls and the return from a handler (R29-R41, R100, R217-R235, R381, R412, R435, R436). -/

namespace Sys2Proof.Machine

/-- Target (R178): an immediate counts bundles. -/
def target (bundle : Nat) (imm : W32) : Nat := wrapN 56 ((bundle : Int) + sgn 32 imm.toNat * 64)

/-- The address of the next bundle. -/
def Cx.nextBundle (cx : Cx) : Nat := (cx.bundle + 64) % 2 ^ 56

/-- The lanes in which a per-lane predicate, negated on demand, holds. -/
def Cx.predMask (cx : Cx) (p : Nat) (neg : Bool) : W64 := maskOf (fun L => cx.act.contains L && (cx.g.pget p L != neg))

/-! ### Arms -/

/-- The first of a context's two arms: 0, or 2 in a handler. -/
def baseArm (c : CtxId) : Nat := c.arm - armSel c

/-- Arm 1's banked copies loaded with arm 0's (R29, R37). -/
def Group.bankCopy (g : Group) : Group :=
  { g with sb1 := g.s.filter (fun p => decide (96 ≤ p.1)), q1 := BitVec.ofNat 3 (g.q.toNat / 16),
           spo := g.spo.filter (fun k => decide (k < 128)) ++ (g.spo.filter (fun k => decide (96 ≤ k ∧ k < 128))).map (fun k => k + 128),
           futs := g.futs.filter (fun f => decide (f.1 < 128)) ++ (g.futs.filter (fun f => decide (96 ≤ f.1 ∧ f.1 < 128))).map (fun f => (f.1 + 128, f.2)) }

/-- Arm 1's banked copies survive as the only ones (R34, R41). -/
def Group.bankKeep1 (g : Group) : Group :=
  { g with s := g.s.filter (fun p => decide (p.1 < 96)) ++ g.sb1, q := BitVec.ofNat 7 (g.q.toNat % 16 + g.q1.toNat * 16),
           spo := g.spo.filter (fun k => decide (k < 96)) ++ (g.spo.filter (fun k => decide (128 ≤ k))).map (fun k => k - 128),
           futs := g.futs.filter (fun f => decide (f.1 < 96)) ++ (g.futs.filter (fun f => decide (128 ≤ f.1))).map (fun f => (f.1 - 128, f.2)) }

/-- A split (R29): the issuing arm keeps the fall-through set at the next bundle, the other arm starts at the target with the taken set. -/
def Group.splitArms (g : Group) (c : CtxId) (fall taken : W64) (next tgt clock : Nat) : Group :=
  let g := g.bankCopy
  let g := g.updArm (baseArm c) (fun a => { a with mask := fall, pc := next, slot := 0, wait := {} })
  { g.updArm (baseArm c + 1) (fun _ => { live := true, pc := tgt, slot := 0, mask := taken, since := clock }) with split := true }

/-- Asynchronous results of a group whose arms merge: those of the copies that survive land in them, the others are discarded and keep their marks (R34, R41). -/
def State.mergeAsync (s : State) (c : CtxId) (keep1 : Bool) : State :=
  let f (x : Async) : Async :=
    match x.dest with
    | .uni a =>
      let bank := (x.parts.any (fun p => p.regs.any (fun r => decide (96 ≤ r)))) || (match x.pd with | some i => bankedQ i | none => false)
      if bank && (a == 1) != keep1 then { x with dest := .dead } else { x with dest := .uni 0 }
    | _ => x
  { s with asyncs := updWhere (fun x => x.tag.team == c.team && x.tag.grp == c.grp) f s.asyncs }

/-- Rejoin (R34). -/
def Group.rejoin (g : Group) (c : CtxId) (clock : Nat) : Group :=
  let b := baseArm c
  let a0 := g.arm b
  let a1 := g.arm (b + 1)
  let m0 := a0.mask &&& ~~~g.xmask
  let m1 := a1.mask &&& ~~~g.xmask
  let g := if m0 = 0 then g.bankKeep1 else g
  let g := g.updArm b (fun a => { a with mask := m0 ||| m1, pc := if m0 = 0 then a1.parkPc else a0.parkPc, slot := 1, parked := false, depth := 0, wait := {}, since := clock })
  { g.updArm (b + 1) (fun _ => {}) with split := false }

/-! ### The divergence stack (R30, R31, R436) -/

/-- The address of entry k of an arm's stack (R31). -/
def Group.entryVa (g : Group) (sel k : Nat) : Nat :=
  g.privBase.toNat + fld g.privLim.toNat 19 0 * g.width * 4 + (sel * fld g.divLim.toNat 7 0 + k) * 16

/-- A stack entry reached by a slot: its physical address, or the condition: no translation, a poisoned line, a denied access (R436, R489). -/
def State.entryAt (s : State) (cx : Cx) (k : Nat) (n : Need) : Except Bad Nat :=
  let va := cx.g.entryVa (armSel cx.c) k
  let bad (cause d : Nat) : Bad := { cause := cause, detail := d, info := BitVec.ofNat 64 va }
  match s.reach cx.core cx.tenant va { priv := true } with
  | .bad cause d => .error (bad cause d)
  | .ok e =>
    if s.corePoison cx.core (e.at va) 16 then .error (bad 0x16 0)
    else if denied e n = 0 then .ok (e.at va)
    else .error (bad 0x11 (denied e n))

/-- A context's mask and depth set. -/
def State.setMask (s : State) (c : CtxId) (m : W64) (depth : Nat) : State := s.updArm c (fun a => { a with mask := m, depth := depth })

/-- An arm parks at a bundle, or counts as having reached the rejoin; when the other arm is parked or has no unexited lane, the arms rejoin (R33-R35). -/
def State.park (s : State) (c : CtxId) (bundle : Nat) : State :=
  match s.group c.team c.grp with
  | none => s
  | some g =>
    let other := g.arm (if armSel c = 0 then c.arm + 1 else c.arm - 1)
    let g' := g.updArm c.arm (fun a => { a with parked := true, parkPc := bundle, pc := bundle, slot := 0, wait := {} })
    if other.parked || other.mask &&& ~~~g.xmask = 0 then
      ((s.mergeAsync c ((g'.arm (baseArm c)).mask &&& ~~~g.xmask == 0)).updGroup c.team c.grp (fun _ => g'.rejoin c s.clock)).orderArms g.core c.team c.grp
    else s.updGroup c.team c.grp (fun _ => g')

/-- The join step (R33) at a bundle, as often as it is re-evaluated; each round takes one entry or ends. An entry whose phase changed at an EXIT holds the bundle of that EXIT, and a later pop goes on there, at slot 1, at a JOIN too (DEDUCED, log 132). -/
def State.joinStep (s : State) (cx : Cx) (bundle : Nat) : Nat → Except Bad State
  | 0 => .ok s
  | n + 1 =>
    match s.group cx.c.team cx.c.grp with
    | none => .ok s
    | some g =>
      let a := g.arm cx.c.arm
      if a.depth = 0 then .ok (if g.split then s.park cx.c bundle else s.jump cx.c bundle 1)
      else
        match s.entryAt cx (a.depth - 1) (needR cx.priv) with
        | .error b => .error b
        | .ok pa =>
          let x := s.coreRead cx.core pa 16
          let saved : W64 := BitVec.ofNat 64 (x / 2 ^ 64)
          let pend := saved &&& ~~~(g.curMask cx.c.arm) &&& ~~~g.xmask
          let pop (s : State) (at_ : Nat) : Except Bad State :=
            let s := s.setMask cx.c (saved &&& ~~~g.xmask) (a.depth - 1)
            if a.depth - 1 = 0 then .ok (s.jump cx.c at_ 1) else s.joinStep cx bundle n
          if x.testBit 0 then pop s (fld x 63 14 * 64)
          else
            match s.entryAt cx (a.depth - 1) (needW cx.priv) with
            | .error b => .error b
            | .ok pa =>
              let y := saved.toNat * 2 ^ 64 + bundle / 64 * 2 ^ 14 + 1
              let s := s.store cx.core cx.tag pa 16 y 0
              if pend ≠ 0 then .ok ((s.setMask cx.c pend a.depth).jump cx.c (fld x 63 14 * 64) 0) else pop s bundle

/-- The join steps that follow an EXIT, until the arm has a lane or its stack is empty (R35). -/
def State.exitSteps (s : State) (cx : Cx) (bundle : Nat) : Nat → Except Bad State
  | 0 => .ok s
  | n + 1 =>
    match s.group cx.c.team cx.c.grp with
    | none => .ok s
    | some g =>
      let a := g.arm cx.c.arm
      if g.curMask cx.c.arm ≠ 0 then .ok s
      else if a.depth ≠ 0 then
        match s.joinStep cx bundle (a.depth + 1) with
        | .error b => .error b
        | .ok s => s.exitSteps cx bundle n
      else if g.split then
        let s := s.park cx.c bundle
        .ok (match s.group cx.c.team cx.c.grp with
          | some g => if g.split || g.curMask (baseArm cx.c) ≠ 0 then s else s.retireGroup cx.c.team cx.c.grp
          | none => s)
      else .ok (s.retireGroup cx.c.team cx.c.grp)

/-! ### The meanings -/

/-- NOP (R218). -/
def execNop (w : Word) (s : State) : Host.Outcome State Fault Refusal :=
  issue (.nop w) s { run := fun _ _ s => s }

/-- The lanes of a branch before its guard, in which the guard is false. -/
def Cx.guardFalse (cx : Cx) : List Nat :=
  (pathLanes cx.g cx.c.arm cx.h.path).filter (fun L => !guardLane cx.g (laneArm cx.g cx.c.arm L) cx.h.guard L)

/-- BRA (R219): a per-lane guard must agree in every lane. -/
def execBra (w : WordI) (s : State) : Host.Outcome State Fault Refusal :=
  issue (.bra w) s {
    check := fun cx _ _ =>
      if w.guard.perLane && !cx.guardFalse.isEmpty && !cx.act.isEmpty then some { cause := 0x05, lane := cx.guardFalse.headD 0 } else none
    own := true
    run := fun cx _ s =>
      if w.guard.perLane && !cx.guardFalse.isEmpty then s.jump cx.c cx.nextBundle 0 else s.jump cx.c (target cx.bundle w.imm) 0 }

/-- A BRD in this state creates a split (R29). -/
def Cx.splits (cx : Cx) (fall taken : W64) : Bool :=
  !cx.g.split && (cx.g.arm cx.c.arm).depth == 0 && fall != 0 && taken != 0

/-- BRD (R29, R30, R220). -/
def execBrd (w : WordI) (s : State) : Host.Outcome State Fault Refusal :=
  let taken (cx : Cx) : W64 := cx.predMask w.slot.toNat w.neg
  let fall (cx : Cx) : W64 := maskOf (fun L => cx.act.contains L) &&& ~~~(taken cx)
  issue (.brd w) s {
    check := fun cx _ _ =>
      if !cx.splits (fall cx) (taken cx) && decide (fld cx.g.divLim.toNat 7 0 ≤ (cx.g.arm cx.c.arm).depth) then some { cause := 0x08 } else none
    check2 := fun cx _ s =>
      if cx.splits (fall cx) (taken cx) then none
      else match s.entryAt cx (cx.g.arm cx.c.arm).depth (needW cx.priv) with | .error b => some b | .ok _ => none
    own := true
    run := fun cx _ s =>
      let t := target cx.bundle w.imm
      if cx.splits (fall cx) (taken cx) then
        s.updGroup cx.c.team cx.c.grp (fun g => g.splitArms cx.c (fall cx) (taken cx) cx.nextBundle t s.clock)
      else
        let d := (cx.g.arm cx.c.arm).depth
        match s.entryAt cx d (needW cx.priv) with
        | .error _ => s
        | .ok pa =>
          let all := maskOf (fun L => cx.act.contains L)
          let s := s.store cx.core cx.tag pa 16 (all.toNat * 2 ^ 64 + t / 64 * 2 ^ 14) 0
          if fall cx = 0 then (s.setMask cx.c (taken cx) (d + 1)).jump cx.c t 0 else (s.setMask cx.c (fall cx) (d + 1)).jump cx.c cx.nextBundle 0 }

/-- JOIN (R33, R221). -/
def execJoin (w : Word) (s : State) : Host.Outcome State Fault Refusal :=
  let steps (cx : Cx) : Nat := (cx.g.arm cx.c.arm).depth + 1
  issue (.join w) s {
    check2 := fun cx _ s => match s.joinStep cx cx.bundle (steps cx) with | .error b => some b | .ok _ => none
    own := true
    run := fun cx _ s => match s.joinStep cx cx.bundle (steps cx) with | .error _ => s | .ok s => s }

/-- The link value of R222. -/
def Cx.link (cx : Cx) : W64 := BitVec.ofNat 64 cx.nextBundle

/-- CALL (R222). -/
def execCall (w : WordI) (s : State) : Host.Outcome State Fault Refusal :=
  issue (.call w) s { own := true, run := fun cx a s => (cx.writeU a .u64 cx.link s).jump cx.c (target cx.bundle w.imm) 0 }

/-- A target value that is no bundle address (R223, R435). -/
def badTarget (x : W64) : Option Bad := if fld x.toNat 63 56 != 0 || fld x.toNat 5 0 != 0 then some { cause := 0x02 } else none

/-- RET (R223). -/
def execRet (w : Word) (s : State) : Host.Outcome State Fault Refusal :=
  issue (.ret w) s {
    check := fun cx a _ => badTarget (cx.srcU a w.a .u64)
    own := true
    run := fun cx a s => s.jump cx.c (cx.srcU a w.a .u64).toNat 0 }

/-- JMPI (R223): the source is read before the link is written. -/
def execJmpi (w : Word) (s : State) : Host.Outcome State Fault Refusal :=
  issue (.jmpi w) s {
    check := fun cx a _ => badTarget (cx.srcU a w.a .u64)
    own := true
    run := fun cx a s => (cx.writeU a .u64 cx.link s).jump cx.c (cx.srcU a w.a .u64).toNat 0 }

/-- The identity rename table (R37). -/
def identityTable : Sparse 8 := (List.range 64).filterMap (fun k => if k = 0 then none else some (k, BitVec.ofNat 8 k))

/-- MELD (R37, R224). -/
def execMeld (w : Word) (s : State) : Host.Outcome State Fault Refusal :=
  issue (.meld w) s {
    run := fun cx _ s => s.updGroup cx.c.team cx.c.grp (fun g =>
      { g.bankCopy with melded := true, armBits := cx.predMask w.slot.toNat (w.scope.toNat / 4 % 2 == 1), ren0 := identityTable, ren1 := identityTable }) }

/-- Entries of a rename table written (R225). -/
def mapRun (t : Sparse 8) (k j : Nat) : Nat → Sparse 8
  | 0 => t
  | n + 1 => (mapRun t k j n).set (k + n) (BitVec.ofNat 8 (j + n))

/-- MELD.MAP (R225). -/
def execMeldMap (w : Word) (s : State) : Host.Outcome State Fault Refusal :=
  issue (.meldMap w) s {
    used := some (fun _ _ => [])
    run := fun cx _ s =>
      match w.dst, w.a with
      | .m k, .v j =>
        let f (t : Sparse 8) := mapRun t k.toNat j.toNat (w.fspec.toNat + 1)
        s.updGroup cx.c.team cx.c.grp (fun g =>
          { g with ren0 := if w.path == .arm1 then g.ren0 else f g.ren0, ren1 := if w.path == .arm0 then g.ren1 else f g.ren1 })
      | _, _ => s }

/-- MELD.END (R41, R227). -/
def execMeldEnd (w : Word) (s : State) : Host.Outcome State Fault Refusal :=
  issue (.meldEnd w) s {
    run := fun cx _ s =>
      let none0 : Bool := cx.g.curMask cx.c.arm &&& ~~~cx.g.armBits == 0
      ((s.mergeAsync cx.c none0).updGroup cx.c.team cx.c.grp (fun g =>
        { (if none0 then g.bankKeep1 else g) with melded := false, armBits := 0, ren0 := [], ren1 := [] })).orderArms cx.core cx.c.team cx.c.grp }

/-- EXIT's effect, or the condition its join steps meet (R35, R228, R436). With path `both` and a guard of which each arm has its own copy it acts once, on every active lane, when either copy lets it (R40, R45, R228; DESIGN CHOICE, log 114). -/
def Cx.exit (cx : Cx) (s : State) : Except Bad State :=
  let out := maskOf (fun L => cx.act.contains L || (!isVector ({ guard := .any } : Form) cx.h && (pathLanes cx.g cx.c.arm cx.h.path).contains L))
  let s := s.updGroup cx.c.team cx.c.grp (fun g => { g.updArm cx.c.arm (fun a => { a with mask := a.mask &&& ~~~out }) with xmask := g.xmask ||| out })
  match s.group cx.c.team cx.c.grp with
  | none => .ok s
  | some g => if g.curMask cx.c.arm ≠ 0 then .ok (cx.advance s) else s.exitSteps cx cx.bundle ((g.arm cx.c.arm).depth + 2)

/-- EXIT (R228). -/
def execExit (w : Word) (s : State) : Host.Outcome State Fault Refusal :=
  issue (.exit w) s {
    check2 := fun cx _ s => match cx.exit s with | .error b => some b | .ok _ => none
    own := true
    once := true
    run := fun cx _ s => match cx.exit s with | .error _ => s | .ok s => s }

/-- YIELD (R230). -/
def execYield (w : Word) (s : State) : Host.Outcome State Fault Refusal :=
  issue (.yield w) s { run := fun cx _ s => s.yieldPorts cx.c cx.core }

/-- YIELD.ON (R231): executed for both arms, it waits for both counts. -/
def execYieldOn (w : WordI) (s : State) : Host.Outcome State Fault Refusal :=
  issue (.yieldOn w) s {
    own := true
    run := fun cx a s =>
      let n := (cx.srcU a w.a .u32).toNat
      let n := match (cx.g.arm cx.c.arm).wait.kind with | .yieldOn c k => if c = w.round.toNat then Nat.min n k else n | _ => n
      ((s.jump cx.c (target cx.bundle w.imm) 0).updArm cx.c (fun x => { x with wait := { kind := .yieldOn w.round.toNat n } })).yieldPorts cx.c cx.core }

/-- BREAKPOINT or SWTRAP: the slot counts as executed, and the trap carries the code (R232, R402, R407). -/
def Cx.softTrap (cx : Cx) (cause code : Nat) (s : State) : State :=
  let s := (cx.advance s).raise cx.c.team cx.c.grp { cause := cause, detail := code, pc := cx.pc, arm := armSel cx.c }
  if cx.g.hmode then s else s.haltCtx cx.c

/-- BPT (R232). -/
def execBpt (w : Word) (s : State) : Host.Outcome State Fault Refusal :=
  issue (.bpt w) s { own := true, once := true, run := fun cx _ s => cx.softTrap 0x38 w.fspec.toNat s }

/-- TRAP (R232). -/
def execTrap (w : Word) (s : State) : Host.Outcome State Fault Refusal :=
  issue (.trap w) s { own := true, once := true, run := fun cx _ s => cx.softTrap 0x39 w.fspec.toNat s }

/-- A host-call record (R234). -/
def Cx.hostRec (cx : Cx) (arg : W64) (code : Nat) (s : State) : BitVec 256 :=
  match s.team cx.c.team with
  | none => 0
  | some t =>
    BitVec.ofNat 256 (arg.toNat * 2 ^ 192 + cx.pc.toNat * 2 ^ 128 + code % 256 * 2 ^ 120 + armSel cx.c * 2 ^ 104 + cx.c.grp % 256 * 2 ^ 96
      + t.index % 2 ^ 32 * 2 ^ 64 + (s.launch t.launch).id % 2 ^ 32 * 2 ^ 32 + cx.tenant % 16)

/-- HCALL (R233, R381): the record waits for the ring; the reply, when it has come, is written and a SYSTEM acquire made. -/
def execHcall (w : Word) (s : State) : Host.Outcome State Fault Refusal :=
  issue (.hcall w) s {
    check2 := fun cx _ s =>
      match s.reach cx.core cx.tenant (s.tenant cx.tenant).hcRing.toNat (needRW cx.priv) with
      | .bad cause d => some { cause := cause, detail := d, info := (s.tenant cx.tenant).hcRing }
      | .ok _ => none
    rel := fun _ => some 3
    own := true
    run := fun cx a s =>
      match (cx.g.arm cx.c.arm).wait.kind, (cx.g.arm cx.c.arm).wait.status, s.team cx.c.team with
      | .hcallReply _, some v, some t => cx.advance ((cx.writeU a .u32 (BitVec.ofNat 64 v.toNat) s).acquire cx.core t 3)
      | _, _, _ =>
        let va := (s.tenant cx.tenant).hcRing.toNat
        let tr := s.reach cx.core cx.tenant va (needRW cx.priv)
        let s := match tr with | .ok e => s.fillCore cx.core e | .bad _ _ => s
        let h : HCall := { c := cx.c, tenant := cx.tenant, data := cx.hostRec (cx.srcU a w.a .u64) w.fspec.toNat s, pa := (match tr with | .ok e => e.at va | .bad _ _ => 0), priv := cx.priv,
                           next := pcAfter cx.bundle cx.slot cx.valid, dst := match w.dst with | .s r => if cx.wb then some (ukey a r.toNat) else none | _ => none }
        cx.stay { kind := .hcallPush, rel := true } { s with hcalls := s.hcalls ++ [h] } }

/-- RFH (R235, R412): after a release of TEAM scope, the return from the handler. -/
def execRfh (w : Word) (s : State) : Host.Outcome State Fault Refusal :=
  issue (.rfh w) s { rel := fun _ => some 1, own := true, run := fun cx _ s => s.returnHandler cx.c.team cx.c.grp cx.core }

end Sys2Proof.Machine
end

