-- ==== Sys2Proof/Machine/Vector.lean ====
section
/-! DEFINITION. Major V: integer arithmetic, compares, selects and bit fields in every lane of Active() (R244-R249). -/

namespace Sys2Proof.Machine

/-- An instruction of R246: a value in every lane of Active(), each formed before any is written. -/
def laneWise (t : Ty) (f : Cx → Nat → W64) : Body :=
  { run := fun cx _ s => cx.writeV t (cx.act.map (fun L => (L, f cx L))) s }

/-- The value of R247 in a lane: Result of R238 and R243, wrapped or saturated. -/
def vecInt (f : IOp) (t : Ty) (sat : Bool) : Body :=
  laneWise t (fun cx L => f.value t sat (cx.src cx.h.a t L) (cx.srcB t L) (cx.src cx.h.c t L) (cx.src cx.h.dst t L))

/-- V_ADD (R247). -/
def execVAdd (w : Word) (s : State) : Host.Outcome State Fault Refusal := issue (.vAdd w) s (vecInt .add w.ty w.sat)

/-- V_SUB (R247). -/
def execVSub (w : Word) (s : State) : Host.Outcome State Fault Refusal := issue (.vSub w) s (vecInt .sub w.ty w.sat)

/-- V_MUL (R247). -/
def execVMul (w : Word) (s : State) : Host.Outcome State Fault Refusal := issue (.vMul w) s (vecInt .mul w.ty w.sat)

/-- V_MULH (R247). -/
def execVMulh (w : Word) (s : State) : Host.Outcome State Fault Refusal := issue (.vMulh w) s (vecInt .mulh w.ty false)

/-- V_DIV (R247). -/
def execVDiv (w : Word) (s : State) : Host.Outcome State Fault Refusal := issue (.vDiv w) s (vecInt .div w.ty w.sat)

/-- V_REM (R247). -/
def execVRem (w : Word) (s : State) : Host.Outcome State Fault Refusal := issue (.vRem w) s (vecInt .rem w.ty false)

/-- V_AND (R247). -/
def execVAnd (w : Word) (s : State) : Host.Outcome State Fault Refusal := issue (.vAnd w) s (vecInt .and w.ty false)

/-- V_OR (R247). -/
def execVOr (w : Word) (s : State) : Host.Outcome State Fault Refusal := issue (.vOr w) s (vecInt .or w.ty false)

/-- V_XOR (R247). -/
def execVXor (w : Word) (s : State) : Host.Outcome State Fault Refusal := issue (.vXor w) s (vecInt .xor w.ty false)

/-- V_SHL (R247). -/
def execVShl (w : Word) (s : State) : Host.Outcome State Fault Refusal := issue (.vShl w) s (vecInt .shl w.ty w.sat)

/-- V_SHR (R247). -/
def execVShr (w : Word) (s : State) : Host.Outcome State Fault Refusal := issue (.vShr w) s (vecInt .shr w.ty false)

/-- V_SAR (R247). -/
def execVSar (w : Word) (s : State) : Host.Outcome State Fault Refusal := issue (.vSar w) s (vecInt .sar w.ty false)

/-- V_MIN (R247). -/
def execVMin (w : Word) (s : State) : Host.Outcome State Fault Refusal := issue (.vMin w) s (vecInt .min w.ty false)

/-- V_MAX (R247). -/
def execVMax (w : Word) (s : State) : Host.Outcome State Fault Refusal := issue (.vMax w) s (vecInt .max w.ty false)

/-- V_BFX (R247). -/
def execVBfx (w : Word) (s : State) : Host.Outcome State Fault Refusal := issue (.vBfx w) s (vecInt .bfx w.ty false)

/-- V_BFI (R247). -/
def execVBfi (w : Word) (s : State) : Host.Outcome State Fault Refusal := issue (.vBfi w) s (vecInt .bfi w.ty false)

/-- V_POPC (R247). -/
def execVPopc (w : Word) (s : State) : Host.Outcome State Fault Refusal := issue (.vPopc w) s (vecInt .popc w.ty false)

/-- V_CLZ (R247). -/
def execVClz (w : Word) (s : State) : Host.Outcome State Fault Refusal := issue (.vClz w) s (vecInt .clz w.ty false)

/-- V_ADD_IMM (R248). -/
def execVAddImm (w : WordI) (s : State) : Host.Outcome State Fault Refusal := issue (.vAddImm w) s (vecInt .add w.ty w.sat)

/-- V_SUB_IMM (R248). -/
def execVSubImm (w : WordI) (s : State) : Host.Outcome State Fault Refusal := issue (.vSubImm w) s (vecInt .sub w.ty w.sat)

/-- V_MUL_IMM (R248). -/
def execVMulImm (w : WordI) (s : State) : Host.Outcome State Fault Refusal := issue (.vMulImm w) s (vecInt .mul w.ty w.sat)

/-- V_AND_IMM (R248). -/
def execVAndImm (w : WordI) (s : State) : Host.Outcome State Fault Refusal := issue (.vAndImm w) s (vecInt .and w.ty false)

/-- V_OR_IMM (R248). -/
def execVOrImm (w : WordI) (s : State) : Host.Outcome State Fault Refusal := issue (.vOrImm w) s (vecInt .or w.ty false)

/-- V_XOR_IMM (R248). -/
def execVXorImm (w : WordI) (s : State) : Host.Outcome State Fault Refusal := issue (.vXorImm w) s (vecInt .xor w.ty false)

/-- V_SHL_IMM (R248). -/
def execVShlImm (w : WordI) (s : State) : Host.Outcome State Fault Refusal := issue (.vShlImm w) s (vecInt .shl w.ty w.sat)

/-- V_SHR_IMM (R248). -/
def execVShrImm (w : WordI) (s : State) : Host.Outcome State Fault Refusal := issue (.vShrImm w) s (vecInt .shr w.ty false)

/-- V_SAR_IMM (R248). -/
def execVSarImm (w : WordI) (s : State) : Host.Outcome State Fault Refusal := issue (.vSarImm w) s (vecInt .sar w.ty false)

/-- V_MIN_IMM (R248). -/
def execVMinImm (w : WordI) (s : State) : Host.Outcome State Fault Refusal := issue (.vMinImm w) s (vecInt .min w.ty false)

/-- V_MAX_IMM (R248). -/
def execVMaxImm (w : WordI) (s : State) : Host.Outcome State Fault Refusal := issue (.vMaxImm w) s (vecInt .max w.ty false)

/-- V_MAD (R249). -/
def execVMad (w : Word) (s : State) : Host.Outcome State Fault Refusal := issue (.vMad w) s (vecInt .mad w.ty w.sat)

/-- V_ABS (R249). -/
def execVAbs (w : Word) (s : State) : Host.Outcome State Fault Refusal := issue (.vAbs w) s (vecInt .abs w.ty w.sat)

/-- V.ADDC (R249): the carry in is read before the carry out is written. -/
def execVAddc (w : Word) (s : State) : Host.Outcome State Fault Refusal :=
  issue (.vAddc w) s {
    run := fun cx _ s =>
      let r := cx.act.map (fun L => (L, addCarry w.ty (cx.src w.a w.ty L) (cx.src w.b w.ty L) (cx.g.pget w.slot.toNat L)))
      cx.writeP w.slot.toNat (r.map (fun x => (x.1, x.2.2))) (cx.writeV w.ty (r.map (fun x => (x.1, x.2.1))) s) }

/-- A compare's writes: 1 or 0 to the destination, the truth value to the predicate (R249, R254). -/
def laneCmp (p : Nat) (f : Cx → Nat → Bool) : Body :=
  { run := fun cx _ s =>
      let r := cx.act.map (fun L => (L, f cx L))
      cx.writeP p r (cx.writeV .u32 (r.map (fun x => (x.1, boolW x.2))) s) }

/-- V.CMP (R249). -/
def execVCmp (w : Word) (s : State) : Host.Outcome State Fault Refusal :=
  issue (.vCmp w) s (laneCmp w.slot.toNat (fun cx L => intCond w.round.toNat w.ty (cx.src w.a w.ty L) (cx.srcB w.ty L)))

/-- V.CMP, I-form (R248). -/
def execVCmpImm (w : WordI) (s : State) : Host.Outcome State Fault Refusal :=
  issue (.vCmpImm w) s (laneCmp w.slot.toNat (fun cx L => intCond w.round.toNat w.ty (cx.src w.a w.ty L) (cx.srcB w.ty L)))

/-- V.SEL (R249). -/
def execVSel (w : Word) (s : State) : Host.Outcome State Fault Refusal :=
  issue (.vSel w) s (laneWise w.ty (fun cx L =>
    if cx.g.pget w.slot.toNat L != (w.scope.toNat / 4 % 2 == 1) then cx.src w.a w.ty L else cx.src w.b w.ty L))

end Sys2Proof.Machine
end

