-- ==== Sys2Proof/Machine/Convert.lean ====
section
/-! DEFINITION. Major CNV: conversions between number formats, packing, and dual-exponent blocks (R132-R138, R256-R261, R437). -/

namespace Sys2Proof.Machine

/-- The source type of a conversion, FSPEC bits 3:0 (R256). -/
def fromTy (f : BitVec 8) : Ty := (srcTy f).getD .f32

/-- CVT (R256). -/
def execCvt (w : Word) (s : State) : Host.Outcome State Fault Refusal :=
  issue (.cvt w) s (laneWise w.ty (fun cx L => cvtValue (fromTy w.fspec) w.ty w.round.toNat w.sat (cx.src w.a (fromTy w.fspec) L)))

/-- The format slot that an instruction names (R138). -/
def State.fmtSlot (s : State) (cx : Cx) (k : BitVec 3) : Slot :=
  match s.team cx.c.team with | some t => (s.launch t.launch).slot k.toNat | none => 0

/-- FORMAT (R138, R433): a malformed slot, or an element code the instruction does not accept. -/
def fmtBad (f : Slot) (block : Bool) : Option Bad :=
  if f.bad || (decide (5 ≤ f.ecode) && decide (f.ecode ≤ 7)) != block then some { cause := 0x20 } else none

/-- CVT.N in a lane (R257): the value, its encoding, and whether it is an outlier. -/
def Cx.narrow (cx : Cx) (w : Word) (f : Slot) (L : Nat) : FVal × Nat × Bool :=
  let v := decodeF (fromTy w.fspec) (cx.src w.a (fromTy w.fspec) L)
  (v, encodeElem f w.round.toNat v)

/-- CVT.N (R257): outliers are appended in ascending lane order. -/
def execCvtN (w : Word) (s : State) : Host.Outcome State Fault Refusal :=
  issue (.cvtN w) s {
    check := fun cx _ s => if cx.act.isEmpty then none else fmtBad (s.fmtSlot cx w.slot) false
    flush := fun cx s =>
      let f := s.fmtSlot cx w.slot
      if cx.act.any (fun L => (cx.narrow w f L).2.2) then (s.countLine cx.tag f).toList else []
    run := fun cx _ s =>
      let f := s.fmtSlot cx w.slot
      let r := cx.act.map (fun L => (L, cx.narrow w f L))
      let out := (r.filter (fun x => x.2.2.2)).map (fun x => ((cx.src w.b .u32 x.1).toNat, rneF32 x.2.1))
      let s := cx.writeV .u32 (r.map (fun x => (x.1, BitVec.ofNat 64 x.2.2.1))) s
      let s := s.appendAll cx.core cx.tag f w.slot.toNat false out
      if out.isEmpty then s else s.dropClean cx.core (s.countLine cx.tag f).toList }

/-- CVT.W (R258). -/
def execCvtW (w : Word) (s : State) : Host.Outcome State Fault Refusal :=
  issue (.cvtW w) s {
    check := fun cx _ s => if cx.act.isEmpty then none else fmtBad (s.fmtSlot cx w.slot) false
    run := fun cx _ s =>
      let ec := (s.fmtSlot cx w.slot).ecode
      cx.writeV w.ty (cx.act.map (fun L => (L, roundF w.ty 0 (decodeElem ec (cx.src w.a .u32 L).toNat)))) s }

/-- PACK's conversion of one source to a field (R259). -/
def packField (t : Ty) (md : Nat) (sat : Bool) (a : W64) : Nat :=
  let src : Ty := if t.isFloat then .f32 else if t.signed then .i32 else .u32
  (cvtValue src t md sat a).toNat % 2 ^ t.bits

/-- The word that PACK writes in a lane (R259): `d` is the old destination. -/
def packWord (t : Ty) (md : Nat) (sat : Bool) (h : Nat) (a b d : W64) : W64 :=
  let x := packField t md sat a
  let y := packField t md sat b
  if t.bits = 16 then BitVec.ofNat 64 (x + 65536 * y)
  else BitVec.ofNat 64 (setFld (setFld (d.toNat % 2 ^ 32) (16 * h + 7) (16 * h) x) (16 * h + 15) (16 * h + 8) y)

/-- PACK (R259). -/
def execPack (w : Word) (s : State) : Host.Outcome State Fault Refusal :=
  issue (.pack w) s {
    used := some (fun cx sel => cx.srcWords (.pack w) true sel
      ++ (if w.ty.bits = 8 then cx.act.flatMap (fun L => cx.opWords w.dst 1 sel L) else []))
    run := fun cx _ s =>
      let src : Ty := if w.ty.isFloat then .f32 else if w.ty.signed then .i32 else .u32
      cx.writeV .u32 (cx.act.map (fun L => (L, packWord w.ty w.round.toNat w.sat w.fspec.toNat (cx.src w.a src L) (cx.src w.b src L) (cx.src w.dst .u32 L)))) s }

/-- The value that UNPACK extracts (R259). -/
def unpackField (t : Ty) (p : Nat) (a : W64) : W64 :=
  let x : W64 := BitVec.ofNat 64 (a.toNat / 2 ^ (t.bits * p) % 2 ^ t.bits)
  if t.isFloat then roundF .f32 0 (decodeF t x) else t.extend x

/-- UNPACK (R259). -/
def execUnpack (w : Word) (s : State) : Host.Outcome State Fault Refusal :=
  issue (.unpack w) s { run := fun cx _ s => cx.writeV .u32 (cx.act.map (fun L => (L, unpackField w.ty w.fspec.toNat (cx.src w.a .u32 L)))) s }

/-! ### Dual-exponent blocks -/

/-- Blocks that a group of width W encodes or decodes (R260). -/
def nBlocks (W : Nat) : Nat := Nat.max 1 (W / 32)

/-- The register offset and the lane of element k, counted over all blocks (R260, R261). -/
def elemAt (W k : Nat) : Nat × Nat := (k / W, k % W)

/-- The access of a block instruction: its whole range of memory. -/
def Cx.blkAcc (cx : Cx) (f : Slot) (a : Opd) : Acc := ⟨0, (cx.srcU cx.oneSel a .u64).toNat, nBlocks cx.W * blockBytes f.ecode⟩

/-- The blocks that BLK.ENC encodes (R134, R260): bytes, and outliers with their index and value. -/
def Cx.encBlocks (cx : Cx) (w : Word) (f : Slot) : List (Nat × List (Nat × W32)) :=
  let base := (cx.srcU cx.oneSel w.c .u32).toNat
  let t := fromTy w.fspec
  (List.range (nBlocks cx.W)).map (fun b =>
    let x := (List.range 32).map (fun j =>
      let p := elemAt cx.W (32 * b + j)
      if cx.act.contains p.2 then decodeF t (BitVec.ofNat 64 (cx.g.vget (cx.ruleReg ((Instr.blkEnc w).formW cx.W).b w.b p.1 p.2) p.2).toNat) else .fin false 0 0)
    let e := encodeBlock f w.round.toNat x
    (e.1, e.2.map (fun j => ((base + 32 * b + j) % 2 ^ 32, rneF32 (x.getD j .nan)))))

/-- BLK.ENC (R260). -/
def execBlkEnc (w : Word) (s : State) : Host.Outcome State Fault Refusal :=
  issue (.blkEnc w) s {
    hold := fun cx s => !cx.act.isEmpty && s.ownMarked cx [cx.blkAcc (s.fmtSlot cx w.slot) w.a]
    check := fun cx _ s =>
      if cx.act.isEmpty then none
      else
        let f := s.fmtSlot cx w.slot
        (fmtBad f true).or (s.rank10 cx [(cx.blkAcc f w.a, 2)] [] true)
    used := some (fun cx _ =>
      if cx.act.isEmpty then []
      else (uwords w.a 2 cx.oneSel ++ uwords w.c 1 cx.oneSel).map (fun k => (0, 2 ^ 20 + k))
        ++ cx.act.flatMap (fun L => cx.ruleWords ((Instr.blkEnc w).formW cx.W).b w.b cx.oneSel L))
    check2 := fun cx _ s => if cx.act.isEmpty then none else s.rank11 cx [cx.blkAcc (s.fmtSlot cx w.slot) w.a] (needW cx.priv)
    flush := fun cx s =>
      let f := s.fmtSlot cx w.slot
      if !cx.act.isEmpty && (cx.encBlocks w f).any (fun b => !b.2.isEmpty) then (s.countLine cx.tag f).toList else []
    run := fun cx _ s =>
      if cx.act.isEmpty then s
      else
        let f := s.fmtSlot cx w.slot
        let acc := cx.blkAcc f w.a
        let l := cx.encBlocks w f
        let out := l.flatMap (fun b => b.2)
        let s := (s.fills cx.core cx.tenant [acc]).appendAll cx.core cx.tag f w.slot.toNat false out
        let s := if out.isEmpty then s else s.dropClean cx.core (s.countLine cx.tag f).toList
        cx.storeMany ((List.range l.length).map (fun b => (acc.va + b * blockBytes f.ecode, blockBytes f.ecode, (l.getD b (0, [])).1))) w.chint.toNat false s }

/-- The bytes of parts laid one after another. -/
def joinParts : List Part → Nat
  | [] => 0
  | p :: t => p.data.toNat % 2 ^ (8 * p.n) + 2 ^ (8 * p.n) * joinParts t

/-- The byte offsets of a range of parts hold a poisoned one. -/
def partsBad : List Part → Nat → Nat → Bool
  | [], _, _ => false
  | p :: t, off, n => (p.poison && decide (0 < p.n) && decide (off < p.n) && decide (0 < n)) || partsBad t (off - p.n) (if off < p.n then n - (p.n - off) else n)

/-- Element k of the blocks that parts hold, and whether it comes from a poisoned word (R133, R457). -/
def blkValue (ec : Nat) (l : List Part) (t : Ty) (k : Nat) : W64 × Bool :=
  let b := blockBytes ec
  let raw := joinParts l / 2 ^ (8 * b * (k / 32)) % 2 ^ (8 * b)
  let bit := elemBits ec * (k % 32)
  (roundF t 0 (blockElem ec raw (k % 32)), partsBad l (b * (k / 32)) 2 || partsBad l (b * (k / 32) + 2 + bit / 8) ((bit + elemBits ec - 1) / 8 + 1 - bit / 8))

/-- The registers that element k of BLK.DEC is written to in its lane (R261). -/
def Cx.decReg (cx : Cx) (w : Word) (k : Nat) : Nat := cx.ruleReg ((Instr.blkDec w).formW cx.W).dst w.dst ((elemAt cx.W k).1 * w.ty.regs) (elemAt cx.W k).2

/-- BLK.DEC (R261): the load is made first, and the slot ends when its bytes are there. -/
def execBlkDec (w : Word) (s : State) : Host.Outcome State Fault Refusal :=
  issue (.blkDec w) s {
    hold := fun cx s => !cx.act.isEmpty && s.ownMarked cx [cx.blkAcc (s.fmtSlot cx w.slot) w.a]
    check := fun cx _ s =>
      if cx.act.isEmpty then none
      else
        let f := s.fmtSlot cx w.slot
        (fmtBad f true).or (s.rank10 cx [(cx.blkAcc f w.a, 2)] [] true)
    used := some (fun cx _ => if cx.act.isEmpty then [] else (uwords w.a 2 cx.oneSel).map (fun k => (0, 2 ^ 20 + k)))
    check2 := fun cx _ s => if cx.act.isEmpty then none else s.rank11 cx [cx.blkAcc (s.fmtSlot cx w.slot) w.a] (needR cx.priv)
    own := true
    run := fun cx _ s =>
      if cx.act.isEmpty then cx.advance s
      else
        match (cx.g.arm cx.c.arm).wait.kind, s.asyncs.find? (fun x => (cx.g.arm cx.c.arm).wait.asy.contains x.id) with
        | .slice, some x =>
          let ec := x.blk.getD 5
          let ks := (List.range (32 * nBlocks cx.W)).filter (fun k => cx.act.contains (elemAt cx.W k).2)
          let put (g : Group) (k : Nat) : Group :=
            let L := (elemAt cx.W k).2
            let r := cx.decReg w k
            let v := blkValue ec x.parts w.ty k
            let g := g.vwrite w.ty r L v.1
            if v.2 then (if w.ty.is64 then (g.vpoison r L).vpoison (r + 1) L else g.vpoison r L) else g
          let s := if cx.wb then s.updGroup cx.c.team cx.c.grp (fun g => ks.foldl put g) else s
          cx.advance { s with asyncs := s.asyncs.filter (fun y => y.id != x.id) }
        | _, _ =>
          let f := s.fmtSlot cx w.slot
          let acc := cx.blkAcc f w.a
          let ps := (wordsOf (acc.n + 1) acc.va acc.n).map (fun p => cx.part s 0 [] p.1 p.2)
          let s := s.fills cx.core cx.tenant [acc]
          let id := s.nextId
          let s := s.startLoad { id := 0, core := cx.core, tag := cx.tag, dest := .none, ty := w.ty, parts := ps, blk := some f.ecode } w.chint.toNat false
          cx.stay { kind := .slice, asy := [id], rel := true } s }

end Sys2Proof.Machine
end

