-- ==== Sys2Proof/Machine/Matrix.lean ====
section
/-! DEFINITION. Major MTX: the matrix token, products, tile moves, stores through the epilogue, layout changes, and the engine that performs them in issue order (R316-R338, R440-R442, R463-R467). -/

namespace Sys2Proof.Machine

/-! ### The token (R318, R319, R322, R323) -/

/-- The address of a tile element in a team's image, for its first or second core (R353, R368). -/
def imgTile (l : Launch) (t : Team) (second : Bool) (k : Nat) : Nat := imgScr l t t.scrSize + (if second then 262144 else 0) + 4 * k

/-- The 4 bytes of every element of a core's tiles, as one number. -/
def tilesImage (m : Sparse 32) : Nat := m.foldl (fun a p => if p.1 < 65536 then a + p.2.toNat * 2 ^ (32 * p.1) else a) 0

/-- One core's tiles of a team read back from its image, with the poison they carry (R318, R457). -/
def State.loadTiles (s : State) (l : Launch) (t : Team) (core : Nat) : Except EFault State :=
  match s.imgRead l.tenant (imgTile l t (core != t.core) 0) 262144 with
  | .error e => .error e
  | .ok (v, bad) => .ok (s.updCore core (fun x => { x with tiles := unpackSparse 32 v 0 65536 [], tilePoison := bad }))

/-- A team's tiles read back from its image, once its engines are bound to it for a slot of group `grp` that `at_` names; a team whose image cannot be read ends (R318, R367, R420, R422). -/
def State.restoreTiles (s : State) (team grp : Nat) (at_ : Trap) : State :=
  match s.team team with
  | none => s
  | some t =>
    if !t.saved then s
    else
      match t.cores.foldl (fun (acc : Except EFault State) c => match acc with | .error e => .error e | .ok s => s.loadTiles (s.launch t.launch) t c) (.ok s) with
      | .error e => s.loseTeam team grp { at_ with cause := e.1, detail := e.2.1, info := BitVec.ofNat 64 e.2.2 }
      | .ok s => s.updTeam team (fun t => { t with saved := false })

/-- The engines of the issuing team bound and its tiles in them (R318). -/
def Cx.engine (cx : Cx) (s : State) : State :=
  match s.team cx.c.team with
  | some t => (s.bindEngine cx.c.team t).restoreTiles cx.c.team cx.c.grp { cause := 0, pc := cx.pc, arm := armSel cx.c }
  | none => s

/-- The engines of the issuing team cannot be bound now. -/
def Cx.noEngine (cx : Cx) (s : State) : Bool := match s.team cx.c.team with | some t => !s.engineFree cx.c.team t | none => true

/-- The token of the issuing group's core. -/
def Cx.token (cx : Cx) (s : State) : Option Nat := match s.team cx.c.team with | some t => t.tokOn cx.core | none => none

/-- The issuing group takes its core's token. -/
def Cx.takeToken (cx : Cx) (s : State) : State := cx.engine (s.updTeam cx.c.team (fun t => t.setTok cx.core (some cx.c.grp)))

/-- A request of a place comes after one of its team that waits or is to be made again (R322, R369). -/
def Cx.tokBehind (cx : Cx) (place : Nat) (s : State) : Bool :=
  (s.tokWaiters cx.core).any (fun x => x.2.team == cx.c.team && decide (x.1 < place)) || (s.tokAgain cx.c.team cx.core).any (fun k => decide (k < place))

/-- MTOK.ACQ (R318, R322, R323): waits in the order of requests; an acquire by the holder has no effect. A context that has been released while its group's other arm passed the token on takes one that is free, and else ends without it. -/
def execMtokAcq (w : Word) (s : State) : Host.Outcome State Fault Refusal :=
  issue (.mtokAcq w) s {
    run := fun cx _ s =>
      match (cx.g.arm cx.c.arm).wait.kind, (cx.g.arm cx.c.arm).wait.status with
      | .mtok k, some _ =>
        if cx.token s == none && !cx.noEngine s && !cx.tokBehind k s then cx.takeToken (cx.done s)
        else if cx.token s != some cx.c.grp then cx.done s
        else if cx.noEngine s then cx.stay { kind := .mtok k } s
        else cx.engine (cx.done s)
      | _, _ =>
        let place := (cx.g.arm cx.c.arm).tokSeq.getD s.nextId
        let s := s.updArm cx.c (fun a => { a with tokSeq := none })
        if !cx.noEngine s && (cx.token s == some cx.c.grp || (cx.token s == none && !cx.tokBehind place s)) then cx.takeToken s
        else cx.stay { kind := .mtok place } { s with nextId := s.nextId + 1 } }

/-- MTOK.ACQ.try (R322). -/
def execMtokAcqTry (w : Word) (s : State) : Host.Outcome State Fault Refusal :=
  issue (.mtokAcqTry w) s {
    run := fun cx a s =>
      let ok := !cx.noEngine s && (cx.token s == none || cx.token s == some cx.c.grp)
      cx.writeU a .u32 (boolW ok) (if ok then cx.takeToken s else s) }

/-- MTOK.PASS (R323). -/
def execMtokPass (w : Word) (s : State) : Host.Outcome State Fault Refusal :=
  let heirOf (cx : Cx) (a : Nat) : Option Nat := match w.a with | .z => none | _ => some ((cx.srcU a w.a .u32).toNat % 2 ^ 32)
  issue (.mtokPass w) s {
    check := fun cx a _ => match heirOf cx a with | some g => if 63 < g then some { cause := 0x03 } else none | none => none
    run := fun cx a s =>
      let heir : Option Nat := match heirOf cx a with
        | some g => (match s.group cx.c.team g with | some x => if !x.retired && x.core == cx.core then some g else none | none => none)
        | none => none
      let s := s.updTeam cx.c.team (fun t => t.setTok cx.core heir)
      match heir with
      | some g => s.tokenGiven cx.c.team g
      | none => s.grantTok cx.core }

/-! ### Issue of a matrix instruction (R319, R320) -/

/-- The cores whose queues a matrix instruction enters: its own, and both of a pair in pair mode. -/
def Cx.mcores (cx : Cx) (s : State) (pair : Bool) : List Nat := match s.team cx.c.team with | some t => if pair then t.cores else [cx.core] | none => [cx.core]

/-- A matrix instruction cannot issue now: a queue is full, or the engine is not the team's (R318, R320). -/
def Cx.mheld (cx : Cx) (s : State) (pair : Bool) : Bool :=
  cx.noEngine s || (cx.mcores s pair).any (fun c => decide (16 < (s.core c).mq.length + Nat.max 1 (cx.arms false).length))

/-- A matrix instruction enters its queues. -/
def Cx.enqueue (cx : Cx) (sel : Nat) (k : MKind) (op : Option Nat) (pair : Bool) (s : State) : State :=
  let s := cx.engine s
  let old : Sparse 8 := match s.team cx.c.team with | some t => t.scr | none => []
  let m : MInst := { id := s.nextId, kind := k, tag := { cx.tag with arm := if cx.g.melded then 0 else sel }, op := op, old := old }
  (cx.mcores s pair).foldl (fun s c => s.updCore c (fun x => { x with mq := x.mq ++ [m] })) { s with nextId := s.nextId + 1 }

/-- A matrix instruction of class MATRIX: an operation and its queue entry. -/
def Cx.enqueueOp (cx : Cx) (sel : Nat) (k : MKind) (bobj : Option Nat) (pair : Bool) (s : State) : State :=
  let id := s.nextOp
  cx.enqueue sel k (some id) pair (cx.issueOp sel clsMatrix .matrix bobj 0 s)

/-- A record of n bytes that an operand names. -/
def Cx.recAt (cx : Cx) (sel : Nat) (o : Opd) (n : Nat) : Acc × Nat := (⟨0, (cx.srcU sel o .u32).toNat, n⟩, n)

/-- The check of a barrier object in SRCB. -/
def Cx.bobjBAcc (cx : Cx) (sel : Nat) : List (Acc × Nat) := match cx.bobjB sel with | some b => [(⟨0, b, 16⟩, 16)] | none => []

/-- MMA and MMA.SP (R327, R330). -/
def mmaBody (w : Word) (sp : Bool) : Body :=
  let pair := w.fspec.getLsbD 4
  { hold := fun cx s => cx.mheld s pair
    check := fun cx a s =>
      let la := cx.recAt a w.a 32
      let meta_ : List (Acc × Nat) := if sp then [({ la.1 with va := la.1.va + 32 }, 32)] else []
      s.rank10 cx [] (la :: meta_ ++ [cx.recAt a w.b 32]) false
    run := fun cx a s =>
      cx.enqueue a (.mma sp (w.fspec.toNat % 16) (cx.srcU a w.a .u32).toNat (cx.srcU a w.b .u32).toNat ((cx.srcU a w.c .u32).toNat % 2 ^ 32) pair) none pair s }

/-- MMA (R328). -/
def execMma (w : Word) (s : State) : Host.Outcome State Fault Refusal := issue (.mma w) s (mmaBody w false)
/-- MMA.SP (R330). -/
def execMmaSp (w : Word) (s : State) : Host.Outcome State Fault Refusal := issue (.mmaSp w) s (mmaBody w true)

/-- MMA.OUT (R331). -/
def execMmaOut (w : Word) (s : State) : Host.Outcome State Fault Refusal :=
  issue (.mmaOut w) s {
    hold := fun cx s => cx.mheld s false || cx.opHeld clsMatrix s
    check := fun cx a s => s.rank10 cx [] [cx.recAt a w.a 32, cx.recAt a w.b 32] false
    run := fun cx a s =>
      cx.enqueueOp a (.out (w.fspec.toNat % 16) (cx.srcU a w.a .u32).toNat (cx.srcU a w.b .u32).toNat (w.fspec.getLsbD 5)) none false s }

/-- ACC.ZERO (R333). -/
def execAccZero (w : Word) (s : State) : Host.Outcome State Fault Refusal :=
  let pair := w.fspec.getLsbD 4
  issue (.accZero w) s { hold := fun cx s => cx.mheld s pair, run := fun cx a s => cx.enqueue a (.zero (w.fspec.toNat % 16) pair) none pair s }

/-- ACC.LD and ACC.ST (R334, R336): `n` is the size and alignment of the record. -/
def accBody (w : Word) (n : Nat) (k : Nat → Nat → Bool → MKind) : Body :=
  let pair := w.fspec.getLsbD 4
  { hold := fun cx s => cx.mheld s pair || cx.opHeld clsMatrix s
    check := fun cx a s => s.rank10 cx [] (cx.recAt a w.a n :: cx.bobjBAcc a) false
    run := fun cx a s => cx.enqueueOp a (k (w.fspec.toNat % 16) (cx.srcU a w.a .u32).toNat pair) (cx.bobjB a) pair s }

/-- ACC.LD (R334). -/
def execAccLd (w : Word) (s : State) : Host.Outcome State Fault Refusal := issue (.accLd w) s (accBody w 32 .ld)
/-- ACC.ST (R336). -/
def execAccSt (w : Word) (s : State) : Host.Outcome State Fault Refusal := issue (.accSt w) s (accBody w 64 .st)

/-- A tile row above 63 (R442). -/
def Cx.rowCheck (cx : Cx) (sel : Nat) : Option Bad := if 63 < (cx.srcU sel cx.h.a .u32).toNat % 2 ^ 32 then some { cause := 0x03 } else none

/-- ACC.MOV.tov (R335): the elements of the lanes of Active(), written when the engine performs it. -/
def execAccMovTov (w : Word) (s : State) : Host.Outcome State Fault Refusal :=
  issue (.accMovTov w) s {
    hold := fun cx s => cx.mheld s false || cx.opMarked (s.marksOf cx.c.team cx.c.grp) w.dst { n := 64 / cx.W }
    check := fun cx _ _ => cx.rowCheck cx.oneSel
    run := fun cx a s =>
      if cx.act.isEmpty then s
      else
        let parts := (List.range (64 / cx.W)).flatMap (fun k => cx.act.map (fun L => ({ lane := L, regs := (cx.dstRegs (64 / cx.W) L).drop k |>.take 1, pa := k * cx.W + L, n := 4 } : Part)))
        let id := s.nextId
        let s := s.addAsync { id := 0, core := cx.core, tag := cx.tag, dest := .vec, ty := .f32, parts := parts }
        cx.enqueue a (.tov (w.fspec.toNat % 16) ((cx.srcU cx.oneSel w.a .u32).toNat % 2 ^ 32) id) none false s }

/-- ACC.MOV.toa (R335): the source is read at issue. -/
def execAccMovToa (w : Word) (s : State) : Host.Outcome State Fault Refusal :=
  issue (.accMovToa w) s {
    hold := fun cx s => cx.mheld s false || cx.opMarked (s.marksOf cx.c.team cx.c.grp) w.b { n := 64 / cx.W }
    check := fun cx _ _ => cx.rowCheck cx.oneSel
    used := some (fun cx sel => cx.act.flatMap (fun L => cx.opWords w.a 1 sel L ++ cx.opWords w.b (64 / cx.W) sel L))
    run := fun cx a s =>
      if cx.act.isEmpty then s
      else
        let vals := (List.range (64 / cx.W)).flatMap (fun k => cx.act.map (fun L => (k * cx.W + L, cx.g.vget (cx.runReg w.b k L) L)))
        cx.enqueue a (.toa (w.fspec.toNat % 16) ((cx.srcU cx.oneSel w.a .u32).toNat % 2 ^ 32) vals) none false s }

/-- LAYOUT (R325). -/
def execLayout (w : Word) (s : State) : Host.Outcome State Fault Refusal :=
  issue (.layout w) s {
    hold := fun cx s => cx.mheld s false
    check := fun cx a s => s.rank10 cx [] [cx.recAt a w.a 32] false
    run := fun cx a s => cx.enqueue a (.layout (cx.srcU a w.a .u32).toNat (w.fspec.toNat % 8) (w.fspec.getLsbD 3) (loOf (cx.srcU a w.b .u32))) none false s }

/-! ### Layout records (R324) -/

/-- LAYOUT (R441). -/
def layoutErr : EFault := (0x22, 0, 0)

/-- The format of an operand's elements: a float type, or a slot's element code. -/
inductive MFmt where
  | f (t : Ty)
  | n (ec : Nat)
deriving DecidableEq, Repr

/-- A layout record. -/
structure Lay where
  fmt : MFmt
  base : Nat
  str : List Int
  ext : List Nat
deriving DecidableEq, Repr

/-- What a record is read for: its elements, metadata, or only the places of its rows. -/
inductive LayUse where
  | elems
  | masks
  | place
deriving DecidableEq, Repr

/-- The format that TYPE and SLOT give. -/
def fmtOf (l : Launch) (x : Nat) : Option MFmt :=
  match fld x 51 48 with
  | 8 => some (.f .f16)
  | 9 => some (.f .bf16)
  | 10 => some (.f .f32)
  | 12 => let f := l.slot (fld x 47 45); if f.bad then none else some (.n f.ecode)
  | _ => none

/-- What the engine reads of the scratchpad: what stands there, or, where the bytes were written after the instruction issued, that or what stood there at issue, as a free value says (R321; log 125). `k` numbers what one instruction reads. -/
def State.seen {α : Type} [DecidableEq α] (s : State) (k : Nat) (old new : α) : α := if old = new ∨ (Config.freeValue (s.fresh + k)).getLsbD 0 = true then new else old

/-- A record of n words, read so word by word. -/
def State.seenRec (s : State) (old : Sparse 8) (team off n : Nat) : Nat :=
  (List.range n).foldr (fun i a => s.seen (2 ^ 29 + off + 4 * i) (old.read (off + 4 * i) 4) (s.scrRead team (off + 4 * i) 4) + 2 ^ 32 * a) 0

/-- The layout record at an offset, of as many rows as the instruction needs (R321, R324, R441). -/
def State.layOf (s : State) (old : Sparse 8) (team off rows : Nat) (use : LayUse) : Except EFault Lay :=
  let l := s.launch (match s.team team with | some t => t.launch | none => 0)
  if off % 32 ≠ 0 ∨ s.sizeOf team < off + 32 then .error layoutErr
  else if s.scrBad team off 32 then .error (0x16, 0, off)
  else
    let x := s.seenRec old team off 8
    let str := (List.range 4).map (fun k => sgn 32 (fld x (95 + 32 * k) (64 + 32 * k)))
    let ext := (List.range 4).map (fun k => fld x (207 + 16 * k) (192 + 16 * k))
    let al : Nat := if use = .masks then 8 else 2
    let fmt : Option MFmt := match use with
      | .elems => fmtOf l x
      | .masks => if fld x 51 48 = 5 then some (.f .u32) else none
      | .place => some (.f .u32)
    match fmt with
    | none => .error layoutErr
    | some f =>
      if fld x 63 52 != 0 || fld x 44 32 != 0 || fld x 31 0 % al != 0 || str.any (fun v => v % (al : Int) != 0) || ext.foldl (· * ·) 1 != rows then .error layoutErr
      else .ok ⟨f, fld x 31 0, str, ext⟩

/-- Index sum of a row over the remaining extents. -/
def rowSum : List Nat → List Int → Nat → Int
  | e :: es, v :: vs, r => (r % e : Nat) * v + rowSum es vs (r / e)
  | _, _, _ => 0

/-- The first byte of row r (R324). -/
def Lay.row (l : Lay) (r : Nat) : Nat := wrapN 32 ((l.base : Int) + rowSum l.ext l.str r)

/-- The bytes of n elements from element k of a row: first and count (R130, R132, R327). -/
def MFmt.span (f : MFmt) (k n : Nat) : Nat × Nat :=
  match f with
  | .f t => (k * t.bytes, n * t.bytes)
  | .n ec => if isDeb ec then (k / 32 * blockBytes ec, ((k + n - 1) / 32 + 1 - k / 32) * blockBytes ec) else (k * elemBits ec / 8, (n * elemBits ec + 7) / 8)

/-- Element i of a run held as a number. -/
def MFmt.elem (f : MFmt) (raw i : Nat) : FVal :=
  match f with
  | .f t => decodeF t (BitVec.ofNat 64 (raw / 2 ^ (t.bits * i) % 2 ^ t.bits))
  | .n ec => rowElem ec raw i

/-- The bytes of a run that element i is formed from. -/
def MFmt.elemAt (f : MFmt) (i : Nat) : Nat × Nat := match f with | .f t => (i * t.bytes, t.bytes) | .n ec => elemSpan ec i

/-- The byte runs of the first rows of an operand. -/
def Lay.runs (l : Lay) (rows k n : Nat) : List (Nat × Nat) := (List.range rows).map (fun r => (l.row r + (l.fmt.span k n).1, (l.fmt.span k n).2))

/-- The free values that the elements of an instruction's operands may have taken are used up. -/
def State.sawOperands (s : State) : State := { s with fresh := s.fresh + 2 ^ 32 }

/-- n elements from element k of each row, with whether each is poisoned; every byte must lie within the team's scratchpad (R321, R324, R441, R457). `old` is the scratchpad at issue, `at_` the number of the first element. -/
def State.rowVals (s : State) (old : Sparse 8) (at_ team : Nat) (l : Lay) (rows k n : Nat) : Except EFault (List (List (FVal × Bool))) :=
  let runs := l.runs rows k n
  if runs.any (fun p => decide (s.sizeOf team < p.1 + p.2)) then .error layoutErr
  else .ok (runs.map (fun p =>
    let raw := s.scrRead team p.1 p.2
    let was := old.read p.1 p.2
    let bad := s.scrBad team p.1 p.2
    (List.range n).map (fun i =>
      (s.seen (at_ + 64 * p.1 + i) (l.fmt.elem was i) (l.fmt.elem raw i), bad && s.scrBad team (p.1 + (l.fmt.elemAt i).1) (l.fmt.elemAt i).2))))

/-- The class of a format by the K that one instruction takes, with a mark that keeps 8-bit and 16-bit apart from the rest (R326). -/
def MFmt.k (f : MFmt) : Nat :=
  match f with
  | .f .f32 => 8
  | .f _ => 16
  | .n ec => if ec = 0 ∨ ec = 1 ∨ ec = 5 ∨ ec = 8 then 32 else 64

/-! ### Bank conflicts (R330) -/

/-- The banks that a run touches, as a mask. -/
def bankMask (p : Nat × Nat) : Nat := if p.2 = 0 then 0 else (List.range ((p.1 + p.2 - 1) / 4 + 1 - p.1 / 4)).foldl (fun a i => a ||| 2 ^ ((p.1 / 4 + i) % 64)) 0

/-- The largest set of runs that share banks pairwise; among four runs or fewer, that is the number of cycles they need. -/
def clique : Nat → List Nat → Nat
  | 0, _ => 0
  | _, [] => 0
  | n + 1, m :: t => Nat.max (clique n t) (1 + clique n (t.filter (fun x => x &&& m != 0)))

/-- Extra cycles of one operand's runs, four at a time. -/
def extraCycles : Nat → List (Nat × Nat) → Nat
  | 0, _ => 0
  | n + 1, l => if l.isEmpty then 0 else clique 4 ((l.take 4).map bankMask) - 1 + extraCycles n (l.drop 4)

/-- %bankconf of a team on a core rises (R272). -/
def State.bumpBank (s : State) (team core : Nat) (l : List (Nat × Nat)) : State :=
  let n : W32 := BitVec.ofNat 32 (extraCycles l.length l)
  s.updTeam team (fun t => if t.core = core then { t with bank := t.bank + n } else { t with bank2 := t.bank2 + n })

/-! ### Tiles -/

/-- Element (i, j) of a tile of a core. -/
def Core.elem (c : Core) (t i j : Nat) : W32 := c.tiles.get (t * 4096 + i * 64 + j)
/-- An element of a tile is poisoned (R455). -/
def Core.elemBad (c : Core) (t i j : Nat) : Bool := c.tilePoison.contains (t * 4096 + i * 64 + j)

/-- A tile's 4096 elements written, each with its poison. -/
def Core.setTile (c : Core) (t : Nat) (l : List (W32 × Bool)) : Core :=
  let lo := t * 4096
  let at_ := (List.range 4096).zip l
  { c with tiles := c.tiles.filter (fun p => decide (p.1 < lo)) ++ (at_.filter (fun p => p.2.1 != 0)).map (fun p => (lo + p.1, p.2.1)) ++ c.tiles.filter (fun p => decide (lo + 4096 ≤ p.1)),
           tilePoison := c.tilePoison.filter (fun k => decide (k < lo) || decide (lo + 4096 ≤ k)) ++ (at_.filter (fun p => p.2.2)).map (fun p => lo + p.1) }

/-- A tile of a core formed element by element from the old one. -/
def State.mapTile (s : State) (core t : Nat) (f : Nat → Nat → W32 → W32) (bad : Nat → Nat → Bool) : State :=
  s.updCore core (fun c => c.setTile t ((List.range 4096).map (fun k => (f (k / 64) (k % 64) (c.elem t (k / 64) (k % 64)), bad (k / 64) (k % 64) || c.elemBad t (k / 64) (k % 64)))))

/-! ### Products (R326-R332) -/

/-- Elements without their poison, and whether some is poisoned. -/
def anyBad (l : List (FVal × Bool)) : Bool := l.any (fun p => p.2)

/-- acc := RNE_FP32(ExactSum(acc, products)) (R328, R142). -/
def accumulate (acc : W32) (a b : List (FVal × Bool)) : W32 := rneF32 (exactSum 0 (valF32 acc :: List.zipWith (fun x y => x.1.mul y.1) a b))

/-- Rows of a product accumulated into tile t of each core in turn: rows 0-63 on the first (R329). -/
def State.product (s : State) (cores : List Nat) (t : Nat) (a b : List (List (FVal × Bool))) : State :=
  (List.range cores.length).foldl (fun s k =>
    match cores[k]? with
    | none => s
    | some c => s.mapTile c t (fun i j acc => accumulate acc (a.getD (64 * k + i) []) (b.getD j [])) (fun i j => anyBad (a.getD (64 * k + i) []) || anyBad (b.getD j []))) s

/-- The two kept indices of each nibble of a metadata row (R330). -/
def nibbles (raw n : Nat) : List (Nat × Nat) := (List.range n).map (fun g => (raw / 2 ^ (4 * g) % 4, raw / 2 ^ (4 * g + 2) % 4))

/-- A row of A expanded to its logical K elements (R330). -/
def expand (vals : List (FVal × Bool)) (nib : List (Nat × Nat)) : List (FVal × Bool) :=
  (List.range nib.length).flatMap (fun g =>
    let p := nib.getD g (0, 0)
    (List.range 4).map (fun k => if k = p.1 then vals.getD (2 * g) (.fin false 0 0, false) else if k = p.2 then vals.getD (2 * g + 1) (.fin false 0 0, false) else (.fin false 0 0, false)))

/-- MMA and MMA.SP performed (R328-R330, R441). -/
def State.doMma (s : State) (old : Sparse 8) (team core : Nat) (cores : List Nat) (sp : Bool) (t la lb koff : Nat) : Except EFault State := do
  let rows := 64 * cores.length
  let a ← s.layOf old team la rows .elems
  let b ← s.layOf old team lb 64 .elems
  let K := a.fmt.k
  if b.fmt.k != K || koff % K != 0 then .error layoutErr
  else if !sp then do
    let va ← s.rowVals old 0 team a rows koff K
    let vb ← s.rowVals old (2 ^ 30) team b 64 koff K
    .ok (((s.bumpBank team core (a.runs rows koff K)).bumpBank team core (b.runs 64 koff K)).product cores t va vb)
  else do
    let m ← s.layOf old team (la + 32) rows .masks
    let deb : Bool := match a.fmt with | .n ec => isDeb ec | _ => false
    let va ← s.rowVals old 0 team a rows (koff / 2) (K / 2)
    let vb ← s.rowVals old (2 ^ 30) team b 64 koff K
    let mruns := (List.range rows).map (fun r => (m.row r + koff / 8, K / 8))
    if deb || mruns.any (fun p => decide (s.sizeOf team < p.1 + p.2)) then .error layoutErr
    else
      match mruns.find? (fun p => s.scrBad team p.1 p.2) with
      | some p => .error (0x16, 0, p.1)
      | none =>
        let nib := mruns.map (fun p => (List.range (K / 4)).map (fun g =>
          s.seen (2 ^ 31 + 64 * p.1 + g) ((nibbles (old.read p.1 p.2) (K / 4)).getD g (0, 0)) ((nibbles (s.scrRead team p.1 p.2) (K / 4)).getD g (0, 0))))
        if nib.any (fun l => l.any (fun p => decide (p.2 ≤ p.1))) then .error layoutErr
        else
          let s := ((s.bumpBank team core (a.runs rows (koff / 2) (K / 2))).bumpBank team core mruns).bumpBank team core (b.runs 64 koff K)
          .ok (s.product cores t (List.zipWith expand va nib) vb)

/-- The outlier records that fall into a tile: row, k and value (R332). -/
def outTerms (x : Nat) (K : Nat) (recs : List Nat) : List (Nat × Nat × W32) :=
  recs.filterMap (fun v =>
    let idx := v % 2 ^ 32
    let row : Int := ((idx / fld x 159 128 : Nat) : Int) - fld x 95 64
    let k : Int := ((idx % fld x 159 128 : Nat) : Int) - fld x 127 96
    if 0 ≤ row ∧ row < 64 ∧ 0 ≤ k ∧ k < K then some (row.toNat, k.toNat, BitVec.ofNat 32 (v / 2 ^ 32)) else none)

/-- Outlier records read at their slices. -/
def State.outRecs (s : State) (o : EngOp) (list : Nat) : Nat → Except EFault (List Nat)
  | 0 => .ok []
  | n + 1 => do
    let l ← State.outRecs s o list n
    let va := wrapN 64 ((list : Int) + 8 * n)
    let (v, b) ← s.engRead o va 8
    if b then .error (0x16, 0, va) else .ok (v :: l)

/-- MMA.OUT performed (R331, R332, R441). -/
def State.doOut (s : State) (old : Sparse 8) (o : EngOp) (core t lo ro : Nat) (sideB : Bool) : Except EFault State := do
  let team := o.tag.team
  if s.scrBad team ro 32 then .error (0x16, 0, ro)
  else do
    let x := s.seenRec old team ro 8
    if fld x 159 128 == 0 || fld x 255 192 % 8 != 0 then .error layoutErr
    else if fld x 63 0 != 0 then .error (0x80, 0, ro)
    else do
      let l ← s.layOf old team lo 64 .elems
      let K := l.fmt.k
      let v ← s.rowVals old 0 team l 64 0 K
      let recs ← s.outRecs o (fld x 255 192) (fld x 191 160)
      let terms := outTerms x K recs
      let at_ (r k : Nat) : FVal × Bool := (v.getD r []).getD k (.fin false 0 0, false)
      let mine (i j : Nat) : List (Nat × Nat × W32) := terms.filter (fun p => p.1 == (if sideB then j else i))
      let other (i j : Nat) : Nat := if sideB then i else j
      .ok (((s.engCount o (fld x 255 192) (8 * fld x 191 160)).bumpBank team core (l.runs 64 0 K)).mapTile core t
        (fun i j acc => rneF32 (exactSum 0 (valF32 acc :: (mine i j).map (fun p => (valF32 p.2.2).mul (at_ (other i j) p.2.1).1))))
        (fun i j => (mine i j).any (fun p => (at_ (other i j) p.2.1).2)))

/-! ### ACC.LD (R334) -/

/-- Bytes that ACC.LD counts down for a record: those of f32 when its TYPE is not one that it accepts (DEDUCED). -/
def State.ldBytes (s : State) (old : Sparse 8) (team la cores : Nat) : Nat :=
  4096 * cores * (match fld (s.seenRec old team la 8) 51 48 with | 8 => 2 | 9 => 2 | _ => 4)

/-- ACC.LD performed. -/
def State.doLd (s : State) (old : Sparse 8) (team core : Nat) (cores : List Nat) (t la : Nat) : Except EFault State := do
  let rows := 64 * cores.length
  let l ← s.layOf old team la rows .elems
  match l.fmt with
  | .n _ => .error layoutErr
  | .f _ => do
    let v ← s.rowVals old 0 team l rows 0 64
    let s := s.bumpBank team core (l.runs rows 0 64)
    .ok ((List.range cores.length).foldl (fun s k =>
      match cores[k]? with
      | none => s
      | some c =>
        s.updCore c (fun x => x.setTile t ((List.range 4096).map (fun e =>
          let p := (v.getD (64 * k + e / 64) []).getD (e % 64) (.fin false 0 0, false)
          (rneF32 p.1, p.2))))) s)

/-! ### ACC.ST (R336-R338) -/

/-- The output type of an epilogue record: a float type, or a format slot. -/
inductive OFmt where
  | f (t : Ty)
  | n (f : Slot)
deriving DecidableEq, Repr

/-- OTYPE and OSLOT. -/
def outFmt (l : Launch) (x : Nat) : Option OFmt :=
  match fld x 31 28 with
  | 8 => some (.f .f16)
  | 9 => some (.f .bf16)
  | 10 => some (.f .f32)
  | 12 => let f := l.slot (fld x 27 25); if f.bad then none else some (.n f)
  | _ => none

/-- Bytes of an encoded row of 64 elements. -/
def OFmt.rowBytes (o : OFmt) : Nat := match o with | .f t => 64 * t.bytes | .n g => if isDeb g.ecode then 2 * blockBytes g.ecode else 8 * elemBits g.ecode

/-- A scratchpad table word as f32, with its poison (R321). -/
def State.tabWord (s : State) (old : Sparse 8) (team off : Nat) : W32 × Bool :=
  (s.seen off (BitVec.ofNat 32 (old.read off 4)) (BitVec.ofNat 32 (s.scrRead team off 4)), s.scrBad team off 4)

/-- The value of a column after scale and bias (R337). -/
def State.scaled (s : State) (old : Sparse 8) (team x : Nat) (acc : W32 × Bool) (c : Nat) : W32 × Bool :=
  let y : W32 × Bool :=
    if x.testBit 20 then let k := s.tabWord old team (fld x 287 256 + 4 * c); (rneF32 ((valF32 acc.1).mul (valF32 k.1)), acc.2 || k.2) else acc
  if x.testBit 21 then let k := s.tabWord old team (fld x 319 288 + 4 * c); (rneF32 (exactSum 0 [valF32 y.1, valF32 k.1]), y.2 || k.2) else y

/-- A row after rotation (R337). -/
def State.rotated (s : State) (old : Sparse 8) (team x row : Nat) (l : List (W32 × Bool)) : List (W32 × Bool) :=
  if !x.testBit 22 then l
  else
    (List.range 64).map (fun c =>
      let j := c / 2
      let a := l.getD (2 * j) (0, false)
      let b := l.getD (2 * j + 1) (0, false)
      let cs := s.tabWord old team (fld x 351 320 + (row * 32 + j) * 8)
      let sn := s.tabWord old team (fld x 351 320 + (row * 32 + j) * 8 + 4)
      let v := if c % 2 = 0 then exactSum 0 [(valF32 a.1).mul (valF32 cs.1), ((valF32 b.1).mul (valF32 sn.1)).neg]
        else exactSum 0 [(valF32 a.1).mul (valF32 sn.1), (valF32 b.1).mul (valF32 cs.1)]
      (rneF32 v, a.2 || b.2 || cs.2 || sn.2))

/-- A row's output values. -/
def State.epiRow (s : State) (old : Sparse 8) (team x core t row : Nat) : List (W32 × Bool) :=
  let c := s.core core
  s.rotated old team x row ((List.range 64).map (fun j => s.scaled old team x (c.elem t (row % 64) j, c.elemBad t (row % 64) j) j))

/-- An encoded row: its bytes as a number, which of its 4-byte words are poisoned, and its outliers with their poison (R135, R337, R457). -/
structure OutRow where
  bits : Nat
  bad : List Bool
  out : List (Nat × W32 × Bool)
deriving DecidableEq, Repr

/-- The encoding of a row. -/
def encodeRow (o : OFmt) (row : Nat) (l : List (W32 × Bool)) : OutRow :=
  let n := o.rowBytes
  match o with
  | .f t =>
    { bits := l.foldr (fun p a => (roundF t 0 (valF32 p.1)).toNat + 2 ^ t.bits * a) 0,
      bad := (List.range (n / 4)).map (fun k => (List.range 64).any (fun c => c * t.bytes / 4 == k && (l.getD c (0, false)).2)), out := [] }
  | .n f =>
    if isDeb f.ecode then
      let half (h : Nat) := encodeBlock f 5 ((List.range 32).map (fun c => valF32 (l.getD (32 * h + c) (0, false)).1))
      let outs (h : Nat) : List (Nat × W32 × Bool) := (half h).2.map (fun c => (row * 64 + 32 * h + c, rneF32 (valF32 (l.getD (32 * h + c) (0, false)).1), (l.getD (32 * h + c) (0, false)).2))
      { bits := (half 0).1 + 2 ^ (8 * blockBytes f.ecode) * (half 1).1,
        bad := (List.range ((n + 3) / 4)).map (fun k => (List.range 64).any (fun c =>
          decide (c / 32 * blockBytes f.ecode < 4 * k + 4) && decide (4 * k < (c / 32 + 1) * blockBytes f.ecode) && (l.getD c (0, false)).2)),
        out := outs 0 ++ outs 1 }
    else
      let b := elemBits f.ecode
      let es := l.map (fun p => (encodeElem f 5 (valF32 p.1), p))
      { bits := es.foldr (fun p a => p.1.1 + 2 ^ b * a) 0,
        bad := (List.range ((n + 3) / 4)).map (fun k => (List.range 64).any (fun c =>
          decide (c * b < 32 * k + 32) && decide (32 * k < c * b + b) && (l.getD c (0, false)).2)),
        out := ((List.range 64).zip es).filterMap (fun p => if p.2.1.2 then some (row * 64 + p.1, rneF32 (valF32 p.2.2.1), p.2.2.2) else none) }

/-- Where a row goes: memory or scratchpad. -/
def State.putBytes (s : State) (o : EngOp) (e : End) (n v : Nat) (bad : Bool) : State × Option EFault :=
  if e.scr then (s.engScr o e.addr n v bad, none) else s.engWrite o e.addr n v bad

/-- The first n bytes of a row written, word by word when some are poisoned. -/
def State.putRow (s : State) (o : EngOp) (e : End) (n : Nat) (r : OutRow) : State × Option EFault :=
  if !r.bad.any (fun b => b) then s.putBytes o e n (r.bits % 2 ^ (8 * n)) false
  else
    (List.range ((n + 3) / 4)).foldl (fun (acc : State × Option EFault) k =>
      match acc.2 with
      | some _ => acc
      | none =>
        let m := Nat.min 4 (n - 4 * k)
        acc.1.putBytes o { e with addr := e.addr + 4 * k } m (r.bits / 2 ^ (32 * k) % 2 ^ (8 * m)) (r.bad.getD k false)) (s, none)

/-- The outliers of a row appended; a full list raises OUTLIERFULL once and the operation goes on, and what cannot be reached stops it (R466, R487). `told` says that OUTLIERFULL has been raised. -/
def State.appendRow (s : State) (o : EngOp) (f : Slot) (slot : Nat) : List (Nat × W32 × Bool) → Bool → State × Bool × Option EFault := fun l told =>
  l.foldl (fun (acc : State × Bool × Option EFault) r =>
    match acc.2.2 with
    | some _ => acc
    | none =>
      match acc.1.appendOutlier o.core o.tag f slot true r.1 r.2.1 r.2.2 with
      | (s, none) => (s, acc.2.1, none)
      | (s, some (b, d)) =>
        if b.cause = 0x21 then ((if acc.2.1 then s else s.imprecise o.tag 0x21 0 b.detail b.info 0), true, none)
        else (s, acc.2.1, some (if b.cause = 0x16 then 0x16 else b.detail, d, b.info.toNat))) (s, told, none)

/-- A row record's fields (R338). -/
def rowKey (v : Nat) : KvKey := ⟨fld v 127 96, fld v 63 48, fld v 47 40, fld v 95 64⟩
/-- PUB. -/
def rowPub (v : Nat) : Nat := fld v 35 34

/-- A header with TOK[e] and OFF[e] set, and no other bit changed. -/
def setTok (h e tok off : Nat) : Nat := setFld (setFld h (241 + 18 * e) (224 + 18 * e) tok) (103 + 8 * e) (96 + 8 * e) off

/-- The entry that a row record names, allocated if it asks for that (R338). -/
def State.rowEntry (s : State) (t : Tab) (v : Nat) : Except EFault (State × Nat) := do
  match ← s.kvLook t (rowKey v) with
  | (s, some j) => .ok (s, j)
  | (s, none) =>
    if !v.testBit 33 then .error (0x84, 0, t.base)
    else do
      let (s, j, _) ← s.kvAlloc t (rowKey v) (fld v 95 64 * 16) none
      .ok (s, j)

/-- Header updates of a row: TOK and OFF, then VALID and PEND (R145, R338, R397). -/
def State.rowHeader (s : State) (t : Tab) (addr v : Nat) : Except EFault State := do
  let e := fld v 39 36
  let s ← (s.tCount t addr 64).tWrite t addr 64 (setTok (← s.hdrGet t addr) e (fld v 31 14) (fld v 13 6))
  if rowPub v = 0 then .ok s else s.publishAt t addr e (rowPub v == 1)

/-- Bytes of a row scattered from element `col`: columns at or above D are not written (R337, R338; DEDUCED). -/
def Tab.scatterBytes (t : Tab) (col : Nat) : Nat := (MFmt.span (.n t.ecode) 0 (Nat.min 64 (t.d - col))).2

/-- One row scattered into the key-value cache: columns at or above D are not written (R338; DEDUCED). -/
def State.scatterRow (s : State) (o : EngOp) (t : Tab) (x v : Nat) (r : OutRow) : State × Option EFault :=
  match (if rowPub v = 3 then .ok (s, 0, 0) else do
      let (s, j) ← s.rowEntry t v
      .ok (s, j, entAddr (← s.tGet t j)) : Except EFault (State × Nat × Nat)) with
  | .error e => (s, some e)
  | .ok (s, _, addr) =>
    if rowPub v = 3 then (s, none)
    else
      let e := fld v 39 36
      let col := fld x 255 224
      let fm : MFmt := .n t.ecode
      let n := t.scatterBytes col
      match s.putRow o ⟨false, t.row addr (e + (if x.testBit 19 then 16 else 0)) + (fm.span col 1).1⟩ n r with
      | (s, some e) => (s, some e)
      | (s, none) => match s.rowHeader t addr v with | .ok s => (s, none) | .error e => (s, some e)

/-- What ACC.ST must know before its first effect (R441, R463): the output format, the bytes it writes of a row, DLAY, and the row records. -/
structure EpiPlan where
  x : Nat
  fmt : OFmt
  n : Nat
  lay : Option Lay
  recs : List Nat
deriving DecidableEq, Repr

/-- A table of an epilogue that lies outside the scratchpad. -/
def tableOut (size x flag lo n : Nat) : Bool := x.testBit flag && decide (size < fld x (lo + 31) lo + n)

/-- The conditions of an epilogue record (R336, R338, R441, R464). -/
def State.epiPlan (s : State) (old : Sparse 8) (o : EngOp) (er rows : Nat) : Except EFault EpiPlan := do
  let team := o.tag.team
  let l := s.launch (match s.team team with | some t => t.launch | none => 0)
  let size := s.sizeOf team
  if s.scrBad team er 64 then .error (0x16, 0, er)
  else do
    let x := s.seenRec old team er 16
    let dm := fld x 24 23
    let t := s.tabOf o.core o.tag
    match outFmt l x with
    | none => .error layoutErr
    | some f =>
      let kv : Bool := match f with | .n g => g.ecode == t.ecode | .f _ => false
      if dm == 3 || (dm == 2 && !kv) || (dm == 2 && fld x 31 28 != 12) then .error layoutErr
      else if fld x 223 32 != 0 || fld x 18 0 != 0 || (dm == 2 && (!t.ok || fld x 255 224 % 64 != 0 || decide (t.d ≤ fld x 255 224) || fld x 415 384 % 16 != 0)) then
        .error (0x80, 0, er)
      else if tableOut size x 20 256 256 || tableOut size x 21 288 256 || tableOut size x 22 320 (256 * rows) || (dm == 2 && decide (size < fld x 415 384 + 16 * rows)) then
        .error (0x83, 0, er)
      else if dm = 1 then do
        let lay ← s.layOf old team (fld x 383 352) rows .place
        if (List.range rows).any (fun r => decide (size < lay.row r + f.rowBytes)) then .error (0x83, 0, er) else .ok ⟨x, f, f.rowBytes, some lay, []⟩
      else if dm = 2 then
        (if s.scrBad team (fld x 415 384) (16 * rows) then .error (0x16, 0, fld x 415 384)
         else
          let recs := (List.range rows).map (fun r => s.seenRec old team (fld x 415 384 + 16 * r) 4)
          if recs.any (fun v => rowPub v != 3 && (v.testBit 32 || fld v 5 0 != 0)) then .error (0x80, 0, fld x 415 384) else .ok ⟨x, f, t.scatterBytes (fld x 255 224), none, recs⟩)
      else .ok ⟨x, f, f.rowBytes, none, []⟩

/-- Bytes that ACC.ST counts down: those it writes of its rows (R337). -/
def EpiPlan.bytes (p : EpiPlan) (rows : Nat) : Nat := (rows - (p.recs.filter (fun v => rowPub v == 3)).length) * p.n

/-- Rows that an epilogue record's row records leave out, when they can be read (R338). -/
def State.rowsOut (s : State) (old : Sparse 8) (team x rows : Nat) : Nat :=
  let at_ := fld x 415 384
  if fld x 24 23 != 2 || at_ % 16 != 0 || decide (s.sizeOf team < at_ + 16 * rows) || s.scrBad team at_ (16 * rows) then 0
  else ((List.range rows).filter (fun r => rowPub (s.seenRec old team (at_ + 16 * r) 4) == 3)).length

/-- Bytes that an ACC.ST counts down when its records do not describe a store: those of its rows in the output format, or of f32 rows where the record gives none (R337, R338, R441; DEDUCED, log 60). -/
def State.stTotal (s : State) (old : Sparse 8) (o : EngOp) (er rows : Nat) : Nat :=
  let l := s.launch (match s.team o.tag.team with | some t => t.launch | none => 0)
  if s.scrBad o.tag.team er 64 then rows * 256
  else
    let x := s.seenRec old o.tag.team er 16
    (rows - s.rowsOut old o.tag.team x rows) * (match outFmt l x with | some f => f.rowBytes | none => 256)

/-- One row of ACC.ST performed. -/
def State.stRow (s : State) (old : Sparse 8) (o : EngOp) (p : EpiPlan) (core t row : Nat) (told : Bool) : State × Bool × Option EFault :=
  if rowPub (p.recs.getD row 0) == 3 then (s, told, none)
  else
    let r := encodeRow p.fmt row (s.epiRow old o.tag.team p.x core t row)
    let a : State × Bool × Option EFault := match p.fmt with | .n f => s.appendRow o f (fld p.x 27 25) r.out told | .f _ => (s, told, none)
    match a with
    | (s, told, some e) => (s, told, some e)
    | (s, told, none) =>
      let w : State × Option EFault :=
        if fld p.x 24 23 = 2 then s.scatterRow o (s.tabOf o.core o.tag) p.x (p.recs.getD row 0) r
        else
          let e : End := match p.lay with
            | some l => ⟨true, l.row row⟩
            | none => ⟨false, wrapN 64 ((fld p.x 511 448 : Int) + row * sgn 32 (fld p.x 447 416))⟩
          s.putRow o e p.fmt.rowBytes r
      (w.1, told, w.2)

/-- A row waits: its key's entry is MOVING or COMPACT (R151). -/
def State.rowWaits (s : State) (t : Tab) (v : Nat) : Bool :=
  rowPub v != 3 && (match s.kvFind t (rowKey v) with | .ok (some j) => s.entBusy t j | _ => false)

/-- ACC.ST performed: its rows in ascending order, up to the first that fails. -/
def State.doSt (s : State) (old : Sparse 8) (o : EngOp) (p : EpiPlan) (cores : List Nat) (t : Nat) : State × Option EFault :=
  let r := (List.range (64 * cores.length)).foldl (fun (acc : State × Bool × Option EFault) row =>
    match acc.2.2 with | some _ => acc | none => acc.1.stRow old o p (cores.getD (row / 64) 0) t row acc.2.1) (s, false, none)
  let s := match p.lay, r.2.2 with
    | some l, none => r.1.bumpBank o.tag.team (cores.getD 0 0) ((List.range (64 * cores.length)).map (fun k => (l.row k, p.fmt.rowBytes)))
    | _, _ => r.1
  (s, r.2.2)

/-! ### The engine (R320, R441, R463) -/

/-- A MATRIX-class operation that fails: LAYOUT, KVFULL, or ENGINE with its reason. -/
def State.matFault (s : State) (id : Nat) (e : EFault) : State := if e.1 = 0x22 then s.opFault id 0x22 0 0 0 else s.kvFault id e

/-- The outcome of a matrix instruction without an operation: a record that is poisoned cannot describe it either (R441, R465). -/
def State.matEnd (s : State) (m : MInst) (r : Except EFault State) : State := match r with | .ok s => s.sawOperands | .error _ => s.imprecise m.tag 0x22 0 0 0 0

/-- The outcome of a MATRIX-class instruction: n bytes counted down, and its effects performed. -/
def State.matOp (s : State) (id n : Nat) (r : Except EFault State) : State :=
  match r with
  | .ok s => (s.sawOperands.opShare id 0 n).opReady id
  | .error e => s.matFault id e

/-- A word of a layout record changed by the engine (R325); an armed granule is left alone while CLOBBER is set (R454). -/
def State.doLayout (s : State) (tag : Tag) (so word : Nat) (add : Bool) (v : W32) : State :=
  let off := so + 4 * word
  let armed := s.isArmed tag.team off
  if armed && (s.tenant tag.tenant).debugCfg.getLsbD 1 then s.imprecise tag 0x17 0 0 0 0
  else
    let bad := add && s.scrBad tag.team off 4
    let s := s.scrWrite tag.team off 4 (if add then (s.scrRead tag.team off 4 + v.toNat) % 2 ^ 32 else v.toNat)
    let s := if bad then s.scrPoisonSet tag.team off 4 else s
    if armed then s.evalBobj tag.team (off / 16 * 16) else s

/-- The elements of a tile row given to the parts of an asynchronous record. -/
def State.doTov (s : State) (core t row id : Nat) : State :=
  let c := s.core core
  let put (p : Part) : Part := { p with data := BitVec.ofNat 512 (c.elem t row p.pa).toNat, poison := c.elemBad t row p.pa, done := true }
  { s with asyncs := updWhere (fun x => x.id == id) (fun x => { x with parts := x.parts.map put }) s.asyncs }

/-- Elements written into a tile row. -/
def State.doToa (s : State) (core t row : Nat) (vals : List (Nat × W32)) : State :=
  s.updCore core (fun c => vals.foldl (fun c p =>
    { c with tiles := c.tiles.set (t * 4096 + row * 64 + p.1) p.2, tilePoison := c.tilePoison.filter (fun k => k != t * 4096 + row * 64 + p.1) }) c)

/-- A matrix instruction performed on its cores; none while a row of it must wait (R151). -/
def State.doMatrix (s : State) (m : MInst) (core : Nat) (cores : List Nat) : Option State :=
  let team := m.tag.team
  match m.kind, m.op with
  | .mma sp t la lb koff _, _ => some (s.matEnd m (s.doMma m.old team core cores sp t la lb koff))
  | .zero t _, _ => some (cores.foldl (fun s c => s.updCore c (fun x => x.setTile t [])) s)
  | .tov t row id, _ => some (s.doTov core t row id)
  | .toa t row vals, _ => some (s.doToa core t row vals)
  | .layout so word add v, _ => some (s.doLayout m.tag so word add v)
  | .out t lo ro side, some id =>
    (match s.op id with | some o => some (s.matOp id 0 (s.doOut m.old o core t lo ro side)) | none => some s)
  | .ld t la _, some id =>
    let n := s.ldBytes m.old team la cores.length
    some ((s.updOp id (fun o => { o with total := n })).matOp id n ((s.updOp id (fun o => { o with total := n })).doLd m.old team core cores t la))
  | .st t er _, some id =>
    (match s.op id with
     | none => some s
     | some o =>
       let rows := 64 * cores.length
       (match s.epiPlan m.old o er rows with
        | .error e => some ((s.updOp id (fun o => { o with total := s.stTotal m.old o er rows })).matFault id e)
        | .ok p =>
          if p.recs.any (s.rowWaits (s.tabOf o.core o.tag)) then none
          else
            let s := s.updOp id (fun o => { o with total := p.bytes rows })
            (match s.doSt m.old o p cores t with
             | (s, none) => some ((s.sawOperands.opShare id 0 (p.bytes rows)).opReady id)
             | (s, some e) => some (s.sawOperands.matFault id e))))
  | _, none => some s

/-- Its accesses to memory need the tenant's slice cycle. -/
def MKind.memory : MKind → Bool
  | .out _ _ _ _ | .st _ _ _ => true
  | _ => false

/-- It stands in both queues of its pair. -/
def MKind.paired : MKind → Bool
  | .mma _ _ _ _ _ p | .zero _ p | .ld _ _ p | .st _ _ p => p
  | _ => false

/-- The scratchpad ranges that the engine writes for an instruction that it performs in `s` (R325, R336). -/
def State.engineRanges (s : State) (m : MInst) (cores : List Nat) : List (Nat × Nat) :=
  match m.kind, m.op.bind s.op with
  | .layout so word _ _, _ => [(so + 4 * word, 4)]
  | .st _ er _, some o =>
    (match s.epiPlan m.old o er (64 * cores.length) with
     | .ok p => (match p.lay with | some l => (List.range (64 * cores.length)).map (fun r => (l.row r, p.fmt.rowBytes)) | none => [])
     | .error _ => [])
  | _, _ => []

/-- What an instruction has written stands before the later ones of its queues, as if it had stood so when they issued (R320). -/
def State.laterSee (s : State) (team : Nat) (cores : List Nat) (l : List (Nat × Nat)) : State :=
  if l.isEmpty then s
  else
    let up (m : MInst) : MInst := if m.tag.team = team then { m with old := l.foldl (fun a p => Sparse.write a p.1 p.2 (s.scrRead team p.1 p.2)) m.old } else m
    cores.foldl (fun s c => s.updCore c (fun x => { x with mq := x.mq.map up })) s

/-- MATRIX_ENGINE_PERFORM (R320): the next instruction of a core's queue; a pair-mode one when it heads both queues. -/
def execMatrixEnginePerform (core : Nat) (s : State) : Host.Outcome State Fault Refusal :=
  match (s.core core).mq with
  | [] => .next s
  | m :: _ =>
    match s.team m.tag.team with
    | none => .next s
    | some t =>
      let cores := if m.kind.paired then t.cores else [core]
      let heads : Bool := cores.all (fun c => match (s.core c).mq with | x :: _ => x.id == m.id | [] => false)
      if s.stopped || !heads || (m.kind.paired && core != t.core) || (m.kind.memory && !s.ownsSlot m.tag.tenant) then .next s
      else
        let pop (s : State) : State := cores.foldl (fun s c => s.updCore c (fun x => { x with mq := x.mq.drop 1 })) s
        let cancelled : Bool := match m.op with | some id => (match s.op id with | some o => o.cancelled | none => false) | none => false
        if cancelled then .next (pop s)
        else
          let s' := match m.op with | some id => s.updOp id (fun o => { o with started := true }) | none => s
          match s'.doMatrix m core cores with
          | none => .next s
          | some t' => .next ((pop t').laterSee m.tag.team cores (s'.engineRanges m cores))

end Sys2Proof.Machine
end

