-- ==== Sys2Proof/Machine/Expert.lean ====
section
/-! DEFINITION. Major XPR: expert bitmaps and regrouping lanes by key (R164-R166, R348-R350, R442). -/

namespace Sys2Proof.Machine

/-! ### Expert bitmaps (R164, R348, R349) -/

/-- The bitmap's address in a lane, or once. -/
def Cx.ebmBase (cx : Cx) (vec : Bool) (sel L : Nat) : Nat := (cx.srcAny vec sel cx.h.a .u64 L).toNat
/-- A 32-bit operand in a lane, or once. -/
def Cx.ebmVal (cx : Cx) (vec : Bool) (sel : Nat) (o : Opd) (L : Nat) : Nat := (cx.srcAny vec sel o .u32 L).toNat % 2 ^ 32

/-- i, j and n are at most 2^24 (R442); cause by cause, the bitmap must stand at a multiple of 8. -/
def Cx.ebmCheck (cx : Cx) (vec : Bool) (sel : Nat) (os : List Opd) (acc : Nat → Acc) (s : State) : Option Bad :=
  match (cx.lanes vec).find? (fun L => os.any (fun o => decide (2 ^ 24 < cx.ebmVal vec sel o L))) with
  | some L => some { cause := 0x03, lane := L }
  | none => s.rank10 cx ((cx.lanes vec).flatMap (fun L => [(⟨L, cx.ebmBase vec sel L, 0⟩, 8), (acc L, 1)])) [] false

/-- The word of bit i. -/
def Cx.ebmWord (cx : Cx) (vec : Bool) (sel L : Nat) : Acc := ⟨L, (cx.ebmBase vec sel L + cx.ebmVal vec sel cx.h.b L / 32 * 4) % 2 ^ 64, 4⟩

/-- EBM.SET (R349): an atomic OR at the home slice of the bit's word, lane by lane. -/
def execEbmSet (w : Word) (s : State) : Host.Outcome State Fault Refusal :=
  let vec := isVector (Instr.ebmSet w).form (headR w)
  issue (.ebmSet w) s {
    check := fun cx a s => cx.ebmCheck vec a [w.b] (cx.ebmWord vec a) s
    check2 := fun cx a s => s.rank11 cx ((cx.lanes vec).map (cx.ebmWord vec a)) (needRW cx.priv)
    run := fun cx a s =>
      let l := (cx.lanes vec).map (cx.ebmWord vec a)
      let s := s.fills cx.core cx.tenant l
      let item (x : Acc) : Part × SliceOp × Nat :=
        let pa := s.phys cx.core cx.tenant x.va
        ({ lane := x.lane, pa := pa, n := 4 }, .orBit pa (cx.ebmVal vec a w.b x.lane % 32), 4)
      if l.isEmpty then s else s.sendOps { id := 0, core := cx.core, tag := cx.tag, dest := .none, ty := .u32, parts := [] } (l.map item) }

/-- Pieces of at most 64 bytes within lines. -/
def pieces64 : Nat → Nat → Nat → List (Nat × Nat)
  | 0, _, _ => []
  | k + 1, va, n => if n = 0 then [] else (va, Nat.min n (64 - va % 64)) :: pieces64 k (va + Nat.min n (64 - va % 64)) (n - Nat.min n (64 - va % 64))

/-- The parts of one lane's bitmap of n bits: first one that holds its destination and no byte, then its bytes with the bits they supply. -/
def Cx.ebmParts (cx : Cx) (s : State) (L va n arg : Nat) : List Part :=
  { lane := L, regs := cx.dstRegs 1 L, done := true, arg := arg }
    :: (pieces64 (n / 512 + 2) va ((n + 7) / 8)).map (fun p => { cx.part s L [] p.1 p.2 with bits := Nat.min (8 * p.2) (n - 8 * (p.1 - va)) })

/-- The bytes of a bitmap of as many bits as an operand says, in a lane. -/
def Cx.ebmAcc (cx : Cx) (vec : Bool) (n : Opd) (sel L : Nat) : Acc := ⟨L, cx.ebmBase vec sel L, (cx.ebmVal vec sel n L + 7) / 8⟩

/-- The loads of the group's bitmaps: none for one of no bits. -/
def Cx.ebmAccs (cx : Cx) (vec : Bool) (n : Opd) (sel : Nat) : List Acc := ((cx.lanes vec).map (cx.ebmAcc vec n sel)).filter (fun x => x.n != 0)

/-- EBM.RANK and EBM.SELECT (R164, R349): plain loads of the group over n bits, `n` and `j` taken from operands. -/
def ebmBody (vec : Bool) (g : Gather) (os : List Opd) (n j : Opd) : Body :=
  { hold := fun cx s => s.ownMarked cx ((cx.arms vec).flatMap (cx.ebmAccs vec n))
    check := fun cx a s => cx.ebmCheck vec a os (cx.ebmAcc vec n a) s
    check2 := fun cx a s => s.rank11 cx (cx.ebmAccs vec n a) (needR cx.priv)
    run := fun cx a s =>
      let s := s.fills cx.core cx.tenant (cx.ebmAccs vec n a)
      let ps := (cx.lanes vec).flatMap (fun L => cx.ebmParts s L (cx.ebmBase vec a L) (cx.ebmVal vec a n L) (cx.ebmVal vec a j L))
      if ps.isEmpty then s
      else s.startLoad { id := 0, core := cx.core, tag := cx.tag, dest := cx.asyncDest vec a, ty := .u32, parts := ps, gather := g } 0 false }

/-- EBM.RANK (R349). -/
def execEbmRank (w : Word) (s : State) : Host.Outcome State Fault Refusal :=
  issue (.ebmRank w) s (ebmBody (isVector (Instr.ebmRank w).form (headR w)) .rank [w.b] w.b .z)
/-- EBM.SELECT (R349). -/
def execEbmSelect (w : Word) (s : State) : Host.Outcome State Fault Refusal :=
  issue (.ebmSelect w) s (ebmBody (isVector (Instr.ebmSelect w).form (headR w)) .select [w.b, w.c] w.c w.b)

/-! ### REGROUP (R166, R350, R442) -/

/-- REGROUP (R166, R350): a release of TEAM scope, the wait for every group, the move, and an acquire of TEAM scope, as BAR.SYNC orders memory. -/
def execRegroup (w : Word) (s : State) : Host.Outcome State Fault Refusal :=
  let c := w.fspec.toNat % 64
  let vr := match w.b with | .v r => r.toNat | _ => 0
  let vd : Option Nat := match w.dst with | .v d => some d.toNat | _ => none
  issue (.regroup w) s {
    hold := fun cx s => cx.opMarked (s.marksOf cx.c.team cx.c.grp) w.b { n := c }
    used := some (fun cx sel => cx.act.flatMap (fun L => cx.opWords w.a 1 sel L ++ cx.opWords w.b c sel L))
    rel := fun _ => some 1
    own := true
    run := fun cx _ s =>
      match cx.ended (fun k => match k with | .regroup _ _ _ _ => true | _ => false) with
      | some _ => cx.advance (cx.acquire 1 (cx.done s))
      | none =>
        let keys := (List.range cx.W).map (fun L => loOf (cx.src w.a .u32 L))
        (cx.stay { kind := .regroup vr c (if cx.wb then vd else none) keys, rel := true } s).regroupTeam cx.c.team }

end Sys2Proof.Machine
end

