-- ==== Sys2Proof/Machine/Pool.lean ====
section
/-! DEFINITION. The room that teams take in a core's pool, and granting register requests (R51-R58, R66, R67). -/

namespace Sys2Proof.Machine

/-- A team holds its reservations: resident, stopping, or pre-empted but placed (R52). -/
def Place.held : Place → Bool
  | .resident | .stopping | .placed => true
  | _ => false

/-- A team holds its place on a core. -/
def Team.holds (t : Team) (core : Nat) : Bool := (t.core == core || t.core2 == some core) && t.place.held

/-- Register bytes reserved on a core (R52). -/
def State.regUsed (s : State) (core : Nat) : Nat :=
  (s.groups.filter (fun g => g.core == core && !g.retired && (match s.team g.team with | some t => t.place.held | none => false))).foldl (fun a g => a + g.count * g.width * 4) 0

/-- Register bytes free on a core. -/
def State.regFree (s : State) (core : Nat) : Nat := (s.core core).pbReg * 65536 - s.regUsed core

/-- A register request of n units of 8 is grantable (R52). -/
def State.grantable (s : State) (g : Group) (n : Nat) : Bool := decide (g.count + 8 * n ≤ 256) && decide (8 * n * g.width * 4 ≤ s.regFree g.core)

/-- The requests waiting on a core, of resident teams: context, units and order of issue (R52, R53). -/
def State.growWaits (s : State) (core : Nat) : List (CtxId × Nat × Nat) :=
  s.groups.flatMap (fun g =>
    if g.core == core && !g.retired && (match s.team g.team with | some t => t.place == .resident | none => false) then
      [0, 1, 2, 3].filterMap (fun a =>
        match (g.arm a).wait.kind, (g.arm a).wait.status with
        | .grow n seq, none => if (g.arm a).live then some ({ team := g.team, grp := g.idx, arm := a }, n, seq) else none
        | _, _ => none)
    else [])

/-- What places a request before another: the cycle of its issue, then its team's linear index, then %group (R52). -/
def State.growKey (s : State) (r : CtxId × Nat × Nat) : List Nat :=
  [(match s.armOf r.1 with | some a => a.since | none => 0), (match s.team r.1.team with | some t => t.index | none => 0), r.1.grp, r.2.2]

/-- A list of numbers stands before another in the order of their first difference. -/
def keyBefore : List Nat → List Nat → Bool
  | x :: l, y :: m => decide (x < y) || (x == y && keyBefore l m)
  | _, _ => false

/-- The request granted first of a list. -/
def State.oldest (s : State) : List (CtxId × Nat × Nat) → Option (CtxId × Nat × Nat)
  | [] => none
  | x :: t => match s.oldest t with | some y => if keyBefore (s.growKey y) (s.growKey x) then some y else some x | none => some x

/-- A group's vector register count changed; registers at and above it hold nothing (R52, R54). -/
def Group.setCount (g : Group) (n : Nat) : Group :=
  { g with count := n, v := g.v.filter (fun p => decide (p.1 < n * 64)), vpo := g.vpo.filter (fun k => decide (k < n * 64)),
           vclean := g.vclean.filter (fun i => decide (i < n * g.width / 64)), vout := g.vout.filter (fun i => decide (i < n * g.width / 64)) }

end Sys2Proof.Machine
end

