-- ==== Sys2Proof/Machine/Move.lean ====
section
/-! DEFINITION. Major MVR: moves between the files, special registers, and the register allocation (R46, R47, R50-R55, R270-R273), with the event that grants a waiting request. -/

namespace Sys2Proof.Machine

/-- A value to a vector destination in every lane of Active(), or once to a uniform one (R46, R271). -/
def anyDst (t : Ty) (vec : Bool) (f : Cx → Nat → W64) (fu : Cx → Nat → W64) : Body :=
  { run := fun cx a s => if vec then cx.writeV t (cx.act.map (fun L => (L, f cx L))) s else cx.writeU a t (fu cx a) s }

/-- MOV (R271). -/
def execMov (w : Word) (s : State) : Host.Outcome State Fault Refusal :=
  issue (.mov w) s (anyDst w.ty (isVector (Instr.mov w).form (headR w)) (fun cx L => cx.src w.a w.ty L) (fun cx a => cx.srcU a w.a w.ty))

/-- MOV, I-form (R271). -/
def execMovImm (w : WordI) (s : State) : Host.Outcome State Fault Refusal :=
  issue (.movImm w) s (anyDst w.ty (isVector (Instr.movImm w).form (headI w)) (fun _ _ => immI w.ty w.imm) (fun _ _ => immI w.ty w.imm))

/-- %status.OOR set (R50). -/
def Cx.markOor (cx : Cx) (s : State) : State := s.updGroup cx.c.team cx.c.grp (fun g => { g with oor := true })

/-- The copies that READLANE writes, each with the copies its index and fallback are read from (R45). -/
def Cx.laneParts (cx : Cx) (dst : Opd) : List (Nat × Nat) :=
  (cx.uniParts (Opd.banked dst)).map (fun p => (p.1, if Opd.banked dst then p.1 else cx.oneSel))

/-- READLANE (R47, R48, R271): the lane named, whether or not it is active. -/
def execReadlane (w : Word) (s : State) : Host.Outcome State Fault Refusal :=
  let idx (cx : Cx) (sel : Nat) : Nat := (cx.srcU sel w.b .u32).toNat % 2 ^ 32
  issue (.readlane w) s {
    used := some (fun cx _ =>
      if cx.act.isEmpty then []
      else (cx.laneParts w.dst).flatMap (fun p =>
        cx.opWords w.b 1 p.2 0 ++ (if idx cx p.2 < cx.W then cx.opWords w.a w.ty.regs p.2 (idx cx p.2) else cx.opWords w.c w.ty.regs p.2 0)))
    run := fun cx _ s => (cx.laneParts w.dst).foldl (fun s p =>
      if idx cx p.2 < cx.W then cx.writeU p.1 w.ty (cx.src w.a w.ty (idx cx p.2)) s
      else cx.markOor (cx.writeU p.1 w.ty (cx.srcU p.2 w.c w.ty) s)) s }

/-- FIRST (R47): the lowest active lane, or nothing. -/
def execFirst (w : Word) (s : State) : Host.Outcome State Fault Refusal :=
  let low (cx : Cx) (p : Nat → Bool) : Option Nat := cx.act.find? p
  issue (.first w) s {
    used := some (fun cx _ => (cx.uniParts (Opd.banked w.dst)).flatMap (fun p =>
      match low cx p.2 with | some L => cx.opWords w.a w.ty.regs 0 L | none => []))
    run := fun cx _ s => (cx.uniParts (Opd.banked w.dst)).foldl (fun s p =>
      match low cx p.2 with | some L => cx.writeU p.1 w.ty (cx.src w.a w.ty L) s | none => s) s }

/-- The coordinates of a team in its grid (R272): x first. -/
def coord (l : Launch) (i k : Nat) : Nat :=
  let gx := Nat.max l.gx 1
  let gy := Nat.max l.gy 1
  if k = 0 then i % gx else if k = 1 then i / gx % gy else i / (gx * gy)

/-- %status (R50). -/
def Cx.status (cx : Cx) : Nat :=
  b2n cx.g.oor + 2 * b2n cx.g.split + 4 * b2n cx.g.melded + (cx.g.arm cx.c.arm).depth % 256 * 256

/-- The lanes of %amask for an execution (R50). -/
def Cx.amask (cx : Cx) : W64 := maskOf (fun L => (pathLanes cx.g cx.c.arm cx.h.path).contains L)

/-- The special register of a number, as a lane reads it (R272). -/
def State.special (s : State) (cx : Cx) (n L : Nat) : Nat :=
  match s.team cx.c.team with
  | none => 0
  | some t =>
    let l := s.launch t.launch
    match n with
    | 0x00 => L
    | 0x01 => cx.W
    | 0x02 => cx.c.grp
    | 0x03 => coord l t.index 0
    | 0x04 => coord l t.index 1
    | 0x05 => coord l t.index 2
    | 0x06 => l.gx
    | 0x07 => l.gy
    | 0x08 => l.gz
    | 0x09 => cx.core
    | 0x0A => cx.core / 2
    | 0x0B => coreDie cx.core
    | 0x0C => s.clock % 2 ^ 64
    | 0x0D => cx.tenant
    | 0x0E => if cx.g.melded then b2n (cx.g.armBits.getLsbD L) else armSel cx.c
    | 0x0F => cx.amask.toNat
    | 0x10 => (cx.g.xmask &&& fullMask cx.W).toNat
    | 0x11 => (match s.frontOf cx.g with | some (pa, _) => (match s.frontAt pa with | some e => e.mem.toNat | none => 0) | none => 0)
    | 0x12 => (match s.frontOf cx.g with | some (pa, _) => (match s.frontAt pa with | some e => e.slip | none => 0) | none => 0)
    | 0x13 => if t.core = cx.core then t.bank.toNat else t.bank2.toNat
    | _ => cx.status

/-- GETSR (R272): the low 32 bits with u32. -/
def execGetsr (w : Word) (s : State) : Host.Outcome State Fault Refusal :=
  let v (cx : Cx) (L : Nat) : W64 := BitVec.ofNat 64 (s.special cx w.fspec.toNat L % 2 ^ w.ty.bits)
  issue (.getsr w) s (anyDst w.ty (isVector (Instr.getsr w).form (headR w)) v (fun cx _ => v cx 0))

/-- SETSR (R50, R272). -/
def execSetsr (w : Word) (s : State) : Host.Outcome State Fault Refusal :=
  issue (.setsr w) s {
    run := fun cx a s =>
      let x := loOf (cx.srcU a w.a .u32)
      if w.fspec = 0x13 then s.updTeam cx.c.team (fun t => if t.core = cx.core then { t with bank := x } else { t with bank2 := x })
      else if x.getLsbD 0 then s.updGroup cx.c.team cx.c.grp (fun g => { g with oor := false }) else s }

/-! ### The register allocation (R51-R55) -/

/-- A granted request: the count rises, and the new registers read zero. -/
def State.grant (s : State) (team grp n : Nat) : State := s.updGroup team grp (fun g => g.setCount (g.count + 8 * n))

/-- GROW (R53): it waits while its request, or an earlier one on the core, is not grantable. -/
def execGrow (w : Word) (s : State) : Host.Outcome State Fault Refusal :=
  let n := w.fspec.toNat
  issue (.grow w) s {
    check := fun cx _ s => if 256 < cx.g.count + 8 * n || (s.core cx.core).pbReg * 65536 < 8 * n * cx.W * 4 then some { cause := 0x09 } else none
    own := true
    run := fun cx _ s =>
      if (cx.g.arm cx.c.arm).wait.status.isSome then cx.advance s
      else if (s.growWaits cx.core).isEmpty && s.grantable cx.g n then cx.advance (s.grant cx.c.team cx.c.grp n)
      else cx.stay { kind := .grow n s.nextId } { s with nextId := s.nextId + 1 } }

/-- GROW.TRY (R53): the resulting count, whether or not the request was granted. A request that waits on the core is not overtaken. -/
def execGrowTry (w : Word) (s : State) : Host.Outcome State Fault Refusal :=
  let n := w.fspec.toNat % 32
  issue (.growTry w) s {
    run := fun cx a s =>
      let ok := (s.growWaits cx.core).isEmpty && s.grantable cx.g n
      let s := if ok then s.grant cx.c.team cx.c.grp n else s
      cx.writeU a .u32 (BitVec.ofNat 64 (if ok then cx.g.count + 8 * n else cx.g.count)) s }

/-- SHRINK (R54, R55): it waits for results still to land in the registers it removes. -/
def execShrink (w : Word) (s : State) : Host.Outcome State Fault Refusal :=
  let n := w.fspec.toNat
  issue (.shrink w) s {
    hold := fun cx s => (s.marksOf cx.c.team cx.c.grp).any (fun m => m.v.any (fun r => decide (cx.g.count - 8 * n ≤ r)))
    check := fun cx _ _ =>
      if cx.g.count < 8 * n + 8 || (cx.g.trapVec.getLsbD 0 && decide (cx.g.count - 8 * n < 8 * cx.g.hVregs)) then some { cause := 0x09 } else none
    run := fun cx _ s => s.updGroup cx.c.team cx.c.grp (fun g => g.setCount (g.count - 8 * n)) }

/-- GROW_GRANT (R52): the oldest waiting request of a core, once it is grantable. -/
def execGrowGrant (core : Nat) (s : State) : Host.Outcome State Fault Refusal :=
  match s.oldest (s.growWaits core) with
  | none => .next s
  | some (c, n, _) =>
    match s.group c.team c.grp with
    | none => .next s
    | some g => if !s.stopped && s.grantable g n then .next ((s.grant c.team c.grp n).wake c 1) else .next s

end Sys2Proof.Machine
end

