-- ==== Sys2Proof/Machine/Sys.lean ====
section
/-! DEFINITION. Major SYS: system registers, TLBINV, RACE.CLR and the performance counters (R57, R58, R77, R84-R86, R146, R392-R398, R404-R407, R443, R444, R452, R459-R462, R486). -/

namespace Sys2Proof.Machine

/-! ### System registers (R394, R395) -/

/-- CAUSE (R405). -/
def Group.cause (g : Group) : Nat := b2n g.hmode * 2 ^ 63 + b2n g.exited * 2 ^ 62 + b2n g.causeArm * 2 ^ 61 + g.codes.toNat * 2 + b2n g.ovf

/-- A field of the front that the issuing group is bound to: FRMEM, FRSLIP or FRPAT; 0 when it is bound to none (R77). -/
def State.frontReg (s : State) (g : Group) (n : Nat) : Nat :=
  match s.frontOf g with
  | some (pa, _) => (match s.frontAt pa with | some e => if n = 0x18 then e.mem.toNat else if n = 0x19 then e.slip else e.pat | none => 0)
  | none => 0

/-- The value of a system register for the issuing slot (R395). -/
def State.sysVal (s : State) (cx : Cx) (n : Nat) : W64 :=
  let c := s.core cx.core
  let t := s.tenant cx.tenant
  let g := cx.g
  match n with
  | 0x00 => BitVec.ofNat 64 c.pbReg
  | 0x01 => BitVec.ofNat 64 c.pbScr
  | 0x02 => BitVec.ofNat 64 c.pbPin
  | 0x08 => g.ctxBase
  | 0x09 => g.privBase
  | 0x0A => g.privLim
  | 0x0B => g.divLim
  | 0x10 => g.trapVec
  | 0x11 => BitVec.ofNat 64 g.cause
  | 0x12 => g.tpc
  | 0x13 => g.skid
  | 0x18 | 0x19 | 0x1A => BitVec.ofNat 64 (s.frontReg g n)
  | 0x30 => t.kvtBase
  | 0x31 => t.kvtSize
  | 0x32 => t.pfxBase
  | 0x38 => t.raceCfg
  | 0x39 => t.debugCfg
  | _ => s.hashm.getD (n - 0x20) 0

/-- SYSR (R394). -/
def execSysr (w : Word) (s : State) : Host.Outcome State Fault Refusal :=
  issue (.sysr w) s { run := fun cx a s => cx.writeU a .u64 (s.sysVal cx w.fspec.toNat) s }

/-! ### Hash masks (R84-R86) -/

/-- The pivot bit of a mask (R84). -/
def pivot (i : Nat) : Nat := if i < 4 then 36 + i else if i < 9 then 4 + i else if i = 9 then 7 else if i < 14 then 3 + i else i - 7

/-- The pivot bits of the masks of the same tier. -/
def pivots (i : Nat) : List Nat := if i < 14 then (List.range 14).map pivot else [7, 8]

/-- A mask value that R85 allows. -/
def maskOk (i : Nat) (x : W64) : Bool := x.getLsbD (pivot i) && ((pivots i).all (fun p => p == pivot i || !x.getLsbD p)) && fld x.toNat 6 0 == 0

/-- Where the contents of an address go when mask i changes by `d`: its pivot bit flips when the parity that the mask gives changes, so that the line stays at its location (R86). -/
def remap (i d a : Nat) : Nat :=
  let lp := decide (14 ≤ i)
  if (if lp then isLp a else isHbm a) && parity ((if lp then a - 2 ^ 40 else a % 2 ^ 40) &&& d) then a ^^^ 2 ^ pivot i else a

/-- Mask i written: no data is moved, so the contents of its tier are permuted among the physical addresses (R86). -/
def State.setMaskReg (s : State) (i : Nat) (x : W64) : State :=
  let v := x &&& BitVec.ofNat 64 (2 ^ 52 - 1)
  let d := ((s.hashm.getD i 0) ^^^ v).toNat
  { s with hashm := updAt s.hashm i (fun _ => v), mem := s.mem.foldl (fun m p => m.set (remap i d p.1) p.2) [],
           memPoison := s.memPoison.map (fun l => remap i d (l * 128) / 128) }

/-! ### Boundary registers (R57, R58) -/

/-- The boundary values of a core with the writes that it holds. -/
def Core.bounds (c : Core) : Nat × Nat × Nat :=
  c.held.foldl (fun b h => if h.1 = 0 then (h.2, b.2) else if h.1 = 1 then (b.1, h.2, b.2.2) else (b.1, b.2.1, h.2)) (c.pbReg, c.pbScr, c.pbPin)

/-- Boundary values inside the ranges of R57. -/
def boundsOk (b : Nat × Nat × Nat) : Bool := decide (1 ≤ b.1) && decide (b.1 ≤ b.2.1) && decide (b.2.1 ≤ 88) && decide (b.2.2 ≤ 89 - b.2.1)

/-- A boundary register written. -/
def withBound (b : Nat × Nat × Nat) (n v : Nat) : Nat × Nat × Nat := if n = 0 then (v, b.2) else if n = 1 then (b.1, v, b.2.2) else (b.1, b.2.1, v)

/-! ### SYSW -/

/-- Values that a SYSW refuses at rank 8 (R444). -/
def Cx.syswBad (cx : Cx) (n : Nat) (x : W64) (s : State) : Bool :=
  if n ≤ 2 then !boundsOk (withBound (s.core cx.core).bounds n (x.toNat % 128))
  else if 0x18 ≤ n && n ≤ 0x1A then (s.frontOf cx.g).isNone
  else if 0x20 ≤ n && n ≤ 0x2F then !maskOk (n - 0x20) x
  else false

/-- A value with only the bits of a mask. -/
def keep (x : W64) (m : Nat) : W64 := x &&& BitVec.ofNat 64 m

/-- Bits hi:lo of a mask. -/
def bits (hi lo : Nat) : Nat := (2 ^ (hi + 1 - lo) - 1) * 2 ^ lo

/-- A write of CAUSE: W1C (R405). -/
def Group.clearCause (g : Group) (x : W64) : Group :=
  let m : BitVec 60 := BitVec.ofNat 60 (x.toNat / 2)
  { g with codes := g.codes &&& ~~~m, ovf := g.ovf && !x.getLsbD 0, pend := g.pend.filter (fun t => !m.getLsbD (t.cause - 1)) }

/-- A write of a front's field at its home slice (R77): FRMEM only removes members, as an ejection does; FRSLIP and FRPAT take the value, in the record too, and members in lull are evaluated. -/
def State.setFront (s : State) (pa n : Nat) (x : W64) : State :=
  match s.frontAt pa with
  | none => s
  | some e =>
    if n = 0x18 then ((lanesOf e.mem).filter (fun k => !x.getLsbD k)).foldl (fun s k => s.frontEject pa k) s
    else if n = 0x19 then ((s.poke (pa + 4) 2 x.toNat).updFront pa (fun e => { e with slip := x.toNat % 2 ^ 16 })).evalFront pa (e.minOf e.mem)
    else ((s.poke (pa + 8) 4 x.toNat).updFront pa (fun e => { e with pat := x.toNat % 2 ^ 32 })).evalFront pa (e.minOf e.mem)

/-- EPOCHTL, or 0 (R459). -/
def epochVa (x : W64) : Nat := x.toNat % 2 ^ 56 / 8 * 8

/-- RACECFG written: the epoch ends, and the timeline's address is kept as translated now (R459, R460). -/
def State.setRace (s : State) (cx : Cx) (x : W64) : State :=
  let va := epochVa x
  let s := if va = 0 then s else s.fills cx.core cx.tenant [⟨0, va, 8⟩]
  (s.endEpoch cx.tenant).updTenant cx.tenant (fun t =>
    { t with raceCfg := keep x (bits 55 3 + 3), raceEpoch := if va = 0 then none else some (s.phys cx.core cx.tenant va) })

/-- A system register written (R394, R395): the bits that its table makes writable. -/
def State.sysWrite (s : State) (cx : Cx) (n : Nat) (x : W64) : State :=
  let g (f : Group → Group) : State := s.updGroup cx.c.team cx.c.grp f
  let t (f : Tenant → Tenant) : State := s.updTenant cx.tenant f
  match n with
  | 0x00 | 0x01 | 0x02 => s.updCore cx.core (fun c => { c with held := c.held ++ [(n, x.toNat % 128)] })
  | 0x08 => g (fun g => { g with ctxBase := keep x (bits 55 10) })
  | 0x09 => g (fun g => { g with privBase := keep x (bits 55 7) })
  | 0x0A => g (fun g => { g with privLim := keep x (bits 19 0) })
  | 0x0B => g (fun g => { g with divLim := keep x (bits 7 0) })
  | 0x10 => g (fun g => { g with trapVec := keep x (bits 55 6 + 1) })
  | 0x11 => (g (fun g => g.clearCause x)).commands
  | 0x12 => g (fun g => { g with tpc := keep x (bits 55 6 + 3) })
  | 0x13 => g (fun g => { g with skid := keep x (bits 55 32 + bits 25 19 + bits 15 10) })
  | 0x18 | 0x19 | 0x1A => (match s.frontOf cx.g with | some (pa, _) => s.setFront pa n x | none => s)
  | 0x30 => t (fun t => { t with kvtBase := keep x (bits 55 8) })
  | 0x31 => t (fun t => { t with kvtSize := keep x (bits 47 32 + bits 18 16 + bits 11 8 + bits 4 0) })
  | 0x32 => t (fun t => { t with pfxBase := keep x (bits 55 8 + bits 4 0) })
  | 0x38 => s.setRace cx x
  | 0x39 => t (fun t => { t with debugCfg := keep x 3 })
  | _ => s.setMaskReg (n - 0x20) x

/-- SYSW (R394, R444): EPOCHTL is translated at issue (R459). -/
def execSysw (w : Word) (s : State) : Host.Outcome State Fault Refusal :=
  let n := w.fspec.toNat
  issue (.sysw w) s {
    check := fun cx a s => if cx.syswBad n (cx.srcU a w.a .u64) s then some { cause := 0x03 } else none
    check2 := fun cx a s =>
      let va := epochVa (cx.srcU a w.a .u64)
      if n = 0x38 && va != 0 then s.rank11 cx [⟨0, va, 8⟩] { priv := true } else none
    run := fun cx a s => s.sysWrite cx n (cx.srcU a w.a .u64) }

/-! ### TLBINV and RACE.CLR (R443, R462, R486) -/

/-- A translation of a tenant that covers a byte of a range, which an empty range has none of; with no range, any of its translations. -/
def TlbEntry.hits (e : TlbEntry) (tenant : Nat) (r : Option (Nat × Nat)) : Bool :=
  e.tenant == tenant && (match r with | none => true | some (a, n) => decide (0 < n) && decide (e.va < a + n) && decide (a < e.va + e.size))

/-- Translations removed from the TLBs that a scope names. -/
def State.tlbInv (s : State) (team tenant scope : Nat) (r : Option (Nat × Nat)) : State :=
  let drop (c : Core) : Core := { c with tlb := c.tlb.filter (fun e => !e.hits tenant r) }
  let mine : List Nat := match s.team team with | some t => t.cores | none => []
  { s with cores := s.cores.map (fun c => if scope = 2 || mine.contains c.num then drop c else c),
           agentTlb := if scope = 2 then s.agentTlb.filter (fun p => !p.2.hits tenant r) else s.agentTlb }

/-- TLBINV (R443). -/
def execTlbinv (w : Word) (s : State) : Host.Outcome State Fault Refusal :=
  let range (cx : Cx) (a : Nat) : Option (Nat × Nat) := if w.a = .z then none else some ((cx.srcU a w.a .u64).toNat, (cx.srcU a w.b .u32).toNat % 2 ^ 32)
  issue (.tlbinv w) s {
    check := fun cx a s =>
      if (w.a == .z) != (w.b == .z) then some { cause := 0x03 }
      else match range cx a with | some r => s.rank10 cx [(⟨0, r.1, 0⟩, 1)] [] false | none => none
    run := fun cx a s => s.tlbInv cx.c.team cx.tenant w.scope.toNat (range cx a) }

/-- RACE.CLR (R460, R462). -/
def execRaceClr (w : Word) (s : State) : Host.Outcome State Fault Refusal :=
  issue (.raceClr w) s { run := fun cx _ s => s.endEpoch cx.tenant }

/-! ### PERF.RD (R396-R398) -/

/-- The first counter of a bank, and its size. -/
def perfBank (f : Nat) : Nat × Nat := if f = 1 then (0, 1024) else if f = 2 then (1024, 4) else (2048, 192)

/-- PERF.RD: it waits for the loads and atomics that its context issued before it. -/
def execPerfRd (w : Word) (s : State) : Host.Outcome State Fault Refusal :=
  let vec := isVector (Instr.perfRd w).form (headR w)
  let b := perfBank w.fspec.toNat
  let idx (cx : Cx) (a L : Nat) : Nat := (cx.srcAny vec a w.a .u32 L).toNat % 2 ^ 32
  let val (cx : Cx) (i : Nat) : W64 := BitVec.ofNat 64 (((s.tenant cx.tenant).perf.get (b.1 + i)).toNat % 2 ^ w.ty.bits)
  issue (.perfRd w) s { anyDst w.ty vec (fun cx L => val cx (idx cx 0 L)) (fun cx a => val cx (idx cx a 0)) with
    hold := fun cx s => s.asyncs.any (fun x => x.tag.team == cx.c.team && x.tag.grp == cx.c.grp && (!cx.g.split || x.tag.arm == armSel cx.c))
    check := fun cx a _ => ((cx.lanes vec).find? (fun L => decide (b.2 ≤ idx cx a L))).map (fun L => { cause := 0x03, lane := L }) }

end Sys2Proof.Machine
end

