-- ==== Sys2Proof/Machine/Home.lean ====
section
/-! DEFINITION. Events of the home slices and of results on their way: line requests, merged replies, atomics and slice operations, acknowledgements, and asynchronous results landing (R70-R76, R99, R164, R184, R185, R349, R397, R451, R453, R455, R457, R461, R479). -/

namespace Sys2Proof.Machine

/-! ### Asynchronous results (R184, R185) -/

/-- Element i of a part's bytes. -/
def Part.elem (p : Part) (t : Ty) (i : Nat) : W64 := BitVec.ofNat 64 (p.data.toNat / 2 ^ (8 * t.bytes * i) % 2 ^ t.bits)

/-- One lane's registers written; poisoned bytes poison every word written from them (R457). -/
def Group.landV (g : Group) (t : Ty) (p : Part) : Group :=
  (List.range (p.regs.length / t.regs)).foldl (fun g i =>
    let r := p.regs.getD (i * t.regs) 0
    let g := if t.is64 then (g.vput r p.lane (loOf (p.elem t i))).vput (p.regs.getD (i * 2 + 1) 0) p.lane (hiOf (p.elem t i)) else g.vput r p.lane (loOf (t.extend (p.elem t i)))
    if p.poison then (List.range t.regs).foldl (fun g j => let r := p.regs.getD (i * t.regs + j) 0; if p.clean.contains r then g else g.vpoison r p.lane) g else g) g

/-- An arm's copies of uniform registers written. -/
def Group.landU (g : Group) (t : Ty) (sel : Nat) (p : Part) : Group :=
  (List.range (p.regs.length / t.regs)).foldl (fun g i =>
    let r := p.regs.getD (i * t.regs) 0
    let g := g.swrite t sel r (p.elem t i)
    if p.poison then { g with spo := g.spo ++ ((List.range t.regs).filter (fun j => !p.clean.contains (r + j))).map (fun j => ukey sel (r + j)) } else g) g

/-- The set bits that come before the end of a part, and the place of the one sought, counted from `base`. -/
def seekBit (bits data base want : Nat) : Nat × Option Nat :=
  (List.range bits).foldl (fun a i => if data.testBit i then (a.1 + 1, if a.1 = want && a.2.isNone then some (base + i) else a.2) else a) (0, none)

/-- The bitmap of a lane as its parts supply it: bits seen, set bits, and the place of the set bit of rank `want` (R164). -/
def seekParts (want : Nat) (l : List Part) : Nat × Nat × Option Nat :=
  l.foldl (fun a p =>
    let k := seekBit p.bits p.data.toNat a.1 (want - a.2.1)
    (a.1 + p.bits, a.2.1 + k.1, if a.2.2.isSome || decide (want < a.2.1) then a.2.2 else k.2)) (0, 0, none)

/-- The results that the parts of a record make: themselves, or one for each lane of a bitmap instruction (R349). -/
def Async.results (x : Async) : List Part :=
  match x.gather with
  | .value => x.parts
  | g =>
    (x.parts.filter (fun p => p.n == 0)).map (fun h =>
      let l := x.parts.filter (fun p => p.lane == h.lane && p.n != 0)
      let k := seekParts h.arg l
      let v := match g with | .select => (match k.2.2 with | some i => i | none => 0xFFFFFFFF) | _ => k.2.1
      { h with data := BitVec.ofNat 512 v, poison := l.any (fun p => p.poison) })

/-- A group `h` with the banked registers and predicates that it had as `g` (R34). -/
def Group.keepBank (g h : Group) : Group :=
  { h with s := h.s.filter (fun p => decide (p.1 < 96)) ++ g.s.filter (fun p => decide (96 ≤ p.1)), q := BitVec.ofNat 7 (h.q.toNat % 16 + g.q.toNat / 16 * 16),
           spo := h.spo.filter (fun k => decide (k < 96)) ++ g.spo.filter (fun k => decide (96 ≤ k)),
           futs := h.futs.filter (fun f => decide (f.1 < 96)) ++ g.futs.filter (fun f => decide (96 ≤ f.1)) }

/-- Results of a uniform instruction written for an arm. -/
def Async.landArm (x : Async) (a : Nat) (g : Group) : Group :=
  x.results.foldl (fun g p =>
    let g := if p.skip then g else g.landU x.ty a p
    match x.pd with | some i => g.qput a i p.pred | none => g) g

/-- The registers and predicates that a record writes in its group. -/
def Async.land (x : Async) (g : Group) : Group :=
  let pred (g : Group) (p : Part) : Group := match x.pd with | some i => g.pput i p.lane p.pred | none => g
  match x.dest with
  | .vec => x.results.foldl (fun g p => pred (if p.skip then g else g.landV x.ty p) p) g
  | .uni a => x.landArm a g
  | .dead => g.keepBank (x.landArm 0 g)
  | .none => g

/-- The context that waits at its slot for a record. -/
def State.asker (s : State) (x : Async) : Option CtxId :=
  match s.group x.tag.team x.tag.grp with
  | none => none
  | some g =>
    ([0, 1, 2, 3].find? (fun a => (g.arm a).live && (g.arm a).wait.kind == .slice && (g.arm a).wait.status.isNone && (g.arm a).wait.asy.contains x.id)).map
      (fun a => { team := x.tag.team, grp := x.tag.grp, arm := a })

/-- A record whose every part is there: its context is woken, or its results are written and its acquire is made (R96, R184, R185). -/
def State.landAsync (s : State) (x : Async) : State :=
  if x.blk.isSome then
    (match s.asker x with
     | some c => s.wake c 1
     | none =>
       let waits : Bool := match s.group x.tag.team x.tag.grp with
         | some g => [0, 1, 2, 3].any (fun a => (g.arm a).live && (g.arm a).wait.kind == .slice && (g.arm a).wait.asy.contains x.id)
         | none => false
       if waits then s else { s with asyncs := s.asyncs.filter (fun y => y.id != x.id) })
  else
    let s := { s with asyncs := s.asyncs.filter (fun y => y.id != x.id) }
    let s := s.updGroup x.tag.team x.tag.grp (fun g => if g.retired then g else x.land g)
    match x.acq, s.team x.tag.team with
    | some sc, some t => if !x.hit || x.parts.any (fun p => p.pred) then s.acquire x.core t sc else s
    | _, _ => s

/-- Two uniform results write one shared register or predicate. -/
def Async.meets (x y : Async) : Bool :=
  let shared (z : Async) : List Nat := (z.parts.flatMap (fun p => p.regs)).filter (fun r => decide (r < 96))
  match x.dest, y.dest with
  | .uni _, .uni _ => (shared x).any (fun r => (shared y).contains r) || (match x.pd, y.pd with | some i, some j => i == j && decide (i < 4) | _, _ => false)
  | _, _ => false

/-- An earlier result of the group is still to land in a shared register that a record writes: of the two executions of R45 arm 0's lands first, so that what arm 1's writes remains. -/
def State.landsAfter (s : State) (x : Async) : Bool := s.asyncs.any (fun y => decide (y.id < x.id) && y.tag.team == x.tag.team && y.tag.grp == x.tag.grp && x.meets y)

/-- ASYNC_WRITE_LANDS (R185). -/
def execAsyncWriteLands (id : Nat) (s : State) : Host.Outcome State Fault Refusal :=
  match s.asyncs.find? (fun x => x.id == id) with
  | none => .next s
  | some x => if s.stopped || x.parts.any (fun p => !p.done && !p.skip) || s.landsAfter x then .next s else .next (s.landAsync x)

/-! ### Line requests (R74-R76) -/

/-- An operation on a tenant's table (R342). -/
def ReqKind.table : ReqKind → Bool
  | .op (.kvLookup _) | .op (.kvAlloc _) | .op (.kvFree _) => true
  | _ => false

/-- Two lanes of one table instruction: they reach the table in lane order, whichever lines they go to (R342). -/
def Req.lanesOf (x y : Req) : Bool := x.kind.table && (match x.async, y.async with | some (i, _), some (j, _) => i == j | _, _ => false)

/-- Earlier requests of the same core for the line, or of earlier lanes of the same table instruction, are still on their way. -/
def State.behind (s : State) (r : Req) : Bool := (s.reqs.takeWhile (fun x => x.id != r.id)).any (fun x => (x.core == r.core && x.line == r.line) || x.lanesOf r)

/-- A write of the line has been started and not acknowledged, so later requests wait (R74). -/
def State.lineBusy (s : State) (line : Nat) : Bool := s.acks.any (fun a => a.line == line)

/-- Lines of a slice for which a tenant holds merge-table entries. -/
def State.entries (s : State) (tenant slice : Nat) : List Nat :=
  ((s.merges.filter (fun m => m.tenant == tenant && m.line % 192 == slice)).map (fun m => m.line)
    ++ (s.acks.filter (fun a => a.tenant == tenant && a.line % 192 == slice)).map (fun a => a.line)).eraseDups

/-- The line has an entry of the tenant, or the tenant's quota has room for one (R75). Only the quotas bound a table: with quotas whose sum is above 512, against R12 and R75's duty of the host, a slice holds as many entries as they allow (DESIGN CHOICE, log 124). -/
def State.quotaOk (s : State) (tenant line : Nat) : Bool :=
  let l := s.entries tenant (line % 192)
  l.contains line || decide (l.length < (s.tenant tenant).quota)

/-- A slice can take a request now. -/
def State.takes (s : State) (r : Req) : Bool := !s.stopped && s.ownsSlot r.tenant && !s.behind r && !s.lineBusy r.line && s.quotaOk r.tenant r.line

/-- A request leaves the queue. -/
def State.dropReq (s : State) (id : Nat) : State := { s with reqs := s.reqs.filter (fun x => x.id != id) }

/-- A line as a slice reads it for a core: host memory reads poisoned while Eweov is down (R65, R457, R479). -/
def State.lineRead (s : State) (line : Nat) : BitVec 1024 × Bool :=
  if isHost (line * 128) && !s.eweovUp then (0, true) else s.seeLine line

/-- A read at its slice: it joins an outstanding read of its tenant, or starts an access (R74, R75, R397). -/
def State.readReq (s : State) (r : Req) : State :=
  let s := s.mixedAll r.tag r.line r.strong
  match s.merges.find? (fun m => m.line == r.line && m.tenant == r.tenant && !m.closed) with
  | some m => { (s.perfBump r.tenant (2048 + r.line % 192)) with merges := updWhere (fun x => x.id == m.id) (fun x => { x with joined := x.joined ++ [r] }) s.merges }
  | none =>
    let v := s.lineRead r.line
    let s := s.perfLine r.tenant r.line
    { s with merges := s.merges ++ [{ id := s.nextId, line := r.line, tenant := r.tenant, data := v.1, poison := v.2, joined := [r] }], nextId := s.nextId + 1 }

/-- A write of dirty bytes at its slice: later reads make their own access, and its acknowledgement is on its way (R74, R103, R397, R451, R461, R479). -/
def State.writeReq (s : State) (r : Req) (data : BitVec 1024) (mask : BitVec 128) (poison : BitVec 32) : State :=
  let m := s.clash r.tag r.line r.strong
  let s := ((s.mixedAll r.tag r.line r.strong).raceWrite r.tag r.line).perfLine r.tenant r.line
  let (s, x) := s.blur r.line m false
  let a : Ack := { id := r.id, core := r.core, tenant := r.tenant, line := r.line, data := mergeBytes m data x, mask := mask, poison := poison, tag := r.tag,
                   failed := if isHost (r.line * 128) && !s.eweovUp then 3 else 0, strong := r.strong }
  { s with acks := s.acks ++ [a], merges := updWhere (fun m => m.line == r.line) (fun m => { m with closed := true }) s.merges }

/-- HOME_SLICE_REQUEST (R74). -/
def execHomeSliceRequest (id : Nat) (s : State) : Host.Outcome State Fault Refusal :=
  match s.reqs.find? (fun r => r.id == id) with
  | none => .next s
  | some r =>
    if !s.takes r then .next s
    else
      match r.kind with
      | .read => .next ((s.dropReq id).readReq r)
      | .write d m p => .next ((s.dropReq id).writeReq r d m p)
      | .op _ => .next s

/-- MERGED_READ_REPLY (R74): one reply fills the line and the waiting lanes of every requester that joined. -/
def execMergedReadReply (id : Nat) (s : State) : Host.Outcome State Fault Refusal :=
  match s.merges.find? (fun m => m.id == id) with
  | none => .next s
  | some m =>
    if s.stopped then .next s
    else
      let give (s : State) (r : Req) : State :=
        let s := s.fillLine r m.data m.poison
        match r.async with
        | some (a, _) => { s with asyncs := updWhere (fun x => x.id == a) (fun x => { x with parts := x.parts.map (fun p => p.fill m.line m.data m.poison) }) s.asyncs }
        | none => s
      .next (m.joined.foldl give { s with merges := s.merges.filter (fun x => x.id != id) })

/-- A slice operation performed; none while it must wait at its slice (R303). -/
def State.sliceOp (s : State) (r : Req) (o : SliceOp) : Option State :=
  match o with
  | .atom _ _ _ _ _ | .binc _ _ _ | .xadd _ _ _ | .xfold _ _ _ | .xclr _ | .orBit _ _ => some (s.atomOp r o)
  | .tlSignal _ _ | .tlWait _ _ _ => some (s.tlOp r o)
  | .tqInit _ _ _ _ | .tqPush _ _ _ _ | .tqPop _ _ _ => some (s.tqOp r o)
  | .frontJoin _ _ _ | .frontLeave _ _ | .frontStep _ _ _ | .frontStat _ _ _ => s.frontOp r o
  | .kvLookup _ | .kvAlloc _ | .kvFree _ | .pfxLookup _ _ | .pfxInsert _ _ _ | .exitPush _ _ _ => some (s.kvOp r o)

/-- HOME_SLICE_ATOMIC (R99, R103): in arrival order, and the issuing core's clean copy of the line goes when it returns. -/
def execHomeSliceAtomic (id : Nat) (s : State) : Host.Outcome State Fault Refusal :=
  match s.reqs.find? (fun r => r.id == id) with
  | none => .next s
  | some r =>
    match r.kind with
    | .op o =>
      if !s.takes r then .next s
      else
        let m := s.clash r.tag r.line r.strong
        match (((s.dropReq id).mixedAll r.tag r.line r.strong).perfLine r.tenant r.line).sliceOp r o with
        | none => .next s
        | some s => .next ((s.blur r.line m true).1.dropClean r.core [r.line])
    | _ => .next s

/-! ### Acknowledgements (R72, R451) -/

/-- The bytes of a write reach memory, with the poison that their words carry (R455). -/
def State.applyAck (s : State) (a : Ack) : State :=
  let s := s.pokeMask (a.line * 128) 128 a.mask.toNat a.data.toNat
  if a.poison = 0 || s.memPoison.contains a.line then s else { s with memPoison := s.memPoison ++ [a.line] }

/-- The core's dirty bits of the bytes written are cleared, but for bytes stored again since. -/
def State.clearAck (s : State) (a : Ack) : State :=
  { s.updCore a.core (fun c => c.updLine a.line (fun l =>
      let m := ((l.wb.find? (fun p => p.1 == a.id)).map (fun p => p.2)).getD 0
      { l with dirty := l.dirty &&& ~~~m, wb := l.wb.filter (fun p => p.1 != a.id) })) with acks := s.acks.filter (fun x => x.id != a.id) }

/-- WRITEBACK_ACK (R451): 0 performed; 1 a channel failure; 2 the host refused a write to its range. A write that met a link that is down fails with 3. -/
def execWritebackAck (id result : Nat) (s : State) : Host.Outcome State Fault Refusal :=
  match s.acks.find? (fun a => a.id == id) with
  | none => .next s
  | some a =>
    if s.stopped || (a.failed == 0 && (decide (2 < result) || (result == 2 && !isHost (a.line * 128)))) then .next s
    else
      let r := if a.failed ≠ 0 then a.failed else result
      let s := if r = 0 then s.applyAck a else s.imprecise a.tag 0x15 0 r (BitVec.ofNat 64 (a.line * 128 + 2 ^ 63)) 0
      .next (s.clearAck a)

end Sys2Proof.Machine
end

