-- ==== Sys2Proof/Machine/Launch.lean ====
section
/-! DEFINITION. From launch to dispatch and back: launch records and their checks, launch queues, tags, candidates and the room they need, placing teams, retiring them, completing launches, continuations, backfill tasks, boundary registers and due contexts (R24-R27, R58, R60, R67, R161, R229, R311, R351-R362, R364, R404, R423, R469, R486, R489). -/

namespace Sys2Proof.Machine

/-! ### The launch record (R351-R353) -/

/-- VREGS. -/
def Launch.vregs (l : Launch) : Nat := l.f 703 696
/-- UREGS. -/
def Launch.uregs (l : Launch) : Nat := l.f 711 704
/-- PBREG. -/
def Launch.pbReg (l : Launch) : Nat := l.f 679 672
/-- PBSCR. -/
def Launch.pbScr (l : Launch) : Nat := l.f 687 680
/-- PBPIN. -/
def Launch.pbPin (l : Launch) : Nat := l.f 695 688
/-- SCRATCH. -/
def Launch.scratch (l : Launch) : Nat := l.f 607 576
/-- RTSCR. -/
def Launch.rtscr (l : Launch) : Nat := l.f 791 768
/-- CORES. -/
def Launch.together (l : Launch) : Bool := l.f 745 745 == 1
/-- Teams of the grid. -/
def Launch.grid (l : Launch) : Nat := l.gx * l.gy * l.gz
/-- Scratchpad bytes of a team (R66, R67). -/
def Launch.scrBytes (l : Launch) : Nat := if l.rtscr = 0 then l.scratch else l.rtscr * 128
/-- Bytes of a group's private area (R353). -/
def Launch.privBytes (l : Launch) : Nat := (l.f 659 640 * l.width * 4 + 2 * l.f 671 664 * 16 + 127) / 128 * 128
/-- The cores of a team that stands at a core (R24). -/
def Launch.coresAt (l : Launch) (core : Nat) : List Nat := if l.pair then [core, core + 1] else [core]

/-- What a team takes on one core: group slots, register bytes, scratchpad bytes and pinned lines. -/
structure Take where
  slots : Nat
  regs : Nat
  scr : Nat
  pins : Nat
deriving DecidableEq, Repr

/-- What a team takes on its core, or on its follower (R24, R25, R67, R360). -/
def Launch.take (l : Launch) (second : Bool) : Take :=
  let n := if !l.pair then (if second then 0 else l.gpt) else if second then l.gpt / 2 else (l.gpt + 1) / 2
  { slots := n, regs := n * l.vregs * 8 * l.width * 4, scr := if l.pair then l.scratch / 2 else l.scratch, pins := if second then 0 else l.rtscr }

/-- Lines that may be pinned under a record's boundary values (R67). -/
def Launch.pinRoom (l : Launch) : Nat := Nat.min (l.pbPin * 512) (480 * (90 - l.pbScr))

/-- A record that R362 calls malformed: the tenant whose queue it was popped from or whose arm table fired it is given, and the class of the queue. -/
def Launch.malformed (l : Launch) (tenant cls : Option Nat) : Bool :=
  let addrBad (hi al : Nat) : Bool := l.f hi (hi - 63) % al != 0 || l.f hi (hi - 7) != 0
  [(2047, 896), (831, 792), (767, 747), (743, 740), (735, 735), (727, 722), (663, 660)].any (fun p => l.f p.1 p.2 != 0)
    || !(l.width == 16 || l.width == 32 || l.width == 64) || l.gpt == 0 || decide (64 < l.gpt) || l.vregs == 0 || decide (32 < l.vregs)
    || decide (96 < l.uregs) || l.uregs % 16 != 0
    || l.pbReg == 0 || decide (88 < l.pbReg) || decide (l.pbScr < l.pbReg) || decide (88 < l.pbScr) || decide (89 - l.pbScr < l.pbPin)
    || l.scratch % (if l.pair then 131072 else 65536) != 0 || l.f 639 608 % 8 != 0
    || l.gx == 0 || l.gy == 0 || l.gz == 0 || decide (2 ^ 32 ≤ l.grid)
    || (l.task && (l.gpt != 1 || decide (l.uregs < 16) || (l.scratch != 0 && l.rtscr != 0))) || (!l.task && l.rtscr != 0)
    || addrBad 63 64 || addrBad 255 1024 || addrBad 319 128 || addrBad 895 4096
    || (match tenant with | some t => l.f 739 736 != t | .none => false) || (match cls with | some c => l.prio != c | .none => false)

/-- No core of an empty module could hold one team (R362). -/
def Launch.noCore (l : Launch) : Bool :=
  [false, true].any (fun b => let k := l.take b; decide (l.pbReg * 65536 < k.regs) || decide ((l.pbScr - l.pbReg) * 65536 < k.scr)) || decide (l.pinRoom < l.rtscr)

/-- How many times a need goes into what is free. -/
def timesIn (free need : Nat) : Nat := if need = 0 then 2 ^ 32 else free / need

/-- Teams that one core, as the leader or the follower, of an empty module holds. -/
def Launch.perCore (l : Launch) (second : Bool) : Nat :=
  let k := l.take second
  Nat.min (Nat.min (timesIn 256 k.slots) (timesIn (l.pbReg * 65536) k.regs)) (Nat.min (timesIn ((l.pbScr - l.pbReg) * 65536) k.scr) (timesIn l.pinRoom k.pins))

/-- Teams that an empty module holds (R361). -/
def Launch.capacity (l : Launch) : Nat := if l.pair then 384 * Nat.min (l.perCore false) (l.perCore true) else 768 * l.perCore false

/-- A tenant has no share of the home slices (R362, R377). -/
def State.noShare (s : State) (tenant : Nat) : Bool :=
  (s.tenant tenant).quota == 0 || !(List.range 64).any (fun i => s.ctl.read (64 + i) 1 == tenant)

/-- ENTRY and VREGS of the record's handler descriptor; zero when it names none, none when it is malformed, too large or unreadable (R214, R404). -/
def State.handlerOf (s : State) (tenant : Nat) (l : Launch) : Option (W64 × Nat) :=
  if l.f 127 64 = 0 then some (0, 0)
  else
    match s.vread (s.agentTr unitDispatch tenant { rd := true }) (l.f 127 64) 32 with
    | .error _ => none
    | .ok x => if fld x 191 72 ≠ 0 ∨ fld x 31 0 ≠ 0 ∨ l.vregs < fld x 71 64 then none else some (BitVec.ofNat 64 (fld x 255 192), fld x 71 64)

/-- TRAPVEC at dispatch (R404). -/
def Launch.trapVec (l : Launch) : W64 := if l.f 127 64 = 0 then 0 else (l.hEntry &&& BitVec.ofNat 64 (bits 55 6)) ||| 1

/-- The DETAIL of the first refusal that a tenant's record meets, in the order of R423; `source` is the tenant of the queue or arm table that supplied it (R362). -/
def State.refusal (s : State) (tenant : Nat) (source cls : Option Nat) (l : Launch) : Option Nat :=
  if l.malformed source cls then some 3
  else if l.noCore then some 4
  else if s.noShare tenant then some 5
  else if (s.handlerOf tenant l).isNone then some 2
  else if l.together && decide (l.capacity < l.grid) then some 1
  else none

/-- Translations that the dispatcher used for a range are kept (R83, R486). -/
def State.keepRange (s : State) (unit tenant va n : Nat) : State := (pieces va n).foldl (fun s p => s.keepAgent unit tenant p.1) s

/-- A launch record read by the dispatcher. -/
def State.readRecord (s : State) (tenant va : Nat) : Option (BitVec 4096) :=
  match s.vread (s.agentTr unitDispatch tenant { rd := true }) va 512 with | .ok x => some (BitVec.ofNat 4096 x) | .error _ => none

/-! ### Completion (R358, R423) -/

/-- The completion timeline of a launch signalled, or a kind-7 record (R358, R476, R479). -/
def State.signalDone (s : State) (l : Launch) : State :=
  let va := l.f 383 320
  let bad (cause detail : Nat) : State := s.pushErr { tenant := l.tenant, kind := 7, code := cause, detail := detail, info := BitVec.ofNat 64 va, launch := l.id }
  if va = 0 then s
  else
    match s.reachAgent unitDispatch l.tenant va { rd := true, w := true } with
    | .bad c d => bad c d
    | .ok e =>
      if s.poisonAt (e.at va) then bad 0x16 0
      else if isHost (e.at va) && !s.eweovUp then s
      else ((s.keepAgent unitDispatch l.tenant va).note (e.at va)).signalTl (e.at va) (l.f 447 384)

/-- A launch refused: its kind-3 record, and its completion at once; a record that could not be read names no timeline (R423, R489). -/
def State.refuse (s : State) (tenant : Nat) (va : W64) (detail : Nat) (l : Option Launch) : State :=
  let s := s.pushErr { tenant := tenant, kind := 3, detail := detail, info := va, launch := match l with | some l => l.id | none => 0 }
  match l with | some l => s.signalDone l | none => s

/-! ### Room (R52, R66, R67, R360, R361) -/

/-- Group slots taken on a core. -/
def State.slotsUsed (s : State) (core : Nat) : Nat :=
  (s.groups.filter (fun g => g.core == core && !g.retired && (match s.team g.team with | some t => t.place.held | none => false))).length

/-- Static scratchpad bytes taken on a core: also those of a retired team whose operations still use them (R229). -/
def State.scrUsed (s : State) (core : Nat) : Nat :=
  (s.teams.filter (fun t => (t.core == core || t.core2 == some core) && (t.place.held || t.place == .retired))).foldl (fun a t => a + ((s.launch t.launch).take false).scr) 0

/-- Some resident or placed team stands on a core (R58). -/
def State.occupied (s : State) (core : Nat) : Bool := s.teams.any (fun t => t.holds core)

/-- A core's boundary registers hold a record's values. -/
def Core.matches (c : Core) (l : Launch) : Bool := c.pbReg == l.pbReg && c.pbScr == l.pbScr && c.pbPin == l.pbPin

/-- Pins of a task fit on a core (R67): under the limit, and into ways of its sets that hold a clean or free line. -/
def Core.pinsFit (c : Core) (l : Launch) (n : Nat) : Bool :=
  let c' : Core := { c with pbReg := l.pbReg, pbScr := l.pbScr, pbPin := l.pbPin, lines := if c.matches l then c.lines else [] }
  n == 0 || (decide (c'.pinned + n ≤ l.pinRoom) && decide (n ≤ (c'.pinSets.map c'.pinSpace).foldl (· + ·) 0))

/-- What a team takes on a core fits there (R360). -/
def State.fitsCore (s : State) (l : Launch) (core : Nat) (k : Take) : Bool :=
  ((s.core core).matches l || !s.occupied core) && decide (s.slotsUsed core + k.slots ≤ 256) && decide (s.regUsed core + k.regs ≤ l.pbReg * 65536)
    && decide (s.scrUsed core + k.scr ≤ (l.pbScr - l.pbReg) * 65536) && (s.core core).pinsFit l k.pins

/-- A co-resident launch waits for all of its grid to fit. -/
def Launch.gathers (l : Launch) : Bool := l.together && l.next == 0 && decide (l.next < l.total)

/-- Capacity of a core that is free now: slots, register bytes, scratchpad bytes. -/
def State.freeOn (s : State) (core : Nat) : Nat × Nat × Nat :=
  (256 - s.slotsUsed core, s.regFree core, ((s.core core).pbScr - (s.core core).pbReg) * 65536 - s.scrUsed core)

/-- A take leaves alone what waiting co-resident launches keep, on a core that they could use and of what their teams use (R361); `me` is the launch itself. -/
def State.roomOk (s : State) (me : Option Nat) (cls core : Nat) (k : Take) : Bool :=
  (List.range s.launches.length).all (fun i =>
    let r := s.launch i
    if me == some i || !r.gathers || !r.head || decide (r.prio < cls) || !((s.core core).matches r || !s.occupied core) then true
    else
      match r.room.find? (fun p => p.1 == core) with
      | none => true
      | some p =>
        let f := s.freeOn core
        decide (k.slots ≤ Nat.min p.2.1 f.1) && decide (k.regs ≤ Nat.min p.2.2.1 f.2.1) && (r.scratch == 0 || decide (k.scr ≤ Nat.min p.2.2.2 f.2.2)))

/-- What was placed on a core is taken from what waiting co-resident launches left open; a core that was all open is noted as it stands after. -/
def State.consume (s : State) (core : Nat) (k : Take) : State :=
  let f := s.freeOn core
  let use (r : Launch) : Launch :=
    if !r.gathers || !r.head then r
    else if r.room.any (fun p => p.1 == core) then
      { r with room := r.room.map (fun p => if p.1 = core then (core, p.2.1 - k.slots, p.2.2.1 - k.regs, p.2.2.2 - k.scr) else p) }
    else { r with room := (core, f) :: r.room }
  { s with launches := s.launches.map use }

/-- A team of a launch fits at a core (R360, R361). -/
def State.fitsAt (s : State) (l : Launch) (me : Option Nat) (core : Nat) : Bool :=
  let cs := l.coresAt core
  (!l.pair || core % 2 == 0) && cs.all (fun c => decide (c < 768))
    && cs.all (fun c => s.fitsCore l c (l.take (c != core)) && s.roomOk me l.prio c (l.take (c != core)))

/-! ### Accepting a launch (R355-R357, R361, R362) -/

/-- Capacity left open to others when a co-resident launch reaches the head of its source: what is free now on each core that holds a team. -/
def State.roomNow (s : State) : List (Nat × Nat × Nat × Nat) :=
  (((s.teams.filter (fun t => t.place.held)).flatMap Team.cores).eraseDups).map (fun c => (c, s.freeOn c))

/-- An earlier fired launch of the same tenant waits (R359). -/
def State.behindFired (s : State) (i : Nat) : Bool :=
  let l := s.launch i
  l.supplier.isNone && l.next == 0 && (s.launches.take i).any (fun x => x.supplier.isNone && x.next == 0 && decide (x.next < x.total) && x.tenant == l.tenant)

/-- Co-resident launches that stand at the head of their source now and did not before: from now on they keep what is freed (R361). -/
def State.reachHeads (s : State) : State :=
  (List.range s.launches.length).foldl (fun s i =>
    let l := s.launch i
    if l.gathers && !l.head && !s.behindFired i then s.updLaunch i (fun l => { l with head := true, room := s.roomNow }) else s) s

/-- A launch record checked, and its launch refused or accepted (R362, R423). A fired launch brings its argument address. -/
def State.acceptRecord (s : State) (tenant : Nat) (va : W64) (cls : Option Nat) (sup : Option Supplier) (args : Option W64) : State :=
  match s.readRecord tenant va.toNat with
  | none => s.refuse tenant va 3 none
  | some x =>
    let s := s.keepRange unitDispatch tenant va.toNat 512
    let l : Launch := { recVa := va, hdr := x, tenant := tenant, args := 0 }
    match s.refusal tenant (some tenant) cls l with
    | some d => s.refuse tenant va d (some l)
    | none =>
      let h := (s.handlerOf tenant l).getD (0, 0)
      State.reachHeads
        { s with launches := s.launches ++ [{ l with args := args.getD (BitVec.ofNat 64 (l.f 191 128)), total := l.grid, supplier := sup, order := s.nextId,
                                                     hEntry := h.1, hVregs := h.2 }],
                 nextId := s.nextId + 1 }

/-- The launch queue of a class. -/
def Tenant.lq (t : Tenant) (cls : Nat) : W64 := if cls = 0 then t.lq0 else if cls = 1 then t.lq1 else if cls = 2 then t.lq2 else t.lq3

/-- A launch popped from a queue still waits at its head (R359). -/
def State.headWaits (s : State) (tenant : Nat) (header : W64) : Bool :=
  s.launches.any (fun l => l.next == 0 && decide (l.next < l.total) && (match l.supplier with | some p => p.header == header && p.tenant == tenant | none => false))

/-- LAUNCH_POP (R76, R355, R362), in a cycle that the slot table gives the tenant: nothing is popped from a frozen queue, nor while an earlier record of the queue waits. A queue address of 0 is no queue. -/
def execLaunchPop (tenant cls : Nat) (s : State) : Host.Outcome State Fault Refusal :=
  let h := (s.tenant tenant).lq cls
  if s.stopped || s.slotTenant != some tenant || 16 ≤ tenant || 4 ≤ cls || h == 0 || s.headWaits tenant h then .next s
  else
    match s.agentPop unitDispatch tenant h.toNat with
    | (s, .done i x) => .next ((s.keepAgent unitDispatch tenant h.toNat).acceptRecord tenant (BitVec.ofNat 64 x) (some cls) (some ⟨h, tenant, i⟩) none)
    | _ => .next s

/-- The tag step (R357): an armed entry that matches fires its launch, whose record is checked at once (R362). An entry that cannot be reached, or is poisoned, fires nothing. -/
def State.tagStep (s : State) (tenant : Nat) (tag : W32) (payload : W64) : State :=
  let va := (s.tenant tenant).armTab.toNat + 32 * (tag.toNat % 64)
  match s.reachAgent unitFabric tenant va { rd := true, w := true } with
  | .bad _ _ => s
  | .ok e =>
    let pa := e.at va
    let s := (s.keepAgent unitFabric tenant va).note pa
    let x := s.peek pa 32
    let st := x % 4
    if s.poisonAt pa || fld x 63 32 != tag.toNat || !(st == 1 || st == 2) then s
    else
      let s := s.poke (pa + 16) 8 (fld x 191 128 + 1)
      let s := if st = 1 then s.poke pa 1 (x % 256 - 1) else s
      s.acceptRecord tenant (BitVec.ofNat 64 (fld x 255 192)) none none (some payload)

/-! ### Placing teams (R24-R27, R58, R60, R67, R353, R354, R404) -/

/-- Every line of a core leaves its cache region, its dirty bytes written back (R58). -/
def State.dropCache (s : State) (core : Nat) : State :=
  (((s.writeBackAll core (fun _ => true)).1).noFill core (fun _ => true)).updCore core (fun c => { c with lines := [] })

/-- A core's boundary registers take a record's values; nothing is done when they hold them (R58). -/
def State.loadBounds (s : State) (l : Launch) (core : Nat) : State :=
  if (s.core core).matches l then s
  else (s.dropCache core).updCore core (fun c => { c with pbReg := l.pbReg, pbScr := l.pbScr, pbPin := l.pbPin, held := [] })

/-- Lines pinned for a team, each in a set of Config.victim's choice among those that can take it: which one is something software cannot tell (R67, log 13). -/
def State.pinOn (core team : Nat) : Nat → State → State
  | 0, s => s
  | n + 1, s =>
    let l := (s.core core).pinSets
    match l[Config.victim s.fresh % l.length]? with
    | some k => State.pinOn core team n { s.updCore core (fun c => c.pin team k) with fresh := s.fresh + 1 }
    | none => s

/-- The cores of a team made ready for it: boundaries, pins, and no clean line older than what the dispatcher acquired (R58, R67, R355, R357). -/
def State.readyCores (s : State) (l : Launch) (team core : Nat) : State :=
  (l.coresAt core).foldl (fun s c => (State.pinOn c team (l.take (c != core)).pins (s.loadBounds l c)).invalidate c (fun _ => true)) s

/-- The addresses of a group's areas, by its number in the grid: CTXBASE and PRIVBASE (R353). -/
def Launch.areas (l : Launch) (k : Nat) : W64 × W64 :=
  (BitVec.ofNat 64 ((l.f 255 192 + k * (1024 * l.width + 1024)) % 2 ^ 56), BitVec.ofNat 64 ((l.f 319 256 + k * l.privBytes) % 2 ^ 56))

/-- A group as dispatch starts it (R60, R61, R354, R404). -/
def Launch.newGroup (l : Launch) (team index g core clock : Nat) : Group :=
  let a := l.areas (index * l.gpt + g)
  { team := team, idx := g, core := core, width := l.width, ureg := l.uregs, count := l.vregs * 8,
    s := (Sparse.set [] 96 (loOf l.args)).set 97 (hiOf l.args), ctxBase := a.1, privBase := a.2, privLim := BitVec.ofNat 64 (l.f 659 640),
    divLim := BitVec.ofNat 64 (l.f 671 664), trapVec := l.trapVec, hVregs := l.hVregs,
    arm0 := { live := true, pc := l.f 63 0, mask := fullMask l.width, since := clock } }

/-- A team of a launch as dispatch starts it (R293, R319). -/
def Launch.newTeam (l : Launch) (launch index core : Nat) : Team :=
  { launch := launch, index := index, core := core, core2 := if l.pair then some (core + 1) else Option.none, scrSize := l.scrBytes,
    bars := List.replicate 16 {}, supplier := if l.task then l.supplier else Option.none }

/-- The next team of a launch placed at a core with all its groups (R24, R26, R354). -/
def State.placeTeam (s : State) (launch core index : Nat) : State :=
  let l := s.launch launch
  let team := s.teams.length
  let s := s.readyCores l team core
  let gs := (List.range l.gpt).map (fun g => l.newGroup team index g (if l.pair then core + g % 2 else core) s.clock)
  let s := { s with teams := s.teams ++ [l.newTeam launch index core], groups := s.groups ++ gs }
  let s := s.updLaunch launch (fun l => { l with next := l.next + 1, cores := (l.coresAt core).foldl (fun a c => if a.contains c then a else a ++ [c]) l.cores })
  (l.coresAt core).foldl (fun s c => s.consume c (l.take (c != core))) s

/-- All teams of a co-resident launch placed in one step, or none: core by core from core 0 to core 767, or pair by pair, as many on each as fit (R27, R361; R360 leaves the cores open, DESIGN CHOICE, log 83). -/
def State.placeAll (launch : Nat) : Nat → Nat → State → Option State
  | 0, _, _ => none
  | k + 1, core, s =>
    let l := s.launch launch
    if l.total ≤ l.next then some s
    else if s.fitsAt l (some launch) core then State.placeAll launch k core (s.placeTeam launch core l.next)
    else if 768 ≤ core + (if l.pair then 2 else 1) then none
    else State.placeAll launch k (core + (if l.pair then 2 else 1)) s

/-- A co-resident launch with all its teams placed, when they fit. -/
def State.gathered (s : State) (launch : Nat) : Option State := State.placeAll launch (770 + (s.launch launch).total) 0 s

/-! ### Continuations, backfill records and pre-empted teams as candidates (R161, R309-R311, R359) -/

/-- The launch that a continuation's KRN names, as the dispatcher reads it; none when a record cannot be read. -/
def State.contLaunch (s : State) (c : Cont) : Option Launch :=
  match s.vread (s.agentTr unitDispatch c.tenant { rd := true }) c.va.toNat 64 with
  | .error _ => none
  | .ok x =>
    let krn := fld x 255 192
    match s.readRecord c.tenant krn with
    | none => none
    | some h =>
      let l : Launch := { recVa := BitVec.ofNat 64 krn, hdr := h, tenant := c.tenant, args := 0, next := 1, total := 1, complete := true }
      let v := (s.handlerOf c.tenant l).getD (0, 0)
      some { l with hEntry := v.1, hVregs := v.2 }

/-- The backfill queue of a tenant holds a record that may be popped. -/
def State.bfWaits (s : State) (tenant hdr : Nat) : Bool :=
  match s.reachAgent unitBackfill tenant hdr { rd := true, w := true } with
  | .bad _ _ => false
  | .ok e => let h := hdrOf (s.peek (e.at hdr) 64); !s.poisonAt (e.at hdr) && !h.frozen && h.tail != h.head

/-- When the record at the head of a tenant's backfill queue became available. -/
def State.bfOrder (s : State) (tenant hdr : Nat) : Nat :=
  match s.reachAgent unitBackfill tenant hdr { rd := true } with
  | .bad _ _ => s.nextId
  | .ok e => (((s.tenant tenant).bfSeen.find? (fun p => p.1 == (hdrOf (s.peek (e.at hdr) 64)).head)).map (fun p => p.2)).getD s.nextId

/-- The backfill kernel of a tenant: one task; none when its record is malformed or cannot be read (R161, R469). -/
def State.bfLaunch (s : State) (tenant bfk : Nat) : Option Launch :=
  match s.readRecord tenant bfk with
  | none => none
  | some h =>
    let l : Launch := { recVa := BitVec.ofNat 64 bfk, hdr := h, tenant := tenant, args := 0, total := 1 }
    if (s.refusal tenant none none l).isSome || !l.task then none
    else
      let v := (s.handlerOf tenant l).getD (0, 0)
      some { l with hEntry := v.1, hVregs := v.2 }

/-- No group on a core holds or waits for a matrix token (R161). -/
def State.tokenless (s : State) (core : Nat) : Bool :=
  (s.tokWaiters core).isEmpty && !s.teams.any (fun t => t.holds core && (t.tokOn core).isSome)

/-- What an unplaced team takes on a core when it resumes: its groups' counts as they stand (R370). -/
def State.teamTake (s : State) (team : Nat) (l : Launch) (second : Bool) : Take :=
  let gs := (s.liveGroups team).filter (fun g => !l.pair && !second || l.pair && (g.idx % 2 == 1) == second)
  { l.take second with slots := gs.length, regs := gs.foldl (fun a g => a + g.count * g.width * 4) 0 }

/-- An unplaced team fits at a core (R360, R370). -/
def State.teamFits (s : State) (team core : Nat) : Bool :=
  match s.team team with
  | none => false
  | some t =>
    let l := s.launch t.launch
    let cs := l.coresAt core
    (!l.pair || core % 2 == 0) && cs.all (fun c => decide (c < 768))
      && cs.all (fun c => let k := s.teamTake team l (c != core); s.fitsCore l c k && s.roomOk none l.prio c k)

/-- A dispatch candidate (R359). -/
inductive Candidate where
  | launch (i : Nat)
  | cont (id : Nat)
  | team (t : Nat)
  | backfill (tenant : Nat)
deriving DecidableEq, Repr

/-- The first of the pre-empted teams that a tenant's host has ordered to resume. -/
def State.firstResume (s : State) (tenant : Nat) : Option (Nat × Nat) :=
  (List.range s.teams.length).foldl (fun acc k =>
    match s.team k with
    | none => acc
    | some t =>
      if !t.wantResume || s.tenantOf k != tenant then acc
      else match acc with | none => some (k, t.wantAt) | some a => if t.wantAt < a.2 then some (k, t.wantAt) else acc) none

/-- The candidates at the heads of their sources: class, order, candidate. A backfill record became available when it was pushed; one pushed before its queue was named counts as the latest of its class (DEDUCED, log 84). -/
def State.candidates (s : State) : List (Nat × Nat × Candidate) :=
  ((List.range s.launches.length).filter (fun i => decide ((s.launch i).next < (s.launch i).total) && !s.behindFired i)).map (fun i => ((s.launch i).prio, (s.launch i).order, .launch i))
    ++ (List.range 16).flatMap (fun t =>
      (match s.conts.find? (fun c => c.eligible && c.tenant == t) with
       | some c => [(match s.contLaunch c with | some l => l.prio | none => 0, c.order, Candidate.cont c.id)]
       | none => [])
      ++ (match s.firstResume t with
       | some k => [((match s.team k.1 with | some x => (s.launch x.launch).prio | none => 0), k.2, Candidate.team k.1)]
       | none => [])
      ++ (match s.bfAddrs t with
       | some (k, q) => if s.bfWaits t q then [((match s.bfLaunch t k with | some l => l.prio | none => 0), s.bfOrder t q, Candidate.backfill t)] else []
       | none => []))

/-- Some core would take a candidate now. -/
def State.fitsSomewhere (s : State) (c : Candidate) : Bool :=
  match c with
  | .launch i => if (s.launch i).together then (s.gathered i).isSome else (List.range 768).any (fun k => s.fitsAt (s.launch i) (some i) k)
  | .cont id => (match s.conts.find? (fun c => c.id == id) with
      | some c => (match s.contLaunch c with | some l => (List.range 768).any (fun k => s.fitsAt l none k) | none => false)
      | none => false)
  | .team t => (match s.team t with | some x => x.place == .placed || (List.range 768).any (fun k => s.teamFits t k) | none => false)
  | .backfill t => (match s.bfAddrs t with
      | some (k, _) => (match s.bfLaunch t k with | some l => (List.range 768).any (fun c => s.fitsAt l none c && s.tokenless c) | none => false)
      | none => false)

/-- A candidate does not go now: it is at the head of no source, or one of a higher class, or an earlier one of its class, that fits comes first (R359). -/
def State.outranked (s : State) (me : Candidate) : Bool :=
  match s.candidates.find? (fun x => x.2.2 == me) with
  | none => true
  | some x => s.candidates.any (fun y => y.2.2 != me && (decide (x.1 < y.1) || (x.1 == y.1 && decide (y.2.1 < x.2.1))) && s.fitsSomewhere y.2.2)

/-- DISPATCH_TEAM (R359-R361): the next team of a launch at a core where it fits; all of a co-resident launch's at once. What stood behind it may then be at the head of its source. -/
def execDispatchTeam (launch core : Nat) (s : State) : Host.Outcome State Fault Refusal :=
  let l := s.launch launch
  if s.stopped || l.total ≤ l.next || s.outranked (.launch launch) then .next s
  else if l.together then .next (match s.gathered launch with | some s => s.reachHeads | none => s)
  else if s.fitsAt l (some launch) core then .next (s.placeTeam launch core l.next).reachHeads
  else .next s

/-! ### Retiring teams and completing launches (R229, R358) -/

/-- An operation that does not touch its team's scratchpad or barrier objects. -/
def EngOp.aloof (o : EngOp) : Bool := o.bobj.isNone && (match o.kind with | .tier _ _ | .sweep _ | .send _ _ | .backfill _ => true | _ => false)

/-- A retired team's scratchpad may be released (R229). -/
def State.released (s : State) (team : Nat) (t : Team) : Bool :=
  !s.ops.any (fun o => o.tag.team == team && !o.aloof) && t.cores.all (fun c => !(s.core c).mq.any (fun m => m.tag.team == team))

/-- The cores whose tokens a binding of a core may have kept back: its own, and its pair's leader or follower (R318). -/
def pairCores (c : Nat) : List Nat := [c, if c % 2 = 0 then c + 1 else c - 1]

/-- The engines of a team unbound, their tiles discarded, and the tokens offered to those who wait (R318, R322). -/
def State.unbind (s : State) (team : Nat) (t : Team) : State :=
  let s := t.cores.foldl (fun s c => if (s.core c).bound = some team then s.updCore c (fun x => { x with bound := none, tiles := [], tilePoison := [] }) else s) s
  ((t.cores.flatMap pairCores).eraseDups).foldl (fun s c => s.grantTok c) s

/-- TEAM_RETIRE (R229, R67, R318): scratchpad, barrier objects, pins and engines of a team whose groups have all retired. -/
def execTeamRetire (team : Nat) (s : State) : Host.Outcome State Fault Refusal :=
  match s.team team with
  | none => .next s
  | some t =>
    if s.stopped || t.place != .retired || !s.released team t then .next s
    else
      let s := t.cores.foldl (fun s c => s.updCore c (fun x => x.unpin team)) s
      let s := s.updTeam team (fun t => { t with place := .gone, scr := [], scrPoison := [], armed := [] })
      .next ((s.unbind team t).updLaunch t.launch (fun l => { l with retired := l.retired + 1 }))

/-- Requests and acknowledgements of the teams of a launch that are still on their way. -/
def State.launchWrites (s : State) (launch : Nat) : List Nat :=
  let mine (team : Nat) : Bool := match s.team team with | some t => t.launch == launch | none => false
  (s.reqs.filter (fun r => mine r.tag.team)).map (fun r => r.id) ++ (s.acks.filter (fun a => mine a.tag.team)).map (fun a => a.id)

/-- LAUNCH_COMPLETE (R358): once every team has retired and its engine operations are over, a release of SYSTEM scope on the cores that ran it, and then its completion timeline, after its tenant's error records, in a cycle that the slot table gives its tenant (R76, R420). -/
def execLaunchComplete (launch : Nat) (s : State) : Host.Outcome State Fault Refusal :=
  let l := s.launch launch
  let ops : Bool := s.ops.any (fun o => match s.team o.tag.team with | some t => t.launch == launch | none => false)
  if s.stopped || l.complete || l.total == 0 || decide (l.next < l.total) || decide (l.retired < l.total) || ops then .next s
  else
    let p : State × List Nat :=
      if l.ending then (s, l.ids)
      else l.cores.foldl (fun a c => let r := a.1.writeBackAll c (fun _ => true); (r.1, a.2 ++ r.2)) (s, s.launchWrites launch)
    if p.1.pendingOn { ids := p.2 } || (l.f 383 320 != 0 && s.slotTenant != some l.tenant) || p.1.errs.any (fun r => r.tenant == l.tenant) then .next (p.1.updLaunch launch (fun l => { l with ending := true, ids := p.2 }))
    else .next ((p.1.updLaunch launch (fun l => { l with ending := true, ids := [], complete := true })).signalDone l)

/-! ### Continuations (R309-R311, R362) -/

/-- The registers and lanes that a continuation record gives a resumed group (R311). -/
def Group.continued (g : Group) (x : Nat) (st : Nat) : Group :=
  let W := g.width
  let n := Nat.min (fld x 68 64) g.count
  let v := x / 2 ^ 512
  let mask : W64 := BitVec.ofNat 64 (fld x 383 320) &&& fullMask W
  let vs : Sparse 32 := (List.range (n * W)).foldl (fun m i => m.set (i / W * 64 + i % W) (BitVec.ofNat 32 (v / 2 ^ (32 * i)))) []
  let us : Sparse 32 := unpackSparse 32 (fld x 511 384) 0 4 []
  { g with v := vs, s := us.set 4 (BitVec.ofNat 32 (st * 2 ^ 30 + fld x 127 96 % 2 ^ 24)), xmask := fullMask W &&& ~~~mask,
           arm0 := { g.arm0 with pc := fld x 183 128 / 64 * 64, slot := fld x 129 128, mask := mask } }

/-- A continuation that cannot be resumed: its launch refused, and the queue that supplied its task frozen (R362, R423, R471). INFO is the launch record's address; where the continuation's own record, which names it, cannot be read it is that record's (R489; DESIGN CHOICE, log 119). -/
def State.refuseCont (s : State) (c : Cont) (info : W64) (l : Option Launch) (detail : Nat) : State :=
  let s := { s with conts := s.conts.filter (fun x => x.id != c.id) }.refuse c.tenant info detail l
  match c.supplier with | some sup => s.freeze sup { cause := 0 } (match l with | some l => l.id | none => 0) c.index c.grp c.tenant | none => s

/-- A resumed task: its launch, its team and its one group (R311, R67). -/
def State.placeTask (s : State) (l : Launch) (core index grp : Nat) (sup : Option Supplier) (f : Group → Group) : State :=
  let team := s.teams.length
  let s := s.readyCores l team core
  let g := f { (l.newGroup team index 0 core s.clock) with idx := grp }
  let t : Team := { (l.newTeam s.launches.length index core) with supplier := sup }
  let s := { s with launches := s.launches ++ [{ l with order := s.nextId, cores := l.coresAt core, next := 1 }], nextId := s.nextId + 1, teams := s.teams ++ [t], groups := s.groups ++ [g] }
  (l.coresAt core).foldl (fun s c => s.consume c (l.take (c != core))) s

/-- CONTINUATION_RESUME (R76, R311): the tenant's first eligible record, on a core with room for it, in a cycle that the slot table gives the tenant. -/
def execContinuationResume (id core : Nat) (s : State) : Host.Outcome State Fault Refusal :=
  match s.conts.find? (fun c => c.id == id) with
  | none => .next s
  | some c =>
    if s.stopped || !c.eligible || !s.ownsSlot c.tenant || s.outranked (.cont id) then .next s
    else
      match s.vread (s.agentTr unitDispatch c.tenant { rd := true }) c.va.toNat 64 with
      | .error _ => .next (s.refuseCont c c.va none 3)
      | .ok x0 =>
        match s.contLaunch c with
        | none => .next (s.refuseCont c (BitVec.ofNat 64 (fld x0 255 192)) none 3)
        | some l =>
          match s.refusal c.tenant none none l with
          | some d => .next (s.refuseCont c l.recVa (some l) d)
          | none =>
            match s.vread (s.agentTr unitDispatch c.tenant { rd := true }) c.va.toNat (64 + fld x0 68 64 * l.width * 4) with
            | .error _ => .next (s.refuseCont c l.recVa (some l) 3)
            | .ok x =>
              if !s.fitsAt l none core then .next s
              else
                let s := (s.keepRange unitDispatch c.tenant c.va.toNat (64 + fld x0 68 64 * l.width * 4)).keepRange unitDispatch c.tenant l.recVa.toNat 512
                let s := { s with conts := s.conts.filter (fun y => y.id != id) }
                .next (s.placeTask l core c.index c.grp c.supplier (fun g => g.continued x ((s.tenant c.tenant).stateOf c.ticket)))

/-! ### Backfill tasks (R161, R469) -/

/-- A record of a tenant's backfill queue is taken: nothing notes any more when it became available. -/
def State.bfTaken (s : State) (tenant index : Nat) : State := s.updTenant tenant (fun t => { t with bfSeen := t.bfSeen.filter (fun p => p.1 != index) })

/-- BACKFILL_TASK_START (R76, R161, R469), in a cycle that the slot table gives the tenant: a record of BFQ starts the kernel of BFK as a task, with the record's address as its argument, on a core without a matrix token in use. A malformed kernel record freezes BFQ. -/
def execBackfillTaskStart (tenant core : Nat) (s : State) : Host.Outcome State Fault Refusal :=
  match s.bfAddrs tenant with
  | none => .next s
  | some (bfk, q) =>
    if s.stopped || s.slotTenant != some tenant || s.outranked (.backfill tenant) then .next s
    else
      match s.bfLaunch tenant bfk with
      | none =>
        (match s.agentPop unitBackfill tenant q with
         | (s', .done i _) =>
           let id := match s.readRecord tenant bfk with | some h => ({ recVa := 0, hdr := h, tenant := tenant, args := 0 } : Launch).id | none => 0
           .next ((s'.bfTaken tenant i).freeze ⟨BitVec.ofNat 64 q, tenant, i⟩ { cause := 0x30, detail := 0x80 } id 0 0 tenant)
         | _ => .next s)
      | some l =>
        if !(s.fitsAt l none core && s.tokenless core) then .next s
        else
          let h := match s.reachAgent unitBackfill tenant q { rd := true, w := true } with | .ok e => hdrOf (s.peek (e.at q) 64) | .bad _ _ => hdrOf 0
          match s.agentPop unitBackfill tenant q with
          | (s', .done i _) =>
            let s' := ((s'.bfTaken tenant i).keepAgent unitBackfill tenant q).keepRange unitDispatch tenant bfk 512
            .next (s'.placeTask { l with args := BitVec.ofNat 64 (h.entry i) } core (i % l.grid) 0 (some ⟨BitVec.ofNat 64 q, tenant, i⟩) id)
          | _ => .next s

/-! ### Boundaries and due contexts (R58, R364) -/

/-- POOL_BOUNDARY_APPLY (R58): writes held for a core take effect when no resident or placed team stands on it, after its lines are written back and dropped. -/
def execPoolBoundaryApply (core : Nat) (s : State) : Host.Outcome State Fault Refusal :=
  let c := s.core core
  if s.stopped || c.held.isEmpty || s.occupied core then .next s
  else
    let b := c.bounds
    .next ((s.dropCache core).updCore core (fun c => { c with pbReg := b.1, pbScr := b.2.1, pbPin := b.2.2, held := [] }))

/-- CONTEXT_DUE (R364): a ready context that has waited 512 cycles since it last issued or became ready. -/
def execContextDue (c : CtxId) (s : State) : Host.Outcome State Fault Refusal :=
  match s.context c with
  | none => .next s
  | some g =>
    let a := g.arm c.arm
    if s.stopped || s.waiting g a.wait || s.clock < a.readySince + 512 then .next s else .next (s.updArm c (fun a => { a with due := true }))

end Sys2Proof.Machine
end

