-- ==== Sys2Proof/Machine/Preempt.lean ====
section
/-! DEFINITION. Pre-emption and what meets it: stopping, saving, unplacing and resuming teams, the host's commands, imprecise faults, handler entry, host halts and the watchdog (R62, R64, R366-R370, R380, R401-R403, R408, R416-R420, R422, R463, R489). -/

namespace Sys2Proof.Machine

/-! ### Waits across a pre-emption (R367, R369) -/

/-- A wait as a pre-emption leaves it: BAR.SYNC, HCALL and YIELD.ON keep theirs, every other slot is executed again; the cycles left of a timed wait are kept. -/
def Arm.stopAt (a : Arm) (clock : Nat) : Arm :=
  let left : Option Nat := match a.wait.deadline with | some d => some (d - clock) | none => a.left
  match a.wait.kind with
  | .yieldOn _ _ | .hcallReply _ => a
  | .bar _ => if a.wait.sync then { a with wait := { a.wait with deadline := none }, left := left } else { a with wait := {}, left := left }
  | .bobj _ _ | .timeline => { a with wait := {}, left := left }
  | .mtok _ => { a with wait := {}, tokSeq := some 0 }
  | _ => { a with wait := {} }

/-- A wait that goes on after a resume: its timeout counts from the cycles left. -/
def Arm.goOn (a : Arm) (clock : Nat) : Arm :=
  match a.wait.kind, a.left with
  | .bar _, some n => { a with wait := { a.wait with deadline := some (clock + n) }, left := none }
  | _, _ => a

/-- The wait entry of an arm (R369). -/
def Arm.waitEntry (a : Arm) : Nat :=
  let tmo := (a.left.getD 0xFFFFFFFF) % 2 ^ 32 * 256
  match a.wait.kind with
  | .yieldOn c n => 3 + c % 16 * 16 + n % 2 ^ 32 * 256
  | .hcallReply _ => 2 + tmo
  | .bar b => 1 + b % 16 * 16 + tmo
  | _ => tmo

/-- Contexts of a team stand at slot boundaries: nothing issued is unfinished, no ended wait is still to complete, and its matrix instructions are performed (R367); a store to a control area that is on its way comes before the full write (R64). -/
def State.atRest (s : State) (team : Nat) (t : Team) : Bool :=
  s.quiet team && !(s.liveGroups team).any (fun g => [0, 1].any (fun k => (g.arm k).live && (g.arm k).wait.status.isSome))
    && t.cores.all (fun c => !(s.core c).mq.any (fun m => m.tag.team == team)) && !(s.liveGroups team).any s.ctrlBusy

/-- What a stopped team withdraws: held front steps, joins that have not begun, timeline waiters and host calls not yet pushed (R367). -/
def State.withdraw (s : State) (team : Nat) : State :=
  let joins (r : Req) : Bool := r.tag.team == team && (match r.kind with | .op (.frontJoin _ _ _) => true | _ => false)
  { s with reqs := s.reqs.filter (fun r => !joins r), asyncs := s.asyncs.filter (fun x => !(x.tag.team == team && x.blk.isSome)),
           tlw := s.tlw.filter (fun w => w.c.team != team), hcalls := s.hcalls.filter (fun h => !(h.c.team == team && h.index.isNone)),
           fronts := s.fronts.map (fun (e : FrontEnt) => { e with lull := e.lull.filter (fun l => l.2.2.team != team) }),
           groups := updWhere (fun g => g.team == team && !g.retired) (fun g => g.mapArms (fun a => a.stopAt s.clock)) s.groups }

/-! ### The team image (R318, R353, R368, R369) -/

/-- The dispatcher's translation of a team's image for a write. -/
def State.imgTr (s : State) (tenant : Nat) : Nat → Tr := s.agentTr unitDispatch tenant { w := true }

/-- Lines of an image poisoned where words of it are: each an offset from its address. -/
def State.imgPoison (s : State) (tenant va : Nat) (offs : List Nat) : State := offs.foldl (fun s o => s.poisonVa (s.imgTr tenant) (va + o) 4) s

/-- The tiles of an engine that is bound to a team written to its image (R318, R367). -/
def State.saveTiles (s : State) (team : Nat) (l : Launch) (t : Team) : Except EFault State :=
  t.cores.foldl (fun (acc : Except EFault State) c =>
    match acc with
    | .error e => .error e
    | .ok s =>
      let x := s.core c
      if x.bound ≠ some team then .ok s
      else
        let va := imgTile l t (c != t.core) 0
        match s.vwrite (s.imgTr l.tenant) va 262144 (tilesImage x.tiles) with
        | .error e => .error e
        | .ok s => .ok ((s.imgPoison l.tenant va (x.tilePoison.map (fun k => 4 * k))).updTeam team (fun t => { t with saved := true }))) (.ok s)

/-- Team state that could not be saved or restored ends the team (R367, R420, R422). -/
def State.lostState (s : State) (team : Nat) (e : EFault) : State := s.terminate team 0 6 { cause := e.1 } e.2.1 (BitVec.ofNat 64 e.2.2)

/-- The contexts of a team give up the vector ports of its cores; their latches are not saved (R62, R188). -/
def State.leavePorts (s : State) (team : Nat) (t : Team) : State :=
  let off (p : Port) : Port := match p.cur with | some c => if c.team = team then {} else p | none => p
  t.cores.foldl (fun s c => s.updCore c (fun x => { x with portA := off x.portA, portB := off x.portB })) s

/-- A team at rest is saved and stays placed (R62, R367). -/
def State.saveTeam (s : State) (team : Nat) (t : Team) : State :=
  let s := s.withdraw team
  match s.saveTiles team (s.launch t.launch) t with
  | .error e => s.lostState team e
  | .ok s =>
    match s.writeAllCtrl team with
    | .error e => s.lostState team e
    | .ok s => (((s.leavePorts team t).unbind team t).updTeam team (fun t => { t with place := .placed, preempt := false })).commands

/-- A pre-emption of a team waits: a squall, a handler or a pending trap of it comes first (R416). -/
def State.deferred (s : State) (team : Nat) (t : Team) : Bool := t.squall.isSome || (s.liveGroups team).any (fun g => g.hmode || !g.pend.isEmpty)

/-- TEAM_PREEMPTION (R76, R367, R416): its contexts stop at their next slot boundaries, and once they have, it is saved, in a cycle of its tenant. -/
def execTeamPreemption (team : Nat) (s : State) : Host.Outcome State Fault Refusal :=
  match s.team team with
  | none => .next s
  | some t =>
    if s.stopped || !t.preempt || !t.place.here || s.deferred team t then .next s
    else
      let s := s.updTeam team (fun t => { t with place := .stopping })
      if s.atRest team t && s.ownsSlot (s.tenantOf team) then .next (s.saveTeam team t) else .next s

/-- A team barrier in the image (R369). -/
def Bar.image (b : Bar) : Nat := b.lastph.toNat * 2 ^ 64 + b2n b.phase * 2 ^ 14 + b.expect % 128 * 2 ^ 7 + b.arrived % 128

/-- The matrix state in the image (R369). -/
def Team.tokImage (t : Team) : Nat :=
  t.tok.getD 0 % 128 + b2n t.tok.isNone * 2 ^ 7 + t.tok2.getD 0 % 128 * 2 ^ 8 + b2n t.tok2.isNone * 2 ^ 15 + b2n t.saved * 2 ^ 16

/-- The 4096 bytes of an image header (R369). -/
def State.imgHeader (s : State) (team : Nat) (t : Team) : Nat :=
  let bars := (List.range 16).foldl (fun a b => a + (match t.bars[b]? with | some x => x.image | none => 0) * 2 ^ (128 * b)) 0
  let waits := (s.liveGroups team).foldl (fun a g => a + (g.arm0.waitEntry + g.arm1.waitEntry * 2 ^ 64) * 2 ^ (2048 + 128 * g.idx)) 0
  bars + waits + t.tokImage * 2 ^ 10240

/-- The bytes of a group's vector area up to its count (R59). -/
def Group.vecImage (g : Group) : Nat := g.v.foldl (fun a p => if p.1 / 64 < g.count ∧ p.1 % 64 < g.width then a + p.2.toNat * 2 ^ (32 * (p.1 / 64 * g.width + p.1 % 64)) else a) 0

/-- The register lines of a group (R61). -/
def Group.vlines (g : Group) : List Nat := List.range (g.count * g.width / 64)

/-- A group's vector registers written to its context image, with the poison they carry: each register line that was written since it entered the pool (R61, R62). One that dispatch marked zero-valid has been in no image, and counts as written (DEDUCED, log 130). -/
def State.saveRegs (s : State) (tenant : Nat) (g : Group) : Except EFault State :=
  let va := g.ctxBase.toNat % 2 ^ 56
  let x := g.vecImage
  let ls := g.vlines.filter (fun k => !g.vclean.contains k && !g.vout.contains k)
  let r : Except EFault State := ls.foldl (fun acc k => match acc with
    | .error e => .error e
    | .ok s => s.vwrite (s.imgTr tenant) (va + 256 * k) 256 (x / 2 ^ (2048 * k) % 2 ^ 2048)) (.ok s)
  match r with
  | .error e => .error e
  | .ok s => .ok (s.imgPoison tenant va ((g.vpo.filter (fun k => ls.contains (g.vline (k / 64) (k % 64)))).map (fun k => 4 * (k / 64 * g.width + k % 64))))

/-- Everything of a placed team that leaves the pool (R62, R368): the image's header, armed bits and scratchpad, and the registers. -/
def State.saveImage (s : State) (team : Nat) (t : Team) : Except EFault State := do
  let l := s.launch t.launch
  let base := imgBase l t
  let s ← s.vwrite (s.imgTr l.tenant) base 4096 (s.imgHeader team t)
  let s ← s.vwrite (s.imgTr l.tenant) (base + 4096) (t.scrSize / 128) (t.armed.eraseDups.foldl (fun a k => a + 2 ^ k) 0)
  let s ← s.vwrite (s.imgTr l.tenant) (imgScr l t 0) t.scrSize (packSparse t.scr 0 t.scrSize)
  let s := s.imgPoison l.tenant (imgScr l t 0) (t.scrPoison.map (fun w => 4 * w))
  (s.liveGroups team).foldl (fun (acc : Except EFault State) g => match acc with | .error e => .error e | .ok s => s.saveRegs l.tenant g) (.ok s)

/-- TEAM_UNPLACE (R62, R67, R368): the image of a placed team is written and its room in the pool is free; its cores' dirty bytes go to their slices, so that it finds them wherever it resumes. Its accesses take a cycle of its tenant (R76). -/
def execTeamUnplace (team : Nat) (s : State) : Host.Outcome State Fault Refusal :=
  match s.team team with
  | none => .next s
  | some t =>
    if s.stopped || t.place != .placed || t.wantResume || !s.ownsSlot (s.tenantOf team) then .next s
    else
      match s.saveImage team t with
      | .error e => .next (s.lostState team e)
      | .ok s =>
        let s := t.cores.foldl (fun s c => ((s.writeBackAll c (fun _ => true)).1).updCore c (fun x => x.unpin team)) s
        .next { (s.updTeam team (fun t => { t with place := .unplaced, scr := [], scrPoison := [] })) with
          groups := updWhere (fun g => g.team == team) (fun g => { g with v := [], vpo := [], vclean := [], vout := [] }) s.groups }

/-! ### Resuming (R62, R318, R370) -/

/-- A group's register lines stand in its context image: each is read back at the first use of a register of it (R62). -/
def Group.linesOut (g : Group) : Group := { g with vclean := [], vout := g.vlines }

/-- A team barrier as the image gives it (R369); that its expected count was z, and which groups have arrived since dispatch, are not in the image and stay (log 88). -/
def Bar.ofImage (b : Bar) (x : Nat) : Bar := { b with arrived := fld x 6 0, expect := fld x 13 7, phase := x.testBit 14, lastph := BitVec.ofNat 64 (fld x 127 64) }

/-- An arm's wait as its wait entry gives it (R369): a BAR.SYNC, an HCALL or a YIELD.ON that goes on, or a slot that is executed again. -/
def Arm.ofEntry (a : Arm) (x : Nat) : Arm :=
  let left : Option Nat := if fld x 39 8 = 0xFFFFFFFF then none else some (fld x 39 8)
  match fld x 3 0, a.wait.kind with
  | 1, .bar b => { a with wait := if b = fld x 7 4 then { a.wait with deadline := none } else { kind := .bar (fld x 7 4), sync := true }, left := left }
  | 1, _ => { a with wait := { kind := .bar (fld x 7 4), sync := true }, left := left }
  | 2, .hcallReply _ => a
  | 3, _ => { a with wait := { kind := .yieldOn (fld x 7 4) (fld x 39 8) }, left := none }
  | _, _ => { a with wait := {}, left := left }

/-- The team state that an image header holds: barriers, waits, and the matrix state (R369, R370). -/
def State.loadHeader (s : State) (team x : Nat) : State :=
  let m := fld x 10303 10240
  let s := s.updTeam team (fun t => { t with bars := (List.range t.bars.length).zipWith (fun k b => b.ofImage (x / 2 ^ (128 * k) % 2 ^ 128)) t.bars,
                                             tok := if m.testBit 7 then none else some (fld m 6 0), tok2 := if m.testBit 15 then none else some (fld m 14 8), saved := m.testBit 16 })
  { s with groups := updWhere (fun g => g.team == team && !g.retired) (fun g =>
      { g with arm0 := g.arm0.ofEntry (x / 2 ^ (2048 + 128 * g.idx) % 2 ^ 64), arm1 := g.arm1.ofEntry (x / 2 ^ (2112 + 128 * g.idx) % 2 ^ 64) }) s.groups }

/-- An unplaced team read back into the pool: header, armed bits and scratchpad; its registers follow at their first use (R62, R370). -/
def State.loadImage (s : State) (team : Nat) (t : Team) : Except EFault State := do
  let l := s.launch t.launch
  let h ← s.imgRead l.tenant (imgBase l t) 4096
  let a ← s.imgRead l.tenant (imgBase l t + 4096) (t.scrSize / 128)
  let c ← s.imgRead l.tenant (imgScr l t 0) t.scrSize
  let s := (s.loadHeader team h.1).updTeam team (fun t => { t with armed := (List.range (t.scrSize / 16)).filter (fun k => a.1.testBit k), scr := unpackSparse 8 c.1 0 t.scrSize [], scrPoison := c.2 })
  return { s with groups := updWhere (fun g => g.team == team && !g.retired) Group.linesOut s.groups }

/-- The MTOK.ACQ requests of a team that a pre-emption stopped are made again in ascending %group (R369). -/
def State.orderTokens (s : State) (team : Nat) : State :=
  { s with groups := updWhere (fun g => g.team == team && !g.retired) (fun g => g.mapArms (fun a => { a with tokSeq := a.tokSeq.map (fun _ => s.nextId + g.idx) })) s.groups, nextId := s.nextId + 64 }

/-- A team at its cores runs again from its control areas (R370); the waits it kept go on. -/
def State.restart (s : State) (team : Nat) : State :=
  let s := s.updTeam team (fun t => { t with place := .resident, wantResume := false })
  match s.readAllCtrl team none with
  | .error e => s.lostState team e
  | .ok s => { s with groups := updWhere (fun g => g.team == team && !g.retired) (fun g => g.mapArms (fun a => a.goOn s.clock)) s.groups }.orderTokens team |>.commands

/-- An unplaced team placed at a core: its cores made ready, its image read back, its armed objects evaluated once (R360, R370). -/
def State.replace (s : State) (team core : Nat) (t : Team) : State :=
  let l := s.launch t.launch
  let s := s.readyCores l team core
  let t' : Team := { t with core := core, core2 := if l.pair then some (core + 1) else none }
  let s := s.updTeam team (fun _ => t')
  let s := { s with groups := updWhere (fun g => g.team == team) (fun g => { g with core := if l.pair then core + g.idx % 2 else core }) s.groups }
  match s.loadImage team t' with
  | .error e => s.lostState team e
  | .ok s =>
    let s := (s.updTeam team (fun t => { t with place := .placed })).updLaunch t.launch (fun l => { l with cores := (l.coresAt core).foldl (fun a c => if a.contains c then a else a ++ [c]) l.cores })
    let s := (l.coresAt core).foldl (fun s c => s.consume c (s.teamTake team l (c != core))) s
    ((match s.team team with | some t => t.armed | none => []).foldl (fun (s : State) k => s.evalBobj team (16 * k)) s).restart team

/-- Accesses of a team that are still on their way (R95). -/
def State.teamWrites (s : State) (team : Nat) : Bool := s.reqs.any (fun r => r.tag.team == team) || s.acks.any (fun a => a.tag.team == team)

/-- TEAM_RESUME (R76, R370): a placed team on its own cores, an unplaced one on any that it fits, in a cycle of its tenant. -/
def execTeamResume (team core : Nat) (s : State) : Host.Outcome State Fault Refusal :=
  match s.team team with
  | none => .next s
  | some t =>
    if s.stopped || !t.wantResume || !s.ownsSlot (s.tenantOf team) || s.outranked (.team team) then .next s
    else if t.place = .placed then (if core = t.core then .next (s.restart team) else .next s)
    else if t.place = .unplaced ∧ s.teamFits team core ∧ !s.teamWrites team then .next (s.replace team core t)
    else .next s

/-! ### Commands (R380) -/

/-- The teams that a command names. -/
def State.named (s : State) (tenant launchId : Nat) (all : Bool) : List Nat :=
  (List.range s.teams.length).filter (fun k => match s.team k with
    | some t => !t.place.finished 0 && s.tenantOf k == tenant && (all || (s.launch t.launch).id == launchId)
    | none => false)

/-- A write of CMD with OP 1 or 2: BUSY rises, and each named team is marked (R380). A write while BUSY is 1 is ignored. -/
def State.command (s : State) (tenant launchId op : Nat) (all : Bool) (mark : Team → Team) : State :=
  if s.stopped || 16 ≤ tenant || (s.tenant tenant).cmd.getLsbD 5 then s
  else
    let l := s.named tenant (launchId % 2 ^ 32) all
    let s := s.updTenant tenant (fun t => { t with cmd := BitVec.ofNat 64 (launchId % 2 ^ 32 * 2 ^ 32 + 32 + b2n all * 16 + op), cmdTeams := l })
    (l.foldl (fun (s : State) k => s.updTeam k mark) { s with nextId := s.nextId + 1 }).commands

/-- CMD_PREEMPT (R380): teams that are pre-empted already are left as they are. -/
def execCmdPreempt (tenant launchId : Nat) (all : Bool) (s : State) : Host.Outcome State Fault Refusal :=
  .next (s.command tenant launchId 1 all (fun t => if t.place.here then { t with preempt := true } else t))

/-- CMD_RESUME (R359, R380). -/
def execCmdResume (tenant launchId : Nat) (all : Bool) (s : State) : Host.Outcome State Fault Refusal :=
  .next (s.command tenant launchId 2 all (fun t => if t.place.here then t else { t with wantResume := true, wantAt := s.nextId }))

/-! ### Imprecise faults (R402, R411, R417, R422) -/

/-- A fault of a team that takes no trap: its error record, of kind 1 or 2. -/
def State.faultRecord (s : State) (f : FaultRec) (kind flags : Nat) : State := s.teamErr f.team f.grp kind f.trap f.trap.detail f.trap.info (flags + 2 * f.trap.arm)

/-- The context that takes a fault of an arm: that arm, or the group's live one when it has rejoined or holds no unexited lane (R402). -/
def Group.takerOf (g : Group) (k : Nat) : Nat := if g.runs k then k else if g.runs (1 - k) then 1 - k else 0

/-- A fault raised in a running group: in the context that its issuing arm stands for; none while that context stands inside a slot (R402). -/
def State.takeFault (s : State) (g : Group) (t : Trap) : Option State :=
  let k := g.takerOf t.arm
  let c : CtxId := { team := g.team, grp := g.idx, arm := k }
  if g.hmode then some (s.raise g.team g.idx t)
  else if s.midSlot (g.arm k) then none
  else some ((s.raise g.team g.idx t).haltAt c)

/-- HOSTHALT taken by a team in its lowest unretired group (R418): held pending there once a handler has been entered, else in the context whose slot comes next, at its slot boundary; none while that context stands inside a slot. -/
def State.takeHalt (s : State) (team : Nat) : Option State :=
  match s.team team, (s.liveGroups team).foldr insertGroup [] with
  | some t, g :: _ =>
    let entered : Bool := match t.squall with | some q => q.entered | none => false
    let at_ (k : Nat) : State := s.raise team g.idx { cause := 0x3A, pc := pcWord (g.arm k).pc (g.arm k).slot, arm := k % 2 }
    if entered then some (at_ (g.nextArm (if g.hmode then 2 else 0)))
    else
      match [0, 1].find? (fun k => g.runs k && !(g.arm k).parked && !s.midSlot (g.arm k)) with
      | some k => some ((at_ k).haltAt { team := team, grp := g.idx, arm := k })
      | none => none
  | _, _ => none

/-- HOSTHALT directed at a team (R418): a pre-empted team ends; any other takes the trap at its next slot boundary, and one that has no handler ends once its squall is complete. -/
def State.haltTeam (s : State) (team : Nat) : State :=
  match s.team team, (s.liveGroups team).foldr insertGroup [] with
  | some t, g :: _ =>
    if !t.place.here then
      let k := g.nextArm 0
      s.terminate team g.idx 5 { cause := 0x3A, pc := pcWord (g.arm k).pc (g.arm k).slot, arm := k } 0 0
    else
      let s := s.updTeam team (fun t => { t with haltCmd := true })
      (s.takeHalt team).getD { s with faults := s.faults ++ [{ team := team, grp := g.idx, trap := { cause := 0x3A } }] }
  | _, _ => s

/-- IMPRECISE_FAULT_ARRIVAL (R402, R417, R418). -/
def execImpreciseFaultArrival (index : Nat) (s : State) : Host.Outcome State Fault Refusal :=
  match s.faults[index]? with
  | none => .next s
  | some f =>
    let s' := { s with faults := s.faults.eraseIdx index }
    match s.team f.team with
    | none => .next s'
    | some t =>
      if s.stopped then .next s
      else if f.trap.cause = 0x3A then .next (if t.place.finished 0 then s' else if t.place.here then (s'.takeHalt f.team).getD s else s'.haltTeam f.team)
      else if t.place.finished 0 then .next (s'.faultRecord f 1 0)
      else if !t.place.here then .next (s'.faultRecord f 2 4)
      else
        match s.group f.team f.grp with
        | none => .next s
        | some g =>
          let r : Option State :=
            if !g.retired then s'.takeFault g f.trap
            else
              match ((s.liveGroups f.team).foldr insertGroup []) with
              | [] => some (s'.faultRecord f 1 0)
              | x :: _ => s'.takeFault x { f.trap with exited := some f.grp }
          .next (r.getD s)

/-! ### Handler entry, host halt and the watchdog (R408, R418-R420) -/

/-- Every access that a team's groups issued, and for a paired team its cores' dirty bytes: what must be performed before a handler's first access (R401, R408). -/
def State.settleTeam (s : State) (team : Nat) (t : Team) : State × Bool :=
  let p : State × List Nat := if t.paired then t.cores.foldl (fun a c => let r := a.1.writeBackAll c (fun _ => true); (r.1, a.2 ++ r.2)) (s, []) else (s, [])
  (p.1, p.1.pendingOn { ids := p.2 } || p.1.teamWrites team || p.1.merges.any (fun m => m.joined.any (fun r => r.tag.team == team)))

/-- HANDLER_ENTRY (R76, R408): once every context of the team has halted and its accesses are performed, in a cycle of its tenant. -/
def execHandlerEntry (team : Nat) (s : State) : Host.Outcome State Fault Refusal :=
  match s.team team with
  | none => .next s
  | some t =>
    let ready : Bool := match t.squall with | some q => !q.entered | none => false
    if s.stopped || !ready || t.place != .resident || !s.quiet team || !s.ownsSlot (s.tenantOf team) then .next s
    else
      let p := s.settleTeam team t
      if p.2 then .next p.1 else .next ((p.1.syncPair team).enterHandler team)

/-- HOST_HALT (R418): a write of HALT with OP 1; one while BUSY is 1 is ignored. -/
def execHostHalt (launchId tenant : Nat) (all : Bool) (s : State) : Host.Outcome State Fault Refusal :=
  if s.stopped || s.halt.busy || 16 ≤ tenant then .next s
  else
    let s' := (s.named tenant (launchId % 2 ^ 32) all).foldl (fun s k => s.haltTeam k) s
    .next { s' with halt := { launchId := BitVec.ofNat 32 launchId, tenant := tenant, busy := true, all := all, op := 1 } }.commands

/-- WATCHDOG (R419): a resident team with a group that has been in handler mode for LIMIT cycles. -/
def execWatchdog (team : Nat) (s : State) : Host.Outcome State Fault Refusal :=
  match s.team team, (s.liveGroups team).find? (fun g => g.hmode && s.wdog != 0 && decide (g.hAt + s.wdog.toNat ≤ s.clock)) with
  | some t, some g => if s.stopped || t.place != .resident then .next s else .next (s.terminate team g.idx 4 { cause := 0x3B } 0 0)
  | _, _ => .next s

end Sys2Proof.Machine
end

