-- ==== Sys2Proof/Machine/Link.lean ====
section
/-! DEFINITION. The host's side of the module: host calls, host requests and atomics, interrupts, the control space, attestation, power, links, errors and resets (R233, R357, R371-R391, R397, R424, R455, R458, R479-R481, R485). -/

namespace Sys2Proof.Machine

/-! ### Host calls (R233, R381, R485) -/

/-- A host call changed. -/
def State.updCall (s : State) (c : CtxId) (f : HCall → HCall) : State := { s with hcalls := updWhere (fun h => h.c == c) f s.hcalls }

/-- The push of a host call cannot be made: its slot meets the condition precisely, with the address that failed, and no record awaits a reply (R381, R402, R411, R446). -/
def State.callFails (s : State) (h : HCall) (g : Group) (cause detail info : Nat) : State :=
  let a := g.arm h.c.arm
  let s := { s with hcalls := s.hcalls.filter (fun x => x.c != h.c) }
  let s := s.raise h.c.team h.c.grp { cause := cause, detail := detail, info := BitVec.ofNat 64 info, pc := pcWord a.pc a.slot, arm := armSel h.c }
  if g.hmode then s.jump h.c h.next.1 h.next.2 else (s.updArm h.c (fun a => { a with wait := {} })).haltCtx h.c

/-- HCALL_RING_PUSH (R381): the record is pushed once the ring has room, and vector 0 is raised. A frozen ring has none. -/
def execHcallRingPush (c : CtxId) (s : State) : Host.Outcome State Fault Refusal :=
  match s.hcalls.find? (fun h => h.c == c && h.index.isNone), s.group c.team c.grp, s.team c.team with
  | some h, some g, some t =>
    if s.stopped || t.place != .resident || !s.ownsSlot h.tenant || (g.arm c.arm).wait.kind != .hcallPush then .next s
    else
      match (s.note h.pa).qPush (fun va => s.reachAgent (sliceOf h.pa) h.tenant va (needW h.priv)) h.pa h.data.toNat with
      | (s', .done i _) =>
        let s' := s'.keepAgent (sliceOf h.pa) h.tenant ((hdrOf (s.peek h.pa 64)).entry i)
        .next (((s'.updCall c (fun h => { h with index := some i })).updArm c (fun a => { a with wait := { a.wait with kind := .hcallReply i } })).msi h.tenant 0)
      | (_, .bad cause d i) => .next (s.callFails h g cause d i)
      | (_, .refused) => .next s
      | (_, .frozen) => .next s
  | _, _, _ => .next s

/-- The byte of a group's control area that holds the copy of a uniform register named by its key (R63). -/
def ctrlByte (key : Nat) : Nat := if 128 ≤ key then 512 + 4 * (key - 128 - 96) else 4 * key

/-- HOST_CALL_REPLY (R233, R381, R485): the reply ends the wait that it names; while the team is halted or pre-empted it is also written into the control area. A reply that names no call is ignored, and none comes while Eweov is down. -/
def execHostCallReply (tenant index : Nat) (value : W32) (s : State) : Host.Outcome State Fault Refusal :=
  match s.hcalls.find? (fun h => h.tenant == tenant && h.index == some index) with
  | none => .next s
  | some h =>
    if s.stopped || !s.eweovUp then .next s
    else
      let s := { s with hcalls := s.hcalls.filter (fun x => x.c != h.c) }.wake h.c value
      match s.group h.c.team h.c.grp, s.team h.c.team, h.dst with
      | some g, some t, some k =>
        let halted : Bool := !t.place.here || (match t.squall with | some q => q.entered && decide (h.c.arm < 2) | none => false)
        .next (if halted then s.ctrlPut g (ctrlByte k) 4 value.toNat else s)
      | _, _, _ => .next s

/-! ### Host requests (R373, R374, R76) -/

/-- A slice can take a host access now: the cycle belongs to no tenant, the link is up, and the line has no write unacknowledged. -/
def State.hostTakes (s : State) (pa : Nat) : Bool := !s.stopped && s.eweovUp && s.slotTenant.isNone && !s.lineBusy (pa / 128)

/-- HOST_REQUEST (R373): a read changes nothing; a write, within one line of device memory, reaches memory past every cache. -/
def execHostRequest (req : HostReq) (s : State) : Host.Outcome State Fault Refusal :=
  if !s.hostTakes req.pa || isHost req.pa || 128 < req.pa % 128 + req.size then .next s
  else .next (if req.write then s.poke req.pa req.size req.data.toNat else s.note req.pa)

/-- The type of a host atomic on n bytes. -/
def hostTy (n : Nat) (signed : Bool) : Option Ty :=
  if n = 4 then some (if signed then .i32 else .u32) else if n = 8 then some (if signed then .i64 else .u64) else none

/-- HOST_ATOMIC (R374, R312, R471): a queue push or pop, which a frozen queue refuses, or an atomic of R288 on device memory. -/
def execHostAtomic (req : HostAtomic) (s : State) : Host.Outcome State Fault Refusal :=
  match req with
  | .push tenant header entry =>
    if !s.hostTakes 0 || 16 ≤ tenant then .next s
    else match s.agentPush unitFabric tenant header.toNat entry.toNat with | (s', .done _ _) => .next s' | _ => .next s
  | .pop tenant header =>
    if !s.hostTakes 0 || 16 ≤ tenant then .next s
    else match s.agentPop unitFabric tenant header.toNat with | (s', .done _ _) => .next s' | _ => .next s
  | .atom pa size op signed v c =>
    match hostTy size signed with
    | none => .next s
    | some ty =>
      if !s.hostTakes pa || isHost pa || pa % size != 0 || decide (10 < op) then .next s
      else if s.poisonAt pa then .next (s.note pa)
      else .next (s.poke pa size (un ty (atomNew ty op (BitVec.ofNat 64 (s.peek pa size)) v c)))

/-! ### Interrupts (R379) -/

/-- The pending vectors of a tenant that are not masked are written, once the link is up. -/
def State.sendHeld (s : State) (tenant : Nat) : State :=
  (List.range 16).foldl (fun s v =>
    let t := s.tenant tenant
    if s.eweovUp && t.msiPend.getLsbD v && !t.msiMask.getLsbD v then
      (s.updTenant tenant (fun t => { t with msiPend := t.msiPend &&& ~~~(BitVec.ofNat 16 (2 ^ v)) })).msi tenant v
    else s) s

/-- MSIMASK written. -/
def State.setMsiMask (s : State) (tenant : Nat) (mask : BitVec 16) : State := (s.updTenant tenant (fun t => { t with msiMask := mask })).sendHeld tenant

/-- MSIMASK_WRITE (R379): a vector that the write unmasks is sent if it is pending. -/
def execMsimaskWrite (tenant : Nat) (mask : BitVec 16) (s : State) : Host.Outcome State Fault Refusal := .next (if tenant < 16 then s.setMsiMask tenant mask else s)

/-! ### The control space (R375-R378, R418, R419) -/

/-- A tenant control block as its 2048 bits (R378). -/
def Tenant.block (t : Tenant) : Nat :=
  t.root.toNat + t.retQ.toNat * 2 ^ 64 + t.promQ.toNat * 2 ^ 128 + t.msiAddr.toNat * 2 ^ 192 + t.quota % 1024 * 2 ^ 256 + t.fquota % 64 * 2 ^ 266
    + t.msiMask.toNat * 2 ^ 272 + t.msiData.toNat * 2 ^ 288 + t.lq0.toNat * 2 ^ 320 + t.lq1.toNat * 2 ^ 384 + t.lq2.toNat * 2 ^ 448 + t.lq3.toNat * 2 ^ 512
    + t.armTab.toNat * 2 ^ 576 + t.hcRing.toNat * 2 ^ 640 + t.errQ.toNat * 2 ^ 704 + t.fsq.toNat * 2 ^ 768 + t.landTab.toNat * 2 ^ 832 + t.cmd.toNat * 2 ^ 960

/-- The fields of a tenant control block written, but for MSIMASK, REPLY and CMD. -/
def Tenant.setBlock (t : Tenant) (x : Nat) : Tenant :=
  let w (lo : Nat) : W64 := BitVec.ofNat 64 (x / 2 ^ lo)
  { t with root := keep (w 0) (bits 51 8), retQ := w 64, promQ := w 128, msiAddr := w 192, quota := fld x 265 256, fquota := fld x 271 266,
           msiData := BitVec.ofNat 32 (x / 2 ^ 288), lq0 := w 320, lq1 := w 384, lq2 := w 448, lq3 := w 512, armTab := w 576, hcRing := w 640, errQ := w 704,
           fsq := w 768, landTab := w 832 }

/-- CMD written: `op` says that the store reaches OP. One that writes OP 1 or 2 is an event of its own, and none counts while BUSY is 1 (R380). -/
def Tenant.setCmd (t : Tenant) (x : W64) (op : Bool) : Tenant :=
  if t.cmd.getLsbD 5 || (op && (x.toNat % 16 == 1 || x.toNat % 16 == 2)) then t else { t with cmd := keep x (bits 63 32 + bits 4 0) }

/-- A tenant control block written by a store of some of its bytes; only one that reaches CMD, from byte 120, changes it (R5, R378). -/
def State.writeBlock (s : State) (tenant off n v : Nat) : State :=
  let x := setFld (s.tenant tenant).block (8 * (off + n) - 1) (8 * off) v
  let s := s.updTenant tenant (fun t => if off < 120 then t.setBlock x else (t.setBlock x).setCmd (BitVec.ofNat 64 (x / 2 ^ 960)) (off == 120))
  if off < 36 ∧ 34 < off + n then s.setMsiMask tenant (BitVec.ofNat 16 (x / 2 ^ 272)) else s

/-- Bytes of the control space that a store simply changes: MODID, BOOTADDR, the slot table, gate owners, the nonce, gate records and gate weights (R375, R376). -/
def plainByte (a : Nat) : Bool :=
  decide (a < 2) || (decide (16 ≤ a) && decide (a < 24)) || (decide (64 ≤ a) && decide (a < 224)) || (decide (256 ≤ a) && decide (a < 288))
    || (decide (0x2000 ≤ a) && decide (a < 0x3800)) || (decide (0x400000 ≤ a) && decide (a < 0x3400000) && decide ((a - 0x400000) % 0x200000 < 0x180000))

/-- HALT written: `op` says that the store reaches OP. One that writes OP 1 is an event of its own, a reserved OP is ignored, and none counts while BUSY is 1 (R418). -/
def Halt.set (h : Halt) (x : W64) (op : Bool) : Halt :=
  if h.busy || (op && x.toNat % 16 == 1) then h
  else { h with launchId := BitVec.ofNat 32 (x.toNat / 2 ^ 32), tenant := fld x.toNat 11 8, all := x.getLsbD 4, op := if op && x.toNat % 16 == 0 then 0 else h.op }

/-- HALT as the host reads it (R418). -/
def Halt.value (h : Halt) : Nat := h.launchId.toNat * 2 ^ 32 + h.tenant % 16 * 2 ^ 8 + b2n h.busy * 32 + b2n h.all * 16 + h.op % 16

/-- CONTROL_SPACE_WRITE (R375-R378, R418, R419): a store of 1 to 8 bytes within an aligned word; reserved bits and bytes outside the ranges are ignored. -/
def execControlSpaceWrite (offset size : Nat) (value : W64) (s : State) : Host.Outcome State Fault Refusal :=
  let v := value.toNat % 2 ^ (8 * size)
  if size = 0 || 8 < offset % 8 + size || !s.eweovUp then .next s
  else if 0x1000 ≤ offset && offset < 0x2000 then .next (s.writeBlock ((offset - 0x1000) / 256) (offset % 256) size v)
  else if 448 ≤ offset && offset < 456 then
    .next { s with halt := s.halt.set (BitVec.ofNat 64 (setFld s.halt.value (8 * (offset - 448 + size) - 1) (8 * (offset - 448)) v)) (offset == 448) }
  else if 456 ≤ offset && offset < 464 then
    .next { s with wdog := BitVec.ofNat 32 (setFld s.wdog.toNat (8 * (offset - 456 + size) - 1) (8 * (offset - 456)) v) }
  else
    let byte (i : Nat) : Nat := let x := v / 2 ^ (8 * i) % 256; if offset + i = 1 then x % 16 else x
    .next { s with ctl := (List.range size).foldl (fun m i => if plainByte (offset + i) then m.write (offset + i) 1 (byte i) else m) s.ctl }

/-! ### Attestation (R389) -/

/-- Bytes of the control space. -/
def State.ctlBytes (s : State) (a n : Nat) : List Byte := (List.range n).map (fun i => s.ctl.get (a + i))

/-- ATTESTATION_SIGN (R389): the digest of the log entries, the nonce and their number is signed, and the done bit is set. -/
def execAttestationSign (s : State) : Host.Outcome State Fault Refusal :=
  let m := s.ctlBytes 1024 (64 * s.logN) ++ s.ctlBytes 256 32 ++ bytesOf 8 s.logN
  if s.stopped then .next s
  else .next { s with ctl := (s.ctl.write 320 64 (Config.attestSign (sha512 m)).toNat).write 288 1 2 }

/-! ### Power (R385-R387, R424) -/

/-- The 24 dies. -/
def dies : List Nat := List.range 24

/-- A black-box event on every die (R481). -/
def State.bbAll (s : State) (unit cause : Nat) (info : W64) (detail : Nat) : State := dies.foldl (fun s d => s.bb d unit 0 cause info detail) s

/-- The clocks run at a state, from now on (R387, R424, R481). -/
def State.clocksAt (s : State) (n : Nat) : State := { s with power := { s.power with trip := false, busy := false, cur := n, req := n } }.bbAll 40 0x45 0 n

/-- POWER.REQ written with 0, 1 or 2: after a trip it is ignored until the sensor is below its limit, and then restarts the clocks; so it does when they are stopped; else a transition is in progress (R386, R387, R424). -/
def State.powerReq (s : State) (n : Nat) : State :=
  let p := s.power
  if p.trip then (if p.hot then s else s.clocksAt n)
  else if p.cur = 3 then s.clocksAt n
  else { s with power := { p with req := n, busy := p.cur != n } }

/-- POWER_REQ_3.6_GHZ (R387). -/
def execPowerReq36Ghz (s : State) : Host.Outcome State Fault Refusal := .next (s.powerReq 0)
/-- POWER_REQ_2.4_GHZ (R387). -/
def execPowerReq24Ghz (s : State) : Host.Outcome State Fault Refusal := .next (s.powerReq 1)
/-- POWER_REQ_1.2_GHZ (R387). -/
def execPowerReq12Ghz (s : State) : Host.Outcome State Fault Refusal := .next (s.powerReq 2)

/-- POWER_REQ_STOP (R387, R424): after a trip the clocks stay stopped, and TRIP is cleared. -/
def execPowerReqStop (s : State) : Host.Outcome State Fault Refusal :=
  let p := s.power
  if p.trip then .next (if p.hot then s else { s with power := { p with trip := false, busy := false, cur := 3, req := 3 } })
  else .next { s with power := { p with req := 3, busy := p.cur != 3 } }

/-- POWER_TRANSITION (R387): at a frame boundary. -/
def execPowerTransition (s : State) : Host.Outcome State Fault Refusal :=
  let p := s.power
  if s.stopped || !p.busy || 3 ≤ p.req || s.clock % 64 != 0 then .next s else .next (s.clocksAt p.req)

/-- Reads and writes of lines of the host range that are on their way over Eweov (R387). -/
def State.linkBusy (s : State) : Bool :=
  let host (line : Nat) : Bool := isHost (line * 128)
  s.reqs.any (fun r => host r.line) || s.merges.any (fun m => host m.line) || s.acks.any (fun a => host a.line)

/-- POWER_STOPPED (R387): outstanding engine operations, the copies of demotions and link transfers have completed. -/
def execPowerStopped (s : State) : Host.Outcome State Fault Refusal :=
  let p := s.power
  if s.stopped || !p.busy || p.req != 3 || !s.ops.isEmpty || !s.inbox.isEmpty || !s.moves.isEmpty || s.linkBusy then .next s else .next (s.clocksAt 3)

/-- THERMAL_TRIP (R424): every clock stops. -/
def execThermalTrip (die sensor : Nat) (s : State) : Host.Outcome State Fault Refusal :=
  if s.power.trip then .next s
  else .next ({ s with power := { s.power with trip := true, hot := true, hotDie := die } }.bb die 40 0 0x44 0 sensor)

/-- SENSOR_BACK_BELOW_LIMIT (R424). -/
def execSensorBackBelowLimit (s : State) : Host.Outcome State Fault Refusal := .next { s with power := { s.power with hot := false } }

/-! ### Links (R357, R479, R480) -/

/-- An error record to every tenant. -/
def State.errAll (s : State) (kind detail : Nat) (info : W64) : State :=
  (List.range 16).foldl (fun s t => s.pushErr { tenant := t, kind := kind, detail := detail, info := info }) s

/-- EWEOV_LINK_DOWN (R479). -/
def execEweovLinkDown (s : State) : Host.Outcome State Fault Refusal :=
  if s.stopped || !s.eweovUp then .next s else .next (({ s with eweovUp := false }.bb 0 41 0 0x42 32 0).errAll 14 0 0)

/-- EWEOV_LINK_UP (R479): held interrupts are sent. -/
def execEweovLinkUp (s : State) : Host.Outcome State Fault Refusal :=
  if s.stopped || s.eweovUp then .next s
  else .next ((((List.range 16).foldl (fun (s : State) t => s.sendHeld t) { s with eweovUp := true }).bb 0 41 0 0x43 32 0).errAll 14 1 0)

/-- The port of a send to another module (R480, log 21). -/
def portOf (dmod : Nat) : Nat := Config.norvanPort dmod % 18

/-- The destination module of a descriptor (R382). -/
def sendDmod (d : Nat) : Nat := fld d 235 224

/-- Sends under way over a port complete with a fault (R463, R480). -/
def State.sendsFail (s : State) (port : Nat) : State :=
  (s.ops.filter (fun o => !o.ready && (match o.kind with | .send _ d => o.started && sendDmod d.toNat != s.modId && portOf (sendDmod d.toNat) == port | _ => false))).foldl
    (fun s o => s.opFault o.id 0x30 0x82 0 0) s

/-- NORVAN_PORT_DOWN (R480). -/
def execNorvanPortDown (port peer : Nat) (s : State) : Host.Outcome State Fault Refusal :=
  if s.stopped || 18 ≤ port || !s.norvanUp.getLsbD port then .next s
  else
    let s := ({ s with norvanUp := s.norvanUp &&& ~~~(BitVec.ofNat 18 (2 ^ port)) }.sendsFail port).bb port 40 0 0x42 (BitVec.ofNat 64 port) 0
    .next (s.errAll 15 port (BitVec.ofNat 64 peer))

/-- NORVAN_PORT_UP (R480). -/
def execNorvanPortUp (port peer : Nat) (s : State) : Host.Outcome State Fault Refusal :=
  if s.stopped || 18 ≤ port || s.norvanUp.getLsbD port then .next s
  else
    let s := { s with norvanUp := s.norvanUp ||| BitVec.ofNat 18 (2 ^ port) }.bb port 40 0 0x43 (BitVec.ofNat 64 port) 0
    .next (s.errAll 15 (port + 128) (BitVec.ofNat 64 peer))

/-- TAGGED_LAUNCH_MESSAGE (R357): the payload is written, and then the tag step runs. A payload that cannot be written runs none. -/
def execTaggedLaunchMessage (tenant : Nat) (tag : W32) (addr : W64) (payload : List Byte) (s : State) : Host.Outcome State Fault Refusal :=
  if s.stopped || !s.eweovUp || 16 ≤ tenant || !s.ownsSlot tenant then .next s
  else
    match s.vwrite (s.agentTr unitFabric tenant { w := true }) addr.toNat payload.length (ofBytes payload) with
    | .error _ => .next s
    | .ok s => .next ((s.keepRange unitFabric tenant addr.toNat payload.length).tagStep tenant tag addr)

/-! ### Errors in storage (R455, R458, R481) -/

/-- A corrected error of a unit: the black box takes at most one event of it in 2^20 cycles, with the errors since the last (R481). -/
def State.corrected (s : State) (die unit : Nat) (addr : W64) : State :=
  let key := die * 256 + unit
  match s.corr.find? (fun c => c.1 == key) with
  | none => { s with corr := s.corr ++ [(key, s.clock, 0)] }.bb die unit 0 0x41 addr 1
  | some c =>
    if c.2.1 + 2 ^ 20 ≤ s.clock then { s with corr := updWhere (fun c => c.1 == key) (fun c => (c.1, s.clock, 0)) s.corr }.bb die unit 0 0x41 addr (c.2.2 + 1)
    else { s with corr := updWhere (fun c => c.1 == key) (fun c => (c.1, c.2.1, c.2.2 + 1)) s.corr }

/-- CORRECTED_ERROR (R455, R481). -/
def execCorrectedError (die unit : Nat) (addr : W64) (s : State) : Host.Outcome State Fault Refusal := .next (if s.stopped then s else s.corrected die unit addr)

/-- An uncorrectable error in a line of a first-level cache: a dirty word is poisoned; a clean one is read again, which counts as corrected (R458). -/
def State.cacheError (s : State) (core pa : Nat) : State :=
  match (s.core core).line (pa / 128) with
  | none => s
  | some l =>
    let w := pa % 128 / 4
    if l.dirty.toNat / 2 ^ (4 * w) % 16 ≠ 0 then s.updCore core (fun c => c.updLine (pa / 128) (fun l => { l with poison := l.poison ||| BitVec.ofNat 32 (2 ^ w) }))
    else (s.invalidate core (fun x => x == pa / 128)).corrected (coreDie core) (coreUnit core) (BitVec.ofNat 64 pa)

/-- UNCORRECTABLE_ERROR (R455, R458): the word or line is poisoned. -/
def execUncorrectableError (site : ErrSite) (s : State) : Host.Outcome State Fault Refusal :=
  if s.stopped then .next s
  else
    match site with
    | .memory pa => .next (if (isHbm pa || isLp pa) && !s.poisonAt pa then { s with memPoison := s.memPoison ++ [pa / 128] } else s)
    | .vector team grp reg lane => .next (s.updGroup team grp (fun g => if reg < g.count ∧ lane < g.width then g.vpoison reg lane else g))
    | .uniform team grp reg arm => .next (s.updGroup team grp (fun g => if reg < 128 then { g with spo := g.spo ++ [ukey arm reg] } else g))
    | .scratch team off => .next (s.updTeam team (fun t => if off < t.scrSize then { t with scrPoison := t.scrPoison ++ [off / 4] } else t))
    | .tile core i => .next (if i < 65536 then s.updCore core (fun c => { c with tilePoison := c.tilePoison ++ [i] }) else s)
    | .cacheWord core pa => .next (s.cacheError core pa)

/-! ### Resets (R388, R390, R391) -/

/-- The bytes of the firmware image at a physical address: its header and body (R388). -/
def State.imageBytes (s : State) (pa n : Nat) : List Byte := (List.range n).map (fun i => s.mem.get (pa + i))

/-- The boot ROM: the image's digest is logged after the ROM's own, and the firmware starts if the signature verifies (R388). BOOTADDR is taken as a place of the module's map (R15; DESIGN CHOICE, log 115). -/
def State.boot (s : State) : State :=
  let a := s.ctl.read 16 8
  let digest := sha512 (s.imageBytes a 64 ++ s.imageBytes (a + 128) (s.mem.read (a + 8) 8))
  let sig : BitVec 512 := BitVec.ofNat 512 (s.mem.read (a + 64) 64)
  { s with ctl := ((s.ctl.write 384 32 Config.attestKey.toNat).write 1024 64 Config.romDigest.toNat).write 1088 64 (ofBytes digest),
           logN := 2, firmware := Config.ed25519Verify Config.dalnarKey digest sig }

/-- The firmware has loaded a service kernel: an entry with its digest is appended to the measurement log, while the log has room (R376, R388). -/
def State.logKernel (s : State) (digest : BitVec 512) : State :=
  if s.stopped || !s.firmware || decide (48 ≤ s.logN) then s else { s with ctl := s.ctl.write (1024 + 64 * s.logN) 64 digest.toNat, logN := s.logN + 1 }

/-- COLD_RESET (R388, R391): everything is cleared; host memory, and BOOTADDR as the board wrote it, are not the module's. -/
def execColdReset (s : State) : Host.Outcome State Fault Refusal :=
  let clear : State := { State.reset with
    mem := s.mem.filter (fun p => isHost p.1), ctl := (Sparse.write [] 16 8 (s.ctl.read 16 8)), script := s.script, fresh := s.fresh, nextId := s.nextId }
  .next clear.boot

/-- Device memory after a warm reset: each byte that was listed takes a value that nothing constrains (R391, log 9). -/
def forget : Sparse 8 → Sparse 8 → Nat → Sparse 8 × Nat
  | [], m, k => (m, k)
  | (a, _) :: t, m, k => if isHost a then forget t m k else forget t (m.set a (BitVec.ofNat 8 (Config.freeValue k).toNat)) (k + 1)

/-- Control-space bytes that warm reset keeps: BOOTADDR, the attestation key, the measurement log and the black-box rings (R391). -/
def keptByte (a : Nat) : Bool :=
  (decide (16 ≤ a) && decide (a < 24)) || (decide (384 ≤ a) && decide (a < 416)) || (decide (1024 ≤ a) && decide (a < 4096)) || (decide (0x100000 ≤ a) && decide (a < 0x400000))

/-- WARM_RESET (R391, R397, R481). -/
def execWarmReset (s : State) : Host.Outcome State Fault Refusal :=
  let m := forget s.mem s.mem s.fresh
  let s' : State := { State.reset with
    mem := m.1, fresh := m.2, ctl := s.ctl.filter (fun p => keptByte p.1), logN := s.logN, firmware := s.firmware, bbSeq := s.bbSeq, clock := s.clock,
    script := s.script, nextId := s.nextId }
  .next (s'.bbAll 40 0x4A 0 0)

end Sys2Proof.Machine
end

