-- ==== Sys2Proof/Machine/Fabric.lean ====
section
/-! DEFINITION. The fabric interface: sends popped and read, what lands at the receiver, gate scoring, and the end of a send (R162, R163, R382-R384, R457, R463, R464, R474, R475, R480, R486). -/

namespace Sys2Proof.Machine

/-! ### Sending (R382, R480) -/

/-- A descriptor that is malformed: a reserved bit, KIND 3, LEN no multiple of 4, or rows that ROWB does not divide (R382, R464). -/
def sendBad (d : Nat) : Bool :=
  fld d 255 248 != 0 || fld d 239 236 != 0 || fld d 247 246 == 3 || fld d 95 64 % 4 != 0
    || (fld d 247 246 == 1 && (fld d 159 128 % 128 != 0 || fld d 95 64 % fld d 159 128 != 0))

/-- A send's source, read at the slices by the fabric interface: its bytes, and the words of them that are poisoned (R65, R382, R457, R486). The reserved range reads zero (R15; DESIGN CHOICE, log 16). -/
def State.sendRead (s : State) (tenant va n : Nat) : Except EFault (List Byte × List Nat) :=
  (pieces va n).foldr (fun p acc =>
    match s.reachAgent unitFabric tenant p.1 (needR false), acc with
    | .bad c d, _ => .error (c, d, p.1)
    | .ok _, .error e => .error e
    | .ok e, .ok (b, w) =>
      let pa := e.at p.1
      if isHost pa && !s.eweovUp then .error (0x82, 0, p.1)
      else
        let lo := (p.1 - va) / 4
        let x := s.see pa p.2
        let ws := if x.2 then (List.range ((p.1 - va + p.2 + 3) / 4 - lo)).map (fun i => lo + i) else []
        .ok (bytesOf p.2 x.1 ++ b, ws ++ w)) (.ok ([], []))

/-- Line accesses of a read by the fabric interface: counted, and their translations kept (R397, R486). -/
def State.fabricTouch (s : State) (tenant va n : Nat) : State :=
  (pieces va n).foldl (fun s p =>
    match s.reachAgent unitFabric tenant p.1 (needR false) with
    | .ok e => (s.perfLine tenant (e.at p.1 / 128)).keepAgent unitFabric tenant p.1
    | .bad _ _ => s) s

/-- The send that an entry of the send queue stands for: the one pushed at that value of TAIL, not yet popped. -/
def State.sendAt (s : State) (tenant index : Nat) : Option EngOp :=
  s.ops.find? (fun o => o.tag.tenant == tenant && !o.started && !o.ready && (match o.kind with | .send i _ => i == index | _ => false))

/-- A send stops at a fault: its operation completes with it; an entry that no group pushed has none to tell. -/
def State.sendStop (s : State) (o : Option EngOp) (e : EFault) : State := match o with | some o => s.engFault o.id e | none => s

/-- A send popped: a malformed one, one whose port is down and one whose source cannot be read fault; one to this module enters its own inbox, and any other leaves over its port (R382, R463, R464, R480). -/
def State.transmit (s : State) (tenant : Nat) (o : Option EngOp) (d : Nat) : State :=
  let va := fld d 63 0
  let n := fld d 95 64
  if sendBad d then s.sendStop o (0x80, 0, 0)
  else if sendDmod d != s.modId && !s.norvanUp.getLsbD (portOf (sendDmod d)) then s.sendStop o (0x82, 0, 0)
  else
    match s.sendRead tenant va n with
    | .error e => s.sendStop o e
    | .ok (b, w) =>
      let s := s.fabricTouch tenant va n
      if sendDmod d != s.modId || (o.isNone && n = 0 && fld d 247 246 != 2) then s
      else
        { s with nextId := s.nextId + 1,
                 inbox := s.inbox ++ [{ id := s.nextId, op := o.map (fun o => o.id), srcMod := s.modId, tenant := tenant, kind := fld d 247 246, land := fld d 245 240,
                                        tag := BitVec.ofNat 32 (fld d 223 192), row0 := fld d 191 160, rowb := fld d 159 128, doff := fld d 127 96, data := b, po := w }] }

/-- FABRIC_SEND (R382): the fabric interface pops a tenant's next send. A queue that is frozen or cannot be popped gives none. -/
def execFabricSend (tenant : Nat) (s : State) : Host.Outcome State Fault Refusal :=
  if s.stopped || 16 ≤ tenant || !s.ownsSlot tenant || (s.tenant tenant).fsq = 0 then .next s
  else
    match s.agentPop unitFabric tenant (s.tenant tenant).fsq.toNat with
    | (s', .done i v) =>
      let s' := s'.keepAgent unitFabric tenant (s.tenant tenant).fsq.toNat
      let o := s'.sendAt tenant i
      let d := v % 2 ^ 256
      let s' := match o with | some o => s'.updOp o.id (fun o => { o with started := true, kind := .send i (BitVec.ofNat 256 d) }) | none => s'
      .next (s'.transmit tenant o d)
    | _ => .next s

/-! ### Landing entries (R383, R384, R474, R475) -/

/-- A landing entry, and the reason for which it can take nothing (R383, R474): it cannot be reached, or it is not open. A poisoned entry counts as not open. In the reserved range it reads zero (R15; DESIGN CHOICE, log 16). -/
def State.landEntry (s : State) (tenant land : Nat) : Nat × Nat :=
  let va := (s.tenant tenant).landTab.toNat + 32 * land
  match s.reachAgent unitFabric tenant va (needR false) with
  | .bad c _ => (0, if c = 0x11 then 4 else 3)
  | .ok e => if s.poisonAt (e.at va) then (0, 1) else let x := s.peek (e.at va) 32; (x, if x.testBit 64 then 0 else 1)

/-- The resident or pre-empted team that an entry names. -/
def State.landTeam (s : State) (tenant x : Nat) : Option Nat :=
  (List.range s.teams.length).find? (fun k => match s.team k with
    | some t => !t.place.finished 0 && t.index == fld x 191 160 && (s.launch t.launch).id == fld x 159 128 && (s.launch t.launch).tenant == tenant
    | none => false)

/-- Bytes counted down on the object that an entry names, when it names one within its team's scratchpad. -/
def State.landCount (s : State) (tenant x n : Nat) (fault : Bool) : State :=
  let b := fld x 223 192
  match s.landTeam tenant x with
  | some k => if b == 0xFFFFFFFF || b % 16 != 0 || decide (s.sizeOf k < b + 16) then s else s.countDown k b n fault
  | none => s

/-- Why a range of n bytes at an offset of the window cannot be written (R474); 0 when it can. Host memory is out of reach while Eweov is down. -/
def State.landBlocked (s : State) (tenant x off n : Nat) : Nat :=
  if fld x 127 96 < off + n then 2
  else
    match (pieces (fld x 63 0 + off) n).findSome? (fun p => match s.reachAgent unitFabric tenant p.1 (needW false) with
      | .bad c _ => some (if c = 0x11 then 4 else 3)
      | .ok e => if isHost (e.at p.1) && !s.eweovUp then some 3 else none) with
    | some r => r
    | none => 0

/-- The pieces of a message that land or fail by themselves, as (offset in the payload, bytes): 128-byte lines of the window, rows, or the whole payload (R384, R474). -/
def Landing.parts (m : Landing) : List (Nat × Nat) :=
  if m.kind = 0 then (pieces m.doff m.data.length).map (fun p => (p.1 - m.doff, p.2))
  else if m.kind = 1 then (List.range (m.data.length / m.rowb)).map (fun i => (i * m.rowb, m.rowb))
  else [(0, m.data.length)]

/-- Some byte of a piece is poisoned. -/
def Landing.bad4 (m : Landing) (off n : Nat) : Bool := m.po.any (fun w => decide (off < 4 * w + 4) && decide (4 * w < off + n))

/-- A piece written at its slices. The line copies of the core that sent it go, as those of an engine's destination do (R105). -/
def State.landWrite (s : State) (m : Landing) (va off n : Nat) : State :=
  (pieces va n).foldl (fun s p =>
    match s.reachAgent unitFabric m.tenant p.1 (needW false) with
    | .bad _ _ => s
    | .ok e =>
      let s := s.keepAgent unitFabric m.tenant p.1
      let v := ofBytes ((m.data.drop (off + (p.1 - va))).take p.2)
      let b := m.bad4 (off + (p.1 - va)) p.2
      match m.op.bind s.op with
      | some o => s.engineWrite o.core o.tag (e.at p.1) p.2 v b
      | none =>
        let s := (s.perfLine m.tenant (e.at p.1 / 128)).poke (e.at p.1) p.2 v
        if b && !s.poisonAt (e.at p.1) then { s with memPoison := s.memPoison ++ [e.at p.1 / 128] } else s) s

/-- A piece is over; a message of another module leaves the inbox with its last, and one that came through loopback when its send completes. -/
def State.landOver (s : State) (m : Landing) (k : Nat) (bad : Bool) : State :=
  let m' : Landing := { m with done := m.done ++ [k], bad := m.bad || bad }
  if m'.op.isNone && decide (m.parts.length ≤ m'.done.length) then { s with inbox := s.inbox.filter (fun x => x.id != m.id) }
  else { s with inbox := updWhere (fun x => x.id == m.id) (fun _ => m') s.inbox }

/-- A piece that cannot land (R474, R475): it counts down with FAULT where it can, a kind-11 record is pushed, and REMOTEROW goes to the team that awaits it. -/
def State.landFail (s : State) (m : Landing) (k x reason info n va : Nat) : State :=
  let s := if reason = 1 ∨ reason = 6 then s else s.landCount m.tenant x n true
  let s := s.pushErr { tenant := m.tenant, kind := 11, code := 0x34, detail := reason, launch := fld x 159 128, team := fld x 191 160,
                       info := BitVec.ofNat 64 (info % 2 ^ 32 + m.srcMod % 4096 * 2 ^ 32 + m.land % 64 * 2 ^ 44) }
  let s := match s.landTeam m.tenant x with
    | some t =>
      (match s.team t, (s.liveGroups t).foldr insertGroup [] with
       | some tm, g :: _ =>
         if tm.place.here && fld x 223 192 != 0xFFFFFFFF then s.imprecise { tenant := m.tenant, team := t, grp := g.idx } 0x34 0 0 (BitVec.ofNat 64 va) 0 else s
       | _, _ => s)
    | none => s
  s.landOver m k true

/-- A piece lands, unless a reason of R474 stops it. `gate` gives what must be written before the bytes count down, and reason 5 or 7; `done` is what follows a piece that has landed. -/
def State.landPiece (s : State) (m : Landing) (k info : Nat) (gate : State → Nat → Except Nat (State → State)) (done : State → W64 → State) : State :=
  match m.parts[k]? with
  | none => s
  | some (off, n) =>
    let (x, r) := s.landEntry m.tenant m.land
    let s := s.keepAgent unitFabric m.tenant ((s.tenant m.tenant).landTab.toNat + 32 * m.land)
    let va := fld x 63 0 + m.doff + off
    let r := if r ≠ 0 then r else s.landBlocked m.tenant x (m.doff + off) n
    if r ≠ 0 then s.landFail m k x r info n va
    else
      match gate s x, (s.landTeam m.tenant x).isNone with
      | .error 5, _ => s.landFail m k x 5 info n va
      | _, true => s.landFail m k x 6 info n va
      | .error r, _ => s.landFail m k x r info n va
      | .ok f, _ =>
        let s := ((f (s.landWrite m va off n)).landCount m.tenant x n false)
        (done s (BitVec.ofNat 64 va)).landOver m k false

/-- A message whose piece k may land now: its tenant has the cycle, and the piece has neither landed nor failed. -/
def State.landReady (s : State) (id kind k : Nat) : Option Landing :=
  match s.inbox.find? (fun m => m.id == id) with
  | none => none
  | some m => if s.stopped || m.kind != kind || m.done.contains k || !s.ownsSlot m.tenant then none else some m

/-- Nothing to score. -/
def noGate : State → Nat → Except Nat (State → State) := fun _ _ => .ok id

/-- REMOTE_WRITE_LANDING (R384, R474): one line of a KIND 0 write. -/
def execRemoteWriteLanding (id line : Nat) (s : State) : Host.Outcome State Fault Refusal :=
  match s.landReady id 0 line with
  | none => .next s
  | some m => .next (s.landPiece m line (m.doff + (match m.parts[line]? with | some p => p.1 | none => 0)) noGate (fun s _ => s))

/-! ### Gate scoring (R162, R163) -/

/-- The gate record of a gate. -/
def State.gateRec (s : State) (gate : Nat) : Nat := s.ctl.read (0x2000 + 64 * gate) 64

/-- A gate record that is out of its ranges, or whose weights do not lie within the SRAM (R162). -/
def gateBad (x : Nat) : Bool :=
  let h := fld x 47 32
  let e := fld x 8 0
  fld x 511 384 != 0 || fld x 191 64 != 0 || fld x 63 60 != 0 || fld x 55 48 != 0 || fld x 31 9 != 0 || h % 64 != 0 || decide (h < 64) || decide (8192 < h)
    || decide (e = 0) || decide (256 < e) || decide (0x180000 < fld x 223 192 + 2 * e * h) || fld x 383 320 % 64 != 0 || fld x 319 256 % 128 != 0 || fld x 255 224 % 128 != 0

/-- Element i of a list of bytes as BF16. -/
def bf16At (l : List Byte) (i : Nat) : FVal := Ty.bf16.fmt.decode ((l.getD (2 * i) 0).toNat + 256 * (l.getD (2 * i + 1) 0).toNat)

/-- The score of a row for one expert: RNE_FP32 of the exact dot product (R163). -/
def State.gateScore (s : State) (die x : Nat) (row : List Byte) (e : Nat) : W32 :=
  let h := fld x 47 32
  let base := 0x400000 + die * 0x200000 + fld x 223 192 + e * h * 2
  let w := bytesOf (2 * h) (s.ctl.read base (2 * h))
  rneF32 (exactSum 0 ((List.range h).map (fun j => (bf16At row j).mul (bf16At w j))))

/-- Scores in ascending order; a NaN ranks below every number. -/
def scoreKey (v : W32) : Int :=
  let m : Nat := v.toNat % 2 ^ 31
  if 0x7F800000 < m then -(2 ^ 40 : Nat) else if v.msb then -(m : Int) else m

/-- Insertion in descending order, behind equal scores. -/
def insertScore (x : W32 × Nat) : List (W32 × Nat) → List (W32 × Nat)
  | [] => [x]
  | y :: t => if scoreKey y.1 < scoreKey x.1 then x :: y :: t else y :: insertScore x t

/-- The k largest scores, in descending order, ties to the lower expert. -/
def topScores (k : Nat) (l : List W32) : List (W32 × Nat) := (l.zipIdx.foldl (fun acc x => insertScore x acc) []).take k

/-- The weights of the choices: the scores themselves, or a softmax over them (R163). -/
def gateWeights (softmax : Bool) (l : List W32) : List W32 :=
  match l with
  | [] => []
  | m :: _ =>
    if !softmax then l
    else
      let t := l.map (fun v => exp2Diff v m)
      let d := rneF32 (exactSum 0 (t.map valF32))
      t.map (fun v => loOf (roundF .f32 0 ((valF32 v).div (valF32 d))))

/-- The 64-byte entry of a gate table. -/
def gateEntry (l : List (W32 × Nat)) : Nat := l.zipIdx.foldl (fun a p => a + (p.1.1.toNat * 2 ^ 32 + p.1.2) * 2 ^ (64 * p.2)) 0

/-- A write of the fabric interface to one place, and its line poisoned when the value is. -/
def State.gatePut (s : State) (tenant va n v : Nat) (bad : Bool) : State :=
  match s.reachAgent unitFabric tenant va (needRW false) with
  | .bad _ _ => s
  | .ok e =>
    let s := ((s.keepAgent unitFabric tenant va).perfLine tenant (e.at va / 128)).poke (e.at va) n v
    if bad && !s.poisonAt (e.at va) then { s with memPoison := s.memPoison ++ [e.at va / 128] } else s

/-- Gate scoring of row r (R163): the gate table's entry and the bitmaps of the experts chosen; reason 7 when one of them cannot be written, or the record or the row gives no scores. -/
def State.score (s : State) (tenant gate r : Nat) (row : List Byte) (bad : Bool) : Except Nat (State → State) :=
  let x := s.gateRec gate
  if gateBad x || decide (row.length < 2 * fld x 47 32) then .error 7
  else
    let top := topScores (fld x 58 56 + 1) ((List.range (fld x 8 0)).map (s.gateScore (gate / 4) x row))
    let g := gateWeights (x.testBit 59) (top.map (fun p => p.1))
    let tab := fld x 383 320 + 64 * r
    let bit (e : Nat) : Nat := fld x 319 256 + e * fld x 255 224 + r / 8
    let ok (rmw : Bool) (va : Nat) : Bool := match s.reachAgent unitFabric tenant va { rd := rmw, w := true } with
      | .ok e => !(isHost (e.at va) && !s.eweovUp) && !(rmw && s.poisonAt (e.at va))
      | .bad _ _ => false
    if !ok false tab || !(top.all (fun p => ok true (bit p.2))) then .error 7
    else
      .ok (fun s =>
        let s := s.gatePut tenant tab 64 (gateEntry (g.zip (top.map (fun p => p.2)))) bad
        top.foldl (fun s p =>
          let old := match s.reachAgent unitFabric tenant (bit p.2) (needRW false) with | .ok e => s.peek (e.at (bit p.2)) 1 | .bad _ _ => 0
          s.gatePut tenant (bit p.2) 1 (old ||| 2 ^ (r % 8)) bad) s)

/-- What a row's landing entry asks of a gate: nothing, reason 5 for a gate that its tenant does not own, or scoring (R384, R474). -/
def State.gateFor (s : State) (m : Landing) (r off : Nat) (x : Nat) : Except Nat (State → State) :=
  let g := fld x 71 65
  if g = 0x7F then .ok id
  else if 96 ≤ g ∨ s.ctl.read (128 + g) 1 ≠ m.tenant then .error 5
  else s.score m.tenant g r ((m.data.drop off).take m.rowb) (m.bad4 off m.rowb)

/-- TOKEN_ROW_LANDING (R384, R163, R474): one row of a KIND 1 send. -/
def execTokenRowLanding (id row : Nat) (s : State) : Host.Outcome State Fault Refusal :=
  match s.landReady id 1 row with
  | none => .next s
  | some m =>
    let r := (m.row0 + row) % 2 ^ 32
    .next (s.landPiece m row r (fun s x => s.gateFor m r (row * m.rowb) x) (fun s _ => s))

/-- TAGGED_MESSAGE_LANDING (R384, R357): the payload lands and counts down, and then the tag step runs. A payload that cannot land fires nothing. -/
def execTaggedMessageLanding (id : Nat) (s : State) : Host.Outcome State Fault Refusal :=
  match s.landReady id 2 0 with
  | none => .next s
  | some m => .next (s.landPiece m 0 m.doff noGate (fun s va => s.tagStep m.tenant m.tag va))

/-! ### The end of a send (R105, R384, R474) -/

/-- A send goes through loopback. -/
def State.loops (s : State) (o : EngOp) : Bool := match o.kind with | .send _ d => sendDmod d.toNat == s.modId | _ => false

/-- The destination has acknowledged a send's last count-down: through loopback when every piece has landed or failed; over a port when the other module says so. -/
def State.sendAcked (s : State) (o : EngOp) : Bool :=
  match o.kind with
  | .send _ d => o.started && !o.ready && (sendDmod d.toNat != s.modId || (match s.inbox.find? (fun m => m.op == some o.id) with
      | some m => decide (m.parts.length ≤ m.done.length)
      | none => false))
  | _ => false

/-- FABRIC_SEND_COMPLETE (R384, R105, R474): the send has performed its effects, and completes in the issue order of its group's class. Another module says with `e.result` 1 that a row or line failed there. STATE 3 of such a send raises nothing. -/
def execFabricSendComplete (e : Finish) (s : State) : Host.Outcome State Fault Refusal :=
  match s.op e.id with
  | none => .next s
  | some o =>
    if s.stopped || !s.sendAcked o || decide (1 < e.result) then .next s
    else
      let bad := if s.loops o then s.inbox.any (fun m => m.op == some e.id && m.bad) else e.result == 1
      let s := ({ s with inbox := s.inbox.filter (fun m => m.op != some e.id) }.updOp e.id (fun o => { o with faulted := bad })).opReady e.id
      execEngineOpComplete e.id s

end Sys2Proof.Machine
end

