-- ==== Sys2Proof/Machine/FloatOps.lean ====
section
/-! DEFINITION. Major F: float arithmetic, functions, compares and classes in every lane of Active() (R250-R255). -/

namespace Sys2Proof.Machine

/-- A float function's value in a lane, rounded as its mode code says (R125, R250-R253). -/
def vecFloat (f : FOp) (t : Ty) (md : Nat) : Body :=
  laneWise t (fun cx L => f.value t md (cx.src cx.h.a t L) (cx.srcB t L) (cx.src cx.h.c t L))

/-- F_ADD (R250). -/
def execFAdd (w : Word) (s : State) : Host.Outcome State Fault Refusal := issue (.fAdd w) s (vecFloat .add w.ty w.round.toNat)

/-- F_SUB (R250). -/
def execFSub (w : Word) (s : State) : Host.Outcome State Fault Refusal := issue (.fSub w) s (vecFloat .sub w.ty w.round.toNat)

/-- F_MUL (R250). -/
def execFMul (w : Word) (s : State) : Host.Outcome State Fault Refusal := issue (.fMul w) s (vecFloat .mul w.ty w.round.toNat)

/-- F_FMA (R250). -/
def execFFma (w : Word) (s : State) : Host.Outcome State Fault Refusal := issue (.fFma w) s (vecFloat .fma w.ty w.round.toNat)

/-- F_MIN (R253). -/
def execFMin (w : Word) (s : State) : Host.Outcome State Fault Refusal := issue (.fMin w) s (vecFloat .min w.ty w.round.toNat)

/-- F_MAX (R253). -/
def execFMax (w : Word) (s : State) : Host.Outcome State Fault Refusal := issue (.fMax w) s (vecFloat .max w.ty w.round.toNat)

/-- F_DIV (R250). -/
def execFDiv (w : Word) (s : State) : Host.Outcome State Fault Refusal := issue (.fDiv w) s (vecFloat .div w.ty w.round.toNat)

/-- F_SQRT (R250). -/
def execFSqrt (w : Word) (s : State) : Host.Outcome State Fault Refusal := issue (.fSqrt w) s (vecFloat .sqrt w.ty w.round.toNat)

/-- F_RCP (R250). -/
def execFRcp (w : Word) (s : State) : Host.Outcome State Fault Refusal := issue (.fRcp w) s (vecFloat .rcp w.ty w.round.toNat)

/-- F_RSQ (R250). -/
def execFRsq (w : Word) (s : State) : Host.Outcome State Fault Refusal := issue (.fRsq w) s (vecFloat .rsq w.ty w.round.toNat)

/-- F_EXP2 (R250). -/
def execFExp2 (w : Word) (s : State) : Host.Outcome State Fault Refusal := issue (.fExp2 w) s (vecFloat .exp2 w.ty w.round.toNat)

/-- F_LOG2 (R250). -/
def execFLog2 (w : Word) (s : State) : Host.Outcome State Fault Refusal := issue (.fLog2 w) s (vecFloat .log2 w.ty w.round.toNat)

/-- F_SIN (R252). -/
def execFSin (w : Word) (s : State) : Host.Outcome State Fault Refusal := issue (.fSin w) s (vecFloat .sin w.ty w.round.toNat)

/-- F_COS (R252). -/
def execFCos (w : Word) (s : State) : Host.Outcome State Fault Refusal := issue (.fCos w) s (vecFloat .cos w.ty w.round.toNat)

/-- F_TANH (R252). -/
def execFTanh (w : Word) (s : State) : Host.Outcome State Fault Refusal := issue (.fTanh w) s (vecFloat .tanh w.ty w.round.toNat)

/-- F_ROUND (R250). -/
def execFRound (w : Word) (s : State) : Host.Outcome State Fault Refusal := issue (.fRound w) s (vecFloat .round w.ty w.round.toNat)

/-- F_ADD_IMM (R250). -/
def execFAddImm (w : WordI) (s : State) : Host.Outcome State Fault Refusal := issue (.fAddImm w) s (vecFloat .add w.ty w.round.toNat)

/-- F_SUB_IMM (R250). -/
def execFSubImm (w : WordI) (s : State) : Host.Outcome State Fault Refusal := issue (.fSubImm w) s (vecFloat .sub w.ty w.round.toNat)

/-- F_MUL_IMM (R250). -/
def execFMulImm (w : WordI) (s : State) : Host.Outcome State Fault Refusal := issue (.fMulImm w) s (vecFloat .mul w.ty w.round.toNat)

/-- F_MIN_IMM (R253). -/
def execFMinImm (w : WordI) (s : State) : Host.Outcome State Fault Refusal := issue (.fMinImm w) s (vecFloat .min w.ty w.round.toNat)

/-- F_MAX_IMM (R253). -/
def execFMaxImm (w : WordI) (s : State) : Host.Outcome State Fault Refusal := issue (.fMaxImm w) s (vecFloat .max w.ty w.round.toNat)

/-- F.CMP (R254). -/
def execFCmp (w : Word) (s : State) : Host.Outcome State Fault Refusal :=
  issue (.fCmp w) s (laneCmp w.slot.toNat (fun cx L => floatCond w.round.toNat w.ty (cx.src w.a w.ty L) (cx.srcB w.ty L)))

/-- F.CMP, I-form (R254). -/
def execFCmpImm (w : WordI) (s : State) : Host.Outcome State Fault Refusal :=
  issue (.fCmpImm w) s (laneCmp w.slot.toNat (fun cx L => floatCond w.round.toNat w.ty (cx.src w.a w.ty L) (cx.srcB w.ty L)))

/-- F.CLASS (R255): a one-hot u32 class mask in a single register. -/
def execFClass (w : Word) (s : State) : Host.Outcome State Fault Refusal :=
  issue (.fClass w) s { run := fun cx _ s => cx.writeV .u32 (cx.act.map (fun L => (L, classF w.ty (cx.src w.a w.ty L)))) s }

end Sys2Proof.Machine
end

