-- ==== Sys2Proof/Machine/Lane.lean ====
section
/-! DEFINITION. Majors PRD and X: predicate logic, votes, cross-lane reads, reductions, prefixes and matches, with the member masks that join both arms (R36, R47-R49, R262-R269). -/

namespace Sys2Proof.Machine

/-- P.LOGIC (R263). -/
def execPLogic (w : WordP) (s : State) : Host.Outcome State Fault Refusal :=
  issue (.pLogic w) s {
    run := fun cx _ s => cx.writeP w.pd.toNat (cx.act.map (fun L => (L, truthTable w.tt (cx.g.pget w.pa.toNat L) (cx.g.pget w.pb.toNat L)))) s }

/-- Q.LOGIC (R263). -/
def execQLogic (w : WordP) (s : State) : Host.Outcome State Fault Refusal :=
  issue (.qLogic w) s { run := fun cx a s => cx.writeQ a w.pd.toNat (truthTable w.tt (cx.g.qget a w.pa.toNat) (cx.g.qget a w.pb.toNat)) s }

/-! ### Member masks (R49, R266) -/

/-- The lanes of a group that have not exited and that neither live arm of the context's pair holds: those in the pending sets of the divergence stacks, and those of a first set that wait at the JOIN while the pending set runs, which R49 does not name (DEDUCED, log 113). -/
def Cx.pendingLane (cx : Cx) (L : Nat) : Bool :=
  let b := cx.c.arm - armSel cx.c
  !cx.g.xmask.getLsbD L && !((cx.g.arm b).mask.getLsbD L) && !((cx.g.arm (b + 1)).live && (cx.g.arm (b + 1)).mask.getLsbD L)

/-- MEMBERMASK (R49, R433). -/
def Cx.memberBad (cx : Cx) : Option Bad :=
  if cx.act.isEmpty then none
  else
    let m (L : Nat) : W64 := cx.memberMask (laneArm cx.g cx.c.arm L)
    ((List.range cx.W).find? (fun L => (cx.act.contains L && !(m L).getLsbD L) || (cx.pendingLane L && cx.act.any (fun K => (m K).getLsbD L)))).map
      (fun L => ({ cause := 0x06, lane := L } : Bad))

/-- The context of the group's other arm. -/
def Cx.peerId (cx : Cx) : CtxId := { cx.c with arm := if armSel cx.c = 0 then cx.c.arm + 1 else cx.c.arm - 1 }

/-- The mask names a lane that is live in the other arm of a split (R49). -/
def Cx.blocked (cx : Cx) : Bool :=
  cx.g.split && (cx.memberMask (armSel cx.c) &&& cx.g.curMask cx.peerId.arm) != 0

/-- The other arm waits at this very slot. -/
def Cx.peerWaits (cx : Cx) : Bool :=
  cx.g.split && (cx.g.arm cx.peerId.arm).wait.kind == .member cx.bundle cx.slot

/-- The other arm's own view of the slot: its lanes, and the port it is current on. -/
def Cx.forPeer (cx : Cx) (s : State) : Cx :=
  let c := cx.peerId
  let core := s.core cx.core
  let b : Bool := core.portB.cur == some c
  { cx with c := c, act := activeLanes cx.g c.arm cx.h.path cx.h.guard, sels := [armSel c], portB := b, lat := (if b then core.portB else core.portA).latch }

/-- A port of the core is current on a context, with every latch that the instruction reads still valid. -/
def Cx.latchesOk (cx : Cx) (s : State) : Bool :=
  let p := if cx.portB then (s.core cx.core).portB else (s.core cx.core).portA
  [cx.h.a, cx.h.b, cx.h.c].all (fun o => match o with | .y k => p.cur == some cx.c && p.valid.getLsbD k.val | _ => true)

/-- The contribution and the writes of a member-mask operation. -/
structure Member where
  val : Cx → Nat → W64
  put : Cx → List (Nat × W64) → State → State

/-- The contributions of a context. -/
def Member.own (m : Member) (cx : Cx) : List (Nat × W64) := cx.act.map (fun L => (L, m.val cx L))

/-- Both arms complete an operation together (R49): over all contributions, ascending, each writing its own results. -/
def Member.joint (m : Member) (cx cp : Cx) (s : State) : State :=
  let l := m.own cx ++ m.own cp
  let all := (List.range cx.W).flatMap (fun L => l.filter (fun x => x.1 == L))
  let s1 := m.put cx all s
  let s2 := m.put cp all s1
  let p := if cp.portB then (s.core cx.core).portB else (s.core cx.core).portA
  let s3 := if cp.h.cap.isSome && p.cur == some cp.c then cp.capture (if cp.wb then s2 else m.put { cp with wb := true } all s1) s2 else s2
  cx.advance (cp.advance (s3.orderArms cx.core cx.c.team cx.c.grp))

/-- A member-mask operation (R49). -/
def Member.run (m : Member) (cx : Cx) (s : State) : State :=
  let cp := cx.forPeer s
  if cx.peerWaits && cp.latchesOk s then m.joint cx cp s
  else if cx.blocked then
    let s := if cx.peerWaits then s.updArm cp.c (fun a => { a with wait := {} }) else s
    cx.stay { kind := .member cx.bundle cx.slot } s
  else cx.advance (m.put cx (m.own cx) s)

/-- The body of a member-mask operation: `src` is the source words it uses in a lane. -/
def Member.body (m : Member) (src : Cx → Nat → List (Nat × Nat)) (extra : Cx → Option Bad) : Body :=
  { hold := fun cx s => (cx.W == 64 && cx.opMarked (s.marksOf cx.c.team cx.c.grp) cx.h.b { s := true, n := 2 })
      || ((cx.g.arm cx.c.arm).wait.kind == .member cx.bundle cx.slot && cx.blocked && !cx.peerWaits)
    check := fun cx _ _ => (extra cx).or cx.memberBad
    used := some (fun cx _ => cx.act.flatMap (fun L =>
      src cx L ++ (uwords cx.h.b (if cx.W = 64 then 2 else 1) (laneArm cx.g cx.c.arm L)).map (fun k => (L, 2 ^ 20 + k))))
    own := true
    run := fun cx _ s => m.run cx s }

/-- The contributions of the lanes that a mask names and a test admits. -/
def named (mask : W64) (p : Nat → Bool) (l : List (Nat × W64)) : List (Nat × W64) := l.filter (fun x => mask.getLsbD x.1 && p x.1)

/-- The results of an operation with a uniform destination, one for each copy it writes (R45). -/
def Cx.perCopy (cx : Cx) (banked : Bool) (l : List (Nat × W64)) (f : Nat → List (Nat × W64) → State → State) (s : State) : State :=
  (cx.uniParts banked).foldl (fun s p => f p.1 (named (cx.memberMask (if banked then p.1 else cx.oneSel)) p.2 l) s) s

/-! ### Votes (R264) -/

/-- A vote: `f` writes the result of a set of contributions to a copy. -/
def vote (w : WordP) (banked : Bool) (f : Cx → Nat → List (Nat × W64) → State → State) : Body :=
  Member.body { val := fun cx L => boolW (cx.g.pget w.pa.toNat L != w.neg), put := fun cx l s => cx.perCopy banked l (f cx) s } (fun _ _ => []) (fun _ => none)

/-- P.ANY (R264). -/
def execPAny (w : WordP) (s : State) : Host.Outcome State Fault Refusal :=
  issue (.pAny w) s (vote w (bankedQ w.pd.toNat) (fun cx a l s => cx.writeQ a w.pd.toNat (l.any (fun x => x.2 != 0)) s))

/-- P.ALL (R264). -/
def execPAll (w : WordP) (s : State) : Host.Outcome State Fault Refusal :=
  issue (.pAll w) s (vote w (bankedQ w.pd.toNat) (fun cx a l s => cx.writeQ a w.pd.toNat (l.all (fun x => x.2 != 0)) s))

/-- P.BALLOT (R264). -/
def execPBallot (w : WordP) (s : State) : Host.Outcome State Fault Refusal :=
  issue (.pBallot w) s (vote w (Opd.banked w.dst) (fun cx a l s => cx.writeU a w.ty (maskOf (fun L => l.any (fun x => x.1 == L && x.2 != 0))) s))

/-- P.POPC (R264). -/
def execPPopc (w : WordP) (s : State) : Host.Outcome State Fault Refusal :=
  issue (.pPopc w) s (vote w (Opd.banked w.dst) (fun cx a l s => cx.writeU a .u32 (BitVec.ofNat 64 (l.filter (fun x => x.2 != 0)).length) s))

/-! ### Cross-lane reads (R47, R48, R267) -/

/-- %status.OOR set (R50). -/
def Cx.setOor (cx : Cx) (s : State) : State := s.updGroup cx.c.team cx.c.grp (fun g => { g with oor := true })

/-- A cross-lane read: the source lane of each lane of Active(), the fallback beyond the width. -/
def crossLane (t : Ty) (src : Cx → Nat → Nat) : Body :=
  { used := some (fun cx _ => cx.act.flatMap (fun L =>
      let n := src cx L
      let arm (K : Nat) := laneArm cx.g cx.c.arm K
      cx.opWords cx.h.b 1 (arm L) L ++ (if n < cx.W then (cx.opWords cx.h.a t.regs (arm n) n).map (fun x => (L, x.2)) else cx.opWords cx.h.c t.regs (arm L) L)))
    run := fun cx _ s =>
      let v := cx.act.map (fun L => (L, if src cx L < cx.W then cx.src cx.h.a t (src cx L) else cx.src cx.h.c t L))
      let s := cx.writeV t v s
      if cx.act.any (fun L => decide (cx.W ≤ src cx L)) then cx.setOor s else s }

/-- The source lane of X.SHFL (R267), modulo 2^32. -/
def shflLane (mode L : Nat) (x : W64) : Nat :=
  let u := x.toNat % 2 ^ 32
  if mode = 0 then u else if mode = 1 then L ^^^ u else if mode = 2 then (L + 2 ^ 32 - u) % 2 ^ 32 else (L + u) % 2 ^ 32

/-- X.SHFL (R267). -/
def execXShfl (w : Word) (s : State) : Host.Outcome State Fault Refusal :=
  issue (.xShfl w) s (crossLane w.ty (fun cx L => shflLane (w.fspec.toNat / 16) L (cx.src w.b .u32 L)))

/-- X.ROT (R267). -/
def execXRot (w : Word) (s : State) : Host.Outcome State Fault Refusal :=
  issue (.xRot w) s (crossLane w.ty (fun cx L => (L + (cx.src w.b .u32 L).toNat) % 2 ^ 32 % cx.W))

/-- X.BCAST (R267). -/
def execXBcast (w : Word) (s : State) : Host.Outcome State Fault Refusal :=
  issue (.xBcast w) s (crossLane w.ty (fun cx L => (cx.src w.b .u32 L).toNat % 2 ^ 32))

/-! ### Reductions, prefixes and matches (R268, R269) -/

/-- The result of a set of contributions (R268). -/
def redValue (op : Nat) (t : Ty) (md : Nat) (sat : Bool) (l : List W64) : W64 :=
  if t.isFloat then
    (if op = 0 then (if l.isEmpty then 0 else roundF t md (exactSum md (l.map (decodeF t))))
     else
      match l with
      | [] => roundF t 0 (.inf (op == 2))
      | x :: r => r.foldl (minMaxF (op == 2) t) (canonF t x))
  else
    match op with
    | 0 => let x := (l.map t.toInt).foldl (· + ·) 0; if sat then t.satI x else t.wrap x
    | 1 => t.wrap ((l.map t.toInt).foldl (fun a b => if b < a then b else a) t.maxI)
    | 2 => t.wrap ((l.map t.toInt).foldl (fun a b => if a < b then b else a) t.minI)
    | 3 => t.wrap (((l.map (un t)).foldl (· &&& ·) (2 ^ t.bits - 1) : Nat) : Int)
    | 4 => t.wrap (((l.map (un t)).foldl (· ||| ·) 0 : Nat) : Int)
    | _ => t.wrap (((l.map (un t)).foldl (· ^^^ ·) 0 : Nat) : Int)

/-- The vector results of a member-mask operation: in each lane of Active(), a function of the contributions that its arm's mask names. -/
def Cx.perLane (cx : Cx) (t : Ty) (l : List (Nat × W64)) (f : Nat → List (Nat × W64) → W64) (s : State) : State :=
  cx.writeV t (cx.act.map (fun L => (L, f L (named (cx.memberMask (laneArm cx.g cx.c.arm L)) (fun _ => true) l)))) s

/-- The words of source a in a lane. -/
def Cx.aWords (cx : Cx) (n L : Nat) : List (Nat × Nat) := cx.opWords cx.h.a n (laneArm cx.g cx.c.arm L) L

/-- X.RED (R268): the result of the whole set, in every lane of Active() or in a uniform destination. -/
def execXRed (w : Word) (s : State) : Host.Outcome State Fault Refusal :=
  let f (l : List (Nat × W64)) : W64 := redValue (w.fspec.toNat % 8) w.ty w.round.toNat w.sat (l.map (fun x => x.2))
  issue (.xRed w) s (Member.body {
    val := fun cx L => cx.src w.a w.ty L
    put := fun cx l s =>
      match w.dst with
      | .s _ => cx.perCopy (Opd.banked w.dst) l (fun a l s => cx.writeU a w.ty (f l) s) s
      | _ => cx.perLane w.ty l (fun _ l => f l) s } (fun cx L => cx.aWords w.ty.regs L) (fun _ => none))

/-- X.SCAN (R268): the result of the members up to each lane, itself left out with .excl. -/
def execXScan (w : Word) (s : State) : Host.Outcome State Fault Refusal :=
  issue (.xScan w) s (Member.body {
    val := fun cx L => cx.src w.a w.ty L
    put := fun cx l s => cx.perLane w.ty l (fun L l =>
      redValue (w.fspec.toNat % 8) w.ty w.round.toNat w.sat ((l.filter (fun x => if w.fspec.getLsbD 3 then decide (x.1 < L) else decide (x.1 ≤ L))).map (fun x => x.2))) s }
    (fun cx L => cx.aWords w.ty.regs L) (fun _ => none))

/-- X.MATCH (R269): the members with an equal bit pattern; a pair at width 64. -/
def execXMatch (w : Word) (s : State) : Host.Outcome State Fault Refusal :=
  issue (.xMatch w) s (Member.body {
    val := fun cx L => cx.src w.a w.ty L
    put := fun cx l s => cx.perLane (if cx.W = 64 then .u64 else .u32) l (fun L l =>
      maskOf (fun M => l.any (fun x => x.1 == M && un w.ty x.2 == un w.ty (cx.src w.a w.ty L)))) s }
    (fun cx L => cx.aWords w.ty.regs L) (fun _ => none))

end Sys2Proof.Machine
end

