-- ==== Sys2Proof/Machine/Scalar.lean ====
section
/-! DEFINITION. Major S: uniform integer arithmetic, selects, compares, constants, addresses and bit fields (R236-R243). -/

namespace Sys2Proof.Machine

/-- An S instruction of R237 that writes Result(f, a, b, c, d) of R238 and R243 to its uniform destination. -/
def uniInt (f : IOp) (t : Ty) (sat : Bool) : Body :=
  { run := fun cx a s => cx.writeU a t (f.value t sat (cx.srcU a cx.h.a t) (cx.srcUB a t) (cx.srcU a cx.h.c t) (cx.srcU a cx.h.dst t)) s }

/-- S_ADD (R238). -/
def execSAdd (w : Word) (s : State) : Host.Outcome State Fault Refusal := issue (.sAdd w) s (uniInt .add w.ty w.sat)

/-- S_SUB (R238). -/
def execSSub (w : Word) (s : State) : Host.Outcome State Fault Refusal := issue (.sSub w) s (uniInt .sub w.ty w.sat)

/-- S_MUL (R238). -/
def execSMul (w : Word) (s : State) : Host.Outcome State Fault Refusal := issue (.sMul w) s (uniInt .mul w.ty w.sat)

/-- S_MULH (R238). -/
def execSMulh (w : Word) (s : State) : Host.Outcome State Fault Refusal := issue (.sMulh w) s (uniInt .mulh w.ty false)

/-- S_DIV (R238). -/
def execSDiv (w : Word) (s : State) : Host.Outcome State Fault Refusal := issue (.sDiv w) s (uniInt .div w.ty w.sat)

/-- S_REM (R238). -/
def execSRem (w : Word) (s : State) : Host.Outcome State Fault Refusal := issue (.sRem w) s (uniInt .rem w.ty false)

/-- S_AND (R238). -/
def execSAnd (w : Word) (s : State) : Host.Outcome State Fault Refusal := issue (.sAnd w) s (uniInt .and w.ty false)

/-- S_OR (R238). -/
def execSOr (w : Word) (s : State) : Host.Outcome State Fault Refusal := issue (.sOr w) s (uniInt .or w.ty false)

/-- S_XOR (R238). -/
def execSXor (w : Word) (s : State) : Host.Outcome State Fault Refusal := issue (.sXor w) s (uniInt .xor w.ty false)

/-- S_SHL (R238). -/
def execSShl (w : Word) (s : State) : Host.Outcome State Fault Refusal := issue (.sShl w) s (uniInt .shl w.ty w.sat)

/-- S_SHR (R238). -/
def execSShr (w : Word) (s : State) : Host.Outcome State Fault Refusal := issue (.sShr w) s (uniInt .shr w.ty false)

/-- S_SAR (R238). -/
def execSSar (w : Word) (s : State) : Host.Outcome State Fault Refusal := issue (.sSar w) s (uniInt .sar w.ty false)

/-- S_MIN (R238). -/
def execSMin (w : Word) (s : State) : Host.Outcome State Fault Refusal := issue (.sMin w) s (uniInt .min w.ty false)

/-- S_MAX (R238). -/
def execSMax (w : Word) (s : State) : Host.Outcome State Fault Refusal := issue (.sMax w) s (uniInt .max w.ty false)

/-- S_ADD_IMM (R238). -/
def execSAddImm (w : WordI) (s : State) : Host.Outcome State Fault Refusal := issue (.sAddImm w) s (uniInt .add w.ty w.sat)

/-- S_SUB_IMM (R238). -/
def execSSubImm (w : WordI) (s : State) : Host.Outcome State Fault Refusal := issue (.sSubImm w) s (uniInt .sub w.ty w.sat)

/-- S_MUL_IMM (R238). -/
def execSMulImm (w : WordI) (s : State) : Host.Outcome State Fault Refusal := issue (.sMulImm w) s (uniInt .mul w.ty w.sat)

/-- S_MULH_IMM (R238). -/
def execSMulhImm (w : WordI) (s : State) : Host.Outcome State Fault Refusal := issue (.sMulhImm w) s (uniInt .mulh w.ty false)

/-- S_DIV_IMM (R238). -/
def execSDivImm (w : WordI) (s : State) : Host.Outcome State Fault Refusal := issue (.sDivImm w) s (uniInt .div w.ty w.sat)

/-- S_REM_IMM (R238). -/
def execSRemImm (w : WordI) (s : State) : Host.Outcome State Fault Refusal := issue (.sRemImm w) s (uniInt .rem w.ty false)

/-- S_AND_IMM (R238). -/
def execSAndImm (w : WordI) (s : State) : Host.Outcome State Fault Refusal := issue (.sAndImm w) s (uniInt .and w.ty false)

/-- S_OR_IMM (R238). -/
def execSOrImm (w : WordI) (s : State) : Host.Outcome State Fault Refusal := issue (.sOrImm w) s (uniInt .or w.ty false)

/-- S_XOR_IMM (R238). -/
def execSXorImm (w : WordI) (s : State) : Host.Outcome State Fault Refusal := issue (.sXorImm w) s (uniInt .xor w.ty false)

/-- S_SHL_IMM (R238). -/
def execSShlImm (w : WordI) (s : State) : Host.Outcome State Fault Refusal := issue (.sShlImm w) s (uniInt .shl w.ty w.sat)

/-- S_SHR_IMM (R238). -/
def execSShrImm (w : WordI) (s : State) : Host.Outcome State Fault Refusal := issue (.sShrImm w) s (uniInt .shr w.ty false)

/-- S_SAR_IMM (R238). -/
def execSSarImm (w : WordI) (s : State) : Host.Outcome State Fault Refusal := issue (.sSarImm w) s (uniInt .sar w.ty false)

/-- S_MIN_IMM (R238). -/
def execSMinImm (w : WordI) (s : State) : Host.Outcome State Fault Refusal := issue (.sMinImm w) s (uniInt .min w.ty false)

/-- S_MAX_IMM (R238). -/
def execSMaxImm (w : WordI) (s : State) : Host.Outcome State Fault Refusal := issue (.sMaxImm w) s (uniInt .max w.ty false)

/-- S_CLZ (R238). -/
def execSClz (w : Word) (s : State) : Host.Outcome State Fault Refusal := issue (.sClz w) s (uniInt .clz w.ty false)

/-- S_POPC (R238). -/
def execSPopc (w : Word) (s : State) : Host.Outcome State Fault Refusal := issue (.sPopc w) s (uniInt .popc w.ty false)

/-- S_BFX (R243). -/
def execSBfx (w : Word) (s : State) : Host.Outcome State Fault Refusal := issue (.sBfx w) s (uniInt .bfx w.ty false)

/-- S_BFI (R243). -/
def execSBfi (w : Word) (s : State) : Host.Outcome State Fault Refusal := issue (.sBfi w) s (uniInt .bfi w.ty false)

/-- S.SEL (R239): a when qN, negated on demand, is true; index 7 reads true. -/
def execSSel (w : Word) (s : State) : Host.Outcome State Fault Refusal :=
  issue (.sSel w) s {
    run := fun cx a s =>
      let q := cx.g.qget a w.slot.toNat != (w.scope.toNat / 4 % 2 == 1)
      cx.writeU a w.ty (if q then cx.srcU a w.a w.ty else cx.srcU a w.b w.ty) s }

/-- S.CMP's writes (R236, R240): 1 or 0 to the destination, a pair for a 64-bit type, the truth value to the uniform predicate. -/
def uniCmp (cc : Nat) (t : Ty) (q : Nat) : Body :=
  { run := fun cx a s =>
      let x := intCond cc t (cx.srcU a cx.h.a t) (cx.srcUB a t)
      cx.writeQ a q x (cx.writeU a t (boolW x) s) }

/-- S.CMP (R240). -/
def execSCmp (w : Word) (s : State) : Host.Outcome State Fault Refusal := issue (.sCmp w) s (uniCmp w.round.toNat w.ty w.slot.toNat)

/-- S.CMP, I-form (R240). -/
def execSCmpImm (w : WordI) (s : State) : Host.Outcome State Fault Refusal := issue (.sCmpImm w) s (uniCmp w.round.toNat w.ty w.slot.toNat)

/-- S.MOVI (R241). -/
def execSMovi (w : WordI) (s : State) : Host.Outcome State Fault Refusal :=
  issue (.sMovi w) s { run := fun cx a s => cx.writeU a w.ty (immI w.ty w.imm) s }

/-- S.LEA's offset read as t (R242). -/
def leaOff (t : Ty) (x : W64) : Int := if t.is64 then (x.toNat : Int) else t.toInt x

/-- S.LEA (R242): the base pair plus b scaled by 2^K, modulo 2^64. -/
def uniLea (t : Ty) (k : Nat) : Body :=
  { run := fun cx a s => cx.writeU a .u64 (BitVec.ofNat 64 (wrapN 64 (((cx.srcU a cx.h.a .u64).toNat : Int) + leaOff t (cx.srcUB a t) * (2 ^ k : Nat)))) s }

/-- S.LEA (R242). -/
def execSLea (w : Word) (s : State) : Host.Outcome State Fault Refusal := issue (.sLea w) s (uniLea w.ty w.slot.toNat)

/-- S.LEA, I-form (R242). -/
def execSLeaImm (w : WordI) (s : State) : Host.Outcome State Fault Refusal := issue (.sLeaImm w) s (uniLea w.ty w.slot.toNat)

end Sys2Proof.Machine
end

