-- ==== Sys2Proof/Machine/Dispatch.lean ====
section
/-! DEFINITION. One arm for each instruction and event of the opcode table: a direct call of its meaning. -/

namespace Sys2Proof.Machine

/-- What the machine does with an instruction at the slot being issued, or with an event. -/
def exec (i : Instr) (s : State) : Host.Outcome State Fault Refusal :=
  match i with
  | .nop w => Sys2Proof.Machine.execNop w s
  | .bra w => Sys2Proof.Machine.execBra w s
  | .brd w => Sys2Proof.Machine.execBrd w s
  | .join w => Sys2Proof.Machine.execJoin w s
  | .call w => Sys2Proof.Machine.execCall w s
  | .ret w => Sys2Proof.Machine.execRet w s
  | .jmpi w => Sys2Proof.Machine.execJmpi w s
  | .meld w => Sys2Proof.Machine.execMeld w s
  | .meldMap w => Sys2Proof.Machine.execMeldMap w s
  | .meldEnd w => Sys2Proof.Machine.execMeldEnd w s
  | .exit w => Sys2Proof.Machine.execExit w s
  | .teamRetire team => Sys2Proof.Machine.execTeamRetire team s
  | .yield w => Sys2Proof.Machine.execYield w s
  | .yieldOn w => Sys2Proof.Machine.execYieldOn w s
  | .bpt w => Sys2Proof.Machine.execBpt w s
  | .trap w => Sys2Proof.Machine.execTrap w s
  | .hcall w => Sys2Proof.Machine.execHcall w s
  | .hcallRingPush c => Sys2Proof.Machine.execHcallRingPush c s
  | .rfh w => Sys2Proof.Machine.execRfh w s
  | .sAdd w => Sys2Proof.Machine.execSAdd w s
  | .sSub w => Sys2Proof.Machine.execSSub w s
  | .sMul w => Sys2Proof.Machine.execSMul w s
  | .sMulh w => Sys2Proof.Machine.execSMulh w s
  | .sDiv w => Sys2Proof.Machine.execSDiv w s
  | .sRem w => Sys2Proof.Machine.execSRem w s
  | .sAnd w => Sys2Proof.Machine.execSAnd w s
  | .sOr w => Sys2Proof.Machine.execSOr w s
  | .sXor w => Sys2Proof.Machine.execSXor w s
  | .sShl w => Sys2Proof.Machine.execSShl w s
  | .sShr w => Sys2Proof.Machine.execSShr w s
  | .sSar w => Sys2Proof.Machine.execSSar w s
  | .sMin w => Sys2Proof.Machine.execSMin w s
  | .sMax w => Sys2Proof.Machine.execSMax w s
  | .sAddImm w => Sys2Proof.Machine.execSAddImm w s
  | .sSubImm w => Sys2Proof.Machine.execSSubImm w s
  | .sMulImm w => Sys2Proof.Machine.execSMulImm w s
  | .sMulhImm w => Sys2Proof.Machine.execSMulhImm w s
  | .sDivImm w => Sys2Proof.Machine.execSDivImm w s
  | .sRemImm w => Sys2Proof.Machine.execSRemImm w s
  | .sAndImm w => Sys2Proof.Machine.execSAndImm w s
  | .sOrImm w => Sys2Proof.Machine.execSOrImm w s
  | .sXorImm w => Sys2Proof.Machine.execSXorImm w s
  | .sShlImm w => Sys2Proof.Machine.execSShlImm w s
  | .sShrImm w => Sys2Proof.Machine.execSShrImm w s
  | .sSarImm w => Sys2Proof.Machine.execSSarImm w s
  | .sMinImm w => Sys2Proof.Machine.execSMinImm w s
  | .sMaxImm w => Sys2Proof.Machine.execSMaxImm w s
  | .sSel w => Sys2Proof.Machine.execSSel w s
  | .sCmp w => Sys2Proof.Machine.execSCmp w s
  | .sCmpImm w => Sys2Proof.Machine.execSCmpImm w s
  | .sMovi w => Sys2Proof.Machine.execSMovi w s
  | .sLea w => Sys2Proof.Machine.execSLea w s
  | .sLeaImm w => Sys2Proof.Machine.execSLeaImm w s
  | .sClz w => Sys2Proof.Machine.execSClz w s
  | .sPopc w => Sys2Proof.Machine.execSPopc w s
  | .sBfx w => Sys2Proof.Machine.execSBfx w s
  | .sBfi w => Sys2Proof.Machine.execSBfi w s
  | .vAdd w => Sys2Proof.Machine.execVAdd w s
  | .vAddc w => Sys2Proof.Machine.execVAddc w s
  | .vSub w => Sys2Proof.Machine.execVSub w s
  | .vMul w => Sys2Proof.Machine.execVMul w s
  | .vMulh w => Sys2Proof.Machine.execVMulh w s
  | .vMad w => Sys2Proof.Machine.execVMad w s
  | .vDiv w => Sys2Proof.Machine.execVDiv w s
  | .vRem w => Sys2Proof.Machine.execVRem w s
  | .vAnd w => Sys2Proof.Machine.execVAnd w s
  | .vOr w => Sys2Proof.Machine.execVOr w s
  | .vXor w => Sys2Proof.Machine.execVXor w s
  | .vShl w => Sys2Proof.Machine.execVShl w s
  | .vShr w => Sys2Proof.Machine.execVShr w s
  | .vSar w => Sys2Proof.Machine.execVSar w s
  | .vMin w => Sys2Proof.Machine.execVMin w s
  | .vMax w => Sys2Proof.Machine.execVMax w s
  | .vAbs w => Sys2Proof.Machine.execVAbs w s
  | .vCmp w => Sys2Proof.Machine.execVCmp w s
  | .vSel w => Sys2Proof.Machine.execVSel w s
  | .vBfx w => Sys2Proof.Machine.execVBfx w s
  | .vBfi w => Sys2Proof.Machine.execVBfi w s
  | .vPopc w => Sys2Proof.Machine.execVPopc w s
  | .vClz w => Sys2Proof.Machine.execVClz w s
  | .vAddImm w => Sys2Proof.Machine.execVAddImm w s
  | .vSubImm w => Sys2Proof.Machine.execVSubImm w s
  | .vMulImm w => Sys2Proof.Machine.execVMulImm w s
  | .vAndImm w => Sys2Proof.Machine.execVAndImm w s
  | .vOrImm w => Sys2Proof.Machine.execVOrImm w s
  | .vXorImm w => Sys2Proof.Machine.execVXorImm w s
  | .vShlImm w => Sys2Proof.Machine.execVShlImm w s
  | .vShrImm w => Sys2Proof.Machine.execVShrImm w s
  | .vSarImm w => Sys2Proof.Machine.execVSarImm w s
  | .vMinImm w => Sys2Proof.Machine.execVMinImm w s
  | .vMaxImm w => Sys2Proof.Machine.execVMaxImm w s
  | .vCmpImm w => Sys2Proof.Machine.execVCmpImm w s
  | .fAdd w => Sys2Proof.Machine.execFAdd w s
  | .fSub w => Sys2Proof.Machine.execFSub w s
  | .fMul w => Sys2Proof.Machine.execFMul w s
  | .fFma w => Sys2Proof.Machine.execFFma w s
  | .fMin w => Sys2Proof.Machine.execFMin w s
  | .fMax w => Sys2Proof.Machine.execFMax w s
  | .fCmp w => Sys2Proof.Machine.execFCmp w s
  | .fDiv w => Sys2Proof.Machine.execFDiv w s
  | .fSqrt w => Sys2Proof.Machine.execFSqrt w s
  | .fRcp w => Sys2Proof.Machine.execFRcp w s
  | .fRsq w => Sys2Proof.Machine.execFRsq w s
  | .fExp2 w => Sys2Proof.Machine.execFExp2 w s
  | .fLog2 w => Sys2Proof.Machine.execFLog2 w s
  | .fSin w => Sys2Proof.Machine.execFSin w s
  | .fCos w => Sys2Proof.Machine.execFCos w s
  | .fTanh w => Sys2Proof.Machine.execFTanh w s
  | .fRound w => Sys2Proof.Machine.execFRound w s
  | .fClass w => Sys2Proof.Machine.execFClass w s
  | .fAddImm w => Sys2Proof.Machine.execFAddImm w s
  | .fSubImm w => Sys2Proof.Machine.execFSubImm w s
  | .fMulImm w => Sys2Proof.Machine.execFMulImm w s
  | .fMinImm w => Sys2Proof.Machine.execFMinImm w s
  | .fMaxImm w => Sys2Proof.Machine.execFMaxImm w s
  | .fCmpImm w => Sys2Proof.Machine.execFCmpImm w s
  | .cvt w => Sys2Proof.Machine.execCvt w s
  | .cvtN w => Sys2Proof.Machine.execCvtN w s
  | .cvtW w => Sys2Proof.Machine.execCvtW w s
  | .pack w => Sys2Proof.Machine.execPack w s
  | .unpack w => Sys2Proof.Machine.execUnpack w s
  | .blkEnc w => Sys2Proof.Machine.execBlkEnc w s
  | .blkDec w => Sys2Proof.Machine.execBlkDec w s
  | .pLogic w => Sys2Proof.Machine.execPLogic w s
  | .qLogic w => Sys2Proof.Machine.execQLogic w s
  | .pAny w => Sys2Proof.Machine.execPAny w s
  | .pAll w => Sys2Proof.Machine.execPAll w s
  | .pBallot w => Sys2Proof.Machine.execPBallot w s
  | .pPopc w => Sys2Proof.Machine.execPPopc w s
  | .xShfl w => Sys2Proof.Machine.execXShfl w s
  | .xRot w => Sys2Proof.Machine.execXRot w s
  | .xBcast w => Sys2Proof.Machine.execXBcast w s
  | .xRed w => Sys2Proof.Machine.execXRed w s
  | .xScan w => Sys2Proof.Machine.execXScan w s
  | .xMatch w => Sys2Proof.Machine.execXMatch w s
  | .mov w => Sys2Proof.Machine.execMov w s
  | .movImm w => Sys2Proof.Machine.execMovImm w s
  | .readlane w => Sys2Proof.Machine.execReadlane w s
  | .first w => Sys2Proof.Machine.execFirst w s
  | .getsr w => Sys2Proof.Machine.execGetsr w s
  | .setsr w => Sys2Proof.Machine.execSetsr w s
  | .grow w => Sys2Proof.Machine.execGrow w s
  | .growGrant core => Sys2Proof.Machine.execGrowGrant core s
  | .growTry w => Sys2Proof.Machine.execGrowTry w s
  | .shrink w => Sys2Proof.Machine.execShrink w s
  | .ld w => Sys2Proof.Machine.execLd w s
  | .st w => Sys2Proof.Machine.execSt w s
  | .ldu w => Sys2Proof.Machine.execLdu w s
  | .stu w => Sys2Proof.Machine.execStu w s
  | .sld w => Sys2Proof.Machine.execSld w s
  | .sst w => Sys2Proof.Machine.execSst w s
  | .ldSrec w => Sys2Proof.Machine.execLdSrec w s
  | .stSrec w => Sys2Proof.Machine.execStSrec w s
  | .l1Wb w => Sys2Proof.Machine.execL1Wb w s
  | .l1Inv w => Sys2Proof.Machine.execL1Inv w s
  | .tierPref w => Sys2Proof.Machine.execTierPref w s
  | .atom w => Sys2Proof.Machine.execAtom w s
  | .atomBinc w => Sys2Proof.Machine.execAtomBinc w s
  | .xaccAdd w => Sys2Proof.Machine.execXaccAdd w s
  | .xaccFold w => Sys2Proof.Machine.execXaccFold w s
  | .xaccClr w => Sys2Proof.Machine.execXaccClr w s
  | .fence w => Sys2Proof.Machine.execFence w s
  | .barArrive w => Sys2Proof.Machine.execBarArrive w s
  | .barWait w => Sys2Proof.Machine.execBarWait w s
  | .barSync w => Sys2Proof.Machine.execBarSync w s
  | .bobjInit w => Sys2Proof.Machine.execBobjInit w s
  | .bobjArrive w => Sys2Proof.Machine.execBobjArrive w s
  | .bobjWait w => Sys2Proof.Machine.execBobjWait w s
  | .tlSignal w => Sys2Proof.Machine.execTlSignal w s
  | .tlWait w => Sys2Proof.Machine.execTlWait w s
  | .waitcnt w => Sys2Proof.Machine.execWaitcnt w s
  | .futWait w => Sys2Proof.Machine.execFutWait w s
  | .futTest w => Sys2Proof.Machine.execFutTest w s
  | .futCancel w => Sys2Proof.Machine.execFutCancel w s
  | .frontJoin w => Sys2Proof.Machine.execFrontJoin w s
  | .frontLeave w => Sys2Proof.Machine.execFrontLeave w s
  | .frontStep w => Sys2Proof.Machine.execFrontStep w s
  | .frontStat w => Sys2Proof.Machine.execFrontStat w s
  | .kick w => Sys2Proof.Machine.execKick w s
  | .cpy w => Sys2Proof.Machine.execCpy w s
  | .contPark w => Sys2Proof.Machine.execContPark w s
  | .tqInit w => Sys2Proof.Machine.execTqInit w s
  | .tqPush w => Sys2Proof.Machine.execTqPush w s
  | .tqPop w => Sys2Proof.Machine.execTqPop w s
  | .mtokAcq w => Sys2Proof.Machine.execMtokAcq w s
  | .mtokAcqTry w => Sys2Proof.Machine.execMtokAcqTry w s
  | .mtokPass w => Sys2Proof.Machine.execMtokPass w s
  | .mma w => Sys2Proof.Machine.execMma w s
  | .mmaSp w => Sys2Proof.Machine.execMmaSp w s
  | .mmaOut w => Sys2Proof.Machine.execMmaOut w s
  | .accZero w => Sys2Proof.Machine.execAccZero w s
  | .accLd w => Sys2Proof.Machine.execAccLd w s
  | .accSt w => Sys2Proof.Machine.execAccSt w s
  | .accMovTov w => Sys2Proof.Machine.execAccMovTov w s
  | .accMovToa w => Sys2Proof.Machine.execAccMovToa w s
  | .layout w => Sys2Proof.Machine.execLayout w s
  | .matrixEnginePerform core => Sys2Proof.Machine.execMatrixEnginePerform core s
  | .attn w => Sys2Proof.Machine.execAttn w s
  | .attnScore w => Sys2Proof.Machine.execAttnScore w s
  | .kvLookup w => Sys2Proof.Machine.execKvLookup w s
  | .kvAlloc w => Sys2Proof.Machine.execKvAlloc w s
  | .kvFree w => Sys2Proof.Machine.execKvFree w s
  | .kvCompact w => Sys2Proof.Machine.execKvCompact w s
  | .kvSweep w => Sys2Proof.Machine.execKvSweep w s
  | .scoreClr w => Sys2Proof.Machine.execScoreClr w s
  | .topk w => Sys2Proof.Machine.execTopk w s
  | .pfxLookup w => Sys2Proof.Machine.execPfxLookup w s
  | .pfxInsert w => Sys2Proof.Machine.execPfxInsert w s
  | .exitTest w => Sys2Proof.Machine.execExitTest w s
  | .backfill w => Sys2Proof.Machine.execBackfill w s
  | .ebmSet w => Sys2Proof.Machine.execEbmSet w s
  | .ebmRank w => Sys2Proof.Machine.execEbmRank w s
  | .ebmSelect w => Sys2Proof.Machine.execEbmSelect w s
  | .regroup w => Sys2Proof.Machine.execRegroup w s
  | .sysr w => Sys2Proof.Machine.execSysr w s
  | .sysw w => Sys2Proof.Machine.execSysw w s
  | .tlbinv w => Sys2Proof.Machine.execTlbinv w s
  | .raceClr w => Sys2Proof.Machine.execRaceClr w s
  | .perfRd w => Sys2Proof.Machine.execPerfRd w s
  | .asyncWriteLands id => Sys2Proof.Machine.execAsyncWriteLands id s
  | .homeSliceRequest id => Sys2Proof.Machine.execHomeSliceRequest id s
  | .mergedReadReply id => Sys2Proof.Machine.execMergedReadReply id s
  | .homeSliceAtomic id => Sys2Proof.Machine.execHomeSliceAtomic id s
  | .writebackAck id result => Sys2Proof.Machine.execWritebackAck id result s
  | .engineOpComplete id => Sys2Proof.Machine.execEngineOpComplete id s
  | .copyRecordLanded id index => Sys2Proof.Machine.execCopyRecordLanded id index s
  | .streamRowPerformed id row => Sys2Proof.Machine.execStreamRowPerformed id row s
  | .tierPromotePage id => Sys2Proof.Machine.execTierPromotePage id s
  | .attnTileComplete id slice head => Sys2Proof.Machine.execAttnTileComplete id slice head s
  | .compactionStart id => Sys2Proof.Machine.execCompactionStart id s
  | .backfillPublish id => Sys2Proof.Machine.execBackfillPublish id s
  | .tableWriteAfterMove id => Sys2Proof.Machine.execTableWriteAfterMove id s
  | .clockVisit tenant => Sys2Proof.Machine.execClockVisit tenant s
  | .demotionCopyComplete e => Sys2Proof.Machine.execDemotionCopyComplete e s
  | .remoteWriteLanding id line => Sys2Proof.Machine.execRemoteWriteLanding id line s
  | .tokenRowLanding id row => Sys2Proof.Machine.execTokenRowLanding id row s
  | .taggedMessageLanding id => Sys2Proof.Machine.execTaggedMessageLanding id s
  | .launchPop tenant cls => Sys2Proof.Machine.execLaunchPop tenant cls s
  | .dispatchTeam launch core => Sys2Proof.Machine.execDispatchTeam launch core s
  | .launchComplete launch => Sys2Proof.Machine.execLaunchComplete launch s
  | .poolBoundaryApply core => Sys2Proof.Machine.execPoolBoundaryApply core s
  | .teamPreemption team => Sys2Proof.Machine.execTeamPreemption team s
  | .impreciseFaultArrival index => Sys2Proof.Machine.execImpreciseFaultArrival index s
  | .handlerEntry team => Sys2Proof.Machine.execHandlerEntry team s
  | .contextDue c => Sys2Proof.Machine.execContextDue c s
  | .cmdPreempt tenant launchId all => Sys2Proof.Machine.execCmdPreempt tenant launchId all s
  | .cmdResume tenant launchId all => Sys2Proof.Machine.execCmdResume tenant launchId all s
  | .teamUnplace team => Sys2Proof.Machine.execTeamUnplace team s
  | .teamResume team core => Sys2Proof.Machine.execTeamResume team core s
  | .hostHalt launchId tenant all => Sys2Proof.Machine.execHostHalt launchId tenant all s
  | .watchdog team => Sys2Proof.Machine.execWatchdog team s
  | .hostRequest req => Sys2Proof.Machine.execHostRequest req s
  | .hostAtomic req => Sys2Proof.Machine.execHostAtomic req s
  | .hostCallReply tenant index value => Sys2Proof.Machine.execHostCallReply tenant index value s
  | .msimaskWrite tenant mask => Sys2Proof.Machine.execMsimaskWrite tenant mask s
  | .controlSpaceWrite offset size value => Sys2Proof.Machine.execControlSpaceWrite offset size value s
  | .thermalTrip die sensor => Sys2Proof.Machine.execThermalTrip die sensor s
  | .norvanPortDown port peer => Sys2Proof.Machine.execNorvanPortDown port peer s
  | .norvanPortUp port peer => Sys2Proof.Machine.execNorvanPortUp port peer s
  | .taggedLaunchMessage tenant tag addr payload => Sys2Proof.Machine.execTaggedLaunchMessage tenant tag addr payload s
  | .uncorrectableError site => Sys2Proof.Machine.execUncorrectableError site s
  | .correctedError die unit addr => Sys2Proof.Machine.execCorrectedError die unit addr s
  | .frontEjection record => Sys2Proof.Machine.execFrontEjection record s
  | .waitTimeout c => Sys2Proof.Machine.execWaitTimeout c s
  | .attestationSign => Sys2Proof.Machine.execAttestationSign s
  | .powerReq36Ghz => Sys2Proof.Machine.execPowerReq36Ghz s
  | .powerReq24Ghz => Sys2Proof.Machine.execPowerReq24Ghz s
  | .powerReq12Ghz => Sys2Proof.Machine.execPowerReq12Ghz s
  | .powerReqStop => Sys2Proof.Machine.execPowerReqStop s
  | .powerTransition => Sys2Proof.Machine.execPowerTransition s
  | .powerStopped => Sys2Proof.Machine.execPowerStopped s
  | .eweovLinkDown => Sys2Proof.Machine.execEweovLinkDown s
  | .eweovLinkUp => Sys2Proof.Machine.execEweovLinkUp s
  | .coldReset => Sys2Proof.Machine.execColdReset s
  | .warmReset => Sys2Proof.Machine.execWarmReset s
  | .sensorBackBelowLimit => Sys2Proof.Machine.execSensorBackBelowLimit s
  | .attnRecompute id => Sys2Proof.Machine.execAttnRecompute id s
  | .backfillTaskStart tenant core => Sys2Proof.Machine.execBackfillTaskStart tenant core s
  | .continuationResume id core => Sys2Proof.Machine.execContinuationResume id core s
  | .fabricSend tenant => Sys2Proof.Machine.execFabricSend tenant s
  | .fabricSendComplete e => Sys2Proof.Machine.execFabricSendComplete e s
  | .oldBlockFreePush id => Sys2Proof.Machine.execOldBlockFreePush id s

end Sys2Proof.Machine
end

