-- ==== Sys2Proof/WellFormed.lean ====
section
/-! DEFINITION. Well-formed instructions: the conditions of rank 3 that depend on the word alone (R429), as one check over the forms of Machine/Form.lean. -/

namespace Sys2Proof

/-- A reserved operand code is kept only for a code that R169 reserves. -/
def opdOk : Opd → Bool
  | .rsv c => (decide (0x186 ≤ c.toNat) && decide (c.toNat < 0x19F)) || decide (0x200 ≤ c.toNat)
  | _ => true

/-- An instruction word meets its form (R429); an event is always well formed. -/
def WellFormed (i : Instr) : Bool :=
  match i.head with
  | none => true
  | some h => wordOk i.form h && opdOk h.dst && opdOk h.a && opdOk h.b && opdOk h.c

end Sys2Proof
end

