-- ==== Sys2Proof/Decode.lean ====
section
/-! DEFINITION. Decoding a 96-bit word, and encoding a well-formed instruction (R167-R177, R190-R192, R262). A word that decodes to nothing is ILLOP at rank 3 (R429). -/

namespace Sys2Proof

/-- Bits lo to lo + n - 1 of an instruction word. -/
def bitsAt (w : W96) (lo n : Nat) : BitVec n := w.extractLsb' lo n

/-- The operand of a 10-bit code (R169). -/
def decodeOpd (c : BitVec 10) : Opd :=
  let n := c.toNat
  if n < 0x100 then .v (BitVec.ofNat 8 n)
  else if n < 0x180 then .s (BitVec.ofNat 7 (n - 0x100))
  else if n < 0x186 then .y (Fin.ofNat 6 (n - 0x180))
  else if n < 0x19F then .rsv c
  else if n = 0x19F then .z
  else if n < 0x1E0 then .m (BitVec.ofNat 6 (n - 0x1A0))
  else if n < 0x200 then .imm (BitVec.ofNat 5 (n - 0x1E0))
  else .rsv c

/-- The 10-bit code of an operand (R169). The short immediate code is its value plus 0x1F0: the field holds code minus 0x1E0. -/
def encodeOpd : Opd → BitVec 10
  | .v i => BitVec.ofNat 10 i.toNat
  | .s i => BitVec.ofNat 10 (0x100 + i.toNat)
  | .y i => BitVec.ofNat 10 (0x180 + i.val)
  | .z => 0x19F
  | .m i => BitVec.ofNat 10 (0x1A0 + i.toNat)
  | .imm i => BitVec.ofNat 10 (0x1E0 + i.toNat)
  | .rsv c => c

/-- PATH (R174). -/
def decodePath (p : BitVec 2) : Option Path :=
  match p.toNat with
  | 0 => some .both
  | 1 => some .arm0
  | 2 => some .arm1
  | _ => none

/-- PATH (R174). -/
def encodePath : Path → BitVec 2
  | .both => 0
  | .arm0 => 1
  | .arm1 => 2

/-- CAP (R167): code 7 is reserved. -/
def decodeCap (c : BitVec 3) : Option (Option (Fin 6)) :=
  if c = 0 then some none else if c = 7 then none else some (some (Fin.ofNat 6 (c.toNat - 1)))

/-- CAP (R167). -/
def encodeCap : Option (Fin 6) → BitVec 3
  | none => 0
  | some k => BitVec.ofNat 3 (k.val + 1)

/-- Guard bits 38:34 (R167). -/
def decodeGuard (g : BitVec 5) : Guard := ⟨g.getLsbD 4, g.getLsbD 3, g.extractLsb' 0 3⟩

/-- Guard bits 38:34 (R167). -/
def encodeGuard (g : Guard) : BitVec 5 := BitVec.ofBool g.uni ++ BitVec.ofBool g.neg ++ g.idx

/-- The type code (R176). -/
def encodeTy (t : Ty) : BitVec 4 := BitVec.ofNat 4 t.code

/-- A word in the register form (R167, R175); reserved hint bits 28:25 must be zero. -/
def unpackR (w : W96) : Option Word :=
  match decodePath (bitsAt w 32 2), decodeCap (bitsAt w 29 3), tyOf (bitsAt w 20 4).toNat with
  | some path, some cap, some ty =>
    if bitsAt w 25 4 = 0 then
      some { dst := decodeOpd (bitsAt w 70 10), wbs := w.getLsbD 69, a := decodeOpd (bitsAt w 59 10), b := decodeOpd (bitsAt w 49 10),
             c := decodeOpd (bitsAt w 39 10), guard := decodeGuard (bitsAt w 34 5), path := path, cap := cap, yield := w.getLsbD 24,
             ty := ty, round := bitsAt w 17 3, sat := w.getLsbD 16, slot := bitsAt w 13 3, scope := bitsAt w 10 3, chint := bitsAt w 8 2,
             fspec := bitsAt w 0 8 }
    else none
  | _, _, _ => none

/-- A word in the immediate form (R177). -/
def unpackI (w : W96) : Option WordI :=
  match decodePath (bitsAt w 32 2), decodeCap (bitsAt w 29 3), tyOf (bitsAt w 20 4).toNat with
  | some path, some cap, some ty =>
    if bitsAt w 25 4 = 0 then
      some { dst := decodeOpd (bitsAt w 70 10), wbs := w.getLsbD 69, a := decodeOpd (bitsAt w 59 10), imm := bitsAt w 39 20 ++ bitsAt w 0 12,
             guard := decodeGuard (bitsAt w 34 5), path := path, cap := cap, yield := w.getLsbD 24,
             ty := ty, round := bitsAt w 17 3, sat := w.getLsbD 16, slot := bitsAt w 13 3, neg := w.getLsbD 12 }
    else none
  | _, _, _ => none

/-- A word of major PRD (R262); its reserved MOD bits must be zero. -/
def unpackP (w : W96) : Option WordP :=
  match decodePath (bitsAt w 32 2), decodeCap (bitsAt w 29 3), tyOf (bitsAt w 20 4).toNat with
  | some path, some cap, some ty =>
    if bitsAt w 25 4 = 0 ∧ bitsAt w 16 4 = 0 ∧ bitsAt w 5 2 = 0 then
      some { dst := decodeOpd (bitsAt w 70 10), wbs := w.getLsbD 69, a := decodeOpd (bitsAt w 59 10), b := decodeOpd (bitsAt w 49 10),
             c := decodeOpd (bitsAt w 39 10), guard := decodeGuard (bitsAt w 34 5), path := path, cap := cap, yield := w.getLsbD 24,
             ty := ty, pd := bitsAt w 13 3, pa := bitsAt w 10 3, pb := bitsAt w 7 3, neg := w.getLsbD 4, tt := bitsAt w 0 4 }
    else none
  | _, _, _ => none

/-- The instruction of a register-form word (R191); rows that share a function are told apart by an FSPEC bit. -/
def ctorR (major func : Nat) (w : Word) : Option Instr :=
  match major with
  | 0x00 => match func with
    | 0x00 => some (.nop w)
    | 0x03 => some (.join w)
    | 0x05 => some (.ret w)
    | 0x06 => some (.jmpi w)
    | 0x07 => some (.meld w)
    | 0x08 => some (.meldMap w)
    | 0x09 => some (.meldEnd w)
    | 0x0A => some (.exit w)
    | 0x0B => some (.yield w)
    | 0x0D => some (.bpt w)
    | 0x0E => some (.trap w)
    | 0x0F => some (.hcall w)
    | 0x10 => some (.rfh w)
    | _ => none
  | 0x10 => match func with
    | 0x00 => some (.sAdd w)
    | 0x01 => some (.sSub w)
    | 0x02 => some (.sMul w)
    | 0x03 => some (.sMulh w)
    | 0x04 => some (.sDiv w)
    | 0x05 => some (.sRem w)
    | 0x06 => some (.sAnd w)
    | 0x07 => some (.sOr w)
    | 0x08 => some (.sXor w)
    | 0x09 => some (.sShl w)
    | 0x0A => some (.sShr w)
    | 0x0B => some (.sSar w)
    | 0x0C => some (.sMin w)
    | 0x0D => some (.sMax w)
    | 0x0E => some (.sSel w)
    | 0x0F => some (.sCmp w)
    | 0x11 => some (.sLea w)
    | 0x12 => some (.sClz w)
    | 0x13 => some (.sPopc w)
    | 0x14 => some (.sBfx w)
    | 0x15 => some (.sBfi w)
    | _ => none
  | 0x20 => match func with
    | 0x00 => some (.vAdd w)
    | 0x01 => some (.vAddc w)
    | 0x02 => some (.vSub w)
    | 0x03 => some (.vMul w)
    | 0x04 => some (.vMulh w)
    | 0x05 => some (.vMad w)
    | 0x06 => some (.vDiv w)
    | 0x07 => some (.vRem w)
    | 0x08 => some (.vAnd w)
    | 0x09 => some (.vOr w)
    | 0x0A => some (.vXor w)
    | 0x0B => some (.vShl w)
    | 0x0C => some (.vShr w)
    | 0x0D => some (.vSar w)
    | 0x0E => some (.vMin w)
    | 0x0F => some (.vMax w)
    | 0x10 => some (.vAbs w)
    | 0x11 => some (.vCmp w)
    | 0x12 => some (.vSel w)
    | 0x13 => some (.vBfx w)
    | 0x14 => some (.vBfi w)
    | 0x15 => some (.vPopc w)
    | 0x16 => some (.vClz w)
    | _ => none
  | 0x30 => match func with
    | 0x00 => some (.fAdd w)
    | 0x01 => some (.fSub w)
    | 0x02 => some (.fMul w)
    | 0x03 => some (.fFma w)
    | 0x04 => some (.fMin w)
    | 0x05 => some (.fMax w)
    | 0x06 => some (.fCmp w)
    | 0x07 => some (.fDiv w)
    | 0x08 => some (.fSqrt w)
    | 0x09 => some (.fRcp w)
    | 0x0A => some (.fRsq w)
    | 0x0B => some (.fExp2 w)
    | 0x0C => some (.fLog2 w)
    | 0x0D => some (.fSin w)
    | 0x0E => some (.fCos w)
    | 0x0F => some (.fTanh w)
    | 0x10 => some (.fRound w)
    | 0x11 => some (.fClass w)
    | _ => none
  | 0x40 => match func with
    | 0x00 => some (.cvt w)
    | 0x01 => some (.cvtN w)
    | 0x02 => some (.cvtW w)
    | 0x03 => some (.pack w)
    | 0x04 => some (.unpack w)
    | 0x05 => some (.blkEnc w)
    | 0x06 => some (.blkDec w)
    | _ => none
  | 0x50 => match func with
    | 0x00 => some (.xShfl w)
    | 0x01 => some (.xRot w)
    | 0x02 => some (.xBcast w)
    | 0x03 => some (.xRed w)
    | 0x04 => some (.xScan w)
    | 0x05 => some (.xMatch w)
    | _ => none
  | 0x58 => match func with
    | 0x00 => some (.mov w)
    | 0x01 => some (.readlane w)
    | 0x02 => some (.first w)
    | 0x03 => some (.getsr w)
    | 0x04 => some (.setsr w)
    | 0x05 => some (if w.fspec.getLsbD 7 then .growTry w else .grow w)
    | 0x06 => some (.shrink w)
    | _ => none
  | 0x60 => match func with
    | 0x00 => some (if w.fspec.getLsbD 0 then .ldSrec w else .ld w)
    | 0x01 => some (if w.fspec.getLsbD 0 then .stSrec w else .st w)
    | 0x02 => some (.ldu w)
    | 0x03 => some (.stu w)
    | 0x04 => some (.sld w)
    | 0x05 => some (.sst w)
    | 0x06 => some (.l1Wb w)
    | 0x07 => some (.l1Inv w)
    | 0x08 => some (.tierPref w)
    | _ => none
  | 0x70 => match func with
    | 0x00 => some (.atom w)
    | 0x01 => some (.atomBinc w)
    | 0x02 => some (.xaccAdd w)
    | 0x03 => some (.xaccFold w)
    | 0x04 => some (.xaccClr w)
    | _ => none
  | 0x78 => match func with
    | 0x00 => some (.fence w)
    | 0x01 => some (.barArrive w)
    | 0x02 => some (.barWait w)
    | 0x03 => some (.barSync w)
    | 0x04 => some (.bobjInit w)
    | 0x05 => some (.bobjArrive w)
    | 0x06 => some (.bobjWait w)
    | 0x07 => some (.tlSignal w)
    | 0x08 => some (.tlWait w)
    | 0x09 => some (.waitcnt w)
    | 0x0A => some (.futWait w)
    | 0x0B => some (.futTest w)
    | 0x0C => some (.futCancel w)
    | _ => none
  | 0x80 => match func with
    | 0x00 => some (.frontJoin w)
    | 0x01 => some (.frontLeave w)
    | 0x02 => some (.frontStep w)
    | 0x03 => some (.frontStat w)
    | _ => none
  | 0x88 => match func with
    | 0x00 => some (.kick w)
    | 0x01 => some (.cpy w)
    | 0x02 => some (.contPark w)
    | 0x03 => some (.tqInit w)
    | 0x04 => some (.tqPush w)
    | 0x05 => some (.tqPop w)
    | _ => none
  | 0x90 => match func with
    | 0x00 => some (if w.fspec.getLsbD 6 then .mtokAcqTry w else .mtokAcq w)
    | 0x01 => some (.mtokPass w)
    | 0x02 => some (.mma w)
    | 0x03 => some (.mmaSp w)
    | 0x04 => some (.mmaOut w)
    | 0x05 => some (.accZero w)
    | 0x06 => some (.accLd w)
    | 0x07 => some (.accSt w)
    | 0x08 => some (if w.fspec.getLsbD 7 then .accMovToa w else .accMovTov w)
    | 0x09 => some (.layout w)
    | _ => none
  | 0xA0 => match func with
    | 0x00 => some (if w.fspec.getLsbD 0 then .attnScore w else .attn w)
    | 0x01 => some (.kvLookup w)
    | 0x02 => some (.kvAlloc w)
    | 0x03 => some (.kvFree w)
    | 0x04 => some (.kvCompact w)
    | 0x05 => some (.kvSweep w)
    | 0x06 => some (.scoreClr w)
    | 0x07 => some (.topk w)
    | 0x08 => some (.pfxLookup w)
    | 0x09 => some (.pfxInsert w)
    | 0x0A => some (.exitTest w)
    | 0x0B => some (.backfill w)
    | _ => none
  | 0xB0 => match func with
    | 0x00 => some (.ebmSet w)
    | 0x01 => some (.ebmRank w)
    | 0x02 => some (.ebmSelect w)
    | 0x03 => some (.regroup w)
    | _ => none
  | 0xB8 => match func with
    | 0x00 => some (.sysr w)
    | 0x01 => some (.sysw w)
    | 0x02 => some (.tlbinv w)
    | 0x03 => some (.raceClr w)
    | 0x04 => some (.perfRd w)
    | _ => none
  | _ => none

/-- The instruction of an immediate-form word (R191). -/
def ctorI (major func : Nat) (w : WordI) : Option Instr :=
  match major with
  | 0x00 => match func with
    | 0x01 => some (.bra w)
    | 0x02 => some (.brd w)
    | 0x04 => some (.call w)
    | 0x0C => some (.yieldOn w)
    | _ => none
  | 0x10 => match func with
    | 0x80 => some (.sAddImm w)
    | 0x81 => some (.sSubImm w)
    | 0x82 => some (.sMulImm w)
    | 0x83 => some (.sMulhImm w)
    | 0x84 => some (.sDivImm w)
    | 0x85 => some (.sRemImm w)
    | 0x86 => some (.sAndImm w)
    | 0x87 => some (.sOrImm w)
    | 0x88 => some (.sXorImm w)
    | 0x89 => some (.sShlImm w)
    | 0x8A => some (.sShrImm w)
    | 0x8B => some (.sSarImm w)
    | 0x8C => some (.sMinImm w)
    | 0x8D => some (.sMaxImm w)
    | 0x8F => some (.sCmpImm w)
    | 0x10 => some (.sMovi w)
    | 0x91 => some (.sLeaImm w)
    | _ => none
  | 0x20 => match func with
    | 0x80 => some (.vAddImm w)
    | 0x82 => some (.vSubImm w)
    | 0x83 => some (.vMulImm w)
    | 0x88 => some (.vAndImm w)
    | 0x89 => some (.vOrImm w)
    | 0x8A => some (.vXorImm w)
    | 0x8B => some (.vShlImm w)
    | 0x8C => some (.vShrImm w)
    | 0x8D => some (.vSarImm w)
    | 0x8E => some (.vMinImm w)
    | 0x8F => some (.vMaxImm w)
    | 0x91 => some (.vCmpImm w)
    | _ => none
  | 0x30 => match func with
    | 0x80 => some (.fAddImm w)
    | 0x81 => some (.fSubImm w)
    | 0x82 => some (.fMulImm w)
    | 0x84 => some (.fMinImm w)
    | 0x85 => some (.fMaxImm w)
    | 0x86 => some (.fCmpImm w)
    | _ => none
  | 0x58 => match func with
    | 0x80 => some (.movImm w)
    | _ => none
  | _ => none

/-- The instruction of a PRD word (R191). -/
def ctorP (major func : Nat) (w : WordP) : Option Instr :=
  match major with
  | 0x48 => match func with
    | 0x00 => some (.pLogic w)
    | 0x01 => some (.qLogic w)
    | 0x02 => some (.pAny w)
    | 0x03 => some (.pAll w)
    | 0x04 => some (.pBallot w)
    | 0x05 => some (.pPopc w)
    | _ => none
  | _ => none

/-- The layout of a function: 0 register form, 1 immediate form, 2 PRD (R177, R191, R262). -/
def layoutOf (major func : Nat) : Nat :=
  if major = 0x48 then 2
  else if 0x80 ≤ func then 1
  else if major = 0x00 ∧ (func = 1 ∨ func = 2 ∨ func = 4 ∨ func = 0x0C) then 1
  else if major = 0x10 ∧ func = 0x10 then 1
  else 0

/-- The instruction of a word, or none where MAJOR, FUNC, PATH, CAP, TYPE or a reserved bit has no meaning (R192, R429). -/
def decode (w : W96) : Option Instr :=
  let major := (bitsAt w 88 8).toNat
  let func := (bitsAt w 80 8).toNat
  match layoutOf major func with
  | 0 => (unpackR w).bind (ctorR major func)
  | 1 => (unpackI w).bind (ctorI major func)
  | _ => (unpackP w).bind (ctorP major func)

/-- The word of a register-form instruction (R167, R175). -/
def encR (major func : BitVec 8) (w : Word) : W96 :=
  major ++ func ++ encodeOpd w.dst ++ BitVec.ofBool w.wbs ++ encodeOpd w.a ++ encodeOpd w.b ++ encodeOpd w.c ++ encodeGuard w.guard
    ++ encodePath w.path ++ encodeCap w.cap ++ (0 : BitVec 4) ++ BitVec.ofBool w.yield ++ encodeTy w.ty ++ w.round ++ BitVec.ofBool w.sat
    ++ w.slot ++ w.scope ++ w.chint ++ w.fspec

/-- The word of an immediate-form instruction (R177). -/
def encI (major func : BitVec 8) (w : WordI) : W96 :=
  major ++ func ++ encodeOpd w.dst ++ BitVec.ofBool w.wbs ++ encodeOpd w.a ++ w.imm.extractLsb' 12 20 ++ encodeGuard w.guard
    ++ encodePath w.path ++ encodeCap w.cap ++ (0 : BitVec 4) ++ BitVec.ofBool w.yield ++ encodeTy w.ty ++ w.round ++ BitVec.ofBool w.sat
    ++ w.slot ++ BitVec.ofBool w.neg ++ w.imm.extractLsb' 0 12

/-- The word of a PRD instruction (R262). -/
def encP (major func : BitVec 8) (w : WordP) : W96 :=
  major ++ func ++ encodeOpd w.dst ++ BitVec.ofBool w.wbs ++ encodeOpd w.a ++ encodeOpd w.b ++ encodeOpd w.c ++ encodeGuard w.guard
    ++ encodePath w.path ++ encodeCap w.cap ++ (0 : BitVec 4) ++ BitVec.ofBool w.yield ++ encodeTy w.ty ++ (0 : BitVec 4)
    ++ w.pd ++ w.pa ++ w.pb ++ (0 : BitVec 2) ++ BitVec.ofBool w.neg ++ w.tt

/-- The word of an instruction; an event has none, and encodes to a word of an unassigned major. -/
def encode : Instr → W96
  | .nop w => encR 0x00 0x00 w
  | .bra w => encI 0x00 0x01 w
  | .brd w => encI 0x00 0x02 w
  | .join w => encR 0x00 0x03 w
  | .call w => encI 0x00 0x04 w
  | .ret w => encR 0x00 0x05 w
  | .jmpi w => encR 0x00 0x06 w
  | .meld w => encR 0x00 0x07 w
  | .meldMap w => encR 0x00 0x08 w
  | .meldEnd w => encR 0x00 0x09 w
  | .exit w => encR 0x00 0x0A w
  | .yield w => encR 0x00 0x0B w
  | .yieldOn w => encI 0x00 0x0C w
  | .bpt w => encR 0x00 0x0D w
  | .trap w => encR 0x00 0x0E w
  | .hcall w => encR 0x00 0x0F w
  | .rfh w => encR 0x00 0x10 w
  | .sAdd w => encR 0x10 0x00 w
  | .sSub w => encR 0x10 0x01 w
  | .sMul w => encR 0x10 0x02 w
  | .sMulh w => encR 0x10 0x03 w
  | .sDiv w => encR 0x10 0x04 w
  | .sRem w => encR 0x10 0x05 w
  | .sAnd w => encR 0x10 0x06 w
  | .sOr w => encR 0x10 0x07 w
  | .sXor w => encR 0x10 0x08 w
  | .sShl w => encR 0x10 0x09 w
  | .sShr w => encR 0x10 0x0A w
  | .sSar w => encR 0x10 0x0B w
  | .sMin w => encR 0x10 0x0C w
  | .sMax w => encR 0x10 0x0D w
  | .sAddImm w => encI 0x10 0x80 w
  | .sSubImm w => encI 0x10 0x81 w
  | .sMulImm w => encI 0x10 0x82 w
  | .sMulhImm w => encI 0x10 0x83 w
  | .sDivImm w => encI 0x10 0x84 w
  | .sRemImm w => encI 0x10 0x85 w
  | .sAndImm w => encI 0x10 0x86 w
  | .sOrImm w => encI 0x10 0x87 w
  | .sXorImm w => encI 0x10 0x88 w
  | .sShlImm w => encI 0x10 0x89 w
  | .sShrImm w => encI 0x10 0x8A w
  | .sSarImm w => encI 0x10 0x8B w
  | .sMinImm w => encI 0x10 0x8C w
  | .sMaxImm w => encI 0x10 0x8D w
  | .sSel w => encR 0x10 0x0E w
  | .sCmp w => encR 0x10 0x0F w
  | .sCmpImm w => encI 0x10 0x8F w
  | .sMovi w => encI 0x10 0x10 w
  | .sLea w => encR 0x10 0x11 w
  | .sLeaImm w => encI 0x10 0x91 w
  | .sClz w => encR 0x10 0x12 w
  | .sPopc w => encR 0x10 0x13 w
  | .sBfx w => encR 0x10 0x14 w
  | .sBfi w => encR 0x10 0x15 w
  | .vAdd w => encR 0x20 0x00 w
  | .vAddc w => encR 0x20 0x01 w
  | .vSub w => encR 0x20 0x02 w
  | .vMul w => encR 0x20 0x03 w
  | .vMulh w => encR 0x20 0x04 w
  | .vMad w => encR 0x20 0x05 w
  | .vDiv w => encR 0x20 0x06 w
  | .vRem w => encR 0x20 0x07 w
  | .vAnd w => encR 0x20 0x08 w
  | .vOr w => encR 0x20 0x09 w
  | .vXor w => encR 0x20 0x0A w
  | .vShl w => encR 0x20 0x0B w
  | .vShr w => encR 0x20 0x0C w
  | .vSar w => encR 0x20 0x0D w
  | .vMin w => encR 0x20 0x0E w
  | .vMax w => encR 0x20 0x0F w
  | .vAbs w => encR 0x20 0x10 w
  | .vCmp w => encR 0x20 0x11 w
  | .vSel w => encR 0x20 0x12 w
  | .vBfx w => encR 0x20 0x13 w
  | .vBfi w => encR 0x20 0x14 w
  | .vPopc w => encR 0x20 0x15 w
  | .vClz w => encR 0x20 0x16 w
  | .vAddImm w => encI 0x20 0x80 w
  | .vSubImm w => encI 0x20 0x82 w
  | .vMulImm w => encI 0x20 0x83 w
  | .vAndImm w => encI 0x20 0x88 w
  | .vOrImm w => encI 0x20 0x89 w
  | .vXorImm w => encI 0x20 0x8A w
  | .vShlImm w => encI 0x20 0x8B w
  | .vShrImm w => encI 0x20 0x8C w
  | .vSarImm w => encI 0x20 0x8D w
  | .vMinImm w => encI 0x20 0x8E w
  | .vMaxImm w => encI 0x20 0x8F w
  | .vCmpImm w => encI 0x20 0x91 w
  | .fAdd w => encR 0x30 0x00 w
  | .fSub w => encR 0x30 0x01 w
  | .fMul w => encR 0x30 0x02 w
  | .fFma w => encR 0x30 0x03 w
  | .fMin w => encR 0x30 0x04 w
  | .fMax w => encR 0x30 0x05 w
  | .fCmp w => encR 0x30 0x06 w
  | .fDiv w => encR 0x30 0x07 w
  | .fSqrt w => encR 0x30 0x08 w
  | .fRcp w => encR 0x30 0x09 w
  | .fRsq w => encR 0x30 0x0A w
  | .fExp2 w => encR 0x30 0x0B w
  | .fLog2 w => encR 0x30 0x0C w
  | .fSin w => encR 0x30 0x0D w
  | .fCos w => encR 0x30 0x0E w
  | .fTanh w => encR 0x30 0x0F w
  | .fRound w => encR 0x30 0x10 w
  | .fClass w => encR 0x30 0x11 w
  | .fAddImm w => encI 0x30 0x80 w
  | .fSubImm w => encI 0x30 0x81 w
  | .fMulImm w => encI 0x30 0x82 w
  | .fMinImm w => encI 0x30 0x84 w
  | .fMaxImm w => encI 0x30 0x85 w
  | .fCmpImm w => encI 0x30 0x86 w
  | .cvt w => encR 0x40 0x00 w
  | .cvtN w => encR 0x40 0x01 w
  | .cvtW w => encR 0x40 0x02 w
  | .pack w => encR 0x40 0x03 w
  | .unpack w => encR 0x40 0x04 w
  | .blkEnc w => encR 0x40 0x05 w
  | .blkDec w => encR 0x40 0x06 w
  | .pLogic w => encP 0x48 0x00 w
  | .qLogic w => encP 0x48 0x01 w
  | .pAny w => encP 0x48 0x02 w
  | .pAll w => encP 0x48 0x03 w
  | .pBallot w => encP 0x48 0x04 w
  | .pPopc w => encP 0x48 0x05 w
  | .xShfl w => encR 0x50 0x00 w
  | .xRot w => encR 0x50 0x01 w
  | .xBcast w => encR 0x50 0x02 w
  | .xRed w => encR 0x50 0x03 w
  | .xScan w => encR 0x50 0x04 w
  | .xMatch w => encR 0x50 0x05 w
  | .mov w => encR 0x58 0x00 w
  | .movImm w => encI 0x58 0x80 w
  | .readlane w => encR 0x58 0x01 w
  | .first w => encR 0x58 0x02 w
  | .getsr w => encR 0x58 0x03 w
  | .setsr w => encR 0x58 0x04 w
  | .grow w => encR 0x58 0x05 w
  | .growTry w => encR 0x58 0x05 w
  | .shrink w => encR 0x58 0x06 w
  | .ld w => encR 0x60 0x00 w
  | .st w => encR 0x60 0x01 w
  | .ldu w => encR 0x60 0x02 w
  | .stu w => encR 0x60 0x03 w
  | .sld w => encR 0x60 0x04 w
  | .sst w => encR 0x60 0x05 w
  | .ldSrec w => encR 0x60 0x00 w
  | .stSrec w => encR 0x60 0x01 w
  | .l1Wb w => encR 0x60 0x06 w
  | .l1Inv w => encR 0x60 0x07 w
  | .tierPref w => encR 0x60 0x08 w
  | .atom w => encR 0x70 0x00 w
  | .atomBinc w => encR 0x70 0x01 w
  | .xaccAdd w => encR 0x70 0x02 w
  | .xaccFold w => encR 0x70 0x03 w
  | .xaccClr w => encR 0x70 0x04 w
  | .fence w => encR 0x78 0x00 w
  | .barArrive w => encR 0x78 0x01 w
  | .barWait w => encR 0x78 0x02 w
  | .barSync w => encR 0x78 0x03 w
  | .bobjInit w => encR 0x78 0x04 w
  | .bobjArrive w => encR 0x78 0x05 w
  | .bobjWait w => encR 0x78 0x06 w
  | .tlSignal w => encR 0x78 0x07 w
  | .tlWait w => encR 0x78 0x08 w
  | .waitcnt w => encR 0x78 0x09 w
  | .futWait w => encR 0x78 0x0A w
  | .futTest w => encR 0x78 0x0B w
  | .futCancel w => encR 0x78 0x0C w
  | .frontJoin w => encR 0x80 0x00 w
  | .frontLeave w => encR 0x80 0x01 w
  | .frontStep w => encR 0x80 0x02 w
  | .frontStat w => encR 0x80 0x03 w
  | .kick w => encR 0x88 0x00 w
  | .cpy w => encR 0x88 0x01 w
  | .contPark w => encR 0x88 0x02 w
  | .tqInit w => encR 0x88 0x03 w
  | .tqPush w => encR 0x88 0x04 w
  | .tqPop w => encR 0x88 0x05 w
  | .mtokAcq w => encR 0x90 0x00 w
  | .mtokAcqTry w => encR 0x90 0x00 w
  | .mtokPass w => encR 0x90 0x01 w
  | .mma w => encR 0x90 0x02 w
  | .mmaSp w => encR 0x90 0x03 w
  | .mmaOut w => encR 0x90 0x04 w
  | .accZero w => encR 0x90 0x05 w
  | .accLd w => encR 0x90 0x06 w
  | .accSt w => encR 0x90 0x07 w
  | .accMovTov w => encR 0x90 0x08 w
  | .accMovToa w => encR 0x90 0x08 w
  | .layout w => encR 0x90 0x09 w
  | .attn w => encR 0xA0 0x00 w
  | .attnScore w => encR 0xA0 0x00 w
  | .kvLookup w => encR 0xA0 0x01 w
  | .kvAlloc w => encR 0xA0 0x02 w
  | .kvFree w => encR 0xA0 0x03 w
  | .kvCompact w => encR 0xA0 0x04 w
  | .kvSweep w => encR 0xA0 0x05 w
  | .scoreClr w => encR 0xA0 0x06 w
  | .topk w => encR 0xA0 0x07 w
  | .pfxLookup w => encR 0xA0 0x08 w
  | .pfxInsert w => encR 0xA0 0x09 w
  | .exitTest w => encR 0xA0 0x0A w
  | .backfill w => encR 0xA0 0x0B w
  | .ebmSet w => encR 0xB0 0x00 w
  | .ebmRank w => encR 0xB0 0x01 w
  | .ebmSelect w => encR 0xB0 0x02 w
  | .regroup w => encR 0xB0 0x03 w
  | .sysr w => encR 0xB8 0x00 w
  | .sysw w => encR 0xB8 0x01 w
  | .tlbinv w => encR 0xB8 0x02 w
  | .raceClr w => encR 0xB8 0x03 w
  | .perfRd w => encR 0xB8 0x04 w
  | _ => 0xFFFF0000_00000000_00000000

/-- An instruction that has a word: every one that is no event. -/
def Instr.isWord (i : Instr) : Bool := i.head.isSome

/-- The instruction read from a word whose bits are numbered as the opcode table numbers them; an instruction is 96 bits, so bits above are ignored (R167, R168). -/
def decodeTableWord (nbits w : Nat) : Option Instr := decode (BitVec.ofNat 96 (w % 2 ^ (min nbits 96)))

end Sys2Proof
end

