-- ==== Sys2Proof/Machine/Lines.lean ====
section
/-! DEFINITION. The register lines that a slot uses, each read back from its group's context image at the first use of a register in it (R62, R65). -/

namespace Sys2Proof.Machine

/-- The runs of vector registers that an instruction reads or writes beyond those of its form: the operand that names the first, and how many (R310, R313, R335, R339, R350). -/
def Cx.runsOf (cx : Cx) (i : Instr) (vec : Bool) : List (Opd × Nat) :=
  match i with
  | .contPark w => [(.v 0, w.fspec.toNat)]
  | .exitTest w => [(w.c, 6)]
  | .tqPush w => [(w.b, cx.room w.b vec)]
  | .tqPop w => [(w.dst, cx.room w.dst vec)]
  | .accMovTov w => [(w.dst, 64 / cx.W)]
  | .accMovToa w => [(w.b, 64 / cx.W)]
  | .regroup w => [(w.b, w.fspec.toNat % 64)]
  | _ => []

/-- The register lines that a slot names, in any lane: its sources, its destination and its runs. -/
def Cx.nameLines (cx : Cx) (i : Instr) : List Nat :=
  let vec := isVector i.form cx.h
  let lanes := List.range cx.W
  let arm (L : Nat) : Nat := laneArm cx.g cx.c.arm L
  let ws := cx.namedWords i true lanes []
    ++ lanes.flatMap (fun L => cx.ruleWords (i.formW cx.W).dst cx.h.dst (arm L) L ++ (cx.runsOf i vec).flatMap (fun r => cx.opWords r.1 r.2 (arm L) L))
  ((ws.filter (fun w => decide (w.2 < 2 ^ 20))).map (fun w => cx.g.vline (w.2 / 64) (w.2 % 64))).eraseDups

/-- The accesses that a slot makes through its core to memory, where its group's own vector area may lie (R65). -/
def Cx.coreAccs (cx : Cx) (i : Instr) (s : State) : List Acc :=
  let vec := isVector i.form cx.h
  match i with
  | .ld w | .st w => (cx.arms vec).flatMap (cx.memAccs w vec)
  | .ldu w | .stu w => (cx.arms false).flatMap (cx.memAccs w false)
  | .blkEnc w | .blkDec w => if cx.act.isEmpty then [] else [cx.blkAcc (s.fmtSlot cx w.slot) w.a]
  | .ebmRank w => (cx.arms vec).flatMap (cx.ebmAccs vec w.b)
  | .ebmSelect w => (cx.arms vec).flatMap (cx.ebmAccs vec w.c)
  | .scoreClr w => (cx.arms false).flatMap (cx.clrAccs w)
  | _ => []

/-- The register lines that its accesses touch. -/
def Cx.accLines (cx : Cx) (i : Instr) (s : State) : List Nat :=
  ((cx.coreAccs i s).flatMap (fun a => (pieces a.va a.n).flatMap (fun p => match cx.g.own p.1 p.2 with
    | some o => [o / 256, (o + p.2 - 1) / 256]
    | none => []))).eraseDups

/-- Those of a list of lines that still stand in the context image are read back. -/
def State.useLines (s : State) (cx : Cx) (l : List Nat) : Except (Nat × Nat × Nat) State :=
  (l.filter (fun k => cx.g.vout.contains k)).foldl (fun acc k => match acc with | .error e => .error e | .ok s => s.loadLine cx.tenant cx.g k) (.ok s)

/-- A slot that passes its shared conditions reads back the lines of the registers it names, and then those that its accesses touch: their addresses may stand in the former (R62, R65). -/
def State.firstUse (s : State) (g : Group) (i : Instr) (cur : Cur) : Except (Nat × Nat × Nat) State :=
  if g.vout.isEmpty then .ok s
  else
    match gate i { s with cur := some cur } with
    | .go cx | .skip cx =>
      match s.useLines cx (cx.nameLines i) with
      | .error e => .error e
      | .ok s => let cx := cx.refresh s; if cx.noEffect then .ok s else s.useLines cx (cx.accLines i s)
    | _ => .ok s

end Sys2Proof.Machine
end

