-- ==== Sys2Proof/Machine/Fetch.lean ====
section
/-! DEFINITION. Fetching a bundle, its control word, the slot that comes next when its script names none (R179-R183, R363-R365, R401, R426-R429; log 8). -/

namespace Sys2Proof.Machine

/-- Reserved bits of a control word (R180, R428): bits 7:4 and 127:104, and bits 23:1 of the slot field of each valid slot. -/
def ctrlBad (x : Nat) : Bool :=
  fld x 7 4 != 0 || fld x 127 104 != 0 || (List.range 4).any (fun i => x.testBit i && fld x (31 + 24 * i) (9 + 24 * i) != 0)

/-- DRAIN of slot i (R180). -/
def drainOf (x i : Nat) : Bool := x.testBit (8 + 24 * i)

/-- The word of slot i of a bundle (R168, R179). -/
def slotWord (x i : Nat) : W96 := BitVec.ofNat 96 (x / 2 ^ (128 + 96 * i))

/-- A condition met by a slot before its instruction is known: rank 1 or 2 in a handler ends the team, any other is taken as a trap (R402, R411). -/
def State.fetchTrap (s : State) (c : CtxId) (g : Group) (t : Trap) (fatal : Bool) : State :=
  if g.hmode then
    match fatal, s.team c.team with
    | true, some tm => (s.noteTrap tm g t).terminate c.team c.grp 0 t t.detail t.info
    | _, _ => s.raise c.team c.grp t
  else ((s.raise c.team c.grp t).updArm c (fun a => { a with wait := {} })).haltCtx c

/-- What a context's turn comes to: nothing while it is not ready, with what its fetch leaves; a state; an instruction to run; or one that a halted context finishes, run in a view of the state (R363, R413). -/
inductive Turn where
  | held (s : State)
  | done (s : State)
  | run (i : Instr) (s : State)
  | finish (c : CtxId) (i : Instr) (s view : State)
deriving DecidableEq, Repr

/-- The checks of rank 3 (R429). -/
def rank3 (i : Instr) (W slot : Nat) (valid : BitVec 4) : Bool :=
  (match i.head with | some h => wordOk i.form h | none => false) && placeOk i slot valid && !i.rank3w W

/-- The port a context issues through: the one it is current on, else the one named (R364). -/
def State.portFor (s : State) (g : Group) (c : CtxId) (b : Bool) : Bool :=
  if (s.core g.core).portA.cur = some c then false else if (s.core g.core).portB.cur = some c then true else b

/-- A slot of the bundle that a context has reached: its bytes `x`, its page `e`. A register line that cannot be read back is state lost (R62, R420). -/
def State.slotTurn (s : State) (c : CtxId) (portB : Bool) (g : Group) (e : TlbEntry) (x : Nat) : Turn :=
  let a := g.arm c.arm
  let valid : BitVec 4 := BitVec.ofNat 4 x
  let t (cause slot : Nat) : Trap := { cause := cause, pc := pcWord a.pc slot, arm := armSel c }
  if ctrlBad x then
    let k := ((List.range 4).find? (fun i => valid.getLsbD i)).getD 0
    .done ((s.updArm c (fun a => { a with slot := k })).fetchTrap c g (t 0x01 k) true)
  else
    match (List.range 4).find? (fun i => decide (a.slot ≤ i) && valid.getLsbD i) with
    | none => .done (s.updArm c (fun a => { a with pc := (a.pc + 64) % 2 ^ 56, slot := 0 }))
    | some k =>
      if drainOf x k && (s.marksOf c.team c.grp).any (fun m => m != {}) then .held s
      else
        let ill : State :=
          let s := (s.updArm c (fun a => { a with slot := k })).fetchTrap c g (t 0x01 k) false
          if g.hmode then s.jump c (pcAfter a.pc k valid).1 (pcAfter a.pc k valid).2 else s
        match decode (slotWord x k) with
        | none => .done ill
        | some i =>
          if rank3 i g.width k valid then
            let cur : Cur := { c := c, bundle := a.pc, slot := k, valid := valid, priv := e.priv, portB := s.portFor g c portB }
            match s.firstUse g i cur with
            | .ok s => .run i { s.updArm c (fun a => { a with slot := k }) with cur := some cur }
            | .error x => .done ((s.loseTeam c.team c.grp { t x.1 k with detail := x.2.1, info := BitVec.ofNat 64 x.2.2 }).haltCtx c)
          else .done ill

/-- A context may go on: its team runs, or it stands in a slot that has begun: a wait that has ended completes while the team stops for a pre-emption or a squall (R367, R401, R413), and no slot begins while the team owes a HOSTHALT at its next slot boundary (R418). -/
def State.mayRun (s : State) (team : Nat) (tm : Team) (w : Wait) : Bool :=
  let late : Bool := match tm.squall with | some q => !q.entered && decide (q.cycle + 64 ≤ s.clock) | none => s.faults.any (fun f => f.team == team && f.trap.cause == 0x3A)
  (!late || w.status.isSome) && (tm.place == .resident || (tm.place == .stopping && w.status.isSome))

/-- A slot fetched for a context of a group (R181, R183, R426-R428). -/
def State.fetchTurn (s : State) (c : CtxId) (portB : Bool) (g : Group) : Turn :=
  let pc := (g.arm c.arm).pc
  let t (cause detail : Nat) : Trap := { cause := cause, detail := detail, pc := pcWord pc (g.arm c.arm).slot, arm := armSel c, info := BitVec.ofNat 64 pc }
  match s.reach g.core (s.tenantOf c.team) pc { x := true, priv := true } with
  | .bad cause d => .done (s.fetchTrap c g (t cause d) true)
  | .ok e =>
    let s := (s.fillCore g.core e).note (e.at pc)
    if s.poisonAt (e.at pc) then .done (s.fetchTrap c g (t 0x16 0) true)
    else s.slotTurn c portB g e (s.peek (e.at pc) 64)

/-! ### A wait satisfied while its team is halted (R413) -/

/-- A handler of the team has been entered, so that its control areas hold its groups' state. -/
def State.inHandler (s : State) (team : Nat) : Bool :=
  match s.team team with | some t => (match t.squall with | some q => q.entered | none => false) | none => false

/-- The group of a context that was halted at its wait, once the wait is satisfied: a wait that its slot made after it issued, which one for its release is not (R401), or a future that was pending when the context halted. -/
def State.waitOver (s : State) (c : CtxId) : Option Group :=
  match s.team c.team, s.group c.team c.grp with
  | some t, some g =>
    let a := g.arm c.arm
    let own : Bool := a.wait.resumed && !a.wait.unissued && !s.waiting g a.wait
    let fut : Bool := a.wait.kind == .idle && a.awaits.any (fun k => (s.tenant (s.tenantOf c.team)).stateOf k != 0)
    if decide (c.arm < 2) && t.place == .resident && a.live && a.halted && !g.retired && (own || fut) then some g else none
  | _, _ => none

/-- The slot that a halted context stands at completes: one that goes on after its wait, or one that passes its shared conditions and names a future that the context awaited, now settled (R108, R413). -/
def State.completes (v : State) (a : Arm) (i : Instr) : Bool :=
  a.wait.kind != .idle || (match gate i v with | .go cx | .skip cx => (cx.handles i).any (fun f => a.awaits.contains f.2) | _ => false)

/-- The state in which such a context completes its instruction: its registers are those of its control area, once that has been written; none when the area cannot be read. -/
def State.asWaiting (s : State) (c : CtxId) (g : Group) : Option State :=
  let up (g : Group) : Group := { g.updArm c.arm (fun a => { a with halted := false }) with hmode := false }
  if s.inHandler c.team then
    match s.readCtrl g.core g with
    | .ok x => some (s.updGroup c.team c.grp (fun g => { up g with
        futs := (g.unctrl x.1).futs, s := (g.unctrl x.1).s, sb1 := (g.unctrl x.1).sb1, p := (g.unctrl x.1).p, q := (g.unctrl x.1).q, q1 := (g.unctrl x.1).q1, spo := [], xmask := (g.unctrl x.1).xmask,
        split := (g.unctrl x.1).split, melded := (g.unctrl x.1).melded, armBits := (g.unctrl x.1).armBits, ren0 := (g.unctrl x.1).ren0, ren1 := (g.unctrl x.1).ren1 }))
    | .error _ => none
  else some (s.updGroup c.team c.grp up)

/-- The words of a control area that a completion changed: registers and predicates written where the restore finds them. -/
def State.putRegs (s : State) (g : Group) (old new : Nat) : State :=
  let w (x k : Nat) : Nat := x / 2 ^ (32 * k) % 2 ^ 32
  (List.range 176).foldl (fun s k => if w old k = w new k then s else s.ctrlPut g (4 * k) 4 (w new k)) s

/-- What a completion `t` in the view `v` leaves of a context that stays halted in `s`: its PC still at the waiting slot, with the place where it goes on noted; the handler's own registers stand, and the context's are in its control area (R413). -/
def State.finished (s v t : State) (c : CtxId) : State :=
  match s.group c.team c.grp, v.group c.team c.grp, t.group c.team c.grp with
  | some g0, some gv, some g =>
    let a0 := g0.arm c.arm
    let back (a : Arm) : Arm := { a with pc := a0.pc, slot := a0.slot, halted := true, awaits := [], after := if a.pc = a0.pc ∧ a.slot = a0.slot then none else some (a.pc, a.slot) }
    let halt (g : Group) : Group := { g.updArm c.arm back with hmode := g0.hmode }
    if s.inHandler c.team then
      (t.updGroup c.team c.grp (fun g => { halt g with
        futs := g0.futs, ctrlFuts := g0.ctrlFuts.filter (fun f => g.futs.contains f || !gv.futs.contains f), s := g0.s, sb1 := g0.sb1, p := g0.p, q := g0.q, q1 := g0.q1, spo := g0.spo, xmask := g0.xmask,
        split := g0.split, melded := g0.melded, armBits := g0.armBits, ren0 := g0.ren0, ren1 := g0.ren1 })).putRegs g0 gv.ctrlRegs g.ctrlRegs
    else t.updGroup c.team c.grp halt
  | _, _, _ => t

/-- The turn of a context (R363, R401, R413). Nothing happens for a context that is not live, or whose team is stopping; one that a squall has halted finishes the instruction whose wait is over. -/
def State.turn (s : State) (c : CtxId) (portB : Bool) : Turn :=
  match s.context c, s.team c.team with
  | some g, some tm => if s.stopped || !s.mayRun c.team tm (g.arm c.arm).wait || s.waiting g (g.arm c.arm).wait then .held s else s.fetchTurn c portB g
  | _, _ =>
    match s.waitOver c with
    | none => .held s
    | some g =>
      if s.stopped then .held s
      else
        match s.asWaiting c g with
        | none => .held s
        | some v => match v.fetchTurn c portB ((v.group c.team c.grp).getD g) with | .run i v => if v.completes (g.arm c.arm) i then .finish c i s v else .held s | _ => .held s

/-! ### The order of steps (log 8) -/

/-- The live contexts, longest wait first (R364, R365). -/
def State.contexts (s : State) : List CtxId :=
  let l := s.groups.flatMap (fun g => ([0, 1, 2, 3].filter (fun a => (g.arm a).live)).map (fun a => ((g.arm a).readySince, ({ team := g.team, grp := g.idx, arm := a } : CtxId))))
  let rec ins (x : Nat × CtxId) : List (Nat × CtxId) → List (Nat × CtxId)
    | [] => [x]
    | y :: t => if x.1 < y.1 then x :: y :: t else y :: ins x t
  (l.foldl (fun acc x => ins x acc) []).map (fun p => p.2)

/-- A translation leaves a cache by replacement (R83): core numbers from 768 name the units of R486. -/
def State.dropTlb (s : State) (core k : Nat) : State :=
  if core < 768 then s.updCore core (fun c => { c with tlb := c.tlb.eraseIdx k })
  else
    let mine := s.agentTlb.filter (fun p => p.1 == core - 768)
    { s with agentTlb := s.agentTlb.filter (fun p => p.1 != core - 768) ++ mine.eraseIdx k }

/-- The bytes of a bundle with one word, in slot 0 (R179, R180). -/
def bundleOf (w : Nat) : Nat := 1 + w % 2 ^ 96 * 2 ^ 128

/-- A resident width-16 group whose context stands at a privileged page that holds one instruction word, the ports of core 0 its own, and a script that issues it next (log 20). -/
def State.place (s : State) (w : Nat) : State :=
  let t := s.teams.length
  let c : CtxId := { team := t, grp := 0, arm := 0 }
  let e : TlbEntry := { tenant := 0, va := 0, pa := 0, size := 2 ^ 16, priv := true, x := true, w := false, rd := false }
  let l : Launch := { recVa := 0, hdr := BitVec.ofNat 4096 (16 * 2 ^ 712 + 1 * 2 ^ 728), tenant := 0, args := 0, next := 1, total := 1 }
  let g : Group := { team := t, idx := 0, core := 0, width := 16, ureg := 96, count := 256, arm0 := { live := true, mask := fullMask 16 } }
  let s := s.updCore 0 (fun x => { x with tlb := e :: x.tlb, portA := { cur := some c }, portB := {} })
  let rest (x : Group) : Group := if x.core = 0 then x.mapArms (fun a => { a with due := false }) else x
  { s with mem := s.mem.write 0 64 (bundleOf w), memPoison := s.memPoison.filter (fun k => k != 0), launches := s.launches ++ [l],
           teams := s.teams ++ [{ launch := s.launches.length, index := 0, core := 0, bars := List.replicate 16 {} }],
           groups := s.groups.map rest ++ [g], power := { s.power with trip := false, cur := 0 }, script := [.issue c false], hole := false }

end Sys2Proof.Machine
end

