-- ==== Sys2Proof/Machine/Order.lean ====
section
/-! DEFINITION. How a step ends, a context's turn, and the model's own order of steps, which it follows while the script names none (95_what_each_step_holds.md; log 8). -/

namespace Sys2Proof.Machine

/-- A step that touched an address where no memory stands ends in a fault (R15); no slot is being issued between steps. -/
def settled (o : Host.Outcome State Fault Refusal) : Host.Outcome State Fault Refusal :=
  match o with
  | .next s => if s.hole then .fault .physicalHole else .next { s with cur := none }
  | .fault f => .fault f
  | .refused r => .refused r

/-- A context's turn, with its instruction run. -/
def runTurn (t : Turn) : Host.Outcome State Fault Refusal :=
  match t with
  | .held s => settled (.next s)
  | .done s => settled (.next s)
  | .run i s => settled (exec i s)
  | .finish c i s v => settled (match exec i v with | .next t => .next (if t = v then s else s.finished v t c) | o => o)

/-! ### The ports (R181, R187, R364 to R366) -/

/-- The context that a slot's first issue is for, with its core and the port it issues through: 0 and 1 the vector ports, 2 the uniform port; none for a slot in the middle of its wait. -/
def Turn.asks : Turn → Option (CtxId × Nat × Nat)
  | .run i s =>
    match i.head, s.cur with
    | some h, some cur =>
      match s.context cur.c with
      | some g => if (g.arm cur.c.arm).wait.resumed then none else some (cur.c, g.core, if isVector i.form h then b2n cur.portB else 2)
      | none => none
    | _, _ => none
  | _ => none

/-- A turn would issue its slot, or go on: nothing holds it (R363). -/
def Turn.ready : Turn → Bool
  | .run i s => match exec i s with | .next t => decide (t ≠ s) | _ => true
  | .done _ => true
  | _ => false

/-- A turn would issue its slot through a port of some kind. -/
def Turn.wants (t : Turn) (p : Nat → Bool) : Bool := (match t.asks with | some x => p x.2.2 | none => false) && t.ready

/-- Cycles pass while the clocks run. A context whose next slot cannot issue after them has not been ready, so that it waits from then on and is not due (R363, R364). -/
def State.tick (s : State) (n : Nat) : State :=
  if s.stopped then s
  else
    let s := { s with clock := s.clock + n }
    let rest (g : Group) (k : Nat) (a : Arm) : Arm := if a.live && !(s.turn { team := g.team, grp := g.idx, arm := k } false).ready then { a with readyAt := s.clock, due := false } else a
    { s with groups := s.groups.map (fun (g : Group) => if g.retired then g else { g with arm0 := rest g 0 g.arm0, arm1 := rest g 1 g.arm1, armH0 := rest g 2 g.armH0, armH1 := rest g 3 g.armH1 }) }.flushErrs

/-- The member that a front presses while one of its members is in lull: the one with the smallest step, the lowest slot of equals (R366). -/
def FrontEnt.presses (e : FrontEnt) (team grp : Nat) : Bool :=
  match e.lull, e.minOf e.mem with
  | _ :: _, some m =>
    (match (lanesOf e.mem).find? (fun k => (e.steps.get k).toNat == m) with
     | some k => e.who.contains (k, team, grp)
     | none => false)
  | _, _ => false

/-- The rank of a context at a port, by which the smallest is chosen (R364): due contexts first, then class, then one that has just yielded last, pressed contexts, the token's holder, the longest wait, and the place in the launch. -/
def State.portRank (s : State) (c : CtxId) (yielded : Bool) : List Nat :=
  match s.team c.team, s.group c.team c.grp with
  | some t, some g =>
    let a := g.arm c.arm
    let pressed := s.fronts.any (fun e => e.presses c.team c.grp)
    let place : List Nat := [t.index, c.grp, c.arm, c.team]
    if a.due then 0 :: a.readySince :: place
    else [1, 3 - (s.launch t.launch).prio, b2n yielded, b2n (!pressed), b2n (t.tokOn g.core != some c.grp), a.readySince] ++ place
  | _, _ => []

/-- The contexts of a list that stand on a core. -/
def State.onCore (s : State) (l : List CtxId) (core : Nat) : List CtxId := l.filter (fun d => match s.group d.team d.grp with | some g => g.core == core | none => false)

/-- A vector port of a core issues from a context now: it keeps its current context while that has not yielded, none of the core is due and the context is ready with a vector slot next; otherwise it chooses by rank among the ready contexts that are not current on the other port (R364). -/
def State.vectorGrants (s : State) (l : List CtxId) (c : CtxId) (core : Nat) (b : Bool) : Bool :=
  let x := s.core core
  let p := if b then x.portB else x.portA
  let q := if b then x.portA else x.portB
  let here := s.onCore l core
  let due := here.any (fun d => match s.armOf d with | some a => a.due | none => false)
  let wants (d : CtxId) : Bool := (s.turn d b).wants (fun p => decide (p < 2))
  if p.cur = some c ∧ !p.yielded ∧ !due then true
  else
    let kept : Bool := match p.cur with | some d => !p.yielded && !due && d != c && here.contains d && wants d | none => false
    let rank (d : CtxId) : List Nat := s.portRank d (p.yielded && p.cur == some d)
    !kept && here.all (fun d => d == c || q.cur == some d || !keyBefore (rank d) (rank c) || !wants d)

/-- The uniform registers and predicates that an instruction writes, by their keys (R45). -/
def Cx.uniWrites (cx : Cx) (i : Instr) (vec : Bool) : List Nat × List Nat :=
  let f := i.form
  (cx.sels.flatMap (fun a => if cx.wb then uwords cx.h.dst f.dst.n a else []), match f.qw with | some q => if i.qUni vec then [q.toNat] else [] | none => [])

/-- A uniform slot pairs with the vector slot after it in its bundle: it has YIELD 0, the vector slot has DRAIN 0 and names nothing that holds a mark, and it reads and writes nothing that the uniform slot writes (R181). -/
def State.pairs (s : State) (c : CtxId) (b : Bool) : Bool :=
  match s.turn c b, s.context c with
  | .run i u, some g =>
    match i.head, u.cur, s.reach g.core (s.tenantOf c.team) (g.arm c.arm).pc { x := true, priv := true } with
    | some h, some cur, .ok e =>
      let x := s.peek (e.at (g.arm c.arm).pc) 64
      match (List.range 4).find? (fun k => decide (cur.slot < k) && cur.valid.getLsbD k) with
      | some k =>
        match decode (slotWord x k) with
        | some j =>
          match j.head with
          | some hj =>
            let cu := Cx.make i h cur g u
            let cv := Cx.make j hj { cur with slot := k } g u
            let w := cu.uniWrites i false
            let v := cv.uniWrites j true
            let reads := (cv.namedWords j true (List.range cv.W) []).filterMap (fun p => if 2 ^ 20 ≤ p.2 then some (p.2 - 2 ^ 20) else none)
            let qs := j.qReads ++ (if hj.guard.uni then [hj.guard.idx.toNat] else []) ++ v.2
            !isVector i.form h && isVector j.form hj && !h.yield && !drainOf x k && rank3 j g.width k cur.valid && !marked j (j.formW g.width) true cv (u.marksOf c.team c.grp)
              && !(reads ++ v.1).any (fun r => w.1.contains r) && !qs.any (fun q => w.2.contains q)
          | none => false
        | none => false
      | none => false
    | _, _, _ => false
  | _, _ => false

/-- The uniform port of a core issues from a context now: it ranks first among the ready contexts whose next slot is uniform, or its slot issues with the vector slot that it pairs with, which a vector port then takes (R365; DEDUCED, log 133). -/
def State.uniformGrants (s : State) (l : List CtxId) (c : CtxId) (core : Nat) : Bool :=
  let first (d : CtxId) : Bool := d == c || !keyBefore (s.portRank d false) (s.portRank c false) || !(s.turn d false).wants (fun p => p == 2)
  let port : Bool := match s.context c with | some g => s.portFor g c false | none => false
  (s.onCore l core).all first || (s.pairs c false && s.vectorGrants l c core port)

/-- A port of a core, the uniform port when it is 2, issues from a context now (R364, R365). -/
def State.grants (s : State) (l : List CtxId) (c : CtxId) (core p : Nat) : Bool :=
  if p = 2 then s.uniformGrants l c core else s.vectorGrants l c core (p == 1)

/-- A context's turn at its port: a slot that the port does not issue from waits. -/
def State.portTurn (s : State) (c : CtxId) (b : Bool) : Turn :=
  let t := s.turn c b
  match t.asks with
  | some (d, core, p) => if s.grants s.contexts d core p then t else .done s
  | none => t

/-- What a step would answer, not yet computed. -/
abbrev Later := Unit → Host.Outcome State Fault Refusal

/-! ### The order of steps (log 8) -/

/-- The events that records in flight may be ready for, oldest first. -/
def State.pendingEvents (s : State) : List Instr :=
  s.asyncs.map (fun x => .asyncWriteLands x.id)
    ++ s.acks.map (fun a => .writebackAck a.id 0)
    ++ s.merges.map (fun m => .mergedReadReply m.id)
    ++ s.reqs.map (fun r => match r.kind with | .op _ => .homeSliceAtomic r.id | _ => .homeSliceRequest r.id)
    ++ (List.range s.faults.length).map .impreciseFaultArrival
    ++ s.cores.flatMap (fun c => [.matrixEnginePerform c.num, .growGrant c.num, .poolBoundaryApply c.num])
    ++ s.ops.flatMap (fun o => (match o.kind with
        | .kick _ n => (List.range n).map (fun k => .copyRecordLanded o.id k)
        | .cpy _ _ _ _ => [.copyRecordLanded o.id 0]
        | .stream _ _ _ => (o.prog.map (fun k => .streamRowPerformed o.id k)) ++ [.streamRowPerformed o.id o.prog.length]
        | .tier _ _ => [.tierPromotePage o.id]
        | .attn _ _ => (0 :: o.blks.map (fun b => b.home)).flatMap (fun k => (List.range 16).map (fun h => .attnTileComplete o.id k h))
        | .compact _ => [.compactionStart o.id]
        | .backfill _ => [.backfillPublish o.id]
        | _ => []) ++ [.engineOpComplete o.id])
    ++ s.moves.map (fun m => .demotionCopyComplete ⟨m.id, 0⟩) ++ s.kvw.map (fun r => .tableWriteAfterMove r.id)
    ++ s.inbox.flatMap (fun m => if m.kind = 0 then (List.range m.parts.length).map (fun k => .remoteWriteLanding m.id k)
        else if m.kind = 1 then (List.range m.parts.length).map (fun k => .tokenRowLanding m.id k) else [.taggedMessageLanding m.id])
    ++ s.hcalls.map (fun h => .hcallRingPush h.c)
    ++ (List.range s.teams.length).flatMap (fun t => [.handlerEntry t, .teamPreemption t, .teamRetire t])
    ++ (List.range s.launches.length).map .launchComplete
    ++ (List.range 16).flatMap (fun t => [.clockVisit t, .launchPop t 3, .launchPop t 2, .launchPop t 1, .launchPop t 0])
    ++ (List.range s.launches.length).flatMap (fun l => (List.range 768).map (fun c => .dispatchTeam l c))

/-- Meanings of events that follow from the state alone and whose names stand late in the table: waits that time out, teams that the watchdog ends or that resume, sends, backfill, continuations, power (log 8). -/
def State.lateEvents (s : State) : List Later :=
  let cores (f : Nat → Later) : List Later := (List.range 768).map f
  let power : List Later := [fun _ => execPowerTransition s, fun _ => execPowerStopped s]
  let waits : List Later := s.contexts.map (fun (c : CtxId) (_ : Unit) => execWaitTimeout c s)
  let fronts : List Later := s.fronts.map (fun (e : FrontEnt) (_ : Unit) => execFrontEjection e.pa s)
  let ops : List Later := s.ops.map (fun (o : EngOp) (_ : Unit) => execAttnRecompute o.id s) ++ s.ops.map (fun (o : EngOp) (_ : Unit) => execFabricSendComplete ⟨o.id, 0⟩ s)
  let olds : List Later := s.olds.map (fun (o : OldBlock) (_ : Unit) => execOldBlockFreePush o.id s)
  let dogs : List Later := (List.range s.teams.length).map (fun (t : Nat) (_ : Unit) => execWatchdog t s)
  let sends : List Later := (List.range 16).map (fun (t : Nat) (_ : Unit) => execFabricSend t s)
  let away (t : Nat) : Bool := match s.team t with | some x => !x.place.here && !x.place.finished 0 | none => false
  let teams : List Later := ((List.range s.teams.length).filter away).flatMap (fun t => cores (fun (c : Nat) (_ : Unit) => execTeamResume t c s))
  let conts : List Later := s.conts.flatMap (fun x => cores (fun (c : Nat) (_ : Unit) => execContinuationResume x.id c s))
  let fills : List Later := ((List.range 16).filter (fun t => (s.bfAddrs t).isSome)).flatMap (fun t => cores (fun (c : Nat) (_ : Unit) => execBackfillTaskStart t c s))
  power ++ waits ++ fronts ++ ops ++ olds ++ dogs ++ sends ++ teams ++ conts ++ fills

/-- The first outcome that is not the state itself. -/
def firstChange (s : State) : List Later → Option (Host.Outcome State Fault Refusal)
  | [] => none
  | f :: t =>
    match f () with
    | .next s' => if s' = s then firstChange s t else some (.next s')
    | o => some o

/-- What may come next, in the model's own order: events in flight, then the contexts, longest wait first. -/
def State.nextSteps (s : State) : List Later :=
  let events : List Later := s.pendingEvents.map (fun (i : Instr) (_ : Unit) => settled (exec i s))
  let late : List Later := s.lateEvents.map (fun (f : Later) (_ : Unit) => settled (f ()))
  let turns : List Later := s.contexts.map (fun (c : CtxId) (_ : Unit) => runTurn (s.portTurn c false))
  events ++ late ++ turns

/-- The model's own order (log 8): the first event in flight that is ready, else the context that has waited longest, and a cycle passes. -/
def auto (s : State) : Host.Outcome State Fault Refusal :=
  match firstChange s s.nextSteps with
  | some (.next s') => .next (s'.tick 1)
  | some o => o
  | none => .next (s.tick 1)

end Sys2Proof.Machine
end

