-- ==== Sys2Proof/Machine/Step.lean ====
section
/-! DEFINITION. One step: the next choice of the script, or the model's own order when the script is empty (95_what_each_step_holds.md; log 8, log 20). -/

namespace Sys2Proof.Machine

/-- One choice of a script. -/
def perform (c : Choice) (s : State) : Host.Outcome State Fault Refusal :=
  match c with
  | .issue c b => runTurn (s.portTurn c b)
  | .event i => if i.head.isNone then settled (exec i s) else .next s
  | .tick n => .next (s.tick n)
  | .dropTlb core k => .next (s.dropTlb core k)
  | .logKernel digest => .next (s.logKernel digest)

/-- One step of the machine. -/
def step (s : State) : Host.Outcome State Fault Refusal :=
  match s.script with
  | c :: t => perform c { s with script := t }
  | [] => auto s

/-- A state whose next step issues the instruction of one opcode-table word (log 20). -/
def State.withFetchWord (s : State) (nbits w : Nat) : State := s.place (w % 2 ^ (min nbits 96))

end Sys2Proof.Machine
end

