-- ==== Sys2Proof/Safety.lean ====
section
/-! DEFINITION. What claims call a good state, and the terms in which they say that a slot completes: its conditions passed, its effect run for each arm, its PC at the next slot (R44, R45, R181, R189, R426). -/

namespace Sys2Proof

/-- Memory is in its canonical form: addresses strictly rising, no listed zero byte. -/
def MemOk (s : Machine.State) : Prop := Memory.wf s.mem = true

/-- A step goes on. -/
def Steps (s s' : Machine.State) : Prop := Machine.step s = .next s'

namespace Machine

/-- No wait of the slot itself is under way: it is at its first issue. -/
def Cx.first (cx : Cx) : Bool :=
  let w := (cx.g.arm cx.c.arm).wait
  !w.resumed && !w.rel && w.exec == 0

/-- The slot of a well-formed instruction meets none of the conditions that all instructions share (ranks 1 to 7, R426 to R433, and what holds it, R185), and is at its first issue. -/
def Passes (i : Instr) (s : State) (cx : Cx) : Prop := WellFormed i = true ∧ gate i s = .go cx ∧ cx.first = true

/-- The source words that a slot uses by its form, over its executions (R45, R456). -/
def Cx.formWords (cx : Cx) (i : Instr) : List (Nat × Nat) := (cx.arms (isVector i.form cx.h)).flatMap (cx.srcWords i (isVector i.form cx.h))

/-- No source word that the instruction uses is poisoned (R456). -/
def Cx.clean (cx : Cx) (i : Instr) : Prop :=
  cx.poison (cx.formWords i) = none

/-- No register word of the group is poisoned. -/
def Cx.pure (cx : Cx) : Prop := cx.g.vpo = [] ∧ cx.g.spo = []

/-- The group of a slot as the slot finds it. -/
def Cx.opened (cx : Cx) (s : State) : State := s.updGroup cx.c.team cx.c.grp (fun _ => cx.g.endYield cx.c.arm)

/-- The release that a slot makes before its effect, and what it waits for (R95); nothing without one. -/
def Cx.release (cx : Cx) (scope : Option Nat) (s : State) : State × Wait :=
  match scope, s.team cx.c.team with
  | some k, some t => s.startRelease cx.core t cx.c.team cx.c.grp k
  | _, _ => (s, { kind := .acks, rel := true })

/-- Nothing that the release of a slot waits for is on its way. -/
def Cx.released (cx : Cx) (scope : Option Nat) (s : State) : Prop :=
  (cx.release scope (cx.opened s)).1.pendingOn (cx.release scope (cx.opened s)).2 = false

/-- The state in which the effect of a slot begins: its release made, an event kept for each poisoned word that it names and does not use, the port and its yield taken, the time of issue noted (R95, R187, R364, R456). `ws` are the words it uses. -/
def Cx.starts (cx : Cx) (i : Instr) (scope : Option Nat) (s : State) (ws : List (Nat × Nat) := cx.formWords i) : State :=
  cx.issued (isVector i.form cx.h) (cx.deferred i (isVector i.form cx.h) ws (cx.release scope (cx.opened s)).1)

/-- The state in which the effect of a slot without a release begins. -/
def Cx.begun (cx : Cx) (i : Instr) (s : State) (ws : List (Nat × Nat) := cx.formWords i) : State := cx.starts i none s ws

/-- The state in which the effect of a slot begins whose release, or wait for acknowledgements, is over (R95, R285). -/
def Cx.rebegun (cx : Cx) (i : Instr) (s : State) : State :=
  cx.issued (isVector i.form cx.h) (cx.deferred i (isVector i.form cx.h) (cx.formWords i) ((cx.opened s).updArm cx.c (fun a => { a with wait := {} })))

/-- The effect of a slot begins in `s0`: at its first issue, with its own conditions `ok` met and nothing for its release to wait for, or, when it stood at its slot for its release, once what that waited for is over (R95). -/
def Begins (i : Instr) (scope : Option Nat) (ok : Prop) (s : State) (cx : Cx) (s0 : State) : Prop :=
  (Passes i s cx ∧ cx.clean i ∧ ok ∧ cx.released scope s ∧ s0 = cx.starts i scope s)
  ∨ (WellFormed i = true ∧ gate i s = .go cx ∧ (cx.g.arm cx.c.arm).wait.kind = .release ∧ (cx.g.arm cx.c.arm).wait.exec = 0 ∧ s0 = cx.rebegun i s)

/-- An effect run for each arm that a slot executes for, in order (R45). -/
def Cx.each (cx : Cx) (f : Cx → Nat → State → State) : List Nat → State → State
  | [], s => s
  | a :: t, s => cx.each f t (f (cx.refresh s) a s)

/-- An effect that moves the PC itself, from the state in which it begins (R45). -/
def Cx.leaves (cx : Cx) (i : Instr) (f : Cx → Nat → State → State) (s0 : State) : State := cx.each f (cx.arms (isVector i.form cx.h)) s0

/-- A uniform instruction, or any that captures nothing: its effect for each of its arms, and the PC at the next slot (R45, R181). -/
def Cx.ends (cx : Cx) (i : Instr) (f : Cx → Nat → State → State) (s0 : State) : State := cx.advance (cx.leaves i f s0)

/-- A slot that completes: its effect for each of its arms, the latch that CAP names, and the PC at the next slot (R44, R45, R181, R188). -/
def Cx.completes (cx : Cx) (i : Instr) (f : Cx → Nat → State → State) (s0 : State) : State :=
  let s1 := cx.leaves i f s0
  cx.advance (if cx.h.cap.isSome then cx.capture (if cx.wb then s1 else ({ cx with wb := true } : Cx).leaves i f s0) s1 else s1)

/-- A slot that waits keeps the arms that it executes for, until it completes (R45). -/
def Cx.keeps (cx : Cx) (i : Instr) (s : State) : State := s.updArm cx.c (fun a => { a with wait := { a.wait with arms := cx.arms (isVector i.form cx.h) } })

/-- The last execution of a uniform slot whose wait has ended, and the PC at the next slot (R45, R181). -/
def Cx.finishes (cx : Cx) (f : Cx → Nat → State → State) (a : Nat) (s0 : State) : State := cx.advance (f (cx.refresh s0) a s0)

/-- What a member-mask operation needs (R49, R266): every lane of Active() named by its own mask, no pending lane named, no mark or poison on what it reads, and no named lane live in the other arm. -/
structure Cx.Alone (cx : Cx) (s : State) : Prop where
  member : cx.memberBad = none
  clean : cx.pure
  unmarked : cx.W = 64 → cx.opMarked (s.marksOf cx.c.team cx.c.grp) cx.h.b { s := true, n := 2 } = false
  unblocked : cx.blocked = false
  noPeer : cx.peerWaits = false

/-- The slot of an instruction is in the middle of a wait of its own that has ended (R363, R413), and it is at its last execution, for arm `a` (R45). -/
structure Resumes (i : Instr) (s : State) (cx : Cx) (a : Nat) : Prop where
  form : WellFormed i = true
  go : gate i s = .go cx
  waits : (cx.g.arm cx.c.arm).wait.resumed = true
  rel : (cx.g.arm cx.c.arm).wait.rel = true
  released : (cx.g.arm cx.c.arm).wait.kind ≠ .release ∧ (cx.g.arm cx.c.arm).wait.kind ≠ .acks
  last : (cx.arms (isVector i.form cx.h)).drop (cx.g.arm cx.c.arm).wait.exec = [a]

end Machine

end Sys2Proof
end

