-- ==== Sys2Proof/Certificates/Slice0/Obligations.lean ====
section
/-! DEFINITION. The statements for the provers, each read off the numbered rules of the manual or derived from its sections. A completion statement says what an instruction answers for every state and operands in which its slot passes its conditions; `Passes`, `Cx.clean`, `Cx.completes` and `Cx.ends` stand in Safety.lean. -/

open Sys2Proof Sys2Proof.Machine

/-! ### What the integer and float tables compute (R238, R247, R250 to R253) -/

/-- A row's Result, from the type and the four operands. -/
abbrev Sys2Proof.Rules.IntFun := Ty → W64 → W64 → W64 → W64 → Int

/-- The pattern written by R237: saturated when the row allows SAT and SAT is 1, else wrapped. -/
def Sys2Proof.Rules.pattern (t : Ty) (sat : Bool) (x : Int) : W64 := if sat then t.satI x else t.wrap x

/-- Quotient of R238: truncated, and the all-ones pattern for a zero divisor. -/
def Sys2Proof.Rules.quot : Rules.IntFun := fun t a b _ _ => if t.toInt b = 0 then (if t.signed then -1 else (2 ^ t.bits : Nat) - 1) else (t.toInt a).tdiv (t.toInt b)

/-- Remainder of R238: of the dividend's sign, and the dividend for a zero divisor. -/
def Sys2Proof.Rules.remainder : Rules.IntFun := fun t a b _ _ => if t.toInt b = 0 then t.toInt a else t.toInt a - t.toInt b * (t.toInt a).tdiv (t.toInt b)

/-- The left shift of R238: the exact product, before it is wrapped or saturated. -/
def Sys2Proof.Rules.shiftLeft : Rules.IntFun := fun t a b _ _ => t.toInt a * (2 ^ un t b : Nat)

/-- The logical right shift of R238. -/
def Sys2Proof.Rules.shiftRight : Rules.IntFun := fun t a b _ _ => ((un t a / 2 ^ un t b : Nat) : Int)

/-- The arithmetic right shift of R238, of the pattern read as signed. -/
def Sys2Proof.Rules.shiftArith : Rules.IntFun := fun t a b _ _ => sgn t.bits a.toNat / (2 ^ un t b : Nat)

/-- The rows of R238 that have two integer operands: register form, whether SAT is allowed, and Result. -/
def Sys2Proof.Rules.scalarRows : List ((Word → Instr) × Bool × Rules.IntFun) :=
  [(.sAdd, true, fun t a b _ _ => t.toInt a + t.toInt b),
   (.sSub, true, fun t a b _ _ => t.toInt a - t.toInt b),
   (.sMul, true, fun t a b _ _ => t.toInt a * t.toInt b),
   (.sMulh, false, fun t a b _ _ => t.toInt a * t.toInt b / (2 ^ t.bits : Nat)),
   (.sDiv, true, Rules.quot),
   (.sRem, false, Rules.remainder),
   (.sAnd, false, fun t a b _ _ => ((un t a &&& un t b : Nat) : Int)),
   (.sOr, false, fun t a b _ _ => ((un t a ||| un t b : Nat) : Int)),
   (.sXor, false, fun t a b _ _ => ((un t a ^^^ un t b : Nat) : Int)),
   (.sShl, true, Rules.shiftLeft),
   (.sShr, false, Rules.shiftRight),
   (.sSar, false, Rules.shiftArith),
   (.sMin, false, fun t a b _ _ => min (t.toInt a) (t.toInt b)),
   (.sMax, false, fun t a b _ _ => max (t.toInt a) (t.toInt b)),
   (.sClz, false, fun t a _ _ _ => ((t.bits - blen (un t a) : Nat) : Int)),
   (.sPopc, false, fun t a _ _ _ => ((popcount t.bits (un t a) : Nat) : Int)),
   (.sBfx, false, fun t a p l _ => bitExtract t a p l),
   (.sBfi, false, fun t a p l d => bitInsert t a p l d)]

/-- The I-forms of R238: the immediate stands in place of b. -/
def Sys2Proof.Rules.scalarImmRows : List ((WordI → Instr) × Bool × Rules.IntFun) :=
  [(.sAddImm, true, fun t a b _ _ => t.toInt a + t.toInt b),
   (.sSubImm, true, fun t a b _ _ => t.toInt a - t.toInt b),
   (.sMulImm, true, fun t a b _ _ => t.toInt a * t.toInt b),
   (.sMulhImm, false, fun t a b _ _ => t.toInt a * t.toInt b / (2 ^ t.bits : Nat)),
   (.sDivImm, true, Rules.quot),
   (.sRemImm, false, Rules.remainder),
   (.sAndImm, false, fun t a b _ _ => ((un t a &&& un t b : Nat) : Int)),
   (.sOrImm, false, fun t a b _ _ => ((un t a ||| un t b : Nat) : Int)),
   (.sXorImm, false, fun t a b _ _ => ((un t a ^^^ un t b : Nat) : Int)),
   (.sShlImm, true, Rules.shiftLeft),
   (.sShrImm, false, Rules.shiftRight),
   (.sSarImm, false, Rules.shiftArith),
   (.sMinImm, false, fun t a b _ _ => min (t.toInt a) (t.toInt b)),
   (.sMaxImm, false, fun t a b _ _ => max (t.toInt a) (t.toInt b))]

/-- The effect of R237: Result of the sources of an arm, wrapped or saturated, to its uniform destination. -/
def Sys2Proof.Rules.uniform (t : Ty) (sat : Bool) (f : Rules.IntFun) (a b c d : Cx → Nat → W64) : Cx → Nat → State → State :=
  fun cx k s => cx.writeU k t (Rules.pattern t sat (f t (a cx k) (b cx k) (c cx k) (d cx k))) s

/-- R237, R238, R243: every S function of the table that has integer sources completes with Result of its sources in its destination, for each arm it executes for, and the PC at the next slot. -/
def Sys2Proof.Rules.ScalarFunctionsComplete : Prop :=
  (∀ r ∈ Rules.scalarRows, ∀ (w : Word) (s : State) (cx : Cx), Passes (r.1 w) s cx → cx.clean (r.1 w) →
    exec (r.1 w) s = .next (cx.ends (r.1 w) (Rules.uniform w.ty (r.2.1 && w.sat) r.2.2
      (fun cx k => cx.srcU k w.a w.ty) (fun cx k => cx.srcU k w.b w.ty) (fun cx k => cx.srcU k w.c w.ty) (fun cx k => cx.srcU k w.dst w.ty)) (cx.begun (r.1 w) s)))
  ∧ (∀ r ∈ Rules.scalarImmRows, ∀ (w : WordI) (s : State) (cx : Cx), Passes (r.1 w) s cx → cx.clean (r.1 w) →
    exec (r.1 w) s = .next (cx.ends (r.1 w) (Rules.uniform w.ty (r.2.1 && w.sat) r.2.2
      (fun cx k => cx.srcU k w.a w.ty) (fun _ _ => immI w.ty w.imm) (fun _ _ => 0) (fun cx k => cx.srcU k w.dst w.ty)) (cx.begun (r.1 w) s)))

/-- R239 to R242: S.SEL, S.CMP, S.MOVI and S.LEA complete with what their rules say in the destination and, for S.CMP, in the uniform predicate. -/
def Sys2Proof.Rules.ScalarSelectCompareComplete : Prop :=
  (∀ (w : Word) (s : State) (cx : Cx), Passes (.sSel w) s cx → cx.clean (.sSel w) →
    exec (.sSel w) s = .next (cx.ends (.sSel w) (fun cx k s => cx.writeU k w.ty
      (if cx.g.qget k w.slot.toNat != w.scope.getLsbD 2 then cx.srcU k w.a w.ty else cx.srcU k w.b w.ty) s) (cx.begun (.sSel w) s)))
  ∧ (∀ (w : Word) (s : State) (cx : Cx), Passes (.sCmp w) s cx → cx.clean (.sCmp w) →
    exec (.sCmp w) s = .next (cx.ends (.sCmp w) (fun cx k s =>
      let x := intCond w.round.toNat w.ty (cx.srcU k w.a w.ty) (cx.srcU k w.b w.ty)
      cx.writeQ k w.slot.toNat x (cx.writeU k w.ty (if x then 1 else 0) s)) (cx.begun (.sCmp w) s)))
  ∧ (∀ (w : WordI) (s : State) (cx : Cx), Passes (.sCmpImm w) s cx → cx.clean (.sCmpImm w) →
    exec (.sCmpImm w) s = .next (cx.ends (.sCmpImm w) (fun cx k s =>
      let x := intCond w.round.toNat w.ty (cx.srcU k w.a w.ty) (immI w.ty w.imm)
      cx.writeQ k w.slot.toNat x (cx.writeU k w.ty (if x then 1 else 0) s)) (cx.begun (.sCmpImm w) s)))
  ∧ (∀ (w : WordI) (s : State) (cx : Cx), Passes (.sMovi w) s cx → cx.clean (.sMovi w) →
    exec (.sMovi w) s = .next (cx.ends (.sMovi w) (fun cx k s => cx.writeU k w.ty (immI w.ty w.imm) s) (cx.begun (.sMovi w) s)))
  ∧ (∀ (w : Word) (s : State) (cx : Cx), Passes (.sLea w) s cx → cx.clean (.sLea w) →
    exec (.sLea w) s = .next (cx.ends (.sLea w) (fun cx k s => cx.writeU k .u64
      (BitVec.ofInt 64 ((cx.srcU k w.a .u64).toNat + (if w.ty.is64 then ((cx.srcU k w.b w.ty).toNat : Int) else w.ty.toInt (cx.srcU k w.b w.ty)) * (2 ^ w.slot.toNat : Nat))) s) (cx.begun (.sLea w) s)))
  ∧ (∀ (w : WordI) (s : State) (cx : Cx), Passes (.sLeaImm w) s cx → cx.clean (.sLeaImm w) →
    exec (.sLeaImm w) s = .next (cx.ends (.sLeaImm w) (fun cx k s => cx.writeU k .u64
      (BitVec.ofInt 64 ((cx.srcU k w.a .u64).toNat + (if w.ty.is64 then ((immI w.ty w.imm).toNat : Int) else w.ty.toInt (immI w.ty w.imm)) * (2 ^ w.slot.toNat : Nat))) s) (cx.begun (.sLeaImm w) s)))

/-- R237 to R243: every instruction of major S completes with the Result that its rule gives it. -/
def Obligations.ScalarInstructionsComplete : Prop := Rules.ScalarFunctionsComplete ∧ Rules.ScalarSelectCompareComplete

/-- R243: the field that S.BFX and V.BFX extract and the one that S.BFI and V.BFI insert, bit by bit; `bit i` of a pattern beyond its width is its sign bit for a signed type and 0 otherwise. -/
def Sys2Proof.Rules.BitFieldsAreBitwise : Prop :=
  ∀ (t : Ty) (a p l d : W64), t.isInt = true →
    let n := t.bits
    let m := min (un t l) n
    let bit (i : Nat) : Bool := if i < n then (un t a).testBit i else t.signed && (un t a).testBit (n - 1)
    let f : Int := (((List.range m).map (fun i => if bit (un t p + i) then 2 ^ i else 0)).sum : Nat)
    bitExtract t a p l = (if t.signed = true ∧ 0 < m ∧ bit (un t p + m - 1) = true then f - (2 ^ m : Nat) else f)
    ∧ (0 ≤ bitInsert t a p l d ∧ bitInsert t a p l d < (2 ^ n : Nat)
      ∧ ∀ j, j < n → (bitInsert t a p l d).toNat.testBit j = if un t p ≤ j ∧ j < un t p + m then (un t a).testBit (j - un t p) else (un t d).testBit j)

/-! ### Vector arithmetic, conversions and predicates -/

/-- The effect of R246: a value in every lane of Active(), each formed before any is written. -/
def Sys2Proof.Rules.lanes (t : Ty) (f : Cx → Nat → W64) : Cx → Nat → State → State := fun cx _ s => cx.writeV t (cx.act.map (fun L => (L, f cx L))) s

/-- The rows of major V that compute Result of R238 in each lane, with V.MAD and V.ABS of R249. -/
def Sys2Proof.Rules.vectorRows : List ((Word → Instr) × Bool × Rules.IntFun) :=
  [(.vAdd, true, fun t a b _ _ => t.toInt a + t.toInt b),
   (.vSub, true, fun t a b _ _ => t.toInt a - t.toInt b),
   (.vMul, true, fun t a b _ _ => t.toInt a * t.toInt b),
   (.vMulh, false, fun t a b _ _ => t.toInt a * t.toInt b / (2 ^ t.bits : Nat)),
   (.vDiv, true, Rules.quot),
   (.vRem, false, Rules.remainder),
   (.vAnd, false, fun t a b _ _ => ((un t a &&& un t b : Nat) : Int)),
   (.vOr, false, fun t a b _ _ => ((un t a ||| un t b : Nat) : Int)),
   (.vXor, false, fun t a b _ _ => ((un t a ^^^ un t b : Nat) : Int)),
   (.vShl, true, Rules.shiftLeft),
   (.vShr, false, Rules.shiftRight),
   (.vSar, false, Rules.shiftArith),
   (.vMin, false, fun t a b _ _ => min (t.toInt a) (t.toInt b)),
   (.vMax, false, fun t a b _ _ => max (t.toInt a) (t.toInt b)),
   (.vBfx, false, fun t a p l _ => bitExtract t a p l),
   (.vBfi, false, fun t a p l d => bitInsert t a p l d),
   (.vPopc, false, fun t a _ _ _ => ((popcount t.bits (un t a) : Nat) : Int)),
   (.vClz, false, fun t a _ _ _ => ((t.bits - blen (un t a) : Nat) : Int)),
   (.vMad, true, fun t a b c _ => t.toInt a * t.toInt b + t.toInt c),
   (.vAbs, true, fun t a _ _ _ => ((t.toInt a).natAbs : Int))]

/-- The I-forms of R248. -/
def Sys2Proof.Rules.vectorImmRows : List ((WordI → Instr) × Bool × Rules.IntFun) :=
  [(.vAddImm, true, fun t a b _ _ => t.toInt a + t.toInt b),
   (.vSubImm, true, fun t a b _ _ => t.toInt a - t.toInt b),
   (.vMulImm, true, fun t a b _ _ => t.toInt a * t.toInt b),
   (.vAndImm, false, fun t a b _ _ => ((un t a &&& un t b : Nat) : Int)),
   (.vOrImm, false, fun t a b _ _ => ((un t a ||| un t b : Nat) : Int)),
   (.vXorImm, false, fun t a b _ _ => ((un t a ^^^ un t b : Nat) : Int)),
   (.vShlImm, true, Rules.shiftLeft),
   (.vShrImm, false, Rules.shiftRight),
   (.vSarImm, false, Rules.shiftArith),
   (.vMinImm, false, fun t a b _ _ => min (t.toInt a) (t.toInt b)),
   (.vMaxImm, false, fun t a b _ _ => max (t.toInt a) (t.toInt b))]

/-- R246 to R249: every V function whose Result is an integer of its sources completes with it in each lane of Active(), and the PC at the next slot; lanes outside Active() are not written. -/
def Sys2Proof.Rules.VectorFunctionsComplete : Prop :=
  (∀ r ∈ Rules.vectorRows, ∀ (w : Word) (s : State) (cx : Cx), Passes (r.1 w) s cx → cx.clean (r.1 w) →
    exec (r.1 w) s = .next (cx.completes (r.1 w) (Rules.lanes w.ty (fun cx L =>
      Rules.pattern w.ty (r.2.1 && w.sat) (r.2.2 w.ty (cx.src w.a w.ty L) (cx.src w.b w.ty L) (cx.src w.c w.ty L) (cx.src w.dst w.ty L)))) (cx.begun (r.1 w) s)))
  ∧ (∀ r ∈ Rules.vectorImmRows, ∀ (w : WordI) (s : State) (cx : Cx), Passes (r.1 w) s cx → cx.clean (r.1 w) →
    exec (r.1 w) s = .next (cx.completes (r.1 w) (Rules.lanes w.ty (fun cx L =>
      Rules.pattern w.ty (r.2.1 && w.sat) (r.2.2 w.ty (cx.src w.a w.ty L) (immI w.ty w.imm) 0 (cx.src w.dst w.ty L)))) (cx.begun (r.1 w) s)))

/-- R249: V.ADDC adds with the lane's predicate as carry in and leaves the carry out in it; V.CMP writes the truth value to its destination and predicate; V.SEL takes one of its sources by a predicate. -/
def Sys2Proof.Rules.VectorCarryCompareSelectComplete : Prop :=
  (∀ (w : Word) (s : State) (cx : Cx), Passes (.vAddc w) s cx → cx.clean (.vAddc w) →
    exec (.vAddc w) s = .next (cx.completes (.vAddc w) (fun cx _ s =>
      let sum (L : Nat) : Nat := un w.ty (cx.src w.a w.ty L) + un w.ty (cx.src w.b w.ty L) + (if cx.g.pget w.slot.toNat L then 1 else 0)
      cx.writeP w.slot.toNat (cx.act.map (fun L => (L, decide (2 ^ w.ty.bits ≤ sum L))))
        (cx.writeV w.ty (cx.act.map (fun L => (L, BitVec.ofNat 64 (sum L % 2 ^ w.ty.bits)))) s)) (cx.begun (.vAddc w) s)))
  ∧ (∀ (w : Word) (s : State) (cx : Cx), Passes (.vCmp w) s cx → cx.clean (.vCmp w) →
    exec (.vCmp w) s = .next (cx.completes (.vCmp w) (fun cx _ s =>
      let x (L : Nat) : Bool := intCond w.round.toNat w.ty (cx.src w.a w.ty L) (cx.src w.b w.ty L)
      cx.writeP w.slot.toNat (cx.act.map (fun L => (L, x L))) (cx.writeV .u32 (cx.act.map (fun L => (L, if x L then 1 else 0))) s)) (cx.begun (.vCmp w) s)))
  ∧ (∀ (w : WordI) (s : State) (cx : Cx), Passes (.vCmpImm w) s cx → cx.clean (.vCmpImm w) →
    exec (.vCmpImm w) s = .next (cx.completes (.vCmpImm w) (fun cx _ s =>
      let x (L : Nat) : Bool := intCond w.round.toNat w.ty (cx.src w.a w.ty L) (immI w.ty w.imm)
      cx.writeP w.slot.toNat (cx.act.map (fun L => (L, x L))) (cx.writeV .u32 (cx.act.map (fun L => (L, if x L then 1 else 0))) s)) (cx.begun (.vCmpImm w) s)))
  ∧ (∀ (w : Word) (s : State) (cx : Cx), Passes (.vSel w) s cx → cx.clean (.vSel w) →
    exec (.vSel w) s = .next (cx.completes (.vSel w) (Rules.lanes w.ty (fun cx L =>
      if cx.g.pget w.slot.toNat L != w.scope.getLsbD 2 then cx.src w.a w.ty L else cx.src w.b w.ty L)) (cx.begun (.vSel w) s)))

/-- R246 to R249: every instruction of major V completes with its Result in the lanes of Active(). -/
def Obligations.VectorInstructionsComplete : Prop := Rules.VectorFunctionsComplete ∧ Rules.VectorCarryCompareSelectComplete

/-- A finite value as a multiple of 2^-1074, the smallest step of the formats of R123. -/
def Sys2Proof.Rules.fixed (neg : Bool) (m : Nat) (e : Int) : Int := (if neg then -1 else 1) * (m : Int) * 2 ^ (e + 1074).toNat

/-- Two values are equal: finite ones as numbers, so that -0 is +0, and infinities of one sign (R254). -/
def Sys2Proof.Rules.same : FVal → FVal → Prop
  | .fin n m e, .fin n' m' e' => Rules.fixed n m e = Rules.fixed n' m' e'
  | .inf n, .inf n' => n = n'
  | _, _ => False

/-- A value is less than another: finite ones as numbers, minus infinity below and plus infinity above each of them (R254). -/
def Sys2Proof.Rules.less : FVal → FVal → Prop
  | .fin n m e, .fin n' m' e' => Rules.fixed n m e < Rules.fixed n' m' e'
  | .inf n, .fin _ _ _ => n = true
  | .fin _ _ _, .inf n => n = false
  | .inf n, .inf n' => n = true ∧ n' = false
  | _, _ => False

/-- R240, R254: the six conditions of an integer compare, and the eight of F.CMP by the values of its operands: with an operand that is a NaN, ne and uno are true and the other six false; of ordered operands, eq, ne, lt, le, gt and ge compare the values, with -0 equal to +0, ord is true and uno false. -/
def Sys2Proof.Rules.ConditionsMeanTheirTables : Prop :=
  (∀ (t : Ty) (a b : W64), (intCond 0 t a b = true ↔ t.toInt a = t.toInt b) ∧ (intCond 1 t a b = true ↔ t.toInt a ≠ t.toInt b)
    ∧ (intCond 2 t a b = true ↔ t.toInt a < t.toInt b) ∧ (intCond 3 t a b = true ↔ t.toInt a ≤ t.toInt b)
    ∧ (intCond 4 t a b = true ↔ t.toInt b < t.toInt a) ∧ (intCond 5 t a b = true ↔ t.toInt b ≤ t.toInt a))
  ∧ (∀ (t : Ty) (a b : W64), (decodeF t a).isNan = true ∨ (decodeF t b).isNan = true →
    (∀ cc, cc < 8 → floatCond cc t a b = decide (cc = 1 ∨ cc = 7)))
  ∧ (∀ (t : Ty) (a b : W64), t.isFloat = true → (decodeF t a).isNan = false → (decodeF t b).isNan = false →
    let x := decodeF t a
    let y := decodeF t b
    (floatCond 0 t a b = true ↔ Rules.same x y) ∧ (floatCond 1 t a b = true ↔ ¬ Rules.same x y)
    ∧ (floatCond 2 t a b = true ↔ Rules.less x y) ∧ (floatCond 3 t a b = true ↔ Rules.less x y ∨ Rules.same x y)
    ∧ (floatCond 4 t a b = true ↔ Rules.less y x) ∧ (floatCond 5 t a b = true ↔ Rules.less y x ∨ Rules.same x y)
    ∧ floatCond 6 t a b = true ∧ floatCond 7 t a b = false)

/-- R240, R243, R254: the bit fields of the integer instructions, and what the conditions of integer and float compares mean. -/
def Obligations.FieldsAndConditions : Prop := Rules.BitFieldsAreBitwise ∧ Rules.ConditionsMeanTheirTables

/-- The rows of R250, R252 and R253: the value in a lane, by rounding mode and operands. -/
def Sys2Proof.Rules.floatRows : List ((Word → Instr) × (Ty → Nat → W64 → W64 → W64 → W64)) :=
  [(.fAdd, fun t md a b _ => roundF t md (exactSum md [decodeF t a, decodeF t b])),
   (.fSub, fun t md a b _ => roundF t md (exactSum md [decodeF t a, (decodeF t b).neg])),
   (.fMul, fun t md a b _ => roundF t md ((decodeF t a).mul (decodeF t b))),
   (.fFma, fun t md a b c => roundF t md (exactSum md [(decodeF t a).mul (decodeF t b), decodeF t c])),
   (.fMin, fun t _ a b _ => minMaxF false t a b),
   (.fMax, fun t _ a b _ => minMaxF true t a b),
   (.fDiv, fun t md a b _ => roundF t md ((decodeF t a).div (decodeF t b))),
   (.fSqrt, fun t md a _ _ => roundF t md (decodeF t a).sqrt),
   (.fRcp, fun t md a _ _ => roundF t md (FVal.div (.fin false 1 0) (decodeF t a))),
   (.fRsq, fun t md a _ _ => roundF t md (decodeF t a).rsq),
   (.fExp2, fun t md a _ _ => exp2F t md a),
   (.fLog2, fun t md a _ _ => log2F t md a),
   (.fSin, fun t _ a _ _ => trigF false t a),
   (.fCos, fun t _ a _ _ => trigF true t a),
   (.fTanh, fun t _ a _ _ => tanhF t a),
   (.fRound, fun t md a _ _ => roundIntF t md a)]

/-- The I-forms of R250. -/
def Sys2Proof.Rules.floatImmRows : List ((WordI → Instr) × (Ty → Nat → W64 → W64 → W64 → W64)) :=
  [(.fAddImm, fun t md a b _ => roundF t md (exactSum md [decodeF t a, decodeF t b])),
   (.fSubImm, fun t md a b _ => roundF t md (exactSum md [decodeF t a, (decodeF t b).neg])),
   (.fMulImm, fun t md a b _ => roundF t md ((decodeF t a).mul (decodeF t b))),
   (.fMinImm, fun t _ a b _ => minMaxF false t a b),
   (.fMaxImm, fun t _ a b _ => minMaxF true t a b)]

/-- R246, R250, R252, R253: every F function completes with its value, formed exactly and rounded once, in each lane of Active(). -/
def Sys2Proof.Rules.FloatFunctionsComplete : Prop :=
  (∀ r ∈ Rules.floatRows, ∀ (w : Word) (s : State) (cx : Cx), Passes (r.1 w) s cx → cx.clean (r.1 w) →
    exec (r.1 w) s = .next (cx.completes (r.1 w) (Rules.lanes w.ty (fun cx L =>
      r.2 w.ty w.round.toNat (cx.src w.a w.ty L) (cx.src w.b w.ty L) (cx.src w.c w.ty L))) (cx.begun (r.1 w) s)))
  ∧ (∀ r ∈ Rules.floatImmRows, ∀ (w : WordI) (s : State) (cx : Cx), Passes (r.1 w) s cx → cx.clean (r.1 w) →
    exec (r.1 w) s = .next (cx.completes (r.1 w) (Rules.lanes w.ty (fun cx L =>
      r.2 w.ty w.round.toNat (cx.src w.a w.ty L) (immI w.ty w.imm) 0)) (cx.begun (r.1 w) s)))

/-- R254, R255: F.CMP writes its truth value to destination and predicate, and F.CLASS one class bit, in each lane of Active(). -/
def Sys2Proof.Rules.FloatCompareClassComplete : Prop :=
  (∀ (w : Word) (s : State) (cx : Cx), Passes (.fCmp w) s cx → cx.clean (.fCmp w) →
    exec (.fCmp w) s = .next (cx.completes (.fCmp w) (fun cx _ s =>
      let x (L : Nat) : Bool := floatCond w.round.toNat w.ty (cx.src w.a w.ty L) (cx.src w.b w.ty L)
      cx.writeP w.slot.toNat (cx.act.map (fun L => (L, x L))) (cx.writeV .u32 (cx.act.map (fun L => (L, if x L then 1 else 0))) s)) (cx.begun (.fCmp w) s)))
  ∧ (∀ (w : WordI) (s : State) (cx : Cx), Passes (.fCmpImm w) s cx → cx.clean (.fCmpImm w) →
    exec (.fCmpImm w) s = .next (cx.completes (.fCmpImm w) (fun cx _ s =>
      let x (L : Nat) : Bool := floatCond w.round.toNat w.ty (cx.src w.a w.ty L) (immI w.ty w.imm)
      cx.writeP w.slot.toNat (cx.act.map (fun L => (L, x L))) (cx.writeV .u32 (cx.act.map (fun L => (L, if x L then 1 else 0))) s)) (cx.begun (.fCmpImm w) s)))
  ∧ (∀ (w : Word) (s : State) (cx : Cx), Passes (.fClass w) s cx → cx.clean (.fClass w) →
    exec (.fClass w) s = .next (cx.completes (.fClass w) (Rules.lanes .u32 (fun cx L => classF w.ty (cx.src w.a w.ty L))) (cx.begun (.fClass w) s)))

/-- R246, R250, R252 to R255: every instruction of major F completes with its value, rounded once. Where it rests on the model's own reading or choice, that is log 11. -/
def Obligations.FloatInstructionsComplete : Prop := Rules.FloatFunctionsComplete ∧ Rules.FloatCompareClassComplete

/-- R256, R258, R259: CVT, CVT.W, PACK and UNPACK complete with the converted values in each lane of Active(); CVT.W needs a valid format slot (R138). -/
def Sys2Proof.Rules.ConversionsComplete : Prop :=
  (∀ (w : Word) (s : State) (cx : Cx), Passes (.cvt w) s cx → cx.clean (.cvt w) →
    exec (.cvt w) s = .next (cx.completes (.cvt w) (Rules.lanes w.ty (fun cx L =>
      cvtValue (fromTy w.fspec) w.ty w.round.toNat w.sat (cx.src w.a (fromTy w.fspec) L))) (cx.begun (.cvt w) s)))
  ∧ (∀ (w : Word) (s : State) (cx : Cx), Passes (.cvtW w) s cx → cx.clean (.cvtW w) → fmtBad (s.fmtSlot cx w.slot) false = none →
    exec (.cvtW w) s = .next (cx.completes (.cvtW w) (fun cx _ s => cx.writeV w.ty (cx.act.map (fun L =>
      (L, roundF w.ty 0 (decodeElem (s.fmtSlot cx w.slot).ecode (cx.src w.a .u32 L).toNat)))) s) (cx.begun (.cvtW w) s)))
  ∧ (∀ (w : Word) (s : State) (cx : Cx), Passes (.pack w) s cx → cx.clean (.pack w) →
    (w.ty.bits = 8 → ∀ L ∈ cx.act, ∀ x ∈ cx.opWords w.dst 1 (armSel cx.c) L, cx.g.badWord x.2 = false) →
    exec (.pack w) s = .next (cx.completes (.pack w) (Rules.lanes .u32 (fun cx L =>
      let t : Ty := if w.ty.isFloat then .f32 else if w.ty.signed then .i32 else .u32
      packWord w.ty w.round.toNat w.sat w.fspec.toNat (cx.src w.a t L) (cx.src w.b t L) (cx.src w.dst .u32 L))) (cx.begun (.pack w) s)))
  ∧ (∀ (w : Word) (s : State) (cx : Cx), Passes (.unpack w) s cx → cx.clean (.unpack w) →
    exec (.unpack w) s = .next (cx.completes (.unpack w) (Rules.lanes .u32 (fun cx L => unpackField w.ty w.fspec.toNat (cx.src w.a .u32 L))) (cx.begun (.unpack w) s)))

/-- R257, R137: CVT.N completes with the encodings in each lane of Active(), and appends its outliers in ascending lane order; a count word that the core has written and that is not yet at its slice is written there first (the slot waits, R99). -/
def Sys2Proof.Rules.NarrowingCompletes : Prop :=
  ∀ (w : Word) (s : State) (cx : Cx), Passes (.cvtN w) s cx → cx.clean (.cvtN w) → fmtBad (s.fmtSlot cx w.slot) false = none →
    ((∀ L ∈ cx.act, (cx.narrow w (s.fmtSlot cx w.slot) L).2.2 = false)
      ∨ ∀ ln, s.countLine cx.tag (s.fmtSlot cx w.slot) = some ln → (s.core cx.core).line ln = none ∧ s.lineIds cx.core ln = []) →
    exec (.cvtN w) s = .next (cx.completes (.cvtN w) (fun cx _ s =>
      let f := s.fmtSlot cx w.slot
      let v (L : Nat) : FVal := decodeF (fromTy w.fspec) (cx.src w.a (fromTy w.fspec) L)
      let out := (cx.act.filter (fun L => (encodeElem f w.round.toNat (v L)).2)).map (fun L => ((cx.src w.b .u32 L).toNat, rneF32 (v L)))
      let s := cx.writeV .u32 (cx.act.map (fun L => (L, BitVec.ofNat 64 (encodeElem f w.round.toNat (v L)).1))) s
      let s := s.appendAll cx.core cx.tag f w.slot.toNat false out
      if out.isEmpty then s else s.dropClean cx.core (s.countLine cx.tag f).toList) (cx.begun (.cvtN w) s))

/-- R137, R256 to R259: conversions, packs and unpacks complete, and CVT.N with its outliers. Where it rests on the model's own reading or choice, that is log 111. -/
def Obligations.ConversionInstructionsComplete : Prop := Rules.ConversionsComplete ∧ Rules.NarrowingCompletes

/-- R263: P.LOGIC and Q.LOGIC write bit 2a + b of the truth table, in each lane of Active() or once for each arm. -/
def Sys2Proof.Rules.PredicateLogicCompletes : Prop :=
  (∀ (w : WordP) (s : State) (cx : Cx), Passes (.pLogic w) s cx → cx.clean (.pLogic w) →
    exec (.pLogic w) s = .next (cx.completes (.pLogic w) (fun cx _ s => cx.writeP w.pd.toNat (cx.act.map (fun L =>
      (L, w.tt.getLsbD ((if cx.g.pget w.pa.toNat L then 2 else 0) + (if cx.g.pget w.pb.toNat L then 1 else 0))))) s) (cx.begun (.pLogic w) s)))
  ∧ (∀ (w : WordP) (s : State) (cx : Cx), Passes (.qLogic w) s cx → cx.clean (.qLogic w) →
    exec (.qLogic w) s = .next (cx.ends (.qLogic w) (fun cx k s => cx.writeQ k w.pd.toNat
      (w.tt.getLsbD ((if cx.g.qget k w.pa.toNat then 2 else 0) + (if cx.g.qget k w.pb.toNat then 1 else 0))) s) (cx.begun (.qLogic w) s)))

/-- The contributions of the lanes of Active() to a vote (R264). -/
def Sys2Proof.Rules.votes (cx : Cx) (w : WordP) : List (Nat × W64) := cx.act.map (fun L => (L, if cx.g.pget w.pa.toNat L != w.neg then 1 else 0))

/-- The contributions of the lanes of Active() to a reduction, prefix or match (R268, R269). -/
def Sys2Proof.Rules.contributions (cx : Cx) (w : Word) : List (Nat × W64) := cx.act.map (fun L => (L, cx.src w.a w.ty L))

/-- R49, R264: with every named lane in the issuing arm, the votes complete: any, all, the mask and the count of the contributions that the member mask names. -/
def Sys2Proof.Rules.VotesComplete : Prop :=
  (∀ (w : WordP) (s : State) (cx : Cx), Passes (.pAny w) s cx → cx.Alone s →
    exec (.pAny w) s = .next (cx.completes (.pAny w) (fun cx _ s => cx.perCopy (bankedQ w.pd.toNat) (Rules.votes cx w)
      (fun k l s => cx.writeQ k w.pd.toNat (l.any (fun x => x.2 != 0)) s) s) (cx.begun (.pAny w) s)))
  ∧ (∀ (w : WordP) (s : State) (cx : Cx), Passes (.pAll w) s cx → cx.Alone s →
    exec (.pAll w) s = .next (cx.completes (.pAll w) (fun cx _ s => cx.perCopy (bankedQ w.pd.toNat) (Rules.votes cx w)
      (fun k l s => cx.writeQ k w.pd.toNat (l.all (fun x => x.2 != 0)) s) s) (cx.begun (.pAll w) s)))
  ∧ (∀ (w : WordP) (s : State) (cx : Cx), Passes (.pBallot w) s cx → cx.Alone s →
    exec (.pBallot w) s = .next (cx.completes (.pBallot w) (fun cx _ s => cx.perCopy (Opd.banked w.dst) (Rules.votes cx w)
      (fun k l s => cx.writeU k w.ty (maskOf (fun L => l.any (fun x => x.1 == L && x.2 != 0))) s) s) (cx.begun (.pBallot w) s)))
  ∧ (∀ (w : WordP) (s : State) (cx : Cx), Passes (.pPopc w) s cx → cx.Alone s →
    exec (.pPopc w) s = .next (cx.completes (.pPopc w) (fun cx _ s => cx.perCopy (Opd.banked w.dst) (Rules.votes cx w)
      (fun k l s => cx.writeU k .u32 (BitVec.ofNat 64 (l.filter (fun x => x.2 != 0)).length) s) s) (cx.begun (.pPopc w) s)))

/-- R49, R263, R264: predicate logic and the votes complete. Where it rests on the model's own reading or choice, that is log 39, 43. -/
def Obligations.PredicateInstructionsComplete : Prop := Rules.PredicateLogicCompletes ∧ Rules.VotesComplete

/-- R49, R268, R269: with every named lane in the issuing arm, X.RED, X.SCAN and X.MATCH complete: the operation over all members, over the members up to each lane, and the members equal to each lane. -/
def Sys2Proof.Rules.ReductionsComplete : Prop :=
  (∀ (w : Word) (s : State) (cx : Cx), Passes (.xRed w) s cx → cx.Alone s → w.dst.isVec = true →
    exec (.xRed w) s = .next (cx.completes (.xRed w) (fun cx _ s => cx.perLane w.ty (Rules.contributions cx w)
      (fun _ l => redValue (w.fspec.toNat % 8) w.ty w.round.toNat w.sat (l.map (fun x => x.2))) s) (cx.begun (.xRed w) s)))
  ∧ (∀ (w : Word) (r : BitVec 7) (s : State) (cx : Cx), Passes (.xRed w) s cx → cx.Alone s → w.dst = .s r →
    exec (.xRed w) s = .next (cx.completes (.xRed w) (fun cx _ s => cx.perCopy (Opd.banked w.dst) (Rules.contributions cx w)
      (fun k l s => cx.writeU k w.ty (redValue (w.fspec.toNat % 8) w.ty w.round.toNat w.sat (l.map (fun x => x.2))) s) s) (cx.begun (.xRed w) s)))
  ∧ (∀ (w : Word) (s : State) (cx : Cx), Passes (.xScan w) s cx → cx.Alone s →
    exec (.xScan w) s = .next (cx.completes (.xScan w) (fun cx _ s => cx.perLane w.ty (Rules.contributions cx w) (fun L l =>
      redValue (w.fspec.toNat % 8) w.ty w.round.toNat w.sat
        ((l.filter (fun x => decide (x.1 < L) || (x.1 == L && !w.fspec.getLsbD 3))).map (fun x => x.2))) s) (cx.begun (.xScan w) s)))
  ∧ (∀ (w : Word) (s : State) (cx : Cx), Passes (.xMatch w) s cx → cx.Alone s →
    exec (.xMatch w) s = .next (cx.completes (.xMatch w) (fun cx _ s => cx.perLane (if cx.W = 64 then .u64 else .u32) (Rules.contributions cx w) (fun L l =>
      maskOf (fun M => l.any (fun x => x.1 == M && un w.ty x.2 == un w.ty (cx.src w.a w.ty L)))) s) (cx.begun (.xMatch w) s)))

/-- The operations with a member mask (R266). -/
def Sys2Proof.Rules.hasMembers : Instr → Bool
  | .pAny _ | .pAll _ | .pBallot _ | .pPopc _ | .xRed _ | .xScan _ | .xMatch _ => true
  | _ => false

/-- What a lane contributes to an operation with a member mask (R264, R268, R269). -/
def Sys2Proof.Rules.contribution : Instr → Cx → Nat → W64
  | .pAny w | .pAll w | .pBallot w | .pPopc w => fun cx L => if cx.g.pget w.pa.toNat L != w.neg then 1 else 0
  | .xRed w | .xScan w | .xMatch w => fun cx L => cx.src w.a w.ty L
  | _ => fun _ _ => 0

/-- What an arm writes of a list of contributions by ascending lane (R264, R268, R269): each of its copies or lanes takes the members that its own mask names. -/
def Sys2Proof.Rules.memberResult : Instr → Cx → List (Nat × W64) → State → State
  | .pAny w => fun cx l s => cx.perCopy (bankedQ w.pd.toNat) l (fun k l s => cx.writeQ k w.pd.toNat (l.any (fun x => x.2 != 0)) s) s
  | .pAll w => fun cx l s => cx.perCopy (bankedQ w.pd.toNat) l (fun k l s => cx.writeQ k w.pd.toNat (l.all (fun x => x.2 != 0)) s) s
  | .pBallot w => fun cx l s => cx.perCopy (Opd.banked w.dst) l (fun k l s => cx.writeU k w.ty (maskOf (fun L => l.any (fun x => x.1 == L && x.2 != 0))) s) s
  | .pPopc w => fun cx l s => cx.perCopy (Opd.banked w.dst) l (fun k l s => cx.writeU k .u32 (BitVec.ofNat 64 (l.filter (fun x => x.2 != 0)).length) s) s
  | .xRed w => fun cx l s =>
    let f (l : List (Nat × W64)) : W64 := redValue (w.fspec.toNat % 8) w.ty w.round.toNat w.sat (l.map (fun x => x.2))
    match w.dst with
    | .s _ => cx.perCopy (Opd.banked w.dst) l (fun k l s => cx.writeU k w.ty (f l) s) s
    | _ => cx.perLane w.ty l (fun _ l => f l) s
  | .xScan w => fun cx l s => cx.perLane w.ty l (fun L l => redValue (w.fspec.toNat % 8) w.ty w.round.toNat w.sat
      ((l.filter (fun x => decide (x.1 < L) || (x.1 == L && !w.fspec.getLsbD 3))).map (fun x => x.2))) s
  | .xMatch w => fun cx l s => cx.perLane (if cx.W = 64 then .u64 else .u32) l (fun L l =>
      maskOf (fun M => l.any (fun x => x.1 == M && un w.ty x.2 == un w.ty (cx.src w.a w.ty L)))) s
  | _ => fun _ _ s => s

/-- R49, R264, R266, R268, R269: of every operation with a member mask. When the mask names a lane that is live in the other arm and that arm has not come to the slot, the context parks at it and changes no register, and stays parked until the other arm comes. When the other arm is parked at this very slot, both complete together: the contributions of both arms' lanes are joined in ascending lane order, the arriving arm and then the parked arm write their own results from all of them, and both go on with the next slot; a latch that CAP names is all that may change besides. A parked arm that reads a latch which it no longer holds issues again, and the arriving arm parks in its place. Where it rests on the model's own reading or choice, that is log 39, 113, 129. -/
def Obligations.MemberMaskWaits : Prop :=
  ∀ (i : Instr) (s : State) (cx : Cx), Rules.hasMembers i = true → Passes i s cx → cx.memberBad = none → cx.pure →
    (cx.W = 64 → cx.opMarked (s.marksOf cx.c.team cx.c.grp) cx.h.b { s := true, n := 2 } = false) →
    (cx.blocked = true → cx.peerWaits = false →
      ((cx.g.arm cx.c.arm).wait.kind ≠ .member cx.bundle cx.slot → exec i s = .next (cx.stay { kind := .member cx.bundle cx.slot } (cx.begun i s)))
      ∧ ((cx.g.arm cx.c.arm).wait.kind = .member cx.bundle cx.slot → exec i s = .next s))
    ∧ (cx.peerWaits = true →
      let s0 := cx.begun i s
      let me := cx.refresh s0
      let peer := me.forPeer s0
      let each (cx : Cx) : List (Nat × W64) := cx.act.map (fun L => (L, Rules.contribution i cx L))
      let all := (List.range cx.W).flatMap (fun L => (each me ++ each peer).filter (fun x => x.1 == L))
      (peer.latchesOk s0 = true →
        let t := me.advance (peer.advance ((Rules.memberResult i peer all (Rules.memberResult i me all s0)).orderArms cx.core cx.c.team cx.c.grp))
        (cx.h.cap = none → exec i s = .next t) ∧ ∃ u, exec i s = .next u ∧ u.groups = t.groups ∧ u.mem = t.mem ∧ u.asyncs = t.asyncs)
      ∧ (peer.latchesOk s0 = false → cx.blocked = true → exec i s = .next (cx.stay { kind := .member cx.bundle cx.slot } (s0.updArm peer.c (fun a => { a with wait := {} })))))

/-- A cross-lane read: the element of source lane `src L` where it lies below the width, else the fallback, and %status.OOR when some lane took the fallback (R47, R48, R50). -/
def Sys2Proof.Rules.crossing (w : Word) (src : Cx → Nat → Nat) : Cx → Nat → State → State := fun cx _ s =>
  let s := cx.writeV w.ty (cx.act.map (fun L => (L, if src cx L < cx.W then cx.src w.a w.ty (src cx L) else cx.src w.c w.ty L))) s
  if cx.act.any (fun L => decide (cx.W ≤ src cx L)) then s.updGroup cx.c.team cx.c.grp (fun g => { g with oor := true }) else s

/-- R47, R48, R267: X.SHFL, X.ROT and X.BCAST complete with the element of the lane that the mode and the index select, active or not, and the fallback beyond the width. -/
def Sys2Proof.Rules.ShufflesComplete : Prop :=
  (∀ (w : Word) (s : State) (cx : Cx), Passes (.xShfl w) s cx → cx.pure →
    exec (.xShfl w) s = .next (cx.completes (.xShfl w) (Rules.crossing w (fun cx L =>
      let u := (cx.src w.b .u32 L).toNat % 2 ^ 32
      match w.fspec.toNat / 16 with
      | 0 => u
      | 1 => L ^^^ u
      | 2 => (L + 2 ^ 32 - u) % 2 ^ 32
      | _ => (L + u) % 2 ^ 32)) (cx.begun (.xShfl w) s)))
  ∧ (∀ (w : Word) (s : State) (cx : Cx), Passes (.xRot w) s cx → cx.pure →
    exec (.xRot w) s = .next (cx.completes (.xRot w) (Rules.crossing w (fun cx L => (L + (cx.src w.b .u32 L).toNat) % 2 ^ 32 % cx.W)) (cx.begun (.xRot w) s)))
  ∧ (∀ (w : Word) (s : State) (cx : Cx), Passes (.xBcast w) s cx → cx.pure →
    exec (.xBcast w) s = .next (cx.completes (.xBcast w) (Rules.crossing w (fun cx L => (cx.src w.b .u32 L).toNat % 2 ^ 32)) (cx.begun (.xBcast w) s)))

/-- R47 to R49, R267 to R269: reductions, prefixes, matches and cross-lane reads complete. Where it rests on the model's own reading or choice, that is log 27, 39, 43. -/
def Obligations.CrossLaneComplete : Prop := Rules.ReductionsComplete ∧ Rules.ShufflesComplete

/-! ### Moves, special registers and the register allocation -/

/-- R46, R47, R50, R271, R272: MOV, READLANE, FIRST, GETSR and SETSR complete with their moves. -/
def Sys2Proof.Rules.MovesComplete : Prop :=
  (∀ (w : Word) (s : State) (cx : Cx), Passes (.mov w) s cx → cx.clean (.mov w) → isVector (Instr.mov w).form (headR w) = true →
    exec (.mov w) s = .next (cx.completes (.mov w) (Rules.lanes w.ty (fun cx L => cx.src w.a w.ty L)) (cx.begun (.mov w) s)))
  ∧ (∀ (w : Word) (s : State) (cx : Cx), Passes (.mov w) s cx → cx.clean (.mov w) → isVector (Instr.mov w).form (headR w) = false →
    exec (.mov w) s = .next (cx.ends (.mov w) (fun cx k s => cx.writeU k w.ty (cx.srcU k w.a w.ty) s) (cx.begun (.mov w) s)))
  ∧ (∀ (w : WordI) (s : State) (cx : Cx), Passes (.movImm w) s cx → cx.clean (.movImm w) →
    exec (.movImm w) s = .next (cx.completes (.movImm w) (fun cx k s =>
      if isVector (Instr.movImm w).form (headI w) then cx.writeV w.ty (cx.act.map (fun L => (L, immI w.ty w.imm))) s else cx.writeU k w.ty (immI w.ty w.imm) s)
      (cx.begun (.movImm w) s)))
  ∧ (∀ (w : Word) (s : State) (cx : Cx), Passes (.readlane w) s cx → cx.pure →
    exec (.readlane w) s = .next (cx.ends (.readlane w) (fun cx _ s => (cx.laneParts w.dst).foldl (fun s p =>
      let i := (cx.srcU p.2 w.b .u32).toNat % 2 ^ 32
      if i < cx.W then cx.writeU p.1 w.ty (cx.src w.a w.ty i) s else cx.markOor (cx.writeU p.1 w.ty (cx.srcU p.2 w.c w.ty) s)) s) (cx.begun (.readlane w) s)))
  ∧ (∀ (w : Word) (s : State) (cx : Cx), Passes (.first w) s cx → cx.pure →
    exec (.first w) s = .next (cx.ends (.first w) (fun cx _ s => (cx.uniParts (Opd.banked w.dst)).foldl (fun s p =>
      match cx.act.find? p.2 with | some L => cx.writeU p.1 w.ty (cx.src w.a w.ty L) s | none => s) s) (cx.begun (.first w) s)))
  ∧ (∀ (w : Word) (s : State) (cx : Cx), Passes (.getsr w) s cx → cx.clean (.getsr w) →
    exec (.getsr w) s = .next (cx.completes (.getsr w) (fun cx k s =>
      let v (L : Nat) : W64 := BitVec.ofNat 64 (s.special cx w.fspec.toNat L % 2 ^ w.ty.bits)
      if isVector (Instr.getsr w).form (headR w) then cx.writeV w.ty (cx.act.map (fun L => (L, v L))) s else cx.writeU k w.ty (v 0) s) (cx.begun (.getsr w) s)))
  ∧ (∀ (w : Word) (s : State) (cx : Cx), Passes (.setsr w) s cx → cx.clean (.setsr w) →
    exec (.setsr w) s = .next (cx.ends (.setsr w) (fun cx k s =>
      let x := loOf (cx.srcU k w.a .u32)
      if w.fspec = 0x13 then s.updTeam cx.c.team (fun t => if t.core = cx.core then { t with bank := x } else { t with bank2 := x })
      else if x.getLsbD 0 then s.updGroup cx.c.team cx.c.grp (fun g => { g with oor := false }) else s) (cx.begun (.setsr w) s)))

/-- R50, R77, R272: what the special registers hold, for a group of a team that is on its core: %frontmem and %frontslip are those of the front that the group is bound to, and 0 in an unbound one. -/
def Sys2Proof.Rules.SpecialRegistersRead : Prop :=
  ∀ (s : State) (cx : Cx) (t : Team) (L : Nat), s.team cx.c.team = some t →
    let l := s.launch t.launch
    let gx := max l.gx 1
    let gy := max l.gy 1
    s.special cx 0x00 L = L ∧ s.special cx 0x01 L = cx.W ∧ s.special cx 0x02 L = cx.c.grp
    ∧ s.special cx 0x03 L = t.index % gx ∧ s.special cx 0x04 L = t.index / gx % gy ∧ s.special cx 0x05 L = t.index / (gx * gy)
    ∧ s.special cx 0x06 L = l.gx ∧ s.special cx 0x07 L = l.gy ∧ s.special cx 0x08 L = l.gz
    ∧ s.special cx 0x09 L = cx.core ∧ s.special cx 0x0A L = cx.core / 2 ∧ s.special cx 0x0B L = cx.core / 32
    ∧ s.special cx 0x0C L = s.clock % 2 ^ 64 ∧ s.special cx 0x0D L = cx.tenant
    ∧ s.special cx 0x0F L = (maskOf (fun K => (pathLanes cx.g cx.c.arm cx.h.path).contains K)).toNat
    ∧ s.special cx 0x0E L = (if cx.g.melded then (if cx.g.armBits.getLsbD L then 1 else 0) else cx.c.arm % 2)
    ∧ s.special cx 0x10 L = (cx.g.xmask &&& fullMask cx.W).toNat
    ∧ (∀ pa k e, s.frontOf cx.g = some (pa, k) → s.frontAt pa = some e → s.special cx 0x11 L = e.mem.toNat ∧ s.special cx 0x12 L = e.slip)
    ∧ (s.frontOf cx.g = none → s.special cx 0x11 L = 0 ∧ s.special cx 0x12 L = 0)
    ∧ s.special cx 0x13 L = (if t.core = cx.core then t.bank.toNat else t.bank2.toNat)
    ∧ s.special cx 0x14 L = (if cx.g.oor then 1 else 0) + (if cx.g.split then 2 else 0) + (if cx.g.melded then 4 else 0) + (cx.g.arm cx.c.arm).depth % 256 * 256

/-- R46, R47, R50, R271, R272: the moves complete, and the special registers read as their table says. Where it rests on the model's own reading or choice, that is log 43, 109. -/
def Obligations.MovesAndSpecialRegistersComplete : Prop := Rules.MovesComplete ∧ Rules.SpecialRegistersRead

/-- R51 to R54: GROW completes when its request is grantable and none waits before it, and waits otherwise; GROW.TRY answers the resulting count; SHRINK lowers the count; GROW_GRANT lets the oldest waiting request through. Where it rests on the model's own reading or choice, that is log 33. -/
def Obligations.RegisterAllocationCompletes : Prop :=
  (∀ (w : Word) (s : State) (cx : Cx), Passes (.grow w) s cx → cx.clean (.grow w) → cx.g.count + 8 * w.fspec.toNat ≤ 256 →
    8 * w.fspec.toNat * cx.W * 4 ≤ (s.core cx.core).pbReg * 65536 → (cx.g.arm cx.c.arm).wait.status = none →
    exec (.grow w) s = .next (cx.leaves (.grow w) (fun cx _ s =>
      if (s.growWaits cx.core).isEmpty && s.grantable cx.g w.fspec.toNat then
        cx.advance (s.updGroup cx.c.team cx.c.grp (fun g => g.setCount (g.count + 8 * w.fspec.toNat)))
      else cx.stay { kind := .grow w.fspec.toNat s.nextId } { s with nextId := s.nextId + 1 }) (cx.begun (.grow w) s)))
  ∧ (∀ (w : Word) (s : State) (cx : Cx), Passes (.growTry w) s cx → cx.clean (.growTry w) →
    exec (.growTry w) s = .next (cx.ends (.growTry w) (fun cx k s =>
      let n := w.fspec.toNat % 32
      if (s.growWaits cx.core).isEmpty && s.grantable cx.g n then
        cx.writeU k .u32 (BitVec.ofNat 64 (cx.g.count + 8 * n)) (s.updGroup cx.c.team cx.c.grp (fun g => g.setCount (g.count + 8 * n)))
      else cx.writeU k .u32 (BitVec.ofNat 64 cx.g.count) s) (cx.begun (.growTry w) s)))
  ∧ (∀ (w : Word) (s : State) (cx : Cx), Passes (.shrink w) s cx → cx.clean (.shrink w) → 8 * w.fspec.toNat + 8 ≤ cx.g.count →
    (cx.g.trapVec.getLsbD 0 = true → 8 * cx.g.hVregs ≤ cx.g.count - 8 * w.fspec.toNat) →
    (∀ m ∈ s.marksOf cx.c.team cx.c.grp, ∀ r ∈ m.v, r < cx.g.count - 8 * w.fspec.toNat) →
    exec (.shrink w) s = .next (cx.ends (.shrink w) (fun cx _ s =>
      s.updGroup cx.c.team cx.c.grp (fun g => g.setCount (g.count - 8 * w.fspec.toNat))) (cx.begun (.shrink w) s)))
  ∧ (∀ (core : Nat) (c : CtxId) (n k : Nat) (g : Group) (s : State), s.oldest (s.growWaits core) = some (c, n, k) → s.group c.team c.grp = some g →
    s.stopped = false → s.grantable g n = true →
    exec (.growGrant core) s = .next ((s.updGroup c.team c.grp (fun g => g.setCount (g.count + 8 * n))).wake c 1))

/-! ### Control -/

/-- The first address of the bundle an immediate number of bundles away, modulo 2^56 (R178). -/
def Sys2Proof.Rules.target (bundle : Nat) (imm : W32) : Nat := (((bundle : Int) + imm.toInt * 64) % (2 ^ 56 : Nat)).toNat

/-- R218, R219, R222, R223: NOP only advances the PC; BRA goes to its target when its guard passes (a per-lane guard that agrees in every lane), and to the next bundle when it fails in every lane; CALL, RET and JMPI go to their targets, and CALL and JMPI leave the address of the next bundle in their link pair, JMPI after it has read its target. -/
def Obligations.BranchesComplete : Prop :=
  (∀ (w : Word) (s : State) (cx : Cx), Passes (.nop w) s cx → cx.clean (.nop w) →
    exec (.nop w) s = .next (cx.ends (.nop w) (fun _ _ s => s) (cx.begun (.nop w) s)))
  ∧ (∀ (w : WordI) (s : State) (cx : Cx), Passes (.bra w) s cx → cx.clean (.bra w) →
    (w.guard.perLane = true → cx.guardFalse = [] ∨ cx.act = []) →
    exec (.bra w) s = .next (cx.leaves (.bra w) (fun cx _ s =>
      if w.guard.perLane && !cx.guardFalse.isEmpty then s.jump cx.c ((cx.bundle + 64) % 2 ^ 56) 0 else s.jump cx.c (Rules.target cx.bundle w.imm) 0) (cx.begun (.bra w) s)))
  ∧ (∀ (w : WordI) (s : State) (cx : Cx), Passes (.call w) s cx → cx.clean (.call w) →
    exec (.call w) s = .next (cx.leaves (.call w) (fun cx k s =>
      (cx.writeU k .u64 (BitVec.ofNat 64 ((cx.bundle + 64) % 2 ^ 56)) s).jump cx.c (Rules.target cx.bundle w.imm) 0) (cx.begun (.call w) s)))
  ∧ (∀ (w : Word) (s : State) (cx : Cx), Passes (.ret w) s cx → cx.clean (.ret w) → (∀ k ∈ cx.arms false, badTarget (cx.srcU k w.a .u64) = none) →
    exec (.ret w) s = .next (cx.leaves (.ret w) (fun cx k s => s.jump cx.c (cx.srcU k w.a .u64).toNat 0) (cx.begun (.ret w) s)))
  ∧ (∀ (w : Word) (s : State) (cx : Cx), Passes (.jmpi w) s cx → cx.clean (.jmpi w) → (∀ k ∈ cx.arms false, badTarget (cx.srcU k w.a .u64) = none) →
    exec (.jmpi w) s = .next (cx.leaves (.jmpi w) (fun cx k s =>
      (cx.writeU k .u64 (BitVec.ofNat 64 ((cx.bundle + 64) % 2 ^ 56)) s).jump cx.c (cx.srcU k w.a .u64).toNat 0) (cx.begun (.jmpi w) s)))

/-- R223, R435: RET and JMPI to a value that is no bundle address take BADTARGET, cause 0x02, and have no effect. -/
def Sys2Proof.Rules.BadTargetTraps : Prop :=
  ∀ (w : Word) (s : State) (cx : Cx) (k : Nat), (Passes (.ret w) s cx ∧ isVector (Instr.ret w).form cx.h = false ∧ cx.arms false = [k] →
      (fld (cx.srcU k w.a .u64).toNat 63 56 ≠ 0 ∨ fld (cx.srcU k w.a .u64).toNat 5 0 ≠ 0) → exec (.ret w) s = .next (cx.trap { cause := 0x02 } s))
    ∧ (Passes (.jmpi w) s cx ∧ isVector (Instr.jmpi w).form cx.h = false ∧ cx.arms false = [k] →
      (fld (cx.srcU k w.a .u64).toNat 63 56 ≠ 0 ∨ fld (cx.srcU k w.a .u64).toNat 5 0 ≠ 0) → exec (.jmpi w) s = .next (cx.trap { cause := 0x02 } s))

/-- The lanes of Active() in which a branch's predicate, negated on demand, holds, and those in which it does not (R220). -/
def Sys2Proof.Rules.taken (cx : Cx) (w : WordI) : W64 := maskOf (fun L => cx.act.contains L && (cx.g.pget w.slot.toNat L != w.neg))
/-- The fall-through set of R220. -/
def Sys2Proof.Rules.fall (cx : Cx) (w : WordI) : W64 := maskOf (fun L => cx.act.contains L) &&& ~~~(Rules.taken cx w)

/-- R29, R30, R31, R220: BRD in a context that has no split and no stack entry, with both sets nonempty, splits the group: the issuing arm keeps the fall-through set at the next bundle, the other arm starts at the target with the taken set; in every other state it pushes an entry with the whole set and the target, and goes on with the fall-through set, or at the target when that is empty. -/
def Sys2Proof.Rules.DivergentBranchCompletes : Prop :=
  (∀ (w : WordI) (s : State) (cx : Cx), Passes (.brd w) s cx → cx.clean (.brd w) →
    cx.g.split = false → (cx.g.arm cx.c.arm).depth = 0 → Rules.fall cx w ≠ 0 → Rules.taken cx w ≠ 0 →
    exec (.brd w) s = .next ((cx.begun (.brd w) s).updGroup cx.c.team cx.c.grp (fun g =>
      g.splitArms cx.c (Rules.fall cx w) (Rules.taken cx w) ((cx.bundle + 64) % 2 ^ 56) (Rules.target cx.bundle w.imm) s.clock)))
  ∧ (∀ (w : WordI) (s : State) (cx : Cx) (pa : Nat), Passes (.brd w) s cx → cx.clean (.brd w) →
    ¬ (cx.g.split = false ∧ (cx.g.arm cx.c.arm).depth = 0 ∧ Rules.fall cx w ≠ 0 ∧ Rules.taken cx w ≠ 0) →
    (cx.g.arm cx.c.arm).depth < fld cx.g.divLim.toNat 7 0 → s.entryAt cx (cx.g.arm cx.c.arm).depth (needW cx.priv) = .ok pa →
    exec (.brd w) s = .next (
      let d := (cx.g.arm cx.c.arm).depth
      let t := Rules.target cx.bundle w.imm
      let s := (cx.begun (.brd w) s).store cx.core cx.tag pa 16 ((maskOf (fun L => cx.act.contains L)).toNat * 2 ^ 64 + t / 64 * 2 ^ 14) 0
      if Rules.fall cx w = 0 then (s.setMask cx.c (Rules.taken cx w) (d + 1)).jump cx.c t 0
      else (s.setMask cx.c (Rules.fall cx w) (d + 1)).jump cx.c ((cx.bundle + 64) % 2 ^ 56) 0))

/-- R30, R31, R435: BRD that must push onto a full stack takes DIVSTACK, cause 0x08. -/
def Sys2Proof.Rules.FullStackTraps : Prop :=
  ∀ (w : WordI) (s : State) (cx : Cx), Passes (.brd w) s cx →
    ¬ (cx.g.split = false ∧ (cx.g.arm cx.c.arm).depth = 0 ∧ Rules.fall cx w ≠ 0 ∧ Rules.taken cx w ≠ 0) →
    fld cx.g.divLim.toNat 7 0 ≤ (cx.g.arm cx.c.arm).depth → exec (.brd w) s = .next (cx.trap { cause := 0x08 } s)

/-- R30, R31, R223, R425, R435: bad targets and a full divergence stack trap. -/
def Obligations.ControlTraps : Prop := Rules.BadTargetTraps ∧ Rules.FullStackTraps

/-- R33, R221: JOIN of a context with an empty stack goes on at slot 1 of its own bundle when no split is pending, and parks there when one is. A top entry in PHASE 0 goes over to its pending set at the address the entry held, keeping the bundle of the JOIN; a last entry in PHASE 1, or one with no pending lane left, is popped, and its lanes go on behind the JOIN. In every other state it makes the join steps of R33 in turn. -/
def Sys2Proof.Rules.JoinCompletes : Prop :=
  (∀ (w : Word) (s : State) (cx : Cx), Passes (.join w) s cx → cx.clean (.join w) → cx.arms (isVector (Instr.join w).form cx.h) = [armSel cx.c] →
    (cx.g.arm cx.c.arm).depth = 0 → cx.g.split = false →
    exec (.join w) s = .next ((cx.begun (.join w) s).jump cx.c cx.bundle 1))
  ∧ (∀ (w : Word) (s : State) (cx : Cx), Passes (.join w) s cx → cx.clean (.join w) → cx.arms (isVector (Instr.join w).form cx.h) = [armSel cx.c] →
    (cx.g.arm cx.c.arm).depth = 0 → cx.g.split = true →
    exec (.join w) s = .next ((cx.begun (.join w) s).park cx.c cx.bundle))
  ∧ (∀ (w : Word) (s : State) (cx : Cx) (d pa : Nat), Passes (.join w) s cx → cx.clean (.join w) → cx.arms (isVector (Instr.join w).form cx.h) = [armSel cx.c] →
    (cx.g.arm cx.c.arm).depth = d + 1 → s.entryAt cx d (needR cx.priv) = .ok pa →
    let x := s.coreRead cx.core pa 16
    let saved : W64 := BitVec.ofNat 64 (x / 2 ^ 64) &&& ~~~cx.g.xmask
    let pend : W64 := saved &&& ~~~(cx.g.curMask cx.c.arm)
    let u := (cx.begun (.join w) s).store cx.core cx.tag pa 16 (x / 2 ^ 64 * 2 ^ 64 + cx.bundle / 64 * 2 ^ 14 + 1) 0
    (x.testBit 0 = false → s.entryAt cx d (needW cx.priv) = .ok pa →
      (pend ≠ 0 → exec (.join w) s = .next ((u.setMask cx.c pend (d + 1)).jump cx.c (fld x 63 14 * 64) 0))
      ∧ (pend = 0 → d = 0 → exec (.join w) s = .next ((u.setMask cx.c saved 0).jump cx.c cx.bundle 1)))
    ∧ (x.testBit 0 = true → d = 0 → exec (.join w) s = .next (((cx.begun (.join w) s).setMask cx.c saved 0).jump cx.c (fld x 63 14 * 64) 1)))
  ∧ (∀ (w : Word) (s s1 s2 : State) (cx : Cx), Passes (.join w) s cx → cx.clean (.join w) → cx.arms (isVector (Instr.join w).form cx.h) = [armSel cx.c] →
    s.joinStep cx cx.bundle ((cx.g.arm cx.c.arm).depth + 1) = .ok s1 →
    (cx.begun (.join w) s).joinStep (cx.refresh (cx.begun (.join w) s)) cx.bundle ((cx.g.arm cx.c.arm).depth + 1) = .ok s2 →
    exec (.join w) s = .next s2)

/-- R37, R39, R41, R224 to R227: MELD opens a melded region with its arm bits and identity tables, MELD.MAP writes entries of the tables its path selects, and MELD.END closes the region, keeping arm 1's banked copies when no lane of arm 0 is left. -/
def Sys2Proof.Rules.MeldingCompletes : Prop :=
  (∀ (w : Word) (s : State) (cx : Cx), Passes (.meld w) s cx → cx.clean (.meld w) →
    exec (.meld w) s = .next (cx.ends (.meld w) (fun cx _ s => s.updGroup cx.c.team cx.c.grp (fun g =>
      { g.bankCopy with melded := true, armBits := maskOf (fun L => cx.act.contains L && (cx.g.pget w.slot.toNat L != w.scope.getLsbD 2)),
                        ren0 := identityTable, ren1 := identityTable })) (cx.begun (.meld w) s)))
  ∧ (∀ (w : Word) (k : BitVec 6) (j : BitVec 8) (s : State) (cx : Cx), Passes (.meldMap w) s cx → w.dst = .m k → w.a = .v j →
    exec (.meldMap w) s = .next (cx.ends (.meldMap w) (fun cx _ s => s.updGroup cx.c.team cx.c.grp (fun g =>
      { g with ren0 := if w.path = .arm1 then g.ren0 else mapRun g.ren0 k.toNat j.toNat (w.fspec.toNat + 1),
               ren1 := if w.path = .arm0 then g.ren1 else mapRun g.ren1 k.toNat j.toNat (w.fspec.toNat + 1) })) (cx.begun (.meldMap w) s)))
  ∧ (∀ (w : Word) (s : State) (cx : Cx), Passes (.meldEnd w) s cx → cx.clean (.meldEnd w) →
    exec (.meldEnd w) s = .next (cx.ends (.meldEnd w) (fun cx _ s =>
      let none0 : Bool := cx.g.curMask cx.c.arm &&& ~~~cx.g.armBits == 0
      ((s.mergeAsync cx.c none0).updGroup cx.c.team cx.c.grp (fun g =>
        { (if none0 then g.bankKeep1 else g) with melded := false, armBits := 0, ren0 := [], ren1 := [] })).orderArms cx.core cx.c.team cx.c.grp) (cx.begun (.meldEnd w) s)))

/-- R29 to R31, R33, R37, R39, R41, R220, R221, R224 to R227: BRD, JOIN and the melding instructions complete. Where it rests on the model's own reading or choice, that is log 24, 25, 132. -/
def Obligations.DivergenceCompletes : Prop := Rules.DivergentBranchCompletes ∧ Rules.JoinCompletes ∧ Rules.MeldingCompletes

/-- The lanes that EXIT ends: those of Active() with a per-lane guard, and else every active lane of its path (R228). -/
def Sys2Proof.Rules.exiting (cx : Cx) (w : Word) : W64 :=
  maskOf (fun L => if w.guard.perLane then cx.act.contains L else (pathLanes cx.g cx.c.arm w.path).contains L)

/-- The state in which those lanes are in %xmask and out of the context's mask. -/
def Sys2Proof.Rules.exited (cx : Cx) (w : Word) (s : State) : State :=
  (cx.begun (.exit w) s).updGroup cx.c.team cx.c.grp (fun g =>
    { g.updArm cx.c.arm (fun a => { a with mask := a.mask &&& ~~~(Rules.exiting cx w) }) with xmask := g.xmask ||| Rules.exiting cx w })

/-- R33 to R35, R228: EXIT marks its lanes exited, and with lanes left goes on. Without, and with an empty stack, the group retires when no split is pending; under a split the arm parks while the other runs, and else the arms rejoin, and the group retires when it has no lane left. With a stack, a top entry in PHASE 0 goes over to its pending set, and a last entry in PHASE 1 is popped, its lanes going on behind their JOIN. Else the join steps of R33 are made in turn. -/
def Sys2Proof.Rules.ExitCompletes : Prop :=
  (∀ (w : Word) (s : State) (cx : Cx), Passes (.exit w) s cx → cx.g.curMask cx.c.arm &&& ~~~(Rules.exiting cx w) ≠ 0 →
    exec (.exit w) s = .next (cx.advance (Rules.exited cx w s)))
  ∧ (∀ (w : Word) (s : State) (cx : Cx), Passes (.exit w) s cx → cx.g.curMask cx.c.arm &&& ~~~(Rules.exiting cx w) = 0 → (cx.g.arm cx.c.arm).depth = 0 →
    let other := cx.g.arm (if armSel cx.c = 0 then cx.c.arm + 1 else cx.c.arm - 1)
    let left : W64 := other.mask &&& ~~~(cx.g.xmask ||| Rules.exiting cx w)
    (cx.g.split = false → exec (.exit w) s = .next ((Rules.exited cx w s).retireGroup cx.c.team cx.c.grp))
    ∧ (cx.g.split = true → other.parked = false → left ≠ 0 → ∀ g, (Rules.exited cx w s).group cx.c.team cx.c.grp = some g →
      exec (.exit w) s = .next ((Rules.exited cx w s).updGroup cx.c.team cx.c.grp (fun _ => g.updArm cx.c.arm (fun a =>
        { a with parked := true, parkPc := cx.bundle, pc := cx.bundle, slot := 0, wait := {} }))))
    ∧ (cx.g.split = true → other.parked = true → left &&& fullMask cx.g.width ≠ 0 → exec (.exit w) s = .next ((Rules.exited cx w s).park cx.c cx.bundle))
    ∧ (cx.g.split = true → (other.parked = true ∨ left = 0) → left &&& fullMask cx.g.width = 0 →
      exec (.exit w) s = .next (((Rules.exited cx w s).park cx.c cx.bundle).retireGroup cx.c.team cx.c.grp)))
  ∧ (∀ (w : Word) (s : State) (cx : Cx) (d pa : Nat), Passes (.exit w) s cx → cx.g.curMask cx.c.arm &&& ~~~(Rules.exiting cx w) = 0 → (cx.g.arm cx.c.arm).depth = d + 1 →
    s.entryAt cx d (needR cx.priv) = .ok pa →
    let x := s.coreRead cx.core pa 16
    let saved : W64 := BitVec.ofNat 64 (x / 2 ^ 64) &&& ~~~(cx.g.xmask ||| Rules.exiting cx w)
    saved &&& fullMask cx.g.width ≠ 0 →
    (x.testBit 0 = false → s.entryAt cx d (needW cx.priv) = .ok pa →
      exec (.exit w) s = .next ((((Rules.exited cx w s).store cx.core cx.tag pa 16 (x / 2 ^ 64 * 2 ^ 64 + cx.bundle / 64 * 2 ^ 14 + 1) 0).setMask cx.c saved (d + 1)).jump cx.c (fld x 63 14 * 64) 0))
    ∧ (x.testBit 0 = true → d = 0 → exec (.exit w) s = .next (((Rules.exited cx w s).setMask cx.c saved 0).jump cx.c (fld x 63 14 * 64) 1)))
  ∧ (∀ (w : Word) (s s1 s2 : State) (cx : Cx), Passes (.exit w) s cx →
    cx.exit s = .ok s1 → (cx.refresh (cx.begun (.exit w) s)).exit (cx.begun (.exit w) s) = .ok s2 →
    exec (.exit w) s = .next s2)

/-- R229: a group that retires returns its registers, discards its outstanding results, leaves its engine operations as they are, and its team retires with its last group. -/
def Sys2Proof.Rules.GroupRetires : Prop :=
  ∀ (s : State) (team grp : Nat) (g : Group), s.group team grp = some g →
    let t := s.retireGroup team grp
    (∃ x, t.group team grp = some x ∧ x.retired = true ∧ x.arm0.live = false ∧ x.arm1.live = false ∧ x.v = [] ∧ x.s = [] ∧ x.pend = [])
    ∧ (∀ y ∈ t.asyncs, ¬ (y.tag.team = team ∧ y.tag.grp = grp)) ∧ t.ops = s.ops ∧ t.reqs = s.reqs
    ∧ ((∀ y ∈ s.groups, y.team = team → y.idx = grp ∨ y.retired = true) → ∀ tm, s.team team = some tm → (t.team team).map (fun x => x.place) = some .retired)

/-- R34: an arm that parks while the other runs waits at its bundle; when the other is parked or has no unexited lane, the arms merge: arm 0 goes on at slot 1 of the bundle where it, or else arm 1, parked, with the lanes of both and the banked copies of the one that has lanes. -/
def Sys2Proof.Rules.ArmsRejoin : Prop :=
  ∀ (s : State) (c : CtxId) (bundle : Nat) (g : Group), s.group c.team c.grp = some g → c.arm < 2 →
    let t := s.park c bundle
    let mine := g.arm c.arm
    let other := g.arm (1 - c.arm)
    let a0 := if c.arm = 0 then mine else other
    let m0 : W64 := a0.mask &&& ~~~g.xmask
    (other.parked = false → other.mask &&& ~~~g.xmask ≠ 0 →
      t.group c.team c.grp = some (g.updArm c.arm (fun a => { a with parked := true, parkPc := bundle, pc := bundle, slot := 0, wait := {} })))
    ∧ (other.parked = true ∨ other.mask &&& ~~~g.xmask = 0 → ∃ x, t.group c.team c.grp = some x ∧ x.split = false ∧ x.arm1 = {} ∧ x.arm0.mask = (g.arm0.mask ||| g.arm1.mask) &&& ~~~g.xmask
      ∧ x.arm0.slot = 1 ∧ x.arm0.depth = 0 ∧ x.arm0.parked = false
      ∧ x.arm0.pc = (let at_ (k : Nat) : Nat := if c.arm = k then bundle else (g.arm k).parkPc; if m0 = 0 then at_ 1 else at_ 0)
      ∧ (∀ r, r < 128 → x.sget 0 r = (if m0 = 0 then g.sget 1 r else g.sget 0 r)) ∧ (∀ j, j < 7 → x.qget 0 j = (if m0 = 0 then g.qget 1 j else g.qget 0 j)))

/-- The ports of a core that a context holds, given up (R187). -/
def Sys2Proof.Rules.giveUp (c : CtxId) (x : Core) : Core :=
  let y (p : Port) : Port := if p.cur = some c then { p with yielded := true } else p
  { x with portA := y x.portA, portB := y x.portB }

/-- R187, R230, R231: YIELD gives up the ports of its context and goes on; YIELD.ON goes to its target, gives them up, and waits there for a count of its class, the smaller of its arms'; its context does not issue while the class counts more. -/
def Sys2Proof.Rules.YieldsComplete : Prop :=
  (∀ (w : Word) (s : State) (cx : Cx), Passes (.yield w) s cx →
    exec (.yield w) s = .next (cx.advance ((cx.begun (.yield w) s).updCore cx.core (Rules.giveUp cx.c))))
  ∧ (∀ (w : WordI) (s : State) (cx : Cx), Passes (.yieldOn w) s cx → cx.clean (.yieldOn w) → isVector (Instr.yieldOn w).form cx.h = false →
    let n := ((cx.arms false).map (fun k => (cx.srcU k w.a .u32).toNat)).min?.getD 0
    exec (.yieldOn w) s = .next ((((cx.begun (.yieldOn w) s).jump cx.c (Rules.target cx.bundle w.imm) 0).updArm cx.c (fun x =>
      { x with wait := { kind := .yieldOn w.round.toNat n } })).updCore cx.core (Rules.giveUp cx.c)))
  ∧ (∀ (i : Instr) (s : State) (cur : Cur) (g : Group) (cls n : Nat), i.isWord = true → s.cur = some cur → s.context cur.c = some g →
    (g.arm cur.c.arm).wait.kind = .yieldOn cls n → n < g.ecnt.getD cls 0 → exec i s = .next s)

/-- R232, R401, R402, R405, R407, R411: BPT and TRAP count as executed, and raise BREAKPOINT and SWTRAP with their code as DETAIL at their own PC. Outside a handler the context halts behind the slot, no register and no byte of memory changes, and a team in no squall begins one with that trap; in a handler it goes on. -/
def Sys2Proof.Rules.SoftwareTrapsComplete : Prop :=
  ∀ (i : Word → Instr) (cause : Nat), (i, cause) ∈ [((.bpt : Word → Instr), 0x38), (.trap, 0x39)] → ∀ (w : Word) (s : State) (cx : Cx), Passes (i w) s cx →
    let x : Trap := { cause := cause, detail := w.fspec.toNat, pc := pcWord cx.bundle cx.slot, arm := armSel cx.c }
    let u := (cx.advance (cx.begun (i w) s)).raise cx.c.team cx.c.grp x
    exec (i w) s = .next (if cx.g.hmode then u else u.haltCtx cx.c)
    ∧ (cx.g.hmode = false → ∀ tm, s.team cx.c.team = some tm → tm.squall = none →
      let t := u.haltCtx cx.c
      (t.team cx.c.team).map (fun x => x.squall) = some (some ⟨cx.c.grp, { x with cycle := s.clock }, s.clock, false, false⟩)
      ∧ (t.armOf cx.c).map (fun a => (a.pc, a.slot, a.halted)) = some ((pcAfter cx.bundle cx.slot cx.valid).1, (pcAfter cx.bundle cx.slot cx.valid).2, true)
      ∧ t.mem = s.mem ∧ ∀ team grp, (t.group team grp).map (fun g => (g.v, g.s, g.sb1, g.p, g.q, g.q1, g.xmask)) = (s.group team grp).map (fun g => (g.v, g.s, g.sb1, g.p, g.q, g.q1, g.xmask)))

/-- R233, R234, R381: HCALL, its SYSTEM release over, hands the record of R234 to the tenant's ring and waits at its slot; before, it waits for its release. When the reply has come, it completes with it in the destination and a SYSTEM acquire. -/
def Sys2Proof.Rules.HostCallCompletes : Prop :=
  (∀ (w : Word) (s : State) (cx : Cx) (k : Nat) (e : TlbEntry) (t : Team), isVector (Instr.hcall w).form cx.h = false → cx.arms false = [k] →
    s.reach cx.core cx.tenant (s.tenant cx.tenant).hcRing.toNat (needRW cx.priv) = .ok e → s.team cx.c.team = some t →
    (∀ s1, Begins (.hcall w) (some 3) True s cx s1 →
      let ring := (s.tenant cx.tenant).hcRing.toNat
      let h : HCall :=
        { c := cx.c, tenant := cx.tenant, pa := e.at ring, priv := cx.priv, next := pcAfter cx.bundle cx.slot cx.valid,
          data := BitVec.ofNat 256 ((cx.srcU k w.a .u64).toNat * 2 ^ 192 + (pcWord cx.bundle cx.slot).toNat * 2 ^ 128 + w.fspec.toNat * 2 ^ 120 + armSel cx.c * 2 ^ 104 + cx.c.grp % 256 * 2 ^ 96
            + t.index % 2 ^ 32 * 2 ^ 64 + (s.launch t.launch).id % 2 ^ 32 * 2 ^ 32 + cx.tenant % 16),
          dst := match w.dst with | .s r => if cx.wb then some (ukey k r.toNat) else none | _ => none }
      let s0 := s1.fillCore cx.core e
      exec (.hcall w) s = .next (cx.stay { kind := .hcallPush, rel := true } { s0 with hcalls := s0.hcalls ++ [h] }))
    ∧ (Passes (.hcall w) s cx → cx.clean (.hcall w) → ¬ cx.released (some 3) s → exec (.hcall w) s = .next (cx.stay (cx.release (some 3) (cx.opened s)).2 (cx.release (some 3) (cx.opened s)).1)))
  ∧ (∀ (w : Word) (s : State) (cx : Cx) (k i : Nat) (v : W32) (tm : Team), Resumes (.hcall w) s cx k → (cx.g.arm cx.c.arm).wait.kind = .hcallReply i →
    (cx.g.arm cx.c.arm).wait.status = some v → s.team cx.c.team = some tm →
    exec (.hcall w) s = .next (cx.advance ((cx.writeU k .u32 (BitVec.ofNat 64 v.toNat) (cx.begun (.hcall w) s)).acquire cx.core tm 3)))

/-- R33 to R35, R187, R228 to R234, R381, R401, R402, R405, R407, R411: EXIT, the yields, the software traps and the host call complete, with what becomes of an arm and a group whose lanes have all exited. Where it rests on the model's own reading or choice, that is log 23, 28, 91, 114. -/
def Obligations.EndsComplete : Prop := Rules.ExitCompletes ∧ Rules.GroupRetires ∧ Rules.ArmsRejoin ∧ Rules.YieldsComplete ∧ Rules.SoftwareTrapsComplete ∧ Rules.HostCallCompletes

/-! ### Loads, stores, scratchpad and caches -/

/-- The accesses of a load or store meet no condition of ranks 10 and 11 (R434, R447), and touch no register of the group's own area that holds a pending mark (R185). -/
def Sys2Proof.Rules.reaches (w : Word) (vec : Bool) (s : State) (cx : Cx) (need : Need) : Prop :=
  s.ownMarked cx ((cx.arms vec).flatMap (cx.memAccs w vec)) = false
  ∧ ∀ k ∈ cx.arms vec, s.rank10 cx (aligned (cx.memAccs w vec k) (accBytes w)) [] true = none ∧ s.rank11 cx (cx.memAccs w vec k) need = none

/-- The effect of a load (R70, R184, R280, R281): its translations kept, one part for each access with its address and destination registers, taken from the cache as far as it can and requested for the rest, and an acquire to follow for `.acq`. -/
def Sys2Proof.Rules.loading (w : Word) (vec : Bool) : Cx → Nat → State → State := fun cx k s =>
  let l := cx.memAccs w vec k
  let s := s.fills cx.core cx.tenant l
  let parts := l.map (fun x => cx.part s x.lane (cx.dstRegs (vecRegs w) x.lane) x.va x.n)
  s.startLoad { id := 0, core := cx.core, tag := cx.tag, dest := cx.asyncDest vec k, ty := w.ty, parts := parts, load := true,
                acq := if w.fspec.toNat / 64 = 1 then some w.scope.toNat else none } w.chint.toNat (w.fspec.toNat / 64 != 0)

/-- R280, R281: LD and LDU whose accesses meet no condition complete at issue: an asynchronous record stands for their results, and the PC is at the next slot. Where it rests on the model's own reading or choice, that is log 34. -/
def Obligations.LoadsComplete : Prop :=
  (∀ (w : Word) (s : State) (cx : Cx) (vec : Bool), vec = isVector (Instr.ld w).form (headR w) → Passes (.ld w) s cx → cx.clean (.ld w) →
    Rules.reaches w vec s cx (needR cx.priv) →
    exec (.ld w) s = .next (cx.ends (.ld w) (Rules.loading w vec) (cx.begun (.ld w) s)))
  ∧ (∀ (w : Word) (s : State) (cx : Cx), Passes (.ldu w) s cx → cx.clean (.ldu w) → isVector (Instr.ldu w).form cx.h = false →
    Rules.reaches w false s cx (needR cx.priv) →
    exec (.ldu w) s = .next (cx.ends (.ldu w) (Rules.loading w false) (cx.begun (.ldu w) s)))

/-- The scope of the release that a store, arrival or atomic with ORDER in FSPEC makes first (R93, R95). -/
def Sys2Proof.Rules.releaseOf (w : Word) : Option Nat := if w.fspec.toNat / 64 = 2 then some w.scope.toNat else none

/-- The effect of a store (R71, R95, R279, R453): lane by lane, through the cache or past it; the bytes of a release store of a scope wider than the core go on to their slices at once (log 22), and those of a narrower one are remembered as strong in their lines. -/
def Sys2Proof.Rules.storing (w : Word) (vec : Bool) : Cx → Nat → State → State := fun cx k s =>
  let l := cx.memAccs w vec k
  let s := cx.storeMany (l.map (fun x => (x.va, x.n, cx.data w vec k x.lane))) w.chint.toNat (w.fspec.toNat / 64 != 0) (s.fills cx.core cx.tenant l)
  let wide : Bool := match s.team cx.c.team with | some t => decide (2 ≤ effScope t w.scope.toNat) | none => false
  if w.fspec.toNat / 64 ≠ 2 ∨ w.chint = 2 then s
  else if wide then cx.storeOut (l.map (fun x => (x.va, x.n))) s
  else cx.storeKept (l.map (fun x => (x.va, x.n))) s

/-- R280, R281, R95: ST and STU whose accesses meet no condition, and whose release has nothing to wait for, complete with their bytes stored (that the bytes of a wide release store go on at once is the model's reading, log 22); with something to wait for they wait at their slot first. -/
def Sys2Proof.Rules.StoresComplete : Prop :=
  (∀ (w : Word) (s s0 : State) (cx : Cx) (vec : Bool), vec = isVector (Instr.st w).form (headR w) →
    s.ownMarked cx ((cx.arms vec).flatMap (cx.memAccs w vec)) = false → Begins (.st w) (Rules.releaseOf w) (Rules.reaches w vec s cx (needW cx.priv)) s cx s0 →
    exec (.st w) s = .next (cx.ends (.st w) (Rules.storing w vec) s0))
  ∧ (∀ (w : Word) (s s0 : State) (cx : Cx), isVector (Instr.stu w).form cx.h = false →
    s.ownMarked cx ((cx.arms false).flatMap (cx.memAccs w false)) = false → Begins (.stu w) (Rules.releaseOf w) (Rules.reaches w false s cx (needW cx.priv)) s cx s0 →
    exec (.stu w) s = .next (cx.ends (.stu w) (Rules.storing w false) s0))

/-- R95: a release store whose earlier accesses are still on their way waits at its slot and stores nothing yet. -/
def Sys2Proof.Rules.ReleaseStoreWaits : Prop :=
  ∀ (w : Word) (s : State) (cx : Cx), Passes (.stu w) s cx → cx.clean (.stu w) → isVector (Instr.stu w).form cx.h = false →
    Rules.reaches w false s cx (needW cx.priv) → ¬ cx.released (Rules.releaseOf w) s →
    exec (.stu w) s = .next (cx.stay (cx.release (Rules.releaseOf w) (cx.opened s)).2 (cx.release (Rules.releaseOf w) (cx.opened s)).1)

/-- R95: once what its release waited for is over, a release store that stood at its slot stores its bytes and completes. -/
def Sys2Proof.Rules.ReleaseStoreResumes : Prop :=
  ∀ (w : Word) (s : State) (cx : Cx), WellFormed (.stu w) = true → gate (.stu w) s = .go cx → isVector (Instr.stu w).form cx.h = false →
    (cx.g.arm cx.c.arm).wait.kind = .release → (cx.g.arm cx.c.arm).wait.exec = 0 →
    s.ownMarked cx ((cx.arms false).flatMap (cx.memAccs w false)) = false →
    exec (.stu w) s = .next (cx.ends (.stu w) (Rules.storing w false) (cx.rebegun (.stu w) s))

/-- R95, R280, R281: stores complete, and release stores wait for what they must (log 22). Where it rests on the model's own reading or choice, that is log 29, 117, 134. -/
def Obligations.StoreInstructionsComplete : Prop := Rules.StoresComplete ∧ Rules.ReleaseStoreWaits ∧ Rules.ReleaseStoreResumes

/-- R434, R447: a load or store takes the first condition of rank 10 that its accesses meet, and else the first of rank 11; it then has no effect. -/
def Sys2Proof.Rules.AccessConditionsTrap : Prop :=
  ∀ (w : Word) (s : State) (cx : Cx) (k : Nat) (b : Bad), cx.arms false = [k] → s.ownMarked cx (cx.memAccs w false k) = false →
    (isVector (Instr.ldu w).form cx.h = false → Passes (.ldu w) s cx → s.rank10 cx (aligned (cx.memAccs w false k) (accBytes w)) [] true = some b →
      exec (.ldu w) s = .next (cx.trap b s))
    ∧ (isVector (Instr.ldu w).form cx.h = false → Passes (.ldu w) s cx → cx.clean (.ldu w) → s.rank10 cx (aligned (cx.memAccs w false k) (accBytes w)) [] true = none →
      s.rank11 cx (cx.memAccs w false k) (needR cx.priv) = some b → exec (.ldu w) s = .next (cx.trap b s))
    ∧ (isVector (Instr.stu w).form cx.h = false → Passes (.stu w) s cx → s.rank10 cx (aligned (cx.memAccs w false k) (accBytes w)) [] true = some b →
      exec (.stu w) s = .next (cx.trap b s))
    ∧ (isVector (Instr.stu w).form cx.h = false → Passes (.stu w) s cx → cx.clean (.stu w) → s.rank10 cx (aligned (cx.memAccs w false k) (accBytes w)) [] true = none →
      s.rank11 cx (cx.memAccs w false k) (needW cx.priv) = some b → exec (.stu w) s = .next (cx.trap b s))

/-- R434: the conditions of rank 10 for one access outside the group's guard span: an address of 2^56 or more is TRANSLATE 0x10 with bit 4, then one that is no multiple of the size is ALIGN 0x12; an access within the guard span of an unprivileged slot is STACKLIMIT 0x13; otherwise there is none. -/
def Sys2Proof.Rules.AddressConditions : Prop :=
  ∀ (s : State) (cx : Cx) (a : Acc) (al : Nat),
    let sp := cx.g.guardSpan
    let x : W64 := BitVec.ofNat 64 a.va
    (2 ^ 56 ≤ a.va → s.rank10 cx [(a, al)] [] true = some { cause := 0x10, lane := a.lane, detail := 16, info := x })
    ∧ (a.va < 2 ^ 56 → a.va % al ≠ 0 → s.rank10 cx [(a, al)] [] true = some { cause := 0x12, lane := a.lane, info := x })
    ∧ (a.va < 2 ^ 56 → a.va % al = 0 → cx.priv = false → a.va < sp.1 + sp.2 → sp.1 < a.va + a.n →
        s.rank10 cx [(a, al)] [] true = some { cause := 0x13, lane := a.lane, info := x })
    ∧ (a.va < 2 ^ 56 → a.va % al = 0 → (cx.priv = true ∨ sp.1 + sp.2 ≤ a.va ∨ a.va + a.n ≤ sp.1) → s.rank10 cx [(a, al)] [] true = none)

/-- R434, R447: what an access traps on, and in which order. -/
def Obligations.AccessConditions : Prop := Rules.AccessConditionsTrap ∧ Rules.AddressConditions

/-- R276, R282, R454: SLD and SST within the scratchpad and aligned complete: SLD with the bytes that stand there, to land later, SST with its bytes written in lane order and the armed objects it touched evaluated. -/
def Obligations.ScratchpadComplete : Prop :=
  (∀ (w : Word) (s : State) (cx : Cx) (vec : Bool), vec = isVector (Instr.sld w).form (headR w) → Passes (.sld w) s cx → cx.clean (.sld w) →
    (∀ k ∈ cx.arms vec, s.rank10 cx [] (aligned (cx.scrAccs w vec k) (accBytes w)) false = none) →
    exec (.sld w) s = .next (cx.ends (.sld w) (fun cx k s => s.addAsync (cx.loadRec w vec k ((cx.scrAccs w vec k).map (fun x =>
      let rs := cx.dstRegs (vecRegs w) x.lane
      let b := x.n / rs.length
      { lane := x.lane, regs := rs, n := x.n, data := BitVec.ofNat 512 (s.scrRead cx.c.team x.va x.n), done := true, poison := s.scrBad cx.c.team x.va x.n,
        clean := ((List.range rs.length).filter (fun j => (List.range b).all (fun i => !s.scrBad cx.c.team (x.va + (b * j + i)) 1))).map (fun j => rs.getD j 0) })))) (cx.begun (.sld w) s)))
  ∧ (∀ (w : Word) (s s0 : State) (cx : Cx) (vec : Bool), vec = isVector (Instr.sst w).form (headR w) →
    Begins (.sst w) (Rules.releaseOf w) (∀ k ∈ cx.arms vec, s.rank10 cx [] (aligned (cx.scrAccs w vec k) (accBytes w)) false = none) s cx s0 →
    (s.tenant cx.tenant).debugCfg.getLsbD 1 = false →
    exec (.sst w) s = .next (cx.ends (.sst w) (fun cx k s =>
      let l := cx.scrAccs w vec k
      (s.armedAll cx.c.team l).foldl (fun s g => s.evalBobj cx.c.team (16 * g))
        (l.foldl (fun s x => s.scrWrite cx.c.team x.va x.n (cx.data w vec k x.lane)) s)) s0))

/-- R285: L1.INV invalidates the clean lines of its range once the group's earlier loads are over; L1.WB completes at once when the core holds no line of its range, and otherwise once the write-backs that it waits for are acknowledged, and changes nothing more. R284, R286: LD.srec, ST.srec and TIER.PREF issue one operation of their class. -/
def Sys2Proof.Rules.CacheAndStreamComplete : Prop :=
  (∀ (w : Word) (s : State) (cx : Cx), Passes (.l1Inv w) s cx → cx.clean (.l1Inv w) → (∀ k ∈ cx.arms false, cx.cacheCheck w k s = none) →
    isVector (Instr.l1Inv w).form cx.h = false → (∀ x ∈ s.asyncs, ¬ (x.load = true ∧ x.tag.team = cx.c.team ∧ x.tag.grp = cx.c.grp)) →
    exec (.l1Inv w) s = .next (cx.ends (.l1Inv w) (fun cx k s => s.invalidate cx.core (s.inRange cx w k)) (cx.begun (.l1Inv w) s)))
  ∧ (∀ (w : Word) (s : State) (cx : Cx), Passes (.l1Wb w) s cx → cx.clean (.l1Wb w) → (∀ k ∈ cx.arms false, cx.cacheCheck w k s = none) →
    isVector (Instr.l1Wb w).form cx.h = false → (∀ k ∈ cx.arms false, ∀ l ∈ (s.core cx.core).lines, (cx.opened s).inRange cx w k l.addr = false) →
    exec (.l1Wb w) s = .next (cx.ends (.l1Wb w) (fun _ _ s => s) (cx.begun (.l1Wb w) s)))
  ∧ (∀ (w : Word) (s : State) (cx : Cx), WellFormed (.l1Wb w) = true → gate (.l1Wb w) s = .go cx → isVector (Instr.l1Wb w).form cx.h = false →
    (cx.g.arm cx.c.arm).wait.kind = .acks → (cx.g.arm cx.c.arm).wait.exec = 0 →
    exec (.l1Wb w) s = .next (cx.advance (cx.rebegun (.l1Wb w) s)))
  ∧ (∀ (i : Word → Instr) (load : Bool), (i, load) ∈ [((.ldSrec : Word → Instr), true), (.stSrec, false)] → ∀ (w : Word) (s : State) (cx : Cx),
    Passes (i w) s cx → cx.clean (i w) → isVector (i w).form cx.h = false → cx.opHeld 2 s = false →
    (∀ k ∈ cx.arms false, s.rank10 cx [(⟨0, (cx.srcU k w.a .u64).toNat, 32⟩, 32)] ((⟨0, (cx.srcU k w.b .u32).toNat, 0⟩, 4) :: cx.bobjAcc k) false = none) →
    exec (i w) s = .next (cx.ends (i w) (fun cx k s =>
      cx.issueOp k 2 (.stream load (cx.srcU k w.a .u64).toNat (cx.srcU k w.b .u32).toNat) (cx.bobjC k) 0 s) (cx.begun (i w) s)))
  ∧ (∀ (w : Word) (s : State) (cx : Cx), Passes (.tierPref w) s cx → cx.clean (.tierPref w) → isVector (Instr.tierPref w).form cx.h = false → cx.opHeld 5 s = false →
    (∀ k ∈ cx.arms false, (cx.srcU k w.a .u64).toNat % 65536 = 0 ∧ (cx.srcU k w.b .u32).toNat ≠ 0 ∧ (cx.srcU k w.b .u32).toNat % 65536 = 0
      ∧ s.rank10 cx [(⟨0, (cx.srcU k w.a .u64).toNat, 1⟩, 1)] (cx.bobjAcc k) false = none) →
    exec (.tierPref w) s = .next (cx.ends (.tierPref w) (fun cx k s =>
      cx.issueOp k 5 (.tier (cx.srcU k w.a .u64).toNat (cx.srcU k w.b .u32).toNat) (cx.bobjC k) (cx.srcU k w.b .u32).toNat s) (cx.begun (.tierPref w) s)))

/-- R260, R261: BLK.ENC without outliers stores its encoded blocks; BLK.DEC requests its bytes and waits, then writes its elements in the lanes of Active(); either with no lane in Active() only advances the PC. -/
def Sys2Proof.Rules.BlocksComplete : Prop :=
  (∀ (w : Word) (s : State) (cx : Cx), Passes (.blkEnc w) s cx → cx.act = [] →
    exec (.blkEnc w) s = .next (cx.ends (.blkEnc w) (fun _ _ s => s) (cx.begun (.blkEnc w) s)))
  ∧ (∀ (w : Word) (s : State) (cx : Cx), Passes (.blkEnc w) s cx → cx.pure → cx.act ≠ [] →
    let f := s.fmtSlot cx w.slot
    s.ownMarked cx [cx.blkAcc f w.a] = false → fmtBad f true = none → s.rank10 cx [(cx.blkAcc f w.a, 2)] [] true = none →
    s.rank11 cx [cx.blkAcc f w.a] (needW cx.priv) = none → (∀ b ∈ cx.encBlocks w f, b.2 = []) →
    exec (.blkEnc w) s = .next (cx.ends (.blkEnc w) (fun cx _ s =>
      let l := cx.encBlocks w f
      cx.storeMany ((List.range l.length).map (fun b => ((cx.blkAcc f w.a).va + b * blockBytes f.ecode, blockBytes f.ecode, (l.getD b (0, [])).1))) w.chint.toNat false
        (s.fills cx.core cx.tenant [cx.blkAcc f w.a])) (cx.begun (.blkEnc w) s)))
  ∧ (∀ (w : Word) (s : State) (cx : Cx), Passes (.blkDec w) s cx → cx.act = [] →
    exec (.blkDec w) s = .next (cx.completes (.blkDec w) (fun _ _ s => s) (cx.begun (.blkDec w) s)))
  ∧ (∀ (w : Word) (s : State) (cx : Cx), Passes (.blkDec w) s cx → cx.pure → cx.act ≠ [] →
    let f := s.fmtSlot cx w.slot
    let acc := cx.blkAcc f w.a
    s.ownMarked cx [acc] = false → fmtBad f true = none → s.rank10 cx [(acc, 2)] [] true = none → s.rank11 cx [acc] (needR cx.priv) = none →
    exec (.blkDec w) s = .next (
      let s := cx.begun (.blkDec w) s
      let parts := (wordsOf (acc.n + 1) acc.va acc.n).map (fun p => (cx.refresh s).part s 0 [] p.1 p.2)
      let u := s.fills cx.core cx.tenant [acc]
      cx.stay { kind := .slice, asy := [u.nextId], rel := true }
        (u.startLoad { id := 0, core := cx.core, tag := cx.tag, dest := .none, ty := w.ty, parts := parts, blk := some f.ecode } w.chint.toNat false)))
  ∧ (∀ (w : Word) (s : State) (cx : Cx) (k : Nat) (x : Async), Resumes (.blkDec w) s cx k → cx.act ≠ [] → s.ownMarked cx [cx.blkAcc (s.fmtSlot cx w.slot) w.a] = false →
    (cx.g.arm cx.c.arm).wait.kind = .slice → s.asyncs.find? (fun x => (cx.g.arm cx.c.arm).wait.asy.contains x.id) = some x →
    exec (.blkDec w) s = .next (cx.completes (.blkDec w) (fun cx _ s =>
      let ks := (List.range (32 * nBlocks cx.W)).filter (fun k => cx.act.contains (elemAt cx.W k).2)
      let put (g : Group) (k : Nat) : Group :=
        let L := (elemAt cx.W k).2
        let r := cx.decReg w k
        let v := blkValue (x.blk.getD 5) x.parts w.ty k
        let g := g.vwrite w.ty r L v.1
        if v.2 then (if w.ty.is64 then (g.vpoison r L).vpoison (r + 1) L else g.vpoison r L) else g
      let s := if cx.wb then s.updGroup cx.c.team cx.c.grp (fun g => ks.foldl put g) else s
      { s with asyncs := s.asyncs.filter (fun y => y.id != x.id) }) (cx.begun (.blkDec w) s)))

/-- R260, R261, R284 to R286: the cache, stream and block instructions complete. Where it rests on the model's own reading or choice, that is log 37, 112, 135. -/
def Obligations.CacheInstructionsComplete : Prop := Rules.CacheAndStreamComplete ∧ Rules.BlocksComplete

/-! ### Atomics -/

/-- R99, R287 to R290: an atomic whose accesses meet no condition, and whose release is over, completes at issue with one operation sent to the home slice of each access, lane by lane, behind the core's own dirty bytes of the line. -/
def Sys2Proof.Rules.atomic (w : Word) (vec : Bool) (n dn : Nat) (t : Ty) (op : Cx → Nat → Nat → Nat → SliceOp) : Cx → Nat → State → State := fun cx k s =>
  let l := cx.atomAccs w vec k n
  let s := s.fills cx.core cx.tenant l
  s.sendOps { id := 0, core := cx.core, tag := cx.tag, dest := cx.asyncDest vec k, ty := t, parts := [],
              acq := if w.fspec.toNat / 64 = 1 ∨ w.fspec.toNat / 64 = 3 then some w.scope.toNat else none }
    (l.map (fun x =>
      let pa := s.phys cx.core cx.tenant x.va
      ({ lane := x.lane, regs := cx.dstRegs dn x.lane, pa := pa, n := min n 8 }, op cx k x.lane pa, n)))

/-- The scope of the release of an atomic with ORDER rel or acq_rel (R93). -/
def Sys2Proof.Rules.atomicRelease (w : Word) : Option Nat := if w.fspec.toNat / 64 = 2 ∨ w.fspec.toNat / 64 = 3 then some w.scope.toNat else none

/-- The rows of R288 to R290: instruction, access bytes, destination registers, type and the operation at the slice. -/
def Sys2Proof.Rules.atomicRows (w : Word) (vec : Bool) : List (Instr × Nat × Nat × Ty × (Cx → Nat → Nat → Nat → SliceOp)) :=
  [(.atom w, w.ty.bytes, w.ty.regs, w.ty, fun cx k L pa =>
      .atom pa w.ty (w.fspec.toNat % 16) (cx.srcAny vec k w.c w.ty L) (if w.fspec.toNat % 16 = 8 then cx.srcAny vec k w.dst w.ty L else 0)),
   (.atomBinc w, w.ty.bytes, w.ty.regs, w.ty, fun cx k L pa => .binc pa w.ty (cx.srcAny vec k w.c w.ty L)),
   (.xaccAdd w, 128, 0, w.ty, fun cx k L pa => .xadd pa w.ty (cx.srcAny vec k w.c w.ty L)),
   (.xaccFold w, 128, w.ty.regs, w.ty, fun _ _ _ pa => .xfold pa w.ty w.round.toNat),
   (.xaccClr w, 128, 0, .u32, fun _ _ _ pa => .xclr pa)]

/-- R287 to R290: ATOM, ATOM.BINC, XACC.ADD, XACC.FOLD and XACC.CLR complete. -/
def Obligations.AtomicsComplete : Prop :=
  ∀ (w : Word) (s s0 : State) (cx : Cx) (vec : Bool), ∀ r ∈ Rules.atomicRows w vec, vec = isVector r.1.form (headR w) → cx.pure →
    Begins r.1 (Rules.atomicRelease w)
      (∀ k ∈ cx.arms vec, s.rank10 cx (aligned (cx.atomAccs w vec k r.2.1) r.2.1) [] true = none ∧ s.rank11 cx (cx.atomAccs w vec k r.2.1) (needRW cx.priv) = none) s cx s0 →
    exec r.1 s = .next (cx.ends r.1 (Rules.atomic w vec r.2.1 r.2.2.1 r.2.2.2.1 r.2.2.2.2) s0)

/-- R288: what an atomic leaves in memory, for the old value and its operands read in its type. -/
def Obligations.AtomicFunctions : Prop :=
  ∀ (t : Ty) (old v c : W64), t.isInt = true →
    let o := un t old
    un t (atomNew t 0 old v c) = (o + un t v) % 2 ^ t.bits
    ∧ (un t (atomNew t 1 old v c) + un t v) % 2 ^ t.bits = o
    ∧ t.toInt (atomNew t 2 old v c) = min (t.toInt old) (t.toInt v)
    ∧ t.toInt (atomNew t 3 old v c) = max (t.toInt old) (t.toInt v)
    ∧ un t (atomNew t 4 old v c) = o &&& un t v ∧ un t (atomNew t 5 old v c) = o ||| un t v ∧ un t (atomNew t 6 old v c) = o ^^^ un t v
    ∧ un t (atomNew t 7 old v c) = un t v
    ∧ un t (atomNew t 8 old v c) = (if o = un t c then un t v else o)
    ∧ un t (atomNew t 9 old v c) = (if un t v ≤ o then 0 else o + 1)
    ∧ un t (atomNew t 10 old v c) = (if o = 0 ∨ un t v < o then un t v else o - 1)

/-! ### Synchronisation -/

/-- The instructions that make a release and then act at once: each with the scope of its release, what its operands and its group's earlier accesses must meet, and its effect for an arm (R98, R110, R111, R115, R292 to R298). -/
def Sys2Proof.Rules.releasing : List ((Word → Instr) × (Word → Option Nat) × (Word → Cx → State → Prop) × (Word → Cx → Nat → State → Prop) × (Word → Cx → Nat → State → State)) :=
  let always : Word → Cx → State → Prop := fun _ _ _ => True
  let off (cx : Cx) (k : Nat) (w : Word) : Nat := (cx.srcU k w.a .u32).toNat % 2 ^ 32
  [(.fence, fun w => if 2 ≤ w.fspec.toNat / 64 then some w.scope.toNat else none,
    fun w cx s => w.fspec.toNat / 64 % 2 = 1 → ∀ x ∈ s.asyncs, x.tag.team = cx.c.team → x.tag.grp = cx.c.grp → cx.g.split = true ∧ x.tag.arm ≠ armSel cx.c,
    fun _ _ _ _ => True,
    fun w cx _ s => if w.fspec.toNat / 64 % 2 = 1 then cx.acquire w.scope.toNat s else s),
   (.barArrive, fun _ => some 1, always,
    fun w cx k _ => (cx.srcU k w.a .u32).toNat ≤ 15 ∧ (w.b = .z ∨ (1 ≤ (cx.srcU k w.b .u32).toNat ∧ (cx.srcU k w.b .u32).toNat ≤ 64)),
    fun w cx k s => s.arriveBar cx.c.team cx.c.grp (cx.srcU k w.a .u32).toNat (if w.b = .z then none else some (cx.srcU k w.b .u32).toNat)),
   (.bobjInit, fun _ => some 1, always,
    fun w cx k s => s.rank10 cx [] [(⟨0, off cx k w, 16⟩, 16)] false = none,
    fun w cx k s =>
      let b := (cx.srcU k w.c .i32).toNat % 2 ^ 32
      let s := s.scrWrite cx.c.team (off cx k w) 16 ((cx.srcU k w.b .u32).toNat % 65536 * 2 ^ 16 + b * 2 ^ 64 + b * 2 ^ 96)
      (s.updTeam cx.c.team (fun t => { t with armed := if t.armed.contains (off cx k w / 16) then t.armed else (off cx k w / 16) :: t.armed })).evalBobj cx.c.team (off cx k w)),
   (.bobjArrive, fun w => some (max 1 w.scope.toNat), always,
    fun w cx k s => s.isArmed cx.c.team (off cx k w) = true ∧ s.rank10 cx [] [(⟨0, off cx k w, 16⟩, 16)] false = none,
    fun w cx k s =>
      if s.scrBad cx.c.team (off cx k w) 16 then
        let f := (s.imprecise cx.tag 0x16 0 0 0 0).free
        cx.writeU k .u32 f.2 f.1
      else cx.writeU k .u32 (BitVec.ofNat 64 (fld (s.scrRead cx.c.team (off cx k w) 16) 47 32)) (s.arriveBobj cx.c.team (off cx k w) ((cx.srcU k w.b .u32).toNat % 65536))),
   (.tlSignal, fun w => some w.scope.toNat, always,
    fun w cx k s => s.rank10 cx [(⟨0, (cx.srcU k w.a .u64).toNat, 8⟩, 8)] [] false = none ∧ s.rank11 cx [⟨0, (cx.srcU k w.a .u64).toNat, 8⟩] (needRW cx.priv) = none,
    fun w cx k s =>
      let s := s.fills cx.core cx.tenant [⟨0, (cx.srcU k w.a .u64).toNat, 8⟩]
      let pa := s.phys cx.core cx.tenant (cx.srcU k w.a .u64).toNat
      (cx.sendOp pa (.tlSignal pa (cx.srcU k w.b .u64)) s).1)]

/-- R95, R98, R110, R111, R115, R292 to R298, R457: FENCE, BAR.ARRIVE, BOBJ.INIT, BOBJ.ARRIVE and TL.SIGNAL act at once when their release has nothing to wait for; else they wait at their slot, and act when what it waited for is over. FENCE with an acquire is held while an earlier load or atomic of its context is on its way. BOBJ.ARRIVE answers the phase before its arrival; at a poisoned object it leaves the object, raises POISON imprecisely and answers a value that the rules do not give. -/
def Sys2Proof.Rules.ReleasingComplete : Prop :=
  ∀ r ∈ Rules.releasing, ∀ (w : Word) (s : State) (cx : Cx), isVector (r.1 w).form cx.h = false → r.2.2.1 w cx s →
    (∀ s0, Begins (r.1 w) (r.2.1 w) (∀ k ∈ cx.arms false, r.2.2.2.1 w cx k s) s cx s0 → exec (r.1 w) s = .next (cx.ends (r.1 w) (r.2.2.2.2 w) s0))
    ∧ (Passes (r.1 w) s cx → cx.clean (r.1 w) → (∀ k ∈ cx.arms false, r.2.2.2.1 w cx k s) → ¬ cx.released (r.2.1 w) s →
      exec (r.1 w) s = .next (cx.stay (cx.release (r.2.1 w) (cx.opened s)).2 (cx.release (r.2.1 w) (cx.opened s)).1))

/-- R107, R298, R299: WAITCNT completes once the class counts no more than its bound, and is held before; a FENCE with an acquire is held by an earlier load or atomic of its context. -/
def Sys2Proof.Rules.FencesComplete : Prop :=
  (∀ (w : Word) (s : State) (cx : Cx), Passes (.waitcnt w) s cx →
    (cx.g.ecnt.getD w.round.toNat 0 ≤ w.fspec.toNat % 64 → exec (.waitcnt w) s = .next (cx.advance (cx.begun (.waitcnt w) s)))
    ∧ (w.fspec.toNat % 64 < cx.g.ecnt.getD w.round.toNat 0 → exec (.waitcnt w) s = .next s))
  ∧ (∀ (w : Word) (s : State) (cx : Cx) (x : Async), Passes (.fence w) s cx → w.fspec.toNat / 64 % 2 = 1 → x ∈ s.asyncs → x.tag.team = cx.c.team → x.tag.grp = cx.c.grp →
    (cx.g.split = false ∨ x.tag.arm = armSel cx.c) → exec (.fence w) s = .next s)

/-- The cycle at which a wait with a timeout operand ends: the cycles left of one that a pre-emption stopped, else the operand's, and none with z (R291, R369). -/
def Sys2Proof.Rules.deadline (cx : Cx) (k : Nat) (o : Opd) (s : State) : Option Nat :=
  match (cx.g.arm cx.c.arm).left with
  | some n => some (s.clock + n)
  | none => if o = .z then none else some (s.clock + (cx.srcU k o .u32).toNat % 2 ^ 32)

/-- The end of a wait at a barrier: its status in the destination, and a TEAM acquire with status 1 (R294). -/
def Sys2Proof.Rules.leaveBar (v : Nat) : Cx → Nat → State → State := fun cx k s =>
  let s := cx.writeU k .u32 (BitVec.ofNat 64 v) (cx.done s)
  if v = 1 then cx.acquire 1 s else s

/-- A group has nothing to wait for at a barrier: it has never arrived there, or the phase of its last arrival is over (R294). -/
def Sys2Proof.Rules.barOver (s : State) (team grp b : Nat) : Prop :=
  ∃ t x, s.team team = some t ∧ t.bars[b]? = some x ∧ (x.ever.getLsbD grp = false ∨ x.phase ≠ x.lastph.getLsbD grp)

/-- A group's last phase of a barrier goes on (R294). -/
def Sys2Proof.Rules.barOn (s : State) (team grp b : Nat) : Prop :=
  ∃ t x, s.team team = some t ∧ t.bars[b]? = some x ∧ x.ever.getLsbD grp = true ∧ x.phase = x.lastph.getLsbD grp

/-- R293, R294, R369, R438: BAR.WAIT of a group whose last phase of the barrier is over, or that has never arrived, completes with status 1 and a TEAM acquire, for each arm it executes for; else it waits at its slot, with its deadline. BAR.SYNC, its release over, arrives, and then completes or waits in the same way; with the release not over it waits for that first. A wait that has ended completes with its status, and an acquire when that is 1. -/
def Sys2Proof.Rules.BarriersComplete : Prop :=
  (∀ (w : Word) (s : State) (cx : Cx), Passes (.barWait w) s cx → cx.clean (.barWait w) → isVector (Instr.barWait w).form cx.h = false →
    (∀ k ∈ cx.arms false, (cx.srcU k w.a .u32).toNat ≤ 15) →
    ((∀ k ∈ cx.arms false, Rules.barOver s cx.c.team cx.c.grp (cx.srcU k w.a .u32).toNat) → (w.dst ≠ w.a ∨ (cx.arms false).length = 1) →
      exec (.barWait w) s = .next (cx.ends (.barWait w) (Rules.leaveBar 1) (cx.begun (.barWait w) s)))
    ∧ (∀ k l, cx.arms false = k :: l → Rules.barOn s cx.c.team cx.c.grp (cx.srcU k w.a .u32).toNat →
      exec (.barWait w) s = .next (cx.keeps (.barWait w) (cx.stay { kind := .bar (cx.srcU k w.a .u32).toNat, deadline := Rules.deadline cx k w.c s, rel := true } (cx.begun (.barWait w) s)))))
  ∧ (∀ (w : Word) (s : State) (cx : Cx) (k : Nat) (l : List Nat), isVector (Instr.barSync w).form cx.h = false → cx.arms false = k :: l →
    let ok : Prop := ∀ k ∈ cx.arms false, (cx.srcU k w.a .u32).toNat ≤ 15 ∧ (w.b = .z ∨ (1 ≤ (cx.srcU k w.b .u32).toNat ∧ (cx.srcU k w.b .u32).toNat ≤ 64))
    let b := (cx.srcU k w.a .u32).toNat
    (∀ s0, Begins (.barSync w) (some 1) ok s cx s0 →
      let u := s0.arriveBar cx.c.team cx.c.grp b (if w.b = .z then none else some (cx.srcU k w.b .u32).toNat)
      (Rules.barOver u cx.c.team cx.c.grp b → l = [] → exec (.barSync w) s = .next (cx.advance (Rules.leaveBar 1 cx k u)))
      ∧ (Rules.barOn u cx.c.team cx.c.grp b →
        exec (.barSync w) s = .next (cx.keeps (.barSync w) (cx.stay { kind := .bar b, deadline := Rules.deadline cx k w.c s, sync := true, rel := true } u))))
    ∧ (Passes (.barSync w) s cx → cx.clean (.barSync w) → ok → ¬ cx.released (some 1) s → exec (.barSync w) s = .next (cx.stay (cx.release (some 1) (cx.opened s)).2 (cx.release (some 1) (cx.opened s)).1)))
  ∧ (∀ i ∈ [((.barWait : Word → Instr)), .barSync], ∀ (w : Word) (s : State) (cx : Cx) (k b : Nat) (v : W32), Resumes (i w) s cx k → isVector (i w).form cx.h = false →
    (cx.g.arm cx.c.arm).wait.kind = .bar b → (cx.g.arm cx.c.arm).wait.status = some v →
    exec (i w) s = .next (cx.finishes (Rules.leaveBar v.toNat) k (cx.begun (i w) s)))

/-- R294: an arrival that does not complete the phase raises ARRIVED by one, records the group's phase, and sets the expected count when it is the first of its phase; one that completes it flips the phase and clears ARRIVED. -/
def Sys2Proof.Rules.BarrierArrivals : Prop :=
  ∀ (s : State) (team grp b : Nat) (n : Nat) (t : Team) (x : Bar), s.team team = some t → t.bars[b]? = some x → grp < 64 → 0 < n →
    let e := if x.arrived = 0 then n else x.expect
    let every := if x.arrived = 0 then false else x.everyone
    ∃ t' x', (s.arriveBar team grp b (some n)).team team = some t' ∧ t'.bars[b]? = some x' ∧ x'.lastph.getLsbD grp = x.phase ∧ x'.ever.getLsbD grp = true
      ∧ (every = false → x.arrived + 1 < e → x'.arrived = x.arrived + 1 ∧ x'.phase = x.phase ∧ x'.expect = e)
      ∧ (every = false → e ≤ x.arrived + 1 → x'.arrived = 0 ∧ x'.phase = !x.phase)

/-- The end of BOBJ.WAIT: its status in the destination, and an acquire of its scope unless it timed out (R297). -/
def Sys2Proof.Rules.leaveBobj (w : Word) (v : Nat) : Cx → Nat → State → State := fun cx k s =>
  let s := cx.writeU k .u32 (BitVec.ofNat 64 v) (cx.done s)
  if v = 2 then s else cx.acquire (max 1 w.scope.toNat) s

/-- R112, R297, R369, R457: BOBJ.WAIT for a phase that is not the object's completes with 0 and an acquire, for each arm it executes for; for the object's own phase it waits at its slot, with its deadline; at a poisoned object it completes with POISON raised imprecisely and a value that the rules do not give; and one whose wait has ended completes with its status. -/
def Sys2Proof.Rules.BarrierObjectsComplete : Prop :=
  (∀ (w : Word) (s : State) (cx : Cx), Passes (.bobjWait w) s cx → cx.clean (.bobjWait w) → isVector (Instr.bobjWait w).form cx.h = false →
    let off (k : Nat) : Nat := (cx.srcU k w.a .u32).toNat % 2 ^ 32
    let phase (k : Nat) : Nat := (cx.srcU k w.b .u32).toNat % 65536
    (∀ k ∈ cx.arms false, s.isArmed cx.c.team (off k) = true ∧ s.rank10 cx [] [(⟨0, off k, 16⟩, 16)] false = none) →
    ((∀ k ∈ cx.arms false, s.scrBad cx.c.team (off k) 16 = false ∧ fld (s.scrRead cx.c.team (off k) 16) 47 32 ≠ phase k) → (w.dst ≠ w.a ∧ w.dst ≠ w.b ∨ (cx.arms false).length = 1) →
      exec (.bobjWait w) s = .next (cx.ends (.bobjWait w) (Rules.leaveBobj w 0) (cx.begun (.bobjWait w) s)))
    ∧ (∀ k l, cx.arms false = k :: l → s.scrBad cx.c.team (off k) 16 = false → fld (s.scrRead cx.c.team (off k) 16) 47 32 = phase k →
      exec (.bobjWait w) s = .next (cx.keeps (.bobjWait w) (cx.stay { kind := .bobj (off k) (phase k), deadline := Rules.deadline cx k w.c s, rel := true } (cx.begun (.bobjWait w) s))))
    ∧ (∀ k, cx.arms false = [k] → s.scrBad cx.c.team (off k) 16 = true →
      exec (.bobjWait w) s = .next (cx.ends (.bobjWait w) (fun cx k s =>
        let f := (s.imprecise cx.tag 0x16 0 0 0 0).free
        cx.writeU k .u32 f.2 f.1) (cx.begun (.bobjWait w) s))))
  ∧ (∀ (w : Word) (s : State) (cx : Cx) (k : Nat) (v : W32), Resumes (.bobjWait w) s cx k → isVector (Instr.bobjWait w).form cx.h = false →
    (∃ o p, (cx.g.arm cx.c.arm).wait.kind = .bobj o p) → (cx.g.arm cx.c.arm).wait.status = some v →
    exec (.bobjWait w) s = .next (cx.finishes (Rules.leaveBobj w v.toNat) k (cx.begun (.bobjWait w) s)))

/-- R110, R293 to R297, R438: the instructions on barriers and barrier objects complete. Where it rests on the model's own reading or choice, that is log 36. -/
def Obligations.BarrierInstructionsComplete : Prop := Rules.BarriersComplete ∧ Rules.BarrierObjectsComplete

/-- R111: Evaluate of an armed object that is complete moves its phase on by one modulo 2^16, clears ARRIVED and FAULT and loads PENDING again from BYTES; of one that is not complete, it leaves the object. -/
def Sys2Proof.Rules.BarrierObjectEvaluates : Prop :=
  ∀ (s : State) (team off : Nat) (t : Team), s.team team = some t → t.place ≠ .unplaced → s.isArmed team off = true → s.scrBad team off 16 = false →
    let x := s.scrRead team off 16
    (fld x 31 16 ≤ fld x 15 0 → sgn 32 (fld x 127 96) ≤ 0 →
      let y := (s.evalBobj team off).scrRead team off 16
      fld y 15 0 = 0 ∧ fld y 31 16 = fld x 31 16 ∧ fld y 47 32 = (fld x 47 32 + 1) % 65536 ∧ y.testBit 48 = false ∧ fld y 95 64 = fld x 95 64 ∧ fld y 127 96 = fld x 95 64)
    ∧ (¬ (fld x 31 16 ≤ fld x 15 0 ∧ sgn 32 (fld x 127 96) ≤ 0) → (s.evalBobj team off).scrRead team off 16 = x)

/-- R111, R294: what an arrival does to a barrier and Evaluate to a barrier object. -/
def Obligations.BarrierArithmetic : Prop := Rules.BarrierArrivals ∧ Rules.BarrierObjectEvaluates

/-- R115, R298, R369: TL.WAIT sends its threshold to the timeline's slice and waits at its slot, with its deadline; when its wait has ended it completes with the status, and an acquire for status 1. -/
def Sys2Proof.Rules.TimelinesComplete : Prop :=
  (∀ (w : Word) (s : State) (cx : Cx) (k : Nat) (l : List Nat), Passes (.tlWait w) s cx → cx.clean (.tlWait w) → isVector (Instr.tlWait w).form cx.h = false → cx.arms false = k :: l →
    (∀ k ∈ cx.arms false, s.rank10 cx [(⟨0, (cx.srcU k w.a .u64).toNat, 8⟩, 8)] [] false = none ∧ s.rank11 cx [⟨0, (cx.srcU k w.a .u64).toNat, 8⟩] (needR cx.priv) = none) →
    let s0 := (cx.begun (.tlWait w) s).fills cx.core cx.tenant [⟨0, (cx.srcU k w.a .u64).toNat, 8⟩]
    let pa := s0.phys cx.core cx.tenant (cx.srcU k w.a .u64).toNat
    let p := cx.sendOp pa (.tlWait pa (cx.srcU k w.b .u64) cx.c) s0
    exec (.tlWait w) s = .next (cx.keeps (.tlWait w) (cx.stay { kind := .timeline, deadline := Rules.deadline cx k w.c s, ids := [p.2], rel := true } p.1)))
  ∧ (∀ (w : Word) (s : State) (cx : Cx) (k : Nat) (v : W32), Resumes (.tlWait w) s cx k → isVector (Instr.tlWait w).form cx.h = false →
    (cx.g.arm cx.c.arm).wait.kind = .timeline → (cx.g.arm cx.c.arm).wait.status = some v →
    exec (.tlWait w) s = .next (cx.finishes (fun cx k s =>
      let s := cx.writeU k .u32 (BitVec.ofNat 64 v.toNat) (cx.done s)
      if v = 1 then cx.acquire w.scope.toNat s else s) k (cx.begun (.tlWait w) s)))

/-- R99, R115, R476: an instruction that acts at a slice leaves one request there behind its core's own dirty bytes of the line, and nothing more of memory or registers changes. A timeline's slice raises the counter to the value signalled when that is greater; a wait whose threshold the counter has reached ends with status 1, and any other is noted. -/
def Sys2Proof.Rules.TimelinesPerform : Prop :=
  (∀ (cx : Cx) (pa : Nat) (o : SliceOp) (s : State), let t := (cx.sendOp pa o s).1
    (∃ r, t.reqs = (s.writeBack cx.core (pa / 128)).reqs ++ [r] ∧ r.kind = .op o ∧ r.line = pa / 128 ∧ r.core = cx.core ∧ r.tenant = cx.tenant ∧ r.tag = cx.tag)
    ∧ t.mem = s.mem ∧ t.groups = s.groups ∧ t.teams = s.teams)
  ∧ (∀ (s : State) (pa v : Nat), s.poisonAt pa = false → (∀ t, (s.tenant t).raceEpoch ≠ some pa) →
    s.signalTl pa v = if s.peek pa 8 < v then s.poke pa 8 v else s)
  ∧ (∀ (s : State) (r : Req) (pa : Nat) (t : W64) (c : CtxId) (a : Arm), s.armOf c = some a → a.wait.kind = .timeline → a.wait.status = none → a.wait.ids = [r.id] → s.poisonAt pa = false →
    (t.toNat ≤ s.peek pa 8 → s.tlOp r (.tlWait pa t c) = s.wake c 1)
    ∧ (s.peek pa 8 < t.toNat → s.tlOp r (.tlWait pa t c) = { s with tlw := s.tlw ++ [{ pa := pa, t := t, c := c }] }))

/-- The end of FUT.WAIT: the handle with its STATE as it stands, and a DEVICE acquire (R300). -/
def Sys2Proof.Rules.leaveFut (w : Word) : Cx → Nat → State → State := fun cx k s =>
  let n := (cx.handle k w.a).toNat % 2 ^ 24
  cx.acquire 2 (cx.writeU k .u32 (BitVec.ofNat 64 ((s.tenant cx.tenant).stateOf n * 2 ^ 30 + n)) (cx.done s))

/-- R108, R300: FUT.TEST answers the handle with its STATE, and acquires when it is complete; FUT.WAIT does so once the STATE is no longer pending, and waits at its slot until then; FUT.CANCEL of an operation that has not started settles it with STATE 2, and of any other changes nothing. -/
def Sys2Proof.Rules.FuturesComplete : Prop :=
  (∀ (w : Word) (s : State) (cx : Cx), Passes (.futTest w) s cx → cx.clean (.futTest w) → isVector (Instr.futTest w).form cx.h = false →
    (∀ k ∈ cx.arms false, (s.tenant cx.tenant).handleOk (cx.handle k w.a) = true) →
    exec (.futTest w) s = .next (cx.ends (.futTest w) (fun cx k s =>
      let n := (cx.handle k w.a).toNat % 2 ^ 24
      let st := (s.tenant cx.tenant).stateOf n
      let u := cx.writeU k .u32 (BitVec.ofNat 64 (st * 2 ^ 30 + n)) s
      if st = 1 then cx.acquire 2 u else u) (cx.begun (.futTest w) s)))
  ∧ (∀ (w : Word) (s : State) (cx : Cx), Passes (.futWait w) s cx → cx.clean (.futWait w) → isVector (Instr.futWait w).form cx.h = false →
    (∀ k ∈ cx.arms false, (s.tenant cx.tenant).handleOk (cx.handle k w.a) = true) →
    let n (k : Nat) : Nat := (cx.handle k w.a).toNat % 2 ^ 24
    ((∀ k ∈ cx.arms false, (s.tenant cx.tenant).stateOf (n k) ≠ 0) → (w.dst ≠ w.a ∨ (cx.arms false).length = 1) →
      exec (.futWait w) s = .next (cx.ends (.futWait w) (Rules.leaveFut w) (cx.begun (.futWait w) s)))
    ∧ (∀ k l, cx.arms false = k :: l → (s.tenant cx.tenant).stateOf (n k) = 0 →
      exec (.futWait w) s = .next (cx.keeps (.futWait w) (cx.stay { kind := .future (n k), rel := true } (cx.begun (.futWait w) s)))))
  ∧ (∀ (w : Word) (s : State) (cx : Cx) (k f : Nat), Resumes (.futWait w) s cx k → isVector (Instr.futWait w).form cx.h = false → (cx.g.arm cx.c.arm).wait.kind = .future f →
    (s.tenant cx.tenant).stateOf ((cx.handle k w.a).toNat % 2 ^ 24) ≠ 0 →
    exec (.futWait w) s = .next (cx.finishes (Rules.leaveFut w) k (cx.begun (.futWait w) s)))
  ∧ (∀ (w : Word) (s : State) (cx : Cx), Passes (.futCancel w) s cx → cx.clean (.futCancel w) → isVector (Instr.futCancel w).form cx.h = false →
    (∀ k ∈ cx.arms false, (s.tenant cx.tenant).handleOk (cx.handle k w.a) = true) →
    exec (.futCancel w) s = .next (cx.ends (.futCancel w) (fun cx k s =>
      let n := (cx.handle k w.a).toNat % 2 ^ 24
      match s.ops.find? (fun o => o.tag.tenant == cx.tenant && o.ticket == some n && !o.started && !o.ready && !o.cancelled) with
      | some o => (s.updOp o.id (fun o => { o with cancelled := true })).settle cx.tenant n 2
      | none => s) (cx.begun (.futCancel w) s)))

/-- R291: a timed wait whose time has come ends with status 2 for BOBJ.WAIT and 0 for every other, while its team is on its core. -/
def Sys2Proof.Rules.WaitsTimeOut : Prop :=
  ∀ (c : CtxId) (s : State) (a : Arm) (t : Team) (d : Nat), s.armOf c = some a → s.team c.team = some t → s.stopped = false → a.live = true →
    a.wait.status = none → a.wait.deadline = some d → d ≤ s.clock → t.place.here = true →
    exec (.waitTimeout c) s = .next (({ s with tlw := s.tlw.filter (fun w => w.c != c) } : State).wake c
      (match a.wait.kind with | .bobj _ _ => 2 | _ => 0))

/-- R95, R98, R107, R108, R110, R111, R115, R291 to R300: instructions that release and act, counters, timelines and futures complete, and timed waits end. Where it rests on the model's own reading or choice, that is log 36, 41, 63, 134. -/
def Obligations.WaitInstructionsComplete : Prop := Rules.ReleasingComplete ∧ Rules.FencesComplete ∧ Rules.TimelinesComplete ∧ Rules.TimelinesPerform ∧ Rules.FuturesComplete ∧ Rules.WaitsTimeOut

/-! ### Fronts and copies -/

/-- R78, R303 to R305: FRONT.JOIN, FRONT.LEAVE and FRONT.STEP of a group send their operation to the record's slice and wait at their slot for it; when it has been performed they complete. FRONT.LEAVE and FRONT.STEP of an unbound group only advance the PC, and FRONT.STAT of one reads 0; of a bound group it asks the record's slice, for its value to land later. -/
def Sys2Proof.Rules.FrontsComplete : Prop :=
  (∀ (w : Word) (s : State) (cx : Cx) (k : Nat) (x : Async), Resumes (.frontJoin w) s cx k → isVector (Instr.frontJoin w).form cx.h = false →
    cx.answered s = some x → (∀ p ∈ x.parts, p.data ≠ 2) →
    exec (.frontJoin w) s = .next (cx.advance ((cx.begun (.frontJoin w) s).dropAsync x.id)))
  ∧ (∀ (w : Word) (s : State) (cx : Cx) (k : Nat), Passes (.frontJoin w) s cx → cx.clean (.frontJoin w) → isVector (Instr.frontJoin w).form cx.h = false → cx.arms false = [k] →
    cx.joinCheck k s = none → s.rank11 cx [⟨0, (cx.joinOps k).1, 256⟩] (needRW cx.priv) = none →
    exec (.frontJoin w) s = .next (
      let s := (cx.begun (.frontJoin w) s).fills cx.core cx.tenant [⟨0, (cx.joinOps k).1, 256⟩]
      let pa := s.phys cx.core cx.tenant (cx.joinOps k).1
      cx.ask [({ pa := pa, n := 4 }, .frontJoin pa (BitVec.ofNat 64 (cx.joinOps k).1) (cx.joinOps k).2, 0)] s))
  ∧ (∀ (w : Word) (s : State) (cx : Cx) (k : Nat) (x : Async), Resumes (.frontLeave w) s cx k → isVector (Instr.frontLeave w).form cx.h = false →
    cx.answered s = some x →
    exec (.frontLeave w) s = .next (cx.advance ((cx.begun (.frontLeave w) s).dropAsync x.id)))
  ∧ (∀ (w : Word) (s : State) (cx : Cx) (k : Nat), Resumes (.frontStep w) s cx k → isVector (Instr.frontStep w).form cx.h = false →
    (cx.g.arm cx.c.arm).wait.kind = .lull → (cx.g.arm cx.c.arm).wait.status.isSome = true →
    exec (.frontStep w) s = .next (cx.advance (cx.begun (.frontStep w) s)))
  ∧ (∀ (i : Word → Instr), i ∈ [((.frontLeave : Word → Instr)), .frontStep] → ∀ (w : Word) (s : State) (cx : Cx), Passes (i w) s cx →
    isVector (i w).form cx.h = false → s.frontOf cx.g = none →
    exec (i w) s = .next (cx.advance (cx.begun (i w) s)))
  ∧ (∀ (w : Word) (s : State) (cx : Cx) (pa k : Nat), Passes (.frontLeave w) s cx → isVector (Instr.frontLeave w).form cx.h = false → s.frontOf cx.g = some (pa, k) →
    exec (.frontLeave w) s = .next (cx.ask [({ pa := pa, n := 4 }, .frontLeave pa k, 0)] (cx.begun (.frontLeave w) s)))
  ∧ (∀ (w : Word) (s : State) (cx : Cx) (pa k : Nat), Passes (.frontStep w) s cx → isVector (Instr.frontStep w).form cx.h = false → s.frontOf cx.g = some (pa, k) →
    exec (.frontStep w) s = .next (
      let p := cx.sendOp pa (.frontStep pa k cx.c) (cx.begun (.frontStep w) s)
      cx.stay { kind := .lull, ids := [p.2], rel := true } p.1))
  ∧ (∀ (w : Word) (s : State) (cx : Cx) (pa k : Nat), Passes (.frontStat w) s cx → cx.clean (.frontStat w) → isVector (Instr.frontStat w).form cx.h = false → s.frontOf cx.g = some (pa, k) →
    exec (.frontStat w) s = .next (cx.ends (.frontStat w) (fun cx a s =>
      s.sendOps { id := 0, core := cx.core, tag := cx.tag, dest := cx.asyncDest false a, ty := w.ty, parts := [] }
        [({ regs := cx.dstRegs w.ty.regs 0, n := w.ty.bytes, pa := pa }, .frontStat pa k w.fspec.toNat, 0)]) (cx.begun (.frontStat w) s)))
  ∧ (∀ (w : Word) (s : State) (cx : Cx), Passes (.frontStat w) s cx → cx.clean (.frontStat w) → isVector (Instr.frontStat w).form cx.h = false → s.frontOf cx.g = none →
    exec (.frontStat w) s = .next (cx.ends (.frontStat w) (fun cx k s =>
      let parts : List Part := [{ regs := cx.dstRegs w.ty.regs 0, n := w.ty.bytes, done := true }]
      s.addAsync { id := 0, core := cx.core, tag := cx.tag, dest := cx.asyncDest false k, ty := w.ty, parts := parts }) (cx.begun (.frontStat w) s)))

/-- R78, R79, R305: a join at its slice sets its member's bit, its STEP to the smallest step of the members, and binds its group; a step within the slip limit raises its member's STEP by one, and else puts it in lull; what the members in lull may then do, they do, and no other STEP changes. -/
def Sys2Proof.Rules.FrontsPerform : Prop :=
  (∀ (s : State) (pa k tenant team grp : Nat) (va : W64) (e : FrontEnt) (g : Group), s.frontAt pa = some e → s.group team grp = some g → k < 64 →
    ∃ x, (s.frontJoin pa va k tenant team grp).frontAt pa = some x ∧ x.mem = e.mem ||| BitVec.ofNat 64 (2 ^ k) ∧ (x.steps.get k).toNat = (e.minOf e.mem).getD 0 % 2 ^ 16
      ∧ (k, team, grp) ∈ x.who ∧ x.slip = e.slip ∧ ((s.frontJoin pa va k tenant team grp).group team grp).map (fun g => g.front) = some (some (pa, k)))
  ∧ (∀ (s : State) (pa k : Nat) (c : CtxId) (e : FrontEnt), s.frontAt pa = some e → e.mem.getLsbD k = true → (k, c.team, c.grp) ∈ e.who →
    (e.within k = true → (∀ l ∈ e.lull, l.1 ≠ k) → ∃ x, (s.frontStep pa k c).frontAt pa = some x ∧ x.mem = e.mem ∧ x.steps.get k = e.steps.get k + 1
      ∧ ∀ j, j ≠ k → x.steps.get j = e.steps.get j ∨ (∃ l ∈ e.lull, l.1 = j) ∧ x.steps.get j = e.steps.get j + 1)
    ∧ (e.within k = false → s.frontStep pa k c = s.updFront pa (fun e => { e with lull := e.lull ++ [(k, s.clock, c)] })))
  ∧ (∀ (s : State) (pa k : Nat) (e : FrontEnt), s.frontAt pa = some e →
    s.frontValue pa k 0 = e.mem.toNat ∧ s.frontValue pa k 1 = (e.steps.get k).toNat ∧ s.frontValue pa k 2 = (e.minOf e.mem).getD 0 ∧ s.frontValue pa k 3 = e.slip)

/-- R80, R477: once a member has been in lull for FRPAT cycles, FRONT_EJECTION removes the lowest slot with the smallest step, and the interval starts afresh for those that stay in lull. -/
def Sys2Proof.Rules.FrontEjects : Prop :=
  ∀ (record m k : Nat) (s : State) (e : FrontEnt), s.frontAt record = some e → s.stopped = false → (∃ l ∈ e.lull, l.2.1 + e.pat ≤ s.clock) →
    e.minOf e.mem = some m → (lanesOf e.mem).find? (fun k => (e.steps.get k).toNat == m) = some k →
    exec (.frontEjection record) s = .next ((s.updFront record (fun e => { e with lull := e.lull.map (fun l => (l.1, s.clock, l.2.2)) })).frontEject record k)

/-- R78 to R80, R303 to R305, R477: the front instructions complete, their slice performs them, and a front ejects its laggards. Where it rests on the model's own reading or choice, that is log 44, 67. -/
def Obligations.FrontInstructionsComplete : Prop := Rules.FrontsComplete ∧ Rules.FrontsPerform ∧ Rules.FrontEjects

/-- R307, R308: KICK and CPY issue one COPY operation, with nothing copied yet. Where it rests on the model's own reading or choice, that is log 45. -/
def Obligations.CopiesComplete : Prop :=
  (∀ (w : Word) (s : State) (cx : Cx), Passes (.kick w) s cx → cx.clean (.kick w) → isVector (Instr.kick w).form cx.h = false → cx.opHeld 0 s = false →
    (∀ k ∈ cx.arms false, 1 ≤ (cx.srcU k w.b .u32).toNat ∧ (cx.srcU k w.b .u32).toNat ≤ 64
      ∧ s.rank10 cx [] [(⟨0, (cx.srcU k w.a .u32).toNat, 32 * (cx.srcU k w.b .u32).toNat⟩, 32)] false = none) →
    exec (.kick w) s = .next (cx.ends (.kick w) (fun cx k s =>
      cx.issueOp k 0 (.kick (cx.srcU k w.a .u32).toNat (cx.srcU k w.b .u32).toNat) none 0 s) (cx.begun (.kick w) s)))
  ∧ (∀ (w : Word) (s : State) (cx : Cx), Passes (.cpy w) s cx → cx.clean (.cpy w) → isVector (Instr.cpy w).form cx.h = false → cx.opHeld 0 s = false →
    (∀ k ∈ cx.arms false, (cx.srcU k w.c .u32).toNat % 4 = 0 ∧ s.rank10 cx (cx.cpyAccs w k false) (cx.cpyAccs w k true) false = none) →
    exec (.cpy w) s = .next (cx.ends (.cpy w) (fun cx k s =>
      let n := (cx.srcU k w.c .u32).toNat
      cx.issueOp k 0 (.cpy (cx.copyEnd k w.a (w.fspec.getLsbD 1)).addr (cx.copyEnd k w.b (w.fspec.getLsbD 0)).addr n (w.fspec.toNat % 4)) none n s) (cx.begun (.cpy w) s)))

/-- R104, R108, R301: issuing an operation raises its class counter by one and records it; with a destination sK it takes the tenant's next ticket, pending, and the destination holds it. -/
def Obligations.OperationsIssue : Prop :=
  ∀ (cx : Cx) (k cls : Nat) (kind : OpKind) (b : Option Nat) (n : Nat) (s : State) (g : Group) (r : BitVec 7),
    s.group cx.c.team cx.c.grp = some g → cls < g.ecnt.length → cx.tenant < s.tenants.length →
    let t := cx.issueOp k cls kind b n s
    (t.group cx.c.team cx.c.grp).map (fun g => g.ecnt.getD cls 0) = some (g.ecnt.getD cls 0 + 1)
    ∧ (∃ o, t.ops = s.ops ++ [o] ∧ o.cls = cls ∧ o.kind = kind ∧ o.bobj = b ∧ o.total = n ∧ o.counted = 0 ∧ o.ready = false)
    ∧ (cx.wb = true → cx.h.dst = .s r →
      (t.tenant cx.tenant).ticket = ((s.tenant cx.tenant).ticket + 1) % 2 ^ 24 ∧ (t.tenant cx.tenant).stateOf (t.tenant cx.tenant).ticket = 0
      ∧ (t.group cx.c.team cx.c.grp).map (fun g => g.sget k r.toNat) = some (BitVec.ofNat 32 (t.tenant cx.tenant).ticket))
    ∧ (cx.h.dst = .z → t.tenants = s.tenants)

/-! ### Task queues and continuations -/

/-- R310: CONT.PARK of a task group, its DEVICE release over, attaches a continuation to the future of its handle and retires the group. -/
def Sys2Proof.Rules.ParkCompletes : Prop :=
  ∀ (w : Word) (s : State) (cx : Cx) (k : Nat) (tm : Team), Passes (.contPark w) s cx → cx.pure → isVector (Instr.contPark w).form cx.h = false → cx.arms false = [k] →
    s.team cx.c.team = some tm → s.group cx.c.team cx.c.grp ≠ none →
    (∀ m ∈ s.marksOf cx.c.team cx.c.grp, (∀ r ∈ m.v, w.fspec.toNat ≤ r) ∧ ∀ r ∈ m.u, 4 ≤ r) →
    (s.tenant cx.tenant).handleOk (cx.handle k w.b) = true →
    s.rank10 cx [(⟨0, (cx.srcU k w.a .u64).toNat, cx.contSize w.fspec.toNat⟩, 64)] [] false = none →
    s.rank11 cx [⟨0, (cx.srcU k w.a .u64).toNat, cx.contSize w.fspec.toNat⟩] (needW cx.priv) = none → cx.released (some 2) s →
    ∃ t c, exec (.contPark w) s = .next t ∧ c ∈ t.conts ∧ c.va = cx.srcU k w.a .u64 ∧ c.ticket = (cx.handle k w.b).toNat % 2 ^ 24 ∧ c.tenant = cx.tenant
      ∧ c.eligible = ((s.tenant cx.tenant).stateOf ((cx.handle k w.b).toNat % 2 ^ 24) != 0)
      ∧ (t.group cx.c.team cx.c.grp).map (fun g => g.retired) = some true

/-- R95, R313 to R315: TQ.INIT, its release over, sends one initialisation to each header's slice; TQ.PUSH, its release over, sends its entries and waits at its slot, and when they have been answered writes each index and predicate; TQ.POP sends its pops, to land later. -/
def Sys2Proof.Rules.TaskQueuesComplete : Prop :=
  (∀ (w : Word) (s s0 : State) (cx : Cx) (vec : Bool), vec = isVector (Instr.tqInit w).form (headR w) → Begins (.tqInit w) (some w.scope.toNat)
    (∀ k ∈ cx.arms vec, (∀ x ∈ cx.hdrAccs vec k,
        let g := (cx.srcAny vec k w.c .u32 x.lane).toNat
        fld g 7 5 = 0 ∧ fld g 31 11 = 0 ∧ fld g 4 0 ≤ 24 ∧ 3 ≤ fld g 10 8 ∧ fld g 10 8 ≤ 6 ∧ (cx.srcAny vec k w.b .u64 x.lane).toNat % 2 ^ fld g 10 8 = 0)
      ∧ s.hdrCheck cx vec k = none ∧ s.rank11 cx (cx.hdrAccs vec k) (needRW cx.priv) = none) s cx s0 →
    exec (.tqInit w) s = .next (cx.ends (.tqInit w) (fun cx k s => (cx.hdrAccs vec k).foldl (fun s x =>
      let pa := s.phys cx.core cx.tenant x.va
      let g := (cx.srcAny vec k w.c .u32 x.lane).toNat
      (cx.sendOp pa (.tqInit pa (cx.srcAny vec k w.b .u64 x.lane) (fld g 4 0) (fld g 10 8)) s).1) (s.fills cx.core cx.tenant (cx.hdrAccs vec k))) s0))
  ∧ (∀ (w : Word) (s s0 : State) (cx : Cx) (vec : Bool) (k : Nat) (l : List Nat), vec = isVector (Instr.tqPush w).form (headR w) → cx.arms vec = k :: l →
    cx.opMarked (s.marksOf cx.c.team cx.c.grp) w.b { n := s.entryRegs cx vec w.b } = false → cx.fsqHeld vec s = false →
    Begins (.tqPush w) (some w.scope.toNat) (∀ k ∈ cx.arms vec, s.hdrCheck cx vec k = none ∧ cx.poison (s.tqWords cx vec k w.b) = none
      ∧ s.rank11 cx (cx.hdrAccs vec k) (needRW cx.priv) = none) s cx s0 → cx.hdrAccs vec k ≠ [] →
    exec (.tqPush w) s = .next (
      let room := cx.room w.b vec
      let s1 := s0.fills cx.core cx.tenant (cx.hdrAccs vec k)
      cx.keeps (.tqPush w) (cx.ask ((cx.hdrAccs vec k).map (fun x =>
        let pa := s1.phys cx.core cx.tenant x.va
        (({ lane := x.lane, pa := pa, n := 4 } : Part), SliceOp.tqPush pa (BitVec.ofNat 64 x.va) ((List.range room).map (fun j => cx.runVal vec k w.b j x.lane)) room, 0))) s1)))
  ∧ (∀ (w : Word) (s : State) (cx : Cx) (k : Nat) (x : Async), Resumes (.tqPush w) s cx k → isVector (Instr.tqPush w).form (headR w) = true → cx.answered s = some x →
    cx.opMarked (s.marksOf cx.c.team cx.c.grp) w.b { n := s.entryRegs cx true w.b } = false → (cx.g.arm cx.c.arm).wait.kind = .slice →
    exec (.tqPush w) s = .next (cx.finishes (fun cx _ s =>
      cx.writeP w.slot.toNat (x.parts.map (fun p => (p.lane, p.pred)))
        (cx.writeV .u32 (x.parts.map (fun p => (p.lane, BitVec.ofNat 64 (p.data.toNat % 2 ^ 32)))) (cx.done (s.dropAsync x.id)))) k (cx.begun (.tqPush w) s)))
  ∧ (∀ (w : Word) (s : State) (cx : Cx) (k : Nat) (x : Async) (p : Part) (ps : List Part), Resumes (.tqPush w) s cx k → isVector (Instr.tqPush w).form (headR w) = false →
    cx.answered s = some x → x.parts = p :: ps →
    cx.opMarked (s.marksOf cx.c.team cx.c.grp) w.b { n := s.entryRegs cx false w.b } = false → (cx.g.arm cx.c.arm).wait.kind = .slice →
    exec (.tqPush w) s = .next (cx.finishes (fun cx k s =>
      cx.writeQ k w.slot.toNat p.pred (cx.writeU k .u32 (BitVec.ofNat 64 (p.data.toNat % 2 ^ 32)) (cx.done (s.dropAsync x.id)))) k (cx.begun (.tqPush w) s)))
  ∧ (∀ (w : Word) (s : State) (cx : Cx) (vec : Bool), vec = isVector (Instr.tqPop w).form (headR w) → Passes (.tqPop w) s cx → cx.clean (.tqPop w) →
    cx.opMarked (s.marksOf cx.c.team cx.c.grp) w.dst { n := s.entryRegs cx vec w.dst } = false →
    (∀ k ∈ cx.arms vec, s.hdrCheck cx vec k = none ∧ s.rank11 cx (cx.hdrAccs vec k) (needRW cx.priv) = none ∧ cx.hdrAccs vec k ≠ []) →
    exec (.tqPop w) s = .next (cx.ends (.tqPop w) (fun cx k s =>
      let room := cx.room w.dst vec
      let item (s : State) (x : Acc) : Part × SliceOp × Nat :=
        let pa := s.phys cx.core cx.tenant x.va
        let n := max 1 (min (cx.roomOf w.dst x.lane) ((s.entryLen cx x.va).getD 16))
        ({ lane := x.lane, regs := cx.dstRegs n x.lane, pa := pa, n := 4 * n }, .tqPop pa (BitVec.ofNat 64 x.va) room, 0)
      let p : Option Nat := if w.slot = 7 then none else some w.slot.toNat
      (s.fills cx.core cx.tenant (cx.hdrAccs vec k)).sendOps { id := 0, core := cx.core, tag := cx.tag, dest := cx.asyncDest vec k, ty := .u32, parts := [], acq := some w.scope.toNat, hit := true, pd := p }
        ((cx.hdrAccs vec k).map (item s))) (cx.begun (.tqPop w) s)))

/-- R310, R313 to R315: parking and the task-queue instructions complete. Where it rests on the model's own reading or choice, that is log 48, 49, 136. -/
def Obligations.TaskInstructionsComplete : Prop := Rules.ParkCompletes ∧ Rules.TaskQueuesComplete

/-- R314, R315, R471: a push onto a queue that is not frozen and has room stores its entry at TAIL and raises TAIL by one modulo 2^32; a full one is refused and unchanged; a pop of one that is not empty answers the entry at HEAD and raises HEAD by one; a frozen one is left as it is. Where it rests on the model's own reading or choice, that is log 49. -/
def Obligations.QueueOperations : Prop :=
  ∀ (s : State) (tr : Nat → Tr) (pa data : Nat), s.poisonAt pa = false →
    let h := hdrOf (s.peek pa 64)
    (h.frozen = true → s.qPush tr pa data = (s, .frozen) ∧ s.qPop tr pa = (s, .frozen))
    ∧ (h.frozen = false → h.cap ≤ h.count → s.qPush tr pa data = (s, .refused))
    ∧ (h.frozen = false → h.tail = h.head → s.qPop tr pa = (s, .refused))
    ∧ (∀ e, h.frozen = false → h.count < h.cap → tr (h.ring + h.tail % 2 ^ h.log2c * 2 ^ h.log2e) = .ok e →
        s.qPush tr pa data = ((s.poke (e.at (h.ring + h.tail % 2 ^ h.log2c * 2 ^ h.log2e)) (2 ^ h.log2e) data).poke (pa + 12) 4 ((h.tail + 1) % 2 ^ 32), .done h.tail 0))
    ∧ (∀ e, h.frozen = false → h.tail ≠ h.head → tr (h.ring + h.head % 2 ^ h.log2c * 2 ^ h.log2e) = .ok e →
        (s.qPop tr pa).2 = .done h.head (s.peek (e.at (h.ring + h.head % 2 ^ h.log2c * 2 ^ h.log2e)) (2 ^ h.log2e)))

/-! ### Attention, tables, prefix index, early exit -/

/-- The rows of R341 and R343: instruction, operation, and the bytes counted on its object. -/
def Sys2Proof.Rules.recordRows : List ((Word → Instr) × (Nat → OpKind) × Nat) :=
  [(.attn, fun r => .attn r false, 0), (.attnScore, fun r => .attn r true, 0), (.topk, .topk, 64), (.kvCompact, .compact, 64)]

/-- R341, R343, R344: ATTN, ATTN.SCORE, TOPK and KV.COMPACT issue one ATTN operation on their record, and KV.SWEEP one TIER operation; SCORE.CLR stores +0 in its range. -/
def Sys2Proof.Rules.AttentionIssues : Prop :=
  (∀ r ∈ Rules.recordRows, ∀ (w : Word) (s : State) (cx : Cx), Passes (r.1 w) s cx → cx.clean (r.1 w) → isVector (r.1 w).form cx.h = false → cx.opHeld 4 s = false →
    (∀ k ∈ cx.arms false, s.rank10 cx [] ((⟨0, (cx.srcU k w.a .u32).toNat, 64⟩, 64) :: (match cx.bobjB k with | some b => [(⟨0, b, 16⟩, 16)] | none => [])) false = none) →
    exec (r.1 w) s = .next (cx.ends (r.1 w) (fun cx k s => cx.issueOp k 4 (r.2.1 (cx.srcU k w.a .u32).toNat) (cx.bobjB k) r.2.2 s) (cx.begun (r.1 w) s)))
  ∧ (∀ (w : Word) (s : State) (cx : Cx), Passes (.kvSweep w) s cx → cx.clean (.kvSweep w) → isVector (Instr.kvSweep w).form cx.h = false → cx.opHeld 5 s = false →
    (∀ k ∈ cx.arms false, (cx.srcU k w.a .u32).toNat % 2 ^ 32 ≠ 0 ∧ (cx.srcU k w.a .u32).toNat % 2 ^ 32 ≤ 65535) →
    exec (.kvSweep w) s = .next (cx.ends (.kvSweep w) (fun cx k s =>
      cx.issueOp k 5 (.sweep ((cx.srcU k w.a .u32).toNat % 2 ^ 32)) none 0 s) (cx.begun (.kvSweep w) s)))
  ∧ (∀ (w : Word) (s : State) (cx : Cx), Passes (.scoreClr w) s cx → cx.clean (.scoreClr w) → isVector (Instr.scoreClr w).form cx.h = false →
    let accs (cx : Cx) (k : Nat) : List Acc := (List.range ((cx.srcU k w.b .u32).toNat % 2 ^ 32)).map (fun j => ⟨0, ((cx.srcU k w.a .u64).toNat + 4 * j) % 2 ^ 64, 4⟩)
    s.ownMarked cx ((cx.arms false).flatMap (accs cx)) = false →
    (∀ k ∈ cx.arms false, (cx.srcU k w.b .u32).toNat % 2 ^ 32 ≤ 2 ^ 24 ∧ s.rank10 cx ((⟨0, (cx.srcU k w.a .u64).toNat, 0⟩, 4) :: aligned (accs cx k) 4) [] false = none
      ∧ s.rank11 cx (accs cx k) (needW cx.priv) = none) →
    exec (.scoreClr w) s = .next (cx.ends (.scoreClr w) (fun cx k s =>
      cx.storeMany ((accs cx k).map (fun x => (x.va, 4, 0))) 0 false (s.fills cx.core cx.tenant (accs cx k))) (cx.begun (.scoreClr w) s)))

/-- R150, R342, R345: KV.LOOKUP and KV.ALLOC send one operation for each lane to the home slice of its key's home entry; KV.FREE, its DEVICE release over, one for each entry; PFX.LOOKUP, and PFX.INSERT after its release, one with the ids that stand in scratchpad. With no lane in Active() they only advance the PC. Where it rests on the model's own reading or choice, that is log 50, 51, 137. -/
def Obligations.TablesComplete : Prop :=
  (∀ (i : Word → Instr) (acq : Option Nat) (op : KvKey → SliceOp), (i, acq, op) ∈ [((.kvLookup : Word → Instr), some 2, SliceOp.kvLookup), (.kvAlloc, none, SliceOp.kvAlloc)] →
    ∀ (w : Word) (s : State) (cx : Cx) (vec : Bool), vec = isVector (i w).form (headR w) → Passes (i w) s cx → cx.clean (i w) → cx.lanes vec ≠ [] →
    exec (i w) s = .next (cx.ends (i w) (fun cx k s =>
      let t := s.tabOf cx.core cx.tag
      let p : Option Nat := if w.slot = 7 then none else some w.slot.toNat
      s.sendOps { id := 0, core := cx.core, tag := cx.tag, dest := cx.asyncDest vec k, ty := .u32, parts := [], acq := acq, hit := true, pd := p }
        ((cx.lanes vec).map (fun L =>
          let key := cx.kvKey vec k L
          ({ lane := L, regs := cx.dstRegs 1 L, pa := s.phys cx.core cx.tenant (t.entry (key.hash t.n)), n := 4 }, op key, 0)))) (cx.begun (i w) s)))
  ∧ (∀ i ∈ [((.kvLookup : Word → Instr)), .kvAlloc], ∀ (w : Word) (s : State) (cx : Cx), isVector (i w).form (headR w) = true → Passes (i w) s cx → cx.act = [] →
    exec (i w) s = .next (cx.advance (cx.begun (i w) s)))
  ∧ (∀ (w : Word) (s s0 : State) (cx : Cx), isVector (Instr.kvFree w).form (headR w) = true → cx.act = [] → Begins (.kvFree w) (some 2) True s cx s0 →
    exec (.kvFree w) s = .next (cx.advance s0))
  ∧ (∀ (w : Word) (s s0 : State) (cx : Cx) (vec : Bool), vec = isVector (Instr.kvFree w).form (headR w) → cx.lanes vec ≠ [] →
    Begins (.kvFree w) (some 2) (∀ k ∈ cx.arms vec, cx.idxCheck vec k s = none) s cx s0 →
    exec (.kvFree w) s = .next (cx.ends (.kvFree w) (fun cx k s =>
      let t := s.tabOf cx.core cx.tag
      s.sendOps { id := 0, core := cx.core, tag := cx.tag, dest := .none, ty := .u32, parts := [], blk := some 0 }
        ((cx.lanes vec).map (fun L =>
          let j := (cx.srcAny vec k w.a .u32 L).toNat % 2 ^ 32
          ({ lane := L, pa := s.phys cx.core cx.tenant (t.entry j), n := 4 }, .kvFree j, 0)))) s0))
  ∧ (∀ (i : Word → Instr) (rel : Option Nat) (op : Cx → Nat → W64 → List W32 → SliceOp) (w : Word),
    (i, rel, op) ∈ [((.pfxLookup : Word → Instr), none, fun _ _ h l => SliceOp.pfxLookup h l), (.pfxInsert, some 2, fun cx k h l => SliceOp.pfxInsert h l (loOf (cx.srcU k w.c .u32)))] →
    ∀ (s s0 : State) (cx : Cx), isVector (i w).form cx.h = false → Begins (i w) rel
    (∀ k ∈ cx.arms false, cx.srcU k w.a .u64 ≠ 0 ∧ s.rank10 cx [] [(⟨0, (cx.srcU k w.b .u32).toNat, 64⟩, 4)] false = none
      ∧ s.scrBad cx.c.team (cx.srcU k w.b .u32).toNat 64 = false) s cx s0 →
    exec (i w) s = .next (cx.ends (i w) (fun cx k s =>
      let h := cx.srcU k w.a .u64
      let l := (List.range 16).map (fun j => BitVec.ofNat 32 (s.scrRead cx.c.team ((cx.srcU k w.b .u32).toNat + 4 * j) 4))
      let p : Option Nat := if w.slot = 7 then none else some w.slot.toNat
      s.sendOps { id := 0, core := cx.core, tag := cx.tag, dest := cx.asyncDest false k, ty := .u32, parts := [], pd := p }
        [({ regs := cx.dstRegs 1 0, n := 4, pa := s.phys cx.core cx.tenant (s.pfxEntry cx.tenant h.toNat) }, op cx k h l, 0)]) s0))

/-- R159, R346, R347: EXIT.TEST with no lane at or above its threshold clears its predicate in Active(); one with such lanes, its DEVICE release over, sends their records to the backfill queue's slice and waits at its slot; one whose records have been answered writes what each answer says; BACKFILL issues one ATTN operation over its lanes, which waits for the group's earlier writes. -/
def Sys2Proof.Rules.EarlyExitCompletes : Prop :=
  (∀ (w : Word) (s : State) (cx : Cx), Passes (.exitTest w) s cx → cx.pure → cx.opMarked (s.marksOf cx.c.team cx.c.grp) w.c { n := 6 } = false →
    (∀ L ∈ cx.act, floatCond 5 .f32 (cx.src w.a .f32 L) (cx.src w.b .f32 L) = false) →
    exec (.exitTest w) s = .next (cx.ends (.exitTest w) (fun cx _ s => cx.writeP w.slot.toNat (cx.act.map (fun L => (L, false))) s) (cx.begun (.exitTest w) s)))
  ∧ (∀ (w : Word) (s s0 : State) (cx : Cx) (va pa : Nat), cx.pure → cx.opMarked (s.marksOf cx.c.team cx.c.grp) w.c { n := 6 } = false →
    let go := cx.act.filter (fun L => floatCond 5 .f32 (cx.src w.a .f32 L) (cx.src w.b .f32 L))
    go ≠ [] → Begins (.exitTest w) (some 2) True s cx s0 → s0.backQueue (s0.tabOf cx.core cx.tag) = .ok (va, pa) →
    exec (.exitTest w) s = .next (cx.keeps (.exitTest w) (cx.ask (go.map (fun L =>
      (({ lane := L, pa := pa, n := 4 } : Part), SliceOp.exitPush pa (BitVec.ofNat 64 va) ((List.range 8).map (fun k => BitVec.ofNat 32 (cx.backRec w L / 2 ^ (32 * k)))), 0))) s0)))
  ∧ (∀ (w : Word) (s : State) (cx : Cx) (k : Nat) (x : Async), Resumes (.exitTest w) s cx k → cx.opMarked (s.marksOf cx.c.team cx.c.grp) w.c { n := 6 } = false →
    cx.answered s = some x →
    exec (.exitTest w) s = .next (cx.ends (.exitTest w) (fun cx _ s =>
      cx.writeP w.slot.toNat (cx.act.map (fun L => (L, x.parts.any (fun p => p.lane == L && p.pred)))) (cx.done (s.dropAsync x.id))) (cx.begun (.exitTest w) s)))
  ∧ (∀ (w : Word) (s : State) (cx : Cx) (vec : Bool) (t : Team), vec = isVector (Instr.backfill w).form (headR w) → Passes (.backfill w) s cx → cx.clean (.backfill w) →
    cx.lanes vec ≠ [] → cx.opHeld 4 s = false → (∀ k ∈ cx.arms vec, cx.idxCheck vec k s = none) → s.team cx.c.team = some t →
    exec (.backfill w) s = .next (cx.ends (.backfill w) (fun cx k s =>
      let l := (cx.lanes vec).map (fun L => ((cx.srcAny vec k w.a .u32 L).toNat % 2 ^ 32, (cx.srcAny vec k w.b .u32 L).toNat % 2 ^ 32))
      let r := s.startRelease cx.core t cx.c.team cx.c.grp 2
      (cx.issueOp k 4 (.backfill l) none 0 r.1).updOp r.1.nextId (fun o => { o with ids := r.2.ids, asy := r.2.asy })) (cx.begun (.backfill w) s)))

/-- R159, R341, R343, R344, R346, R347: the attention instructions and early exit complete. Where it rests on the model's own reading or choice, that is log 53, 56, 57. -/
def Obligations.AttentionInstructionsComplete : Prop := Rules.AttentionIssues ∧ Rules.EarlyExitCompletes

/-! ### The matrix engine -/

/-- R318, R319, R322, R369: MTOK.ACQ takes a free token that no earlier request of its team waits for, and has no effect for the holder; otherwise it waits at its slot, in the place of its request, and the token stays where it is. Once it has been released, the slot completes: with the engines of its team when its group holds the token, else with a token that is free and that no earlier request waits for, and without the token when another group has it; while another team has the engine, it waits on. -/
def Sys2Proof.Rules.TokenAcquires : Prop :=
  (∀ (w : Word) (s : State) (cx : Cx) (k : Nat), Passes (.mtokAcq w) s cx → isVector (Instr.mtokAcq w).form cx.h = false → cx.arms false = [k] →
    let place := (cx.g.arm cx.c.arm).tokSeq.getD s.nextId
    let free : Prop := cx.noEngine s = false ∧ (cx.token s = some cx.c.grp ∨ cx.token s = none ∧ cx.tokBehind place s = false)
    (free → exec (.mtokAcq w) s = .next (cx.ends (.mtokAcq w) (fun cx _ s => cx.takeToken (s.updArm cx.c (fun a => { a with tokSeq := none }))) (cx.begun (.mtokAcq w) s)))
    ∧ (¬ free → ∃ u, exec (.mtokAcq w) s = .next u ∧ (∀ c, (u.team c).map (fun t => (t.tok, t.tok2)) = (s.team c).map (fun t => (t.tok, t.tok2)))
      ∧ (u.armOf cx.c).map (fun a => (a.pc, a.slot, a.wait.kind, a.wait.status)) = (s.armOf cx.c).map (fun a => (a.pc, a.slot, .mtok place, none))))
  ∧ (∀ (w : Word) (s : State) (cx : Cx) (k q : Nat), Resumes (.mtokAcq w) s cx k → isVector (Instr.mtokAcq w).form cx.h = false →
    (cx.g.arm cx.c.arm).wait.kind = .mtok q → (cx.g.arm cx.c.arm).wait.status ≠ none →
    let free : Prop := cx.token s = none ∧ cx.noEngine s = false ∧ cx.tokBehind q s = false
    (free → exec (.mtokAcq w) s = .next (cx.finishes (fun cx _ s => cx.takeToken (cx.done s)) k (cx.begun (.mtokAcq w) s)))
    ∧ (¬ free → cx.token s ≠ some cx.c.grp → exec (.mtokAcq w) s = .next (cx.finishes (fun cx _ s => cx.done s) k (cx.begun (.mtokAcq w) s)))
    ∧ (cx.token s = some cx.c.grp → cx.noEngine s = false → exec (.mtokAcq w) s = .next (cx.finishes (fun cx _ s => cx.engine (cx.done s)) k (cx.begun (.mtokAcq w) s)))
    ∧ (cx.token s = some cx.c.grp → cx.noEngine s = true → ∃ u, exec (.mtokAcq w) s = .next u
      ∧ (u.armOf cx.c).map (fun a => (a.pc, a.slot, a.wait.kind, a.wait.status)) = (s.armOf cx.c).map (fun a => (a.pc, a.slot, .mtok q, none))))

/-- R318, R322: taking the token makes the group its holder on that core and leaves every other team's tokens as they are, and binds the engines of a team that has no tiles saved to it. -/
def Sys2Proof.Rules.TokenTaken : Prop :=
  ∀ (cx : Cx) (s : State) (t : Team), s.team cx.c.team = some t → t.saved = false →
    ((cx.takeToken s).team cx.c.team).map (fun t => t.tokOn cx.core) = some (some cx.c.grp)
    ∧ (∀ k, k ≠ cx.c.team → (cx.takeToken s).team k = s.team k) ∧ (∀ c ∈ t.cores, ((cx.takeToken s).core c).bound = some cx.c.team)
    ∧ (cx.takeToken s).groups = s.groups ∧ (cx.takeToken s).mem = s.mem

/-- R322, R323: MTOK.ACQ.try answers 1 and takes the token when nobody else holds it, and else answers 0; MTOK.PASS gives the token to the group it names, when that stands unretired on the core, and else frees it for the first that waits. -/
def Sys2Proof.Rules.TokenPasses : Prop :=
  (∀ (w : Word) (s : State) (cx : Cx), Passes (.mtokAcqTry w) s cx → isVector (Instr.mtokAcqTry w).form cx.h = false →
    exec (.mtokAcqTry w) s = .next (cx.ends (.mtokAcqTry w) (fun cx k s =>
      if cx.noEngine s = false ∧ (cx.token s = none ∨ cx.token s = some cx.c.grp) then cx.writeU k .u32 1 (cx.takeToken s) else cx.writeU k .u32 0 s) (cx.begun (.mtokAcqTry w) s)))
  ∧ (∀ (w : Word) (s : State) (cx : Cx), Passes (.mtokPass w) s cx → cx.clean (.mtokPass w) → isVector (Instr.mtokPass w).form cx.h = false →
    (w.a = .z ∨ ∀ k ∈ cx.arms false, (cx.srcU k w.a .u32).toNat % 2 ^ 32 ≤ 63) →
    exec (.mtokPass w) s = .next (cx.ends (.mtokPass w) (fun cx k s =>
      let g := (cx.srcU k w.a .u32).toNat % 2 ^ 32
      if w.a ≠ .z ∧ (s.group cx.c.team g).any (fun x => !x.retired && x.core == cx.core) = true then
        (s.updTeam cx.c.team (fun t => t.setTok cx.core (some g))).tokenGiven cx.c.team g
      else (s.updTeam cx.c.team (fun t => t.setTok cx.core none)).grantTok cx.core) (cx.begun (.mtokPass w) s)))

/-- R318, R319, R322, R323: acquiring, passing and releasing the matrix token complete. Where it rests on the model's own reading or choice, that is log 61. -/
def Obligations.TokenInstructionsComplete : Prop := Rules.TokenAcquires ∧ Rules.TokenTaken ∧ Rules.TokenPasses

/-- R320, R325, R327 to R336: a matrix instruction whose queues have room enters them with its tiles and records, and one of class MATRIX issues its operation with them. -/
def Sys2Proof.Rules.MatrixInstructionsIssue : Prop :=
  (∀ (sp : Bool) (i : Word → Instr), (sp, i) ∈ [(false, (.mma : Word → Instr)), (true, .mmaSp)] →
    ∀ (w : Word) (s : State) (cx : Cx), Passes (i w) s cx → cx.clean (i w) → isVector (i w).form cx.h = false → cx.mheld s (w.fspec.getLsbD 4) = false →
    (∀ k ∈ cx.arms false, s.rank10 cx [] (cx.recAt k w.a 32 :: (if sp then [(⟨0, (cx.srcU k w.a .u32).toNat + 32, 32⟩, 32)] else []) ++ [cx.recAt k w.b 32]) false = none) →
    exec (i w) s = .next (cx.ends (i w) (fun cx k s =>
      cx.enqueue k (.mma sp (w.fspec.toNat % 16) (cx.srcU k w.a .u32).toNat (cx.srcU k w.b .u32).toNat ((cx.srcU k w.c .u32).toNat % 2 ^ 32) (w.fspec.getLsbD 4)) none
        (w.fspec.getLsbD 4) s) (cx.begun (i w) s)))
  ∧ (∀ (w : Word) (s : State) (cx : Cx), Passes (.mmaOut w) s cx → cx.clean (.mmaOut w) → isVector (Instr.mmaOut w).form cx.h = false → cx.mheld s false = false → cx.opHeld 1 s = false →
    (∀ k ∈ cx.arms false, s.rank10 cx [] [cx.recAt k w.a 32, cx.recAt k w.b 32] false = none) →
    exec (.mmaOut w) s = .next (cx.ends (.mmaOut w) (fun cx k s =>
      cx.enqueueOp k (.out (w.fspec.toNat % 16) (cx.srcU k w.a .u32).toNat (cx.srcU k w.b .u32).toNat (w.fspec.getLsbD 5)) none false s) (cx.begun (.mmaOut w) s)))
  ∧ (∀ (w : Word) (s : State) (cx : Cx), Passes (.accZero w) s cx → isVector (Instr.accZero w).form cx.h = false → cx.mheld s (w.fspec.getLsbD 4) = false →
    exec (.accZero w) s = .next (cx.ends (.accZero w) (fun cx k s => cx.enqueue k (.zero (w.fspec.toNat % 16) (w.fspec.getLsbD 4)) none (w.fspec.getLsbD 4) s) (cx.begun (.accZero w) s)))
  ∧ (∀ (i : Word → Instr) (n : Nat) (kind : Nat → Nat → Bool → MKind), (i, n, kind) ∈ [((.accLd : Word → Instr), 32, MKind.ld), (.accSt, 64, MKind.st)] →
    ∀ (w : Word) (s : State) (cx : Cx), Passes (i w) s cx → cx.clean (i w) → isVector (i w).form cx.h = false → cx.mheld s (w.fspec.getLsbD 4) = false → cx.opHeld 1 s = false →
    (∀ k ∈ cx.arms false, s.rank10 cx [] (cx.recAt k w.a n :: cx.bobjBAcc k) false = none) →
    exec (i w) s = .next (cx.ends (i w) (fun cx k s =>
      cx.enqueueOp k (kind (w.fspec.toNat % 16) (cx.srcU k w.a .u32).toNat (w.fspec.getLsbD 4)) (cx.bobjB k) (w.fspec.getLsbD 4) s) (cx.begun (i w) s)))
  ∧ (∀ (w : Word) (s : State) (cx : Cx), Passes (.layout w) s cx → cx.clean (.layout w) → isVector (Instr.layout w).form cx.h = false → cx.mheld s false = false →
    (∀ k ∈ cx.arms false, s.rank10 cx [] [cx.recAt k w.a 32] false = none) →
    exec (.layout w) s = .next (cx.ends (.layout w) (fun cx k s =>
      cx.enqueue k (.layout (cx.srcU k w.a .u32).toNat (w.fspec.toNat % 8) (w.fspec.getLsbD 3) (loOf (cx.srcU k w.b .u32))) none false s) (cx.begun (.layout w) s)))

/-- R318, R320, R321: a matrix instruction that enters its queues stands last in the queue of its core, or of both cores of a pair in pair mode, with its operation and the scratchpad as it stands at issue, and in no other queue. -/
def Sys2Proof.Rules.QueueEntered : Prop :=
  ∀ (cx : Cx) (k : Nat) (kind : MKind) (op : Option Nat) (pair : Bool) (s : State) (t : Team), s.team cx.c.team = some t → t.saved = false → t.core2 ≠ some t.core →
    let u := cx.enqueue k kind op pair s
    let cores := if pair then t.cores else [cx.core]
    (∀ c, (u.core c).mq.map (fun m => m.id) = (s.core c).mq.map (fun m => m.id) ++ (if c ∈ cores then [s.nextId] else []))
    ∧ (∀ c ∈ cores, ∃ m, (u.core c).mq = (s.core c).mq ++ [m] ∧ m.id = s.nextId ∧ m.kind = kind ∧ m.op = op ∧ m.old = t.scr ∧ m.tag.team = cx.c.team ∧ m.tag.grp = cx.c.grp)
    ∧ u.groups = s.groups ∧ u.mem = s.mem ∧ u.ops = s.ops

/-- R335: ACC.MOV to vector registers enters the queue with the registers that its row will be written to, and ACC.MOV to the accumulator with the values of its source as they stand; lane L of register k holds column k * W + L. With no lane in Active() both only advance the PC. -/
def Sys2Proof.Rules.TileMovesIssue : Prop :=
  (∀ (w : Word) (s : State) (cx : Cx), Passes (.accMovTov w) s cx → cx.clean (.accMovTov w) → isVector (Instr.accMovTov w).form cx.h = true → cx.mheld s false = false →
    cx.opMarked (s.marksOf cx.c.team cx.c.grp) w.dst { n := 64 / cx.W } = false → (cx.srcU cx.oneSel w.a .u32).toNat % 2 ^ 32 ≤ 63 → cx.act ≠ [] →
    exec (.accMovTov w) s = .next (cx.ends (.accMovTov w) (fun cx k s =>
      let parts : List Part := (List.range (64 / cx.W)).flatMap (fun r => cx.act.map (fun L => { lane := L, regs := ((cx.dstRegs (64 / cx.W) L).drop r).take 1, pa := r * cx.W + L, n := 4 }))
      cx.enqueue k (.tov (w.fspec.toNat % 16) ((cx.srcU cx.oneSel w.a .u32).toNat % 2 ^ 32) s.nextId) none false
        (s.addAsync { id := 0, core := cx.core, tag := cx.tag, dest := .vec, ty := .f32, parts := parts })) (cx.begun (.accMovTov w) s)))
  ∧ (∀ (w : Word) (s : State) (cx : Cx), cx.act = [] → cx.mheld s false = false →
    (Passes (.accMovTov w) s cx → isVector (Instr.accMovTov w).form cx.h = true → cx.opMarked (s.marksOf cx.c.team cx.c.grp) w.dst { n := 64 / cx.W } = false →
      exec (.accMovTov w) s = .next (cx.advance (cx.begun (.accMovTov w) s)))
    ∧ (Passes (.accMovToa w) s cx → isVector (Instr.accMovToa w).form cx.h = true → cx.opMarked (s.marksOf cx.c.team cx.c.grp) w.b { n := 64 / cx.W } = false →
      exec (.accMovToa w) s = .next (cx.advance (cx.begun (.accMovToa w) s))))
  ∧ (∀ (w : Word) (s : State) (cx : Cx), Passes (.accMovToa w) s cx → cx.pure → isVector (Instr.accMovToa w).form cx.h = true → cx.mheld s false = false →
    cx.opMarked (s.marksOf cx.c.team cx.c.grp) w.b { n := 64 / cx.W } = false → (cx.srcU cx.oneSel w.a .u32).toNat % 2 ^ 32 ≤ 63 → cx.act ≠ [] →
    exec (.accMovToa w) s = .next (cx.ends (.accMovToa w) (fun cx k s =>
      let vals := (List.range (64 / cx.W)).flatMap (fun r => cx.act.map (fun L => (r * cx.W + L, cx.g.vget (cx.runReg w.b r L) L)))
      cx.enqueue k (.toa (w.fspec.toNat % 16) ((cx.srcU cx.oneSel w.a .u32).toNat % 2 ^ 32) vals) none false s) (cx.begun (.accMovToa w) s)))

/-- R320, R325, R327 to R336: the matrix instructions go to the engine's queue. Where it rests on the model's own reading or choice, that is log 59, 125. -/
def Obligations.MatrixInstructionsComplete : Prop := Rules.MatrixInstructionsIssue ∧ Rules.QueueEntered ∧ Rules.TileMovesIssue

/-- R320: MATRIX_ENGINE_PERFORM performs the instruction at the head of its queues and takes it off them; what it writes in the scratchpad stands there for the later ones, as if it had stood there when they issued. Where it rests on the model's own reading or choice, that is log 59, 125. -/
def Obligations.MatrixEnginePerforms : Prop :=
  ∀ (core : Nat) (s s' : State) (m : MInst) (q : List MInst) (t : Team), (s.core core).mq = m :: q → s.team m.tag.team = some t → s.stopped = false →
    (m.kind.memory = true → s.ownsSlot m.tag.tenant = true) → (m.kind.paired = true → core = t.core) →
    let cores := if m.kind.paired then t.cores else [core]
    (∀ c ∈ cores, ∃ x r, (s.core c).mq = x :: r ∧ x.id = m.id) →
    (∀ id o, m.op = some id → s.op id = some o → o.cancelled = false) →
    let u := match m.op with | some id => s.updOp id (fun o => { o with started := true }) | none => s
    u.doMatrix m core cores = some s' →
    exec (.matrixEnginePerform core) s = .next ((cores.foldl (fun s c => s.updCore c (fun x => { x with mq := x.mq.drop 1 })) s').laterSee m.tag.team cores (u.engineRanges m cores))

/-- R142, R321, R326 to R329, R455: what MMA leaves in its tile: each element is one rounding of the exact sum of the old element and the K products of its row and column; no other tile of the core changes. Each element of an operand is the one that stands in the scratchpad, or the one that stood there when the instruction issued; where the two are equal that is the element. The words of the layout records are read in the same way. Where it rests on the model's own reading or choice, that is log 125. -/
def Obligations.ProductsAccumulate : Prop :=
  ∀ (s s' : State) (old : Sparse 8) (team core t la lb koff : Nat), t < 16 → s.doMma old team core [core] false t la lb koff = .ok s' →
    ∃ a b va vb, s.layOf old team la 64 .elems = .ok a ∧ s.layOf old team lb 64 .elems = .ok b ∧ b.fmt.k = a.fmt.k ∧ koff % a.fmt.k = 0
      ∧ s.rowVals old 0 team a 64 koff a.fmt.k = .ok va ∧ s.rowVals old (2 ^ 30) team b 64 koff a.fmt.k = .ok vb
      ∧ (∀ l v, (l, v) ∈ [(a, va), (b, vb)] → ∀ i k, i < 64 → k < a.fmt.k →
          let p := l.row i + (l.fmt.span koff a.fmt.k).1
          let n := (l.fmt.span koff a.fmt.k).2
          ∃ x, (v.getD i [])[k]? = some x ∧ (x.1 = l.fmt.elem (s.scrRead team p n) k ∨ x.1 = l.fmt.elem (old.read p n) k))
      ∧ (∀ i j, i < 64 → j < 64 → (s'.core core).elem t i j =
          rneF32 (exactSum 0 (valF32 ((s.core core).elem t i j) :: List.zipWith (fun x y => x.1.mul y.1) (va.getD i []) (vb.getD j []))))
      ∧ (∀ u i j, u < 16 → u ≠ t → i < 64 → j < 64 → (s'.core core).elem u i j = (s.core core).elem u i j)

/-! ### Experts, regrouping and the system registers -/

/-- R349, R442: EBM.SET sends one OR of its bit to the slice of its word for each lane; EBM.RANK and EBM.SELECT start loads of their bitmaps. -/
def Sys2Proof.Rules.BitmapsComplete : Prop :=
  (∀ (w : Word) (s : State) (cx : Cx) (vec : Bool), vec = isVector (Instr.ebmSet w).form (headR w) → Passes (.ebmSet w) s cx → cx.clean (.ebmSet w) → cx.lanes vec ≠ [] →
    (∀ k ∈ cx.arms vec, cx.ebmCheck vec k [w.b] (cx.ebmWord vec k) s = none ∧ s.rank11 cx ((cx.lanes vec).map (cx.ebmWord vec k)) (needRW cx.priv) = none) →
    exec (.ebmSet w) s = .next (cx.ends (.ebmSet w) (fun cx k s =>
      let l := (cx.lanes vec).map (cx.ebmWord vec k)
      let s := s.fills cx.core cx.tenant l
      s.sendOps { id := 0, core := cx.core, tag := cx.tag, dest := .none, ty := .u32, parts := [] } (l.map (fun x =>
        ({ lane := x.lane, pa := s.phys cx.core cx.tenant x.va, n := 4 }, .orBit (s.phys cx.core cx.tenant x.va) (cx.ebmVal vec k w.b x.lane % 32), 4)))) (cx.begun (.ebmSet w) s)))
  ∧ (∀ (i : Word → Instr) (g : Gather) (n j : Word → Opd) (os : Word → List Opd),
    (i, g, n, j, os) ∈ [((.ebmRank : Word → Instr), Gather.rank, (fun w : Word => w.b), (fun _ => Opd.z), (fun w : Word => [w.b])),
      (.ebmSelect, .select, (fun w => w.c), (fun w => w.b), (fun w => [w.b, w.c]))] →
    ∀ (w : Word) (s : State) (cx : Cx) (vec : Bool), vec = isVector (i w).form (headR w) → Passes (i w) s cx → cx.clean (i w) → cx.lanes vec ≠ [] →
    let acc (cx : Cx) (k L : Nat) : Acc := ⟨L, cx.ebmBase vec k L, (cx.ebmVal vec k (n w) L + 7) / 8⟩
    let accs (cx : Cx) (k : Nat) : List Acc := ((cx.lanes vec).map (acc cx k)).filter (fun x => x.n != 0)
    s.ownMarked cx ((cx.arms vec).flatMap (accs cx)) = false →
    (∀ k ∈ cx.arms vec, cx.ebmCheck vec k (os w) (acc cx k) s = none ∧ s.rank11 cx (accs cx k) (needR cx.priv) = none) →
    exec (i w) s = .next (cx.ends (i w) (fun cx k s =>
      let s := s.fills cx.core cx.tenant (accs cx k)
      let parts : List Part := (cx.lanes vec).flatMap (fun L => cx.ebmParts s L (cx.ebmBase vec k L) (cx.ebmVal vec k (n w) L) (cx.ebmVal vec k (j w) L))
      s.startLoad { id := 0, core := cx.core, tag := cx.tag, dest := cx.asyncDest vec k, ty := .u32, parts := parts, gather := g } 0 false) (cx.begun (i w) s)))

/-- R164, R349: what EBM.RANK and EBM.SELECT deliver for one lane whose bitmap came in one part: the number of set bits, and the place of the set bit of rank j, or all ones. -/
def Sys2Proof.Rules.BitmapResults : Prop :=
  ∀ (x : Async) (h p : Part), x.parts = [h, p] → h.n = 0 → p.n ≠ 0 → p.lane = h.lane → p.bits < 2 ^ 24 →
    let set := (List.range p.bits).filter (fun i => p.data.toNat.testBit i)
    (x.gather = .rank → x.results.map (fun r => r.data.toNat) = [set.length])
    ∧ (x.gather = .select → x.results.map (fun r => r.data.toNat) = [set.getD h.arg 0xFFFFFFFF])

/-- R166, R350: REGROUP, its TEAM release over, notes its keys and registers at its slot and has the team regrouped, which happens once every group of it has come; until then it waits. When its wait is over it makes a TEAM acquire and goes on. -/
def Sys2Proof.Rules.RegroupCompletes : Prop :=
  (∀ (w : Word) (s s0 : State) (cx : Cx) (r : BitVec 8), cx.pure → isVector (Instr.regroup w).form cx.h = true → w.b = .v r →
    cx.opMarked (s.marksOf cx.c.team cx.c.grp) w.b { n := w.fspec.toNat % 64 } = false → Begins (.regroup w) (some 1) True s cx s0 →
    let d : Option Nat := match w.dst with | .v d => if cx.wb then some d.toNat else none | _ => none
    let keys := (List.range cx.W).map (fun L => loOf (cx.src w.a .u32 L))
    exec (.regroup w) s = .next ((cx.stay { kind := .regroup r.toNat (w.fspec.toNat % 64) d keys, rel := true } s0).regroupTeam cx.c.team))
  ∧ (∀ (w : Word) (s : State) (cx : Cx) (x : Group), Passes (.regroup w) s cx → cx.pure → isVector (Instr.regroup w).form cx.h = true →
    cx.opMarked (s.marksOf cx.c.team cx.c.grp) w.b { n := w.fspec.toNat % 64 } = false → cx.released (some 1) s →
    x ∈ s.groups → x.team = cx.c.team → x.retired = false → x.idx ≠ cx.c.grp → s.group cx.c.team x.idx = some x → (x.arm x.mainArm).wait = {} →
    ∃ u, exec (.regroup w) s = .next u ∧ (u.armOf cx.c).map (fun a => (a.pc, a.slot, a.wait.status)) = (s.armOf cx.c).map (fun a => (a.pc, a.slot, none))
      ∧ (u.armOf cx.c).map (fun a => match a.wait.kind with | .regroup _ n _ _ => some n | _ => none) = some (some (w.fspec.toNat % 64)))
  ∧ (∀ (w : Word) (s : State) (cx : Cx) (k : Nat) (v : W32), Resumes (.regroup w) s cx k → isVector (Instr.regroup w).form cx.h = true →
    (∃ r n d l, (cx.g.arm cx.c.arm).wait.kind = .regroup r n d l) → (cx.g.arm cx.c.arm).wait.status = some v →
    exec (.regroup w) s = .next (cx.advance (cx.acquire 1 (cx.done (cx.begun (.regroup w) s)))))

/-- R349, R350, R442: the bitmap instructions and REGROUP complete. Where it rests on the model's own reading or choice, that is log 71, 72. -/
def Obligations.ExpertInstructionsComplete : Prop := Rules.BitmapsComplete ∧ Rules.RegroupCompletes

/-- R166: participants inserted one by one in ascending key order stand sorted, equal keys in the order in which they came. -/
def Sys2Proof.Rules.RegroupOrder : Prop :=
  ∀ l : List (Nat × Nat), let r := l.foldl (fun acc x => insertKey x acc) []
    r.Perm l ∧ r.Pairwise (fun a b => a.1 ≤ b.1) ∧ ∀ k, r.filter (fun p => p.1 == k) = l.filter (fun p => p.1 == k)

/-- R164, R166, R349: the results of the bitmap loads, and the order of a regrouping. Where it rests on the model's own reading or choice, that is log 72. -/
def Obligations.BitmapResultsAndOrder : Prop := Rules.BitmapResults ∧ Rules.RegroupOrder

/-- R394, R395, R443, R444, R460, R462: SYSR reads a system register, SYSW writes one to a value that it allows, TLBINV removes translations of the tenant, and RACE.CLR ends the tenant's race epoch. -/
def Sys2Proof.Rules.SystemRegistersComplete : Prop :=
  (∀ (w : Word) (s : State) (cx : Cx), Passes (.sysr w) s cx →
    exec (.sysr w) s = .next (cx.ends (.sysr w) (fun cx k s => cx.writeU k .u64 (s.sysVal cx w.fspec.toNat) s) (cx.begun (.sysr w) s)))
  ∧ (∀ (w : Word) (s : State) (cx : Cx), Passes (.sysw w) s cx → cx.clean (.sysw w) → isVector (Instr.sysw w).form cx.h = false →
    (∀ k ∈ cx.arms false, cx.syswBad w.fspec.toNat (cx.srcU k w.a .u64) s = false
      ∧ (w.fspec = 0x38 → epochVa (cx.srcU k w.a .u64) ≠ 0 → s.rank11 cx [⟨0, epochVa (cx.srcU k w.a .u64), 8⟩] { priv := true } = none)) →
    exec (.sysw w) s = .next (cx.ends (.sysw w) (fun cx k s => s.sysWrite cx w.fspec.toNat (cx.srcU k w.a .u64)) (cx.begun (.sysw w) s)))
  ∧ (∀ (w : Word) (s : State) (cx : Cx), Passes (.tlbinv w) s cx → cx.clean (.tlbinv w) → isVector (Instr.tlbinv w).form cx.h = false → (w.a = .z ↔ w.b = .z) →
    (w.a = .z ∨ ∀ k ∈ cx.arms false, s.rank10 cx [(⟨0, (cx.srcU k w.a .u64).toNat, 0⟩, 1)] [] false = none) →
    exec (.tlbinv w) s = .next (cx.ends (.tlbinv w) (fun cx k s =>
      s.tlbInv cx.c.team cx.tenant w.scope.toNat (if w.a = .z then none else some ((cx.srcU k w.a .u64).toNat, (cx.srcU k w.b .u32).toNat % 2 ^ 32))) (cx.begun (.tlbinv w) s)))
  ∧ (∀ (w : Word) (s : State) (cx : Cx), Passes (.raceClr w) s cx →
    exec (.raceClr w) s = .next (cx.ends (.raceClr w) (fun cx _ s => s.endEpoch cx.tenant) (cx.begun (.raceClr w) s)))

/-- The writable bits of the system registers that a group or a tenant holds and that only keep what is written (R394, R395): number, and first and last bits of their fields. -/
def Sys2Proof.Rules.plainRegs : List (Nat × List (Nat × Nat)) :=
  [(0x08, [(10, 55)]), (0x09, [(7, 55)]), (0x0A, [(0, 19)]), (0x0B, [(0, 7)]), (0x10, [(0, 0), (6, 55)]), (0x12, [(0, 1), (6, 55)]), (0x13, [(10, 15), (19, 25), (32, 55)]),
   (0x30, [(8, 55)]), (0x31, [(0, 4), (8, 11), (16, 18), (32, 47)]), (0x32, [(0, 4), (8, 55)]), (0x39, [(0, 1)])]

/-- R57, R84, R394, R395, R405: what the system registers read: the boundaries of the core's pool, the group's and the tenant's registers, CAUSE with its flags, and the hash masks. A write of one that keeps what is written gives it the value's writable bits and changes no other of them. -/
def Sys2Proof.Rules.SystemRegistersHold : Prop :=
  (∀ (s : State) (cx : Cx),
    (s.sysVal cx 0x00).toNat = (s.core cx.core).pbReg % 2 ^ 64 ∧ (s.sysVal cx 0x01).toNat = (s.core cx.core).pbScr % 2 ^ 64 ∧ (s.sysVal cx 0x02).toNat = (s.core cx.core).pbPin % 2 ^ 64
    ∧ s.sysVal cx 0x08 = cx.g.ctxBase ∧ s.sysVal cx 0x09 = cx.g.privBase ∧ s.sysVal cx 0x0A = cx.g.privLim ∧ s.sysVal cx 0x0B = cx.g.divLim ∧ s.sysVal cx 0x10 = cx.g.trapVec
    ∧ s.sysVal cx 0x12 = cx.g.tpc ∧ s.sysVal cx 0x13 = cx.g.skid ∧ s.sysVal cx 0x30 = (s.tenant cx.tenant).kvtBase ∧ s.sysVal cx 0x31 = (s.tenant cx.tenant).kvtSize
    ∧ s.sysVal cx 0x32 = (s.tenant cx.tenant).pfxBase ∧ s.sysVal cx 0x38 = (s.tenant cx.tenant).raceCfg ∧ s.sysVal cx 0x39 = (s.tenant cx.tenant).debugCfg
    ∧ (∀ i, i < 16 → s.sysVal cx (0x20 + i) = s.hashm.getD i 0)
    ∧ ((s.sysVal cx 0x11).getLsbD 63 = cx.g.hmode ∧ (s.sysVal cx 0x11).getLsbD 62 = cx.g.exited ∧ (s.sysVal cx 0x11).getLsbD 61 = cx.g.causeArm ∧ (s.sysVal cx 0x11).getLsbD 0 = cx.g.ovf
      ∧ ∀ k, k < 60 → (s.sysVal cx 0x11).getLsbD (k + 1) = cx.g.codes.getLsbD k))
  ∧ (∀ r ∈ Rules.plainRegs, ∀ (s : State) (cx : Cx) (x : W64), s.group cx.c.team cx.c.grp = some cx.g → cx.tenant < s.tenants.length →
    let t := s.sysWrite cx r.1 x
    (∀ k, k < 64 → (t.sysVal (cx.refresh t) r.1).getLsbD k = (x.getLsbD k && r.2.any (fun p => decide (p.1 ≤ k) && decide (k ≤ p.2))))
    ∧ (∀ q ∈ Rules.plainRegs, q.1 ≠ r.1 → t.sysVal (cx.refresh t) q.1 = s.sysVal cx q.1) ∧ t.mem = s.mem ∧ t.hashm = s.hashm)

/-- R396 to R398: PERF.RD reads a counter of its bank in each lane, or once, when no earlier load or atomic of the context is on its way. -/
def Sys2Proof.Rules.CountersRead : Prop :=
  let val (w : Word) (s : State) (cx : Cx) (i : Nat) : W64 := BitVec.ofNat 64 (((s.tenant cx.tenant).perf.get ((perfBank w.fspec.toNat).1 + i)).toNat % 2 ^ w.ty.bits)
  (∀ (w : Word) (s : State) (cx : Cx), Passes (.perfRd w) s cx → cx.clean (.perfRd w) → isVector (Instr.perfRd w).form cx.h = true →
    (∀ x ∈ s.asyncs, x.tag.team = cx.c.team → x.tag.grp = cx.c.grp → cx.g.split = true ∧ x.tag.arm ≠ armSel cx.c) → (∀ L ∈ cx.act, (cx.src w.a .u32 L).toNat % 2 ^ 32 < (perfBank w.fspec.toNat).2) →
    exec (.perfRd w) s = .next (cx.completes (.perfRd w) (Rules.lanes w.ty (fun cx L => val w s cx ((cx.src w.a .u32 L).toNat % 2 ^ 32))) (cx.begun (.perfRd w) s)))
  ∧ (∀ (w : Word) (s : State) (cx : Cx), Passes (.perfRd w) s cx → cx.clean (.perfRd w) → isVector (Instr.perfRd w).form cx.h = false →
    (∀ x ∈ s.asyncs, x.tag.team = cx.c.team → x.tag.grp = cx.c.grp → cx.g.split = true ∧ x.tag.arm ≠ armSel cx.c) → (∀ k ∈ cx.arms false, (cx.srcU k w.a .u32).toNat % 2 ^ 32 < (perfBank w.fspec.toNat).2) →
    exec (.perfRd w) s = .next (cx.ends (.perfRd w) (fun cx k u => cx.writeU k w.ty (val w s cx ((cx.srcU k w.a .u32).toNat % 2 ^ 32)) u) (cx.begun (.perfRd w) s)))

/-- R412: RFH of a handler group, its TEAM release over, returns that group from its handler. -/
def Sys2Proof.Rules.ReturnCompletes : Prop :=
  ∀ (w : Word) (s s0 : State) (cx : Cx), isVector (Instr.rfh w).form cx.h = false → Begins (.rfh w) (some 1) True s cx s0 →
    exec (.rfh w) s = .next (s0.returnHandler cx.c.team cx.c.grp cx.core)

/-- R57, R84, R394 to R398, R405, R412, R443, R444, R460, R462: the SYS instructions and RFH complete. Where it rests on the model's own reading or choice, that is log 66 to 69. -/
def Obligations.SystemInstructionsComplete : Prop := Rules.SystemRegistersComplete ∧ Rules.SystemRegistersHold ∧ Rules.CountersRead ∧ Rules.ReturnCompletes

/-! ### Events: results, slices and acknowledgements -/

/-- R185: ASYNC_WRITE_LANDS, once every part of its record is there and no earlier record of its group that writes the same registers is left, writes the record's registers and predicates in its group and ends its marks. A record that a context waits for at its slot wakes that context instead. -/
def Sys2Proof.Rules.AsyncResultsLand : Prop :=
  ∀ (id : Nat) (s : State) (x : Async), s.asyncs.find? (fun x => x.id == id) = some x → s.stopped = false → (∀ p ∈ x.parts, p.done = true ∨ p.skip = true) → s.landsAfter x = false →
    (x.blk = none → ∀ g, s.group x.tag.team x.tag.grp = some g → g.retired = false →
      ∃ t, exec (.asyncWriteLands id) s = .next t ∧ t.group x.tag.team x.tag.grp = some (x.land g) ∧ (∀ y ∈ t.asyncs, y.id ≠ id) ∧ t.mem = s.mem)
    ∧ (∀ c, x.blk.isSome = true → s.asker x = some c → exec (.asyncWriteLands id) s = .next (s.wake c 1))

/-- R70, R184, R457: what one 32-bit part of a vector record leaves in its group: its register holds its element, extended by the record's type, and is poisoned when the part was; every other register word keeps its value. -/
def Sys2Proof.Rules.LandedWords : Prop :=
  ∀ (x : Async) (g : Group) (p : Part) (r : Nat), x.dest = .vec → x.gather = .value → x.pd = none → x.parts = [p] → p.skip = false → p.regs = [r] → x.ty.is64 = false → p.lane < 64 →
    (x.land g).vget r p.lane = loOf (x.ty.extend (p.elem x.ty 0)) ∧ (p.poison = true → (r * 64 + p.lane) ∈ (x.land g).vpo)
    ∧ (∀ q L, L < 64 → ¬ (q = r ∧ L = p.lane) → (x.land g).vget q L = g.vget q L)
    ∧ (x.land g).s = g.s ∧ (x.land g).arm0 = g.arm0 ∧ (x.land g).arm1 = g.arm1

/-- R70, R184, R185, R457: asynchronous results land. Where it rests on the model's own reading or choice, that is log 40. -/
def Obligations.ResultsLand : Prop := Rules.AsyncResultsLand ∧ Rules.LandedWords

/-- R74, R75, R99: a slice that can take a request performs it: a read joins the tenant's outstanding read of its line or makes its own of the line as it stands; a write is on its way to its acknowledgement; an atomic or other operation is performed, and the issuing core's clean copy of the line goes. Bytes in which strong accesses of different sizes overlap hold what nothing predicts (R103). -/
def Sys2Proof.Rules.SlicesTakeRequests : Prop :=
  (∀ (id : Nat) (s : State) (r : Req), s.reqs.find? (fun r => r.id == id) = some r → s.takes r = true →
    (r.kind = .read → ∃ t, exec (.homeSliceRequest id) s = .next t ∧ (∀ q ∈ t.reqs, q.id ≠ id) ∧ t.mem = s.mem
      ∧ ∃ m ∈ t.merges, m.line = r.line ∧ m.tenant = r.tenant ∧ r ∈ m.joined
        ∧ ((∀ n ∈ s.merges, ¬ (n.line = r.line ∧ n.tenant = r.tenant ∧ n.closed = false)) → m.data = (s.lineRead r.line).1 ∧ m.poison = (s.lineRead r.line).2))
    ∧ (∀ d m p, r.kind = .write d m p → ∃ t, exec (.homeSliceRequest id) s = .next t ∧ (∀ q ∈ t.reqs, q.id ≠ id)
      ∧ ((s.tenant r.tag.tenant).raceCfg.getLsbD 0 = false → t.mem = s.mem)
      ∧ ∃ a ∈ t.acks, a.id = id ∧ a.line = r.line ∧ a.core = r.core ∧ (s.clash r.tag r.line r.strong = 0 → a.data = d) ∧ a.mask = m ∧ a.poison = p))
  ∧ (∀ (id : Nat) (s s' : State) (r : Req) (o : SliceOp), s.reqs.find? (fun r => r.id == id) = some r → r.kind = .op o → s.takes r = true →
    (((s.dropReq id).mixedAll r.tag r.line r.strong).perfLine r.tenant r.line).sliceOp r o = some s' →
    exec (.homeSliceAtomic id) s = .next ((s'.blur r.line (s.clash r.tag r.line r.strong) true).1.dropClean r.core [r.line]))

/-- R74: one reply gives its line to every request that joined the read. -/
def Sys2Proof.Rules.RepliesFill : Prop :=
  ∀ (id : Nat) (s : State) (m : Merge), s.merges.find? (fun m => m.id == id) = some m → s.stopped = false →
    exec (.mergedReadReply id) s = .next (m.joined.foldl (fun s r =>
      let s := s.fillLine r m.data m.poison
      match r.async with
      | some (a, _) => { s with asyncs := updWhere (fun x => x.id == a) (fun x => { x with parts := x.parts.map (fun p => p.fill m.line m.data m.poison) }) s.asyncs }
      | none => s) { s with merges := s.merges.filter (fun x => x.id != id) })

/-- R74, R75, R99: the home slices take requests, and their replies fill. Where it rests on the model's own reading or choice, that is log 64, 70, 73, 110, 116. -/
def Obligations.SlicesPerform : Prop := Rules.SlicesTakeRequests ∧ Rules.RepliesFill

/-- R72, R451: a write that is acknowledged as performed has changed the bytes of its mask in memory and no others; one that failed has changed none and has raised an imprecise fault for its group. Either way it is no longer outstanding. Where it rests on the model's own reading or choice, that is log 64. -/
def Obligations.WritesAcknowledged : Prop :=
  ∀ (id : Nat) (s : State) (a : Ack), s.acks.find? (fun a => a.id == id) = some a → s.stopped = false →
    (a.failed = 0 → ∃ t, exec (.writebackAck id 0) s = .next t ∧ (∀ b ∈ t.acks, b.id ≠ id) ∧ t.faults = s.faults
      ∧ ∀ p, t.mem.get p = if a.line * 128 ≤ p ∧ p < a.line * 128 + 128 ∧ a.mask.getLsbD (p - a.line * 128) = true
          then BitVec.ofNat 8 (a.data.toNat / 2 ^ (8 * (p - a.line * 128))) else s.mem.get p)
    ∧ (∀ r, (a.failed ≠ 0 ∨ r = 1 ∨ r = 2 ∧ isHost (a.line * 128) = true) → ∃ t, exec (.writebackAck id r) s = .next t ∧ (∀ b ∈ t.acks, b.id ≠ id) ∧ t.mem = s.mem
      ∧ ∃ f, t.faults = s.faults ++ [f] ∧ f.team = a.tag.team ∧ f.grp = a.tag.grp ∧ f.trap.cause = 0x15)

/-! ### Events: engine operations -/

/-- R105, R108, R463: an operation that has performed its effects, or was cancelled, with no earlier one of its group and class left and no matrix instruction of it still queued, completes: it is gone, its class counts one less, and its future, when it has one, is settled with 1, or 2 when it was cancelled, or 3 when it failed. -/
def Sys2Proof.Rules.OperationsComplete : Prop :=
  ∀ (id : Nat) (s : State) (o : EngOp) (g : Group), s.op id = some o → s.stopped = false → (o.ready = true ∨ o.cancelled = true) → opsBefore s.ops o = false → (∀ c ∈ s.cores, ∀ m ∈ c.mq, m.op ≠ some id) →
    s.group o.tag.team o.tag.grp = some g → o.cls < g.ecnt.length →
    ∃ t, exec (.engineOpComplete id) s = .next t ∧ (∀ x ∈ t.ops, x.id ≠ id) ∧ (t.group o.tag.team o.tag.grp).map (fun g => g.ecnt.getD o.cls 0) = some (g.ecnt.getD o.cls 0 - 1)
      ∧ t.mem = s.mem
      ∧ (∀ k, o.ticket = some k → o.tag.tenant < s.tenants.length → (t.tenant o.tag.tenant).stateOf k = (if o.cancelled then 2 else if o.faulted then 3 else 1))

/-- R284, R307, R308, R463: a record of a KICK that can start, a CPY, and a row of a stream whose copy succeeds are performed and counted down at their barrier objects; a copy that fails, or a barrier object that is poisoned, ends its operation with an ENGINE fault. -/
def Sys2Proof.Rules.CopiesPerform : Prop :=
  (∀ (id k so n : Nat) (s u : State) (o : EngOp), s.op id = some o → s.opRuns o = true → o.kind = .kick so n → k < n → o.prog.contains k = false → s.kickTurn o = true →
    (∀ j ≤ k, o.prog.contains j = false → s.kickBad o so j = none) →
    (s.updOp id (fun o => { o with started := true })).engCopy o (s.kickRec o so k).dst (s.kickRec o so k).src (s.kickRec o so k).len = (u, none) →
    exec (.copyRecordLanded id k) s = .next (if u.kickObjBad o so k then u.kickFault o so n (0x16, 0, 0)
      else let v := (u.kickCount o so k false).opShare id k 0; if o.prog.length + 1 = n then v.opReady id else v))
  ∧ (∀ (id dst src len dir : Nat) (s u : State) (o : EngOp) (f : Option EFault), s.op id = some o → s.opRuns o = true → o.kind = .cpy dst src len dir → o.prog.contains 0 = false →
    (s.updOp id (fun o => { o with started := true })).engCopy o ⟨dir.testBit 1, dst⟩ ⟨dir.testBit 0, src⟩ len = (u, f) →
    exec (.copyRecordLanded id 0) s = .next (match f with | some e => u.engFault id e | none => (u.opShare id 0 len).opReady id))
  ∧ (∀ (id rec_ so row : Nat) (load : Bool) (s p u : State) (o : EngOp), s.op id = some o → s.opRuns o = true → o.kind = .stream load rec_ so → o.prog.contains row = false →
    s.streamStart o rec_ so = (p, true) →
    let x := match p.op id with | some o => o.result | none => 0
    let inner := fld x 175 160
    let n := fld x 159 128
    let scr : End := ⟨true, so + row * n⟩
    let mem : End := ⟨false, wrapN 64 ((fld x 55 0 : Int) + (row / max inner 1 : Nat) * sgn 32 (fld x 255 224) + (row % max inner 1 : Nat) * sgn 32 (fld x 223 192))⟩
    row < fld x 191 176 * inner →
    p.engCopy o (if load then scr else mem) (if load then mem else scr) n = (u, none) →
    exec (.streamRowPerformed id row) s = .next (let v := u.opShare id row n; if o.prog.length + 1 = fld x 191 176 * inner then v.opReady id else v))

/-- R87, R105, R152: TIER_PROMOTE_PAGE counts a page that is in HBM already as done, and moves a page of 64 KB that is in LPDDR-6: with room in the returned frames' queue it pops an HBM frame from the promotion queue, copies the page there, rewrites the frame of its leaf, drops what is cached of the page and of the lines it wrote, and returns the old frame. It ends the operation once its range is over. The move of the page gives every byte of the frame what the old frame's byte was and changes no other byte. -/
def Sys2Proof.Rules.PagesPromote : Prop :=
  (∀ (id va len : Nat) (s : State) (o : EngOp) (e : TlbEntry), s.op id = some o → s.opRuns o = true → o.kind = .tier va len →
    let tenant := o.tag.tenant
    let a := va + 65536 * o.prog.length
    let fin (v : State) : State := let v := (v.opShare id o.prog.length 65536).updOp id (fun o => { o with started := true })
      if (o.prog.length + 1) * 65536 = len then v.opReady id else v
    s.reach o.core tenant a { priv := o.tag.priv } = .ok e →
    (isLp (e.at a) = false → exec (.tierPromotePage id) s = .next (fin (s.fillCore o.core e)))
    ∧ (∀ (w : State) (h f : Nat), isLp (e.at a) = true → e.size = 65536 → (s.fillCore o.core e).retRoom tenant = .ok true →
      (s.fillCore o.core e).takeFrame o.core tenant = (w, .done h f) → f < 2 ^ 40 → f % 65536 = 0 →
      let leaf := w.leafAt tenant a
      let v := (w.moveRange f e.pa 65536).poke leaf 8 (setFld (w.peek leaf 8) 51 12 (f / 4096))
      exec (.tierPromotePage id) s = .next (fin (((v.dropPage tenant a 65536).dropClean o.core (leaf / 128 :: linesOf f 65536)).giveFrame o.core tenant e.pa))))
  ∧ (∀ (s : State) (f old : Nat), s.mem.wf = true → f % 65536 = 0 → old % 65536 = 0 → f ≠ old →
    (∀ p, (s.moveRange f old 65536).mem.get p = if f ≤ p ∧ p < f + 65536 then s.mem.get (p - f + old) else s.mem.get p)
    ∧ (s.moveRange f old 65536).mem.wf = true)

/-- R154, R155, R468: ATTN_TILE_COMPLETE computes the tiles of a slice that has not been computed, and notes this head's; ATTN_RECOMPUTE lets an operation that was suspended go on once its team has been restored. -/
def Sys2Proof.Rules.AttentionPerforms : Prop :=
  (∀ (id slice head rec_ : Nat) (score : Bool) (s u : State) (o o' : EngOp) (e : EFault), s.op id = some o → o.kind = .attn rec_ score → s.opRuns o = true →
    (s.attnStart o rec_ score).op id = some o' → o'.ready = false → o'.slices.contains slice = true → slice < 192 → head < recHeads o'.result →
    o'.prog.contains (slice * 16 + head) = false → o'.prog.contains (4096 + slice) = false →
    ((s.attnStart o rec_ score).attnTiles o' slice = .error e → exec (.attnTileComplete id slice head) s = .next ((s.attnStart o rec_ score).attnFault id slice e))
    ∧ ((s.attnStart o rec_ score).attnTiles o' slice = .ok u →
      let x := (u.op id).getD o'
      let prog := o'.prog ++ [slice * 16 + head]
      (x.arrived prog = false → exec (.attnTileComplete id slice head) s = .next (u.updOp id (fun o => { o with prog := prog })))
      ∧ (x.arrived prog = true → x.susp = false → (score = true → u.scoreTurn x = true) → exec (.attnTileComplete id slice head) s = .next (u.attnFinish x rec_ score slice))))
  ∧ (∀ (id : Nat) (s : State) (o : EngOp), s.op id = some o → o.susp = true → o.again = true → s.opRuns o = true →
    exec (.attnRecompute id) s = .next ((s.updOp id (fun o => { o with susp := false, again := false, prog := o.prog.filter (fun k => decide (k < 4096)) })).attnHomes id (s.tabOf o.core o.tag)))

/-- R151, R159, R161, R345: the events of the key-value cache: a compaction that has started compacts its blocks and writes how many; a BACKFILL whose release is over publishes its lanes; a KV.FREE that waited for a move frees its entry; the clock visits when its period has passed; a demotion that is over leaves the queue of moves; an old block is pushed onto its free array once its readers are done. -/
def Sys2Proof.Rules.TableEvents : Prop :=
  (∀ (id rec_ : Nat) (s u : State) (n : Nat) (o : EngOp), s.op id = some o → o.kind = .compact rec_ → s.opRuns o = true → o.started = true → s.compactRun o = .ok (u, n) →
    exec (.compactionStart id) s = .next (((u.engScr o (rec_ + 28) 4 n false).opShare id 0 64).opReady id))
  ∧ (∀ (id : Nat) (l : List (Nat × Nat)) (s u : State) (o : EngOp), s.op id = some o → o.kind = .backfill l → s.opRuns o = true → s.pendingOn { ids := o.ids, asy := o.asy } = false →
    (s.tabOf o.core o.tag).ok = true → (∀ p ∈ l, s.entBusy (s.tabOf o.core o.tag) p.1 = false) →
    l.foldl (fun (acc : Except EFault State) p => do (← acc).publish (s.tabOf o.core o.tag) p.1 p.2) (.ok (s.updOp id (fun o => { o with started := true }))) = .ok u →
    exec (.backfillPublish id) s = .next (u.opReady id))
  ∧ (∀ (id i : Nat) (s : State) (r : Req), s.kvw.find? (fun r => r.id == id) = some r → r.kind = .op (.kvFree i) → s.stopped = false → s.ownsSlot r.tenant = true →
    s.entIn (s.tabOf r.core r.tag) i 2 = false →
    exec (.tableWriteAfterMove id) s = .next (({ s with kvw := s.kvw.filter (fun x => x.id != id) } : State).kvFreeOp r i))
  ∧ (∀ (tenant : Nat) (s u : State), tenant < 16 → s.stopped = false → s.period tenant ≠ 0 → (s.tabAgent unitTier tenant).ok = true → s.ownsSlot tenant = true →
    (s.tenant tenant).tierAt + s.period tenant ≤ s.clock → (s.updTenant tenant (fun x => { x with tierAt := s.clock })).kvVisit (s.tabAgent unitTier tenant) = .ok u →
    exec (.clockVisit tenant) s = .next u)
  ∧ (∀ (id : Nat) (s u : State) (m : Move), s.moves.find? (fun m => m.id == id) = some m → s.stopped = false → s.ownsSlot m.tenant = true →
    let v : State := { s with moves := s.moves.filter (fun x => x.id != id) }
    v.moveDone (v.moveTab m) m (moveWrote 0 m 0) = (u, none) →
    exec (.demotionCopyComplete ⟨id, 0⟩) s = .next u.sweepsDone)
  ∧ (∀ (id : Nat) (s u : State) (o : OldBlock), s.olds.find? (fun o => o.id == id) = some o → s.stopped = false → s.ownsSlot o.tenant = true →
    (∀ k ∈ o.readers, ∀ x ∈ s.ops, x.id = k → x.ready = true) →
    ({ s with olds := s.olds.filter (fun x => x.id != id) } : State).kvPush (({ s with olds := s.olds.filter (fun x => x.id != id) } : State).tabAgent unitTier o.tenant) o.tier o.addr.toNat = .ok u →
    exec (.oldBlockFreePush id) s = .next u)

/-- R87, R105, R108, R151, R152, R154, R155, R159, R161, R284, R307, R308, R345, R463, R468: engine operations perform and complete. Where it rests on the model's own reading or choice, that is log 35, 52 to 56, 107, 116, 131. -/
def Obligations.EngineOperationsPerform : Prop := Rules.OperationsComplete ∧ Rules.CopiesPerform ∧ Rules.PagesPromote ∧ Rules.AttentionPerforms ∧ Rules.TableEvents

/-! ### Events: launches, teams and pre-emption -/

/-- R355, R357, R362: LAUNCH_POP takes the next record address of a launch queue and has its record checked; a tagged message from the host writes its payload and then runs the tag step. -/
def Sys2Proof.Rules.LaunchesArrive : Prop :=
  (∀ (tenant cls i x : Nat) (s u : State), tenant < 16 → cls < 4 → s.stopped = false → (s.tenant tenant).lq cls ≠ 0 → s.slotTenant = some tenant → s.headWaits tenant ((s.tenant tenant).lq cls) = false →
    s.agentPop unitDispatch tenant ((s.tenant tenant).lq cls).toNat = (u, .done i x) →
    exec (.launchPop tenant cls) s = .next ((u.keepAgent unitDispatch tenant ((s.tenant tenant).lq cls).toNat).acceptRecord tenant (BitVec.ofNat 64 x) (some cls) (some ⟨(s.tenant tenant).lq cls, tenant, i⟩) none))
  ∧ (∀ (tenant : Nat) (tag : W32) (addr : W64) (l : List Byte) (s u : State), tenant < 16 → s.stopped = false → s.eweovUp = true → s.ownsSlot tenant = true →
    s.vwrite (s.agentTr unitFabric tenant { w := true }) addr.toNat l.length (ofBytes l) = .ok u →
    exec (.taggedLaunchMessage tenant tag addr l) s = .next ((u.keepRange unitFabric tenant addr.toNat l.length).tagStep tenant tag addr))

/-- R24, R354, R359, R360, R404: a team whose launch is the first candidate and that fits at a core starts there: every group live from ENTRY slot 0 with all its lanes, the argument address in s96 and s97, its areas and its trap vector from the record, in a team whose barriers are at phase 0. Where it rests on the model's own reading or choice, that is log 82, 83. -/
def Obligations.TeamsDispatch : Prop :=
  ∀ (launch core g : Nat) (s : State), let l := s.launch launch
    s.stopped = false → l.next < l.total → s.outranked (.launch launch) = false → l.together = false → s.fitsAt l (some launch) core = true → g < l.gpt → launch < s.launches.length →
    ∃ t x tm, exec (.dispatchTeam launch core) s = .next t ∧ x ∈ t.groups ∧ x.team = s.teams.length ∧ x.idx = g ∧ t.team s.teams.length = some tm
      ∧ tm.launch = launch ∧ tm.index = l.next ∧ tm.core = core ∧ tm.place = .resident ∧ (t.launch launch).next = l.next + 1
      ∧ (∀ b ∈ tm.bars, b.phase = false ∧ b.arrived = 0)
      ∧ x.arm0.live = true ∧ x.arm0.pc = l.f 63 0 ∧ x.arm0.slot = 0 ∧ x.arm0.mask = fullMask l.width ∧ x.arm1.live = false ∧ x.width = l.width ∧ x.hmode = false
      ∧ x.count = 8 * l.vregs ∧ x.ureg = l.uregs ∧ x.sget 0 96 = loOf l.args ∧ x.sget 0 97 = hiOf l.args ∧ x.trapVec = l.trapVec
      ∧ x.ctxBase = (l.areas (l.next * l.gpt + g)).1 ∧ x.privBase = (l.areas (l.next * l.gpt + g)).2

/-- R229, R358: TEAM_RETIRE releases a retired team whose operations are over, and LAUNCH_COMPLETE completes a launch whose teams have all retired, once its release is over and the error records of its tenant are written. -/
def Sys2Proof.Rules.TeamsRetire : Prop :=
  (∀ (team : Nat) (s : State) (t : Team), s.team team = some t → s.stopped = false → t.place = .retired → s.released team t = true →
    ∃ u, exec (.teamRetire team) s = .next u ∧ (u.team team).map (fun t => (t.place, t.scr, t.armed)) = some (.gone, [], [])
      ∧ (t.launch < s.launches.length → (u.launch t.launch).retired = (s.launch t.launch).retired + 1))
  ∧ (∀ (launch : Nat) (s : State), let l := s.launch launch
    s.stopped = false → l.complete = false → l.total ≠ 0 → l.total ≤ l.next → l.total ≤ l.retired → (∀ o ∈ s.ops, (s.team o.tag.team).map (fun t => t.launch) ≠ some launch) →
    l.ending = true → s.pendingOn { ids := l.ids } = false → (∀ r ∈ s.errs, r.tenant ≠ l.tenant) → (l.f 383 320 = 0 ∨ s.slotTenant = some l.tenant) →
    exec (.launchComplete launch) s = .next ((s.updLaunch launch (fun l => { l with ending := true, ids := [], complete := true })).signalDone l))

/-- R161, R311: an eligible continuation whose records can be read and whose task fits resumes there, and a backfill record starts its kernel's task. -/
def Sys2Proof.Rules.TasksStart : Prop :=
  (∀ (id core x0 x : Nat) (s : State) (c : Cont) (l : Launch), s.conts.find? (fun c => c.id == id) = some c → s.stopped = false → c.eligible = true → s.ownsSlot c.tenant = true → s.outranked (.cont id) = false →
    s.vread (s.agentTr unitDispatch c.tenant { rd := true }) c.va.toNat 64 = .ok x0 → s.contLaunch c = some l → s.refusal c.tenant none none l = none →
    let n := 64 + fld x0 68 64 * l.width * 4
    s.vread (s.agentTr unitDispatch c.tenant { rd := true }) c.va.toNat n = .ok x → s.fitsAt l none core = true →
    let u := (s.keepRange unitDispatch c.tenant c.va.toNat n).keepRange unitDispatch c.tenant l.recVa.toNat 512
    exec (.continuationResume id core) s = .next ((({ u with conts := u.conts.filter (fun y => y.id != id) } : State).placeTask l core c.index c.grp c.supplier
      (fun g => g.continued x ((u.tenant c.tenant).stateOf c.ticket)))))
  ∧ (∀ (tenant core bfk q i v : Nat) (s u : State) (l : Launch) (e : TlbEntry), s.bfAddrs tenant = some (bfk, q) → s.stopped = false → s.slotTenant = some tenant → s.outranked (.backfill tenant) = false →
    s.bfLaunch tenant bfk = some l → s.fitsAt l none core = true → s.tokenless core = true → s.reachAgent unitBackfill tenant q { rd := true, w := true } = .ok e →
    s.agentPop unitBackfill tenant q = (u, .done i v) →
    exec (.backfillTaskStart tenant core) s = .next ((((u.bfTaken tenant i).keepAgent unitBackfill tenant q).keepRange unitDispatch tenant bfk 512).placeTask
      { l with args := BitVec.ofNat 64 ((hdrOf (s.peek (e.at q) 64)).entry i) } core (i % l.grid) 0 (some ⟨BitVec.ofNat 64 q, tenant, i⟩) id))

/-- R58, R364: POOL_BOUNDARY_APPLY gives a core that no team holds the boundary values written for it, and drops its lines; CONTEXT_DUE marks a context that has been ready for 512 cycles since its last issue, or since it last became ready if that is later. -/
def Sys2Proof.Rules.BoundariesApply : Prop :=
  (∀ (core : Nat) (s : State), s.stopped = false → (s.core core).held ≠ [] → s.occupied core = false →
    ∃ t, exec (.poolBoundaryApply core) s = .next t ∧ (t.core core).held = [] ∧ (t.core core).lines = []
      ∧ ((t.core core).pbReg, (t.core core).pbScr, (t.core core).pbPin) = (s.core core).bounds)
  ∧ (∀ (c : CtxId) (s : State) (g : Group), s.context c = some g → s.stopped = false → s.waiting g (g.arm c.arm).wait = false → (g.arm c.arm).readySince + 512 ≤ s.clock →
    ∃ t, exec (.contextDue c) s = .next t ∧ (t.armOf c).map (fun a => a.due) = some true ∧ (t.armOf c).map (fun a => (a.pc, a.slot)) = (s.armOf c).map (fun a => (a.pc, a.slot)))

/-- R58, R161, R229, R311, R355, R357, R358, R362, R364: launches, tasks and teams come and go. Where it rests on the model's own reading or choice, that is log 17, 75 to 78, 84, 86, 87. -/
def Obligations.WorkArrivesAndRetires : Prop := Rules.LaunchesArrive ∧ Rules.TeamsRetire ∧ Rules.TasksStart ∧ Rules.BoundariesApply

/-- R366 to R370, R380: the host's commands mark the teams that they name; a marked team that stands at slot boundaries is saved, a saved one can leave the pool, and one that is to resume runs again on its cores, each in a slot of its tenant. -/
def Sys2Proof.Rules.TeamsPreempt : Prop :=
  (∀ (tenant id : Nat) (all : Bool) (s : State),
    exec (.cmdPreempt tenant id all) s = .next (s.command tenant id 1 all (fun t => if t.place.here then { t with preempt := true } else t))
    ∧ exec (.cmdResume tenant id all) s = .next (s.command tenant id 2 all (fun t => if t.place.here then t else { t with wantResume := true, wantAt := s.nextId })))
  ∧ (∀ (team : Nat) (s : State) (t : Team), s.team team = some t → s.stopped = false → t.preempt = true → t.place.here = true → s.deferred team t = false →
    let u := s.updTeam team (fun t => { t with place := .stopping })
    (u.atRest team t = true → u.ownsSlot (u.tenantOf team) = true → exec (.teamPreemption team) s = .next (u.saveTeam team t)) ∧ (u.atRest team t = false ∨ u.ownsSlot (u.tenantOf team) = false → exec (.teamPreemption team) s = .next u))
  ∧ (∀ (team : Nat) (s u : State) (t : Team), s.team team = some t → s.stopped = false → t.place = .placed → t.wantResume = false → s.ownsSlot (s.tenantOf team) = true → s.saveImage team t = .ok u →
    ∃ v, exec (.teamUnplace team) s = .next v ∧ (v.team team).map (fun t => (t.place, t.scr, t.scrPoison)) = some (.unplaced, [], []) ∧ (∀ g ∈ v.groups, g.team = team → g.v = [] ∧ g.vpo = []))
  ∧ (∀ (team core : Nat) (s : State) (t : Team), s.team team = some t → s.stopped = false → t.wantResume = true → s.ownsSlot (s.tenantOf team) = true → s.outranked (.team team) = false →
    (t.place = .placed → core = t.core → exec (.teamResume team core) s = .next (s.restart team))
    ∧ (t.place = .unplaced → s.teamFits team core = true → s.teamWrites team = false → exec (.teamResume team core) s = .next (s.replace team core t)))

/-- R402, R408, R417 to R420: an imprecise fault that reaches a running group is taken there and one of a team that is gone, or pre-empted, becomes an error record, while a host halt that could not be taken at once is taken at the slot boundary that has come; a team in which every context has halted and whose accesses are performed enters its handler; a host halt reaches every team that it names; the watchdog ends a team whose handler has run for its limit. -/
def Sys2Proof.Rules.TrapEvents : Prop :=
  (∀ (n : Nat) (s u : State) (f : FaultRec) (t : Team), s.faults[n]? = some f → s.team f.team = some t → s.stopped = false →
    let s' : State := { s with faults := s.faults.eraseIdx n }
    (f.trap.cause = 0x3A → exec (.impreciseFaultArrival n) s = .next (
      if t.place.finished 0 then s' else if t.place.here then (s'.takeHalt f.team).getD s else s'.haltTeam f.team))
    ∧ (f.trap.cause ≠ 0x3A → t.place.finished 0 = true → exec (.impreciseFaultArrival n) s = .next (s'.faultRecord f 1 0))
    ∧ (f.trap.cause ≠ 0x3A → t.place.finished 0 = false → t.place.here = false → exec (.impreciseFaultArrival n) s = .next (s'.faultRecord f 2 4))
    ∧ (∀ g, f.trap.cause ≠ 0x3A → t.place.finished 0 = false → t.place.here = true → s.group f.team f.grp = some g → g.retired = false → s'.takeFault g f.trap = some u → exec (.impreciseFaultArrival n) s = .next u))
  ∧ (∀ (team : Nat) (s : State) (t : Team) (q : Squall), s.team team = some t → s.stopped = false → t.squall = some q → q.entered = false → t.place = .resident → s.quiet team = true → s.ownsSlot (s.tenantOf team) = true →
    (s.settleTeam team t).2 = false → exec (.handlerEntry team) s = .next (((s.settleTeam team t).1.syncPair team).enterHandler team))
  ∧ (∀ (id tenant : Nat) (all : Bool) (s : State), s.stopped = false → s.halt.busy = false → tenant < 16 →
    exec (.hostHalt id tenant all) s = .next (({ (s.named tenant (id % 2 ^ 32) all).foldl (fun s k => s.haltTeam k) s with
      halt := { launchId := BitVec.ofNat 32 id, tenant := tenant, busy := true, all := all, op := 1 } } : State).commands))
  ∧ (∀ (team : Nat) (s : State) (t : Team) (g : Group), s.team team = some t → s.stopped = false → t.place = .resident →
    (s.liveGroups team).find? (fun g => g.hmode && s.wdog != 0 && decide (g.hAt + s.wdog.toNat ≤ s.clock)) = some g →
    exec (.watchdog team) s = .next (s.terminate team g.idx 4 { cause := 0x3B } 0 0))

/-- R366 to R370, R380, R402, R408, R417 to R420: commands, pre-emption and the trap events. Where it rests on the model's own reading or choice, that is log 88 to 90. -/
def Obligations.TeamsPreemptAndTrap : Prop := Rules.TeamsPreempt ∧ Rules.TrapEvents

/-! ### Events: host, fabric, power and errors -/

/-- R233, R381, R485: a host call's record goes onto its ring when that has room, and vector 0 is raised; the reply ends the wait that it names. -/
def Sys2Proof.Rules.HostCalls : Prop :=
  (∀ (c : CtxId) (s u : State) (h : HCall) (g : Group) (t : Team) (i a : Nat), s.hcalls.find? (fun h => h.c == c && h.index.isNone) = some h → s.group c.team c.grp = some g → s.team c.team = some t →
    s.stopped = false → t.place = .resident → s.ownsSlot h.tenant = true → (g.arm c.arm).wait.kind = .hcallPush →
    (s.note h.pa).qPush (fun va => s.reachAgent (sliceOf h.pa) h.tenant va (needW h.priv)) h.pa h.data.toNat = (u, .done i a) →
    exec (.hcallRingPush c) s = .next (((((u.keepAgent (sliceOf h.pa) h.tenant ((hdrOf (s.peek h.pa 64)).entry i)).updCall c (fun h => { h with index := some i })).updArm c
      (fun a => { a with wait := { a.wait with kind := .hcallReply i } })).msi h.tenant 0)))
  ∧ (∀ (tenant n : Nat) (v : W32) (s : State) (h : HCall) (g : Group) (t : Team), s.hcalls.find? (fun h => h.tenant == tenant && h.index == some n) = some h → s.stopped = false → s.eweovUp = true →
    s.group h.c.team h.c.grp = some g → s.team h.c.team = some t → t.place.here = true → t.squall = none →
    exec (.hostCallReply tenant n v) s = .next (({ s with hcalls := s.hcalls.filter (fun x => x.c != h.c) } : State).wake h.c v))

/-- R288, R373, R374: a host write to device memory that its slice can take changes the bytes that it names and no others, and a host read none; a host atomic leaves the result of R288 in its word. -/
def Sys2Proof.Rules.HostAccesses : Prop :=
  (∀ (r : HostReq) (s : State), s.hostTakes r.pa = true → isHost r.pa = false → isHole r.pa = false → r.pa % 128 + r.size ≤ 128 →
    ∃ t, exec (.hostRequest r) s = .next t ∧ (r.write = false → t = s)
      ∧ (r.write = true → ∀ p, t.mem.get p = if r.pa ≤ p ∧ p < r.pa + r.size then BitVec.ofNat 8 (r.data.toNat / 2 ^ (8 * (p - r.pa))) else s.mem.get p))
  ∧ (∀ (pa size op : Nat) (signed : Bool) (v c : W64) (t : Ty) (s : State), hostTy size signed = some t → s.hostTakes pa = true → isHost pa = false → pa % size = 0 → op ≤ 10 → s.poisonAt pa = false →
    exec (.hostAtomic (.atom pa size op signed v c)) s = .next (s.poke pa size (un t (atomNew t op (BitVec.ofNat 64 (s.peek pa size)) v c))))

/-- R375 to R380, R389, R418, R419: what a store to the control space changes, by its offset; a write of MSIMASK sends the vectors that it unmasks; the attestation ROM signs its log. -/
def Sys2Proof.Rules.ControlSpace : Prop :=
  (∀ (offset size : Nat) (v : W64) (s : State), 0 < size → offset % 8 + size ≤ 8 → s.eweovUp = true →
    let x := v.toNat % 2 ^ (8 * size)
    (0x1000 ≤ offset → offset < 0x2000 → exec (.controlSpaceWrite offset size v) s = .next (s.writeBlock ((offset - 0x1000) / 256) (offset % 256) size x))
    ∧ (456 ≤ offset → offset < 464 → exec (.controlSpaceWrite offset size v) s = .next { s with wdog := BitVec.ofNat 32 (setFld s.wdog.toNat (8 * (offset - 456 + size) - 1) (8 * (offset - 456)) x) })
    ∧ (64 ≤ offset → offset + size ≤ 224 → ∃ t, exec (.controlSpaceWrite offset size v) s = .next t
        ∧ ∀ k, t.ctl.get k = if offset ≤ k ∧ k < offset + size then BitVec.ofNat 8 (x / 2 ^ (8 * (k - offset))) else s.ctl.get k))
  ∧ (∀ (tenant : Nat) (m : BitVec 16) (s : State), tenant < 16 → exec (.msimaskWrite tenant m) s = .next ((s.updTenant tenant (fun t => { t with msiMask := m })).sendHeld tenant))
  ∧ (∀ s : State, s.stopped = false → ∃ t, exec .attestationSign s = .next t ∧ t.ctl.read 288 1 = 2
    ∧ t.ctl.read 320 64 = (Config.attestSign (sha512 (s.ctlBytes 1024 (64 * s.logN) ++ s.ctlBytes 256 32 ++ bytesOf 8 s.logN))).toNat)

/-- R233, R288, R373 to R381, R389, R418, R419, R485: host calls, the host's own accesses and the control space. Where it rests on the model's own reading or choice, that is log 12, 91 to 94. -/
def Obligations.HostInterface : Prop := Rules.HostCalls ∧ Rules.HostAccesses ∧ Rules.ControlSpace

/-- R386, R387, R424: a power request starts a transition, or restarts clocks that stand still; it ends at a frame boundary, or, for STOP, when no operation, no copy of a demotion and no transfer is left; a thermal trip stops every clock, and while its sensor is above its limit no request has an effect. -/
def Sys2Proof.Rules.PowerStates : Prop :=
  (∀ s : State, s.power.trip = true → s.power.hot = true →
    exec .powerReq36Ghz s = .next s ∧ exec .powerReq24Ghz s = .next s ∧ exec .powerReq12Ghz s = .next s ∧ exec .powerReqStop s = .next s)
  ∧ (∀ s : State, s.power.trip = false → s.power.cur ≠ 3 →
    exec .powerReq36Ghz s = .next { s with power := { s.power with req := 0, busy := s.power.cur != 0 } }
    ∧ exec .powerReq24Ghz s = .next { s with power := { s.power with req := 1, busy := s.power.cur != 1 } }
    ∧ exec .powerReq12Ghz s = .next { s with power := { s.power with req := 2, busy := s.power.cur != 2 } }
    ∧ exec .powerReqStop s = .next { s with power := { s.power with req := 3, busy := true } })
  ∧ (∀ s : State, s.power.trip = false → s.power.cur = 3 →
    (∀ n f, (n, f) ∈ [(0, exec .powerReq36Ghz), (1, exec .powerReq24Ghz), (2, exec .powerReq12Ghz)] →
      ∃ t, f s = .next t ∧ t.power.cur = n ∧ t.power.busy = false ∧ t.stopped = false ∧ t.mem = s.mem ∧ t.groups = s.groups ∧ t.clock = s.clock)
    ∧ ∃ t, exec .powerReqStop s = .next t ∧ t.power.cur = 3)
  ∧ (∀ s : State, s.stopped = false → s.power.busy = true → s.power.req < 3 → s.clock % 64 = 0 →
    ∃ t, exec .powerTransition s = .next t ∧ t.power.cur = s.power.req ∧ t.power.busy = false ∧ t.power.trip = false ∧ t.mem = s.mem ∧ t.groups = s.groups)
  ∧ (∀ s : State, s.stopped = false → s.power.busy = true → s.power.req = 3 → s.ops = [] → s.inbox = [] → s.moves = [] → s.linkBusy = false →
    ∃ t, exec .powerStopped s = .next t ∧ t.power.cur = 3 ∧ t.power.busy = false ∧ t.stopped = true ∧ t.mem = s.mem ∧ t.groups = s.groups)
  ∧ (∀ (die sensor : Nat) (s : State), s.power.trip = false → ∃ t, exec (.thermalTrip die sensor) s = .next t ∧ t.power.trip = true ∧ t.power.hot = true ∧ t.stopped = true ∧ t.mem = s.mem ∧ t.groups = s.groups)
  ∧ (∀ s : State, exec .sensorBackBelowLimit s = .next { s with power := { s.power with hot := false } })

/-- R479, R480: a link that goes down or comes up is noted, in the black box and to every tenant; held interrupts are sent when Eweov comes up; a Norvan port that goes down or comes up changes its own bit of the port state and no other. -/
def Sys2Proof.Rules.LinksChange : Prop :=
  (∀ s : State, s.stopped = false →
    (s.eweovUp = true → exec .eweovLinkDown s = .next ((({ s with eweovUp := false } : State).bb 0 41 0 0x42 32 0).errAll 14 0 0))
    ∧ (s.eweovUp = false → exec .eweovLinkUp s = .next (((List.range 16).foldl (fun (s : State) t => s.sendHeld t) { s with eweovUp := true }).bb 0 41 0 0x43 32 0 |>.errAll 14 1 0)))
  ∧ (∀ (port peer : Nat) (s : State), s.stopped = false → port < 18 →
    (s.norvanUp.getLsbD port = true → ∃ t, exec (.norvanPortDown port peer) s = .next t ∧ ∀ k, k < 18 → t.norvanUp.getLsbD k = (s.norvanUp.getLsbD k && k != port))
    ∧ (s.norvanUp.getLsbD port = false → ∃ t, exec (.norvanPortUp port peer) s = .next t ∧ ∀ k, k < 18 → t.norvanUp.getLsbD k = (s.norvanUp.getLsbD k || k == port)))

/-- R382 to R384: the fabric interface pops a tenant's next send and transmits it; a piece of a message lands as its landing entry says; a send whose pieces are all over completes. -/
def Sys2Proof.Rules.FabricMoves : Prop :=
  (∀ (tenant i v : Nat) (s u : State), s.stopped = false → tenant < 16 → s.ownsSlot tenant = true → (s.tenant tenant).fsq ≠ 0 →
    s.agentPop unitFabric tenant (s.tenant tenant).fsq.toNat = (u, .done i v) →
    let u := u.keepAgent unitFabric tenant (s.tenant tenant).fsq.toNat
    exec (.fabricSend tenant) s = .next ((match u.sendAt tenant i with
      | some o => u.updOp o.id (fun o => { o with started := true, kind := .send i (BitVec.ofNat 256 (v % 2 ^ 256)) })
      | none => u).transmit tenant (u.sendAt tenant i) (v % 2 ^ 256)))
  ∧ (∀ (id k off n : Nat) (s : State) (m : Landing), s.inbox.find? (fun m => m.id == id) = some m → s.stopped = false → m.done.contains k = false → s.ownsSlot m.tenant = true → m.parts[k]? = some (off, n) →
    (m.kind = 0 → exec (.remoteWriteLanding id k) s = .next (s.landPiece m k (m.doff + off) noGate (fun s _ => s)))
    ∧ (m.kind = 1 → exec (.tokenRowLanding id k) s = .next (s.landPiece m k ((m.row0 + k) % 2 ^ 32) (fun s x => s.gateFor m ((m.row0 + k) % 2 ^ 32) (k * m.rowb) x) (fun s _ => s)))
    ∧ (m.kind = 2 → k = 0 → exec (.taggedMessageLanding id) s = .next (s.landPiece m 0 m.doff noGate (fun s va => s.tagStep m.tenant m.tag va))))
  ∧ (∀ (id r : Nat) (s : State) (o : EngOp), s.op id = some o → s.stopped = false → s.sendAcked o = true → r ≤ 1 → opsBefore s.ops o = false → (∀ c ∈ s.cores, ∀ m ∈ c.mq, m.op ≠ some id) →
    ∃ t, exec (.fabricSendComplete ⟨id, r⟩) s = .next t ∧ (∀ x ∈ t.ops, x.id ≠ id) ∧ (∀ m ∈ t.inbox, m.op ≠ some id)
      ∧ (∀ k, o.ticket = some k → o.cancelled = false → o.tag.tenant < s.tenants.length → s.loops o = false → (t.tenant o.tag.tenant).stateOf k = (if r = 1 then 3 else 1)))

/-- R455, R458, R481: an uncorrectable error poisons the line, word or element that it strikes and changes no value; a corrected one leaves memory, poison, groups and cores as they are. -/
def Sys2Proof.Rules.ErrorsPoison : Prop :=
  (∀ (pa : Nat) (s : State), s.stopped = false → isHbm pa = true ∨ isLp pa = true → ∃ t, exec (.uncorrectableError (.memory pa)) s = .next t ∧ t.poisonAt pa = true ∧ t.mem = s.mem)
  ∧ (∀ (team grp r L : Nat) (s : State) (g : Group), s.stopped = false → s.group team grp = some g → r < g.count → L < g.width →
    ∃ t, exec (.uncorrectableError (.vector team grp r L)) s = .next t ∧ (t.group team grp).map (fun g => (g.vpo.contains (r * 64 + L), g.v)) = some (true, g.v) ∧ t.mem = s.mem)
  ∧ (∀ (die unit : Nat) (a : W64) (s : State), s.stopped = false → ∃ t, exec (.correctedError die unit a) s = .next t ∧ t.mem = s.mem ∧ t.memPoison = s.memPoison ∧ t.groups = s.groups ∧ t.cores = s.cores)

/-- R382 to R384, R386, R387, R424, R455, R458, R479 to R481: power states, links, the fabric and memory errors. Where it rests on the model's own reading or choice, that is log 4, 95 to 98, 106, 108. -/
def Obligations.PowerLinksAndErrors : Prop := Rules.PowerStates ∧ Rules.LinksChange ∧ Rules.FabricMoves ∧ Rules.ErrorsPoison

/-- R388, R391, R397: what a cold and a warm reset leave: no work, every register at its reset value; cold reset keeps host memory and BOOTADDR, and warm reset also the measurement log, the black box and the clock, which is the model's reading. Where it rests on the model's own reading or choice, that is log 1, 3 to 6, 96. -/
def Obligations.ResetsClear : Prop :=
  ∀ s : State,
    (∃ t, exec .coldReset s = .next t ∧ t.groups = [] ∧ t.teams = [] ∧ t.cores = [] ∧ t.hashm = State.resetMasks ∧ t.tenants = List.replicate 16 {} ∧ t.power = {} ∧ t.clock = 0 ∧ t.bbSeq = []
      ∧ t.logN = 2 ∧ (∀ p, t.mem.get p = if isHost p then s.mem.get p else 0) ∧ t.ctl.read 16 8 = s.ctl.read 16 8)
    ∧ (∃ t, exec .warmReset s = .next t ∧ t.groups = [] ∧ t.teams = [] ∧ t.cores = [] ∧ t.hashm = State.resetMasks ∧ t.tenants = List.replicate 16 {} ∧ t.power = {} ∧ t.clock = s.clock
      ∧ t.logN = s.logN ∧ (∀ p, isHost p = true → t.mem.get p = s.mem.get p))

/-! ### The shared conditions of a slot, taking an exception and returning from one -/

/-- R173, R185, R426, R427: what every instruction word comes to when its slot does not reach its own effect: no context at it is a fault of the model, a slot that is held changes nothing, a condition is taken as a trap, and a guard that excludes the whole instruction passes over it. Where it rests on the model's own reading or choice, that is log 14, 15, 28. -/
def Obligations.SharedConditions : Prop :=
  ∀ (i : Instr) (s : State), i.isWord = true →
    (gate i s = .noContext → exec i s = .fault .noContext)
    ∧ (gate i s = .hold → exec i s = .next s)
    ∧ (∀ cx b, gate i s = .trap cx b → exec i s = .next (cx.trap b s))
    ∧ (∀ cx, gate i s = .skip cx → exec i s = .next (cx.advance (cx.passed i s)))

/-- What R430 lists: SYSR, SYSW, TLBINV or RACE.CLR in a slot that is not privileged, RFH outside handler mode, CONT.PARK in a group that belongs to no task kernel, and SYSW to a hash mask while R393 is not met. -/
def Sys2Proof.Rules.forbidden (i : Instr) (s : State) (cur : Cur) (g : Group) : Prop :=
  (cur.priv = false ∧ ∃ w, i = .sysr w ∨ i = .sysw w ∨ i = .tlbinv w ∨ i = .raceClr w)
  ∨ (g.hmode = false ∧ ∃ w, i = .rfh w)
  ∨ ((∀ t, s.team cur.c.team = some t → (s.launch t.launch).task = false) ∧ ∃ w, i = .contPark w)
  ∨ (s.maskQuiet cur.c.team = false ∧ ∃ w, i = .sysw w ∧ 0x20 ≤ w.fspec.toNat ∧ w.fspec.toNat ≤ 0x2F)

/-- R430: each of these is PRIVILEGE, cause 0x07, in a slot that is not held and not in a wait of its own, before any condition of a later rank; it is taken as a trap, and the hash masks stay as they are. -/
def Sys2Proof.Rules.Privileged : Prop :=
  ∀ (i : Instr) (s : State) (cur : Cur) (g : Group), s.cur = some cur → s.context cur.c = some g → Rules.forbidden i s cur g →
    gate i s ≠ .hold → (g.arm cur.c.arm).wait.resumed = false →
    ∃ cx t, gate i s = .trap cx { cause := 0x07 } ∧ cx.c = cur.c ∧ t = cx.trap { cause := 0x07 } s ∧ exec i s = .next t ∧ t.hashm = s.hashm

/-- R173: a slot with the guard that is always false is passed over: the PC goes on, and no register, predicate or memory changes. -/
def Sys2Proof.Rules.FalseGuardSkips : Prop :=
  ∀ (i : Instr) (s : State) (h : Head) (cur : Cur) (g : Group), i.head = some h → h.guard.idx = 7 → h.guard.neg = true → h.yield = false → i.form.priv = false → (∀ w, i ≠ .rfh w ∧ i ≠ .contPark w ∧ i ≠ .sysw w) →
    s.cur = some cur → s.context cur.c = some g → gate i s ≠ .hold → (g.arm cur.c.arm).wait.resumed = false →
    ∃ t, exec i s = .next t ∧ t.mem = s.mem ∧ (∀ team grp, (t.group team grp).map (fun g => (g.v, g.s, g.sb1, g.p, g.q, g.q1)) = (s.group team grp).map (fun g => (g.v, g.s, g.sb1, g.p, g.q, g.q1)))
      ∧ (t.armOf cur.c).map (fun a => (a.pc, a.slot)) = some (pcAfter cur.bundle cur.slot cur.valid)

/-- R173, R430: what R430 lists takes PRIVILEGE, and a slot with the always-false guard is passed over. -/
def Obligations.PrivilegeAndGuards : Prop := Rules.Privileged ∧ Rules.FalseGuardSkips

/-- The record of a precise condition: its cause, lane and detail at the slot's PC and arm. -/
def Sys2Proof.Machine.Bad.trapAt (b : Bad) (cx : Cx) : Trap := { cause := b.cause, lane := b.lane, detail := b.detail, pc := cx.pc, arm := armSel cx.c, info := b.info }

/-- R401, R402, R405: a precise condition of a group that is in no squall leaves the slot without effect: the context stays at it and halts, no register and no byte of memory changes, and its team's squall begins with that trap. -/
def Obligations.TrapsTaken : Prop :=
  ∀ (cx : Cx) (b : Bad) (s : State) (tm : Team) (g : Group), s.team cx.c.team = some tm → s.group cx.c.team cx.c.grp = some g → tm.squall = none → tm.supplier = none → cx.g.hmode = false → cx.c.arm < 4 →
    let t := cx.trap b s
    t.mem = s.mem
    ∧ (t.team cx.c.team).map (fun x => x.squall) = some (some ⟨cx.c.grp, { b.trapAt cx with cycle := s.clock }, s.clock, false, false⟩)
    ∧ (t.armOf cx.c).map (fun a => (a.pc, a.slot, a.halted)) = (s.armOf cx.c).map (fun a => (a.pc, a.slot, true))
    ∧ (∀ team grp, (t.group team grp).map (fun g => (g.v, g.s, g.sb1, g.p, g.q, g.q1, g.xmask)) = (s.group team grp).map (fun g => (g.v, g.s, g.sb1, g.p, g.q, g.q1, g.xmask)))

/-- R405 to R410: delivering a trap puts its group into handler mode: the handler context starts at TRAPVEC.ENTRY, slot 0, with every lane that has not exited; TPC takes the trap's PC, CAUSE its bit, and SKID its cause, detail, origin and lane. -/
def Sys2Proof.Rules.Delivery : Prop :=
  ∀ (s : State) (team grp origin : Nat) (t : Trap) (g : Group), s.group team grp = some g → t.imp = false → 1 ≤ t.cause → t.cause ≤ 60 → t.exited = none → g.skidSlots < 256 →
    ∃ x, (s.deliver team grp origin t).group team grp = some x ∧ x.hmode = true ∧ x.tpc = t.pc ∧ x.codes.getLsbD (t.cause - 1) = true ∧ x.causeArm = (t.arm == 1)
      ∧ x.armH0.live = true ∧ x.armH0.pc = g.trapVec.toNat % 2 ^ 56 / 64 * 64 ∧ x.armH0.slot = 0 ∧ x.armH0.mask = fullMask g.width &&& ~~~g.xmask ∧ x.armH1.live = false
      ∧ x.split = false ∧ x.melded = false ∧ fld x.skid.toNat 47 40 = t.cause ∧ fld x.skid.toNat 55 48 = t.detail % 256 ∧ fld x.skid.toNat 25 20 = origin % 64 ∧ fld x.skid.toNat 15 10 = t.lane % 64
      ∧ x.v = g.v ∧ x.s = g.s ∧ x.p = g.p ∧ x.arm0 = g.arm0 ∧ x.arm1 = g.arm1

/-- R409, R412: RFH with another trap held in its group delivers that one next. -/
def Sys2Proof.Rules.NextTrap : Prop :=
  ∀ (s : State) (team grp core : Nat) (tm : Team) (g : Group) (t : Trap) (l : List Trap), s.team team = some tm → s.group team grp = some g → g.pend = t :: l → t.imp = false →
    ∃ x, (s.returnHandler team grp core).group team grp = some x ∧ x.hmode = true ∧ x.pend = l ∧ x.tpc = t.pc ∧ x.armH0.slot = 0

/-- R404, R420: a squall whose origin group has no trap vector ends its team, with a record of kind 0 for its trap, or of kind 5 for a host halt. -/
def Sys2Proof.Rules.NoVector : Prop :=
  ∀ (s : State) (team : Nat) (tm : Team) (q : Squall) (g : Group), s.team team = some tm → tm.squall = some q → q.fatal = false → s.group team q.origin = some g → g.trapVec.getLsbD 0 = false →
    s.enterHandler team = (if q.trap.cause = 0x3A then s.terminate team q.origin 5 q.trap 0 0 else s.terminate team q.origin 0 q.trap q.trap.detail q.trap.info)

/-- R404 to R410, R412, R420: delivering a trap, returning with another held, and a team with no vector. -/
def Obligations.HandlerEntryAndReturn : Prop := Rules.Delivery ∧ Rules.NextTrap ∧ Rules.NoVector

/-! ### Frames -/

/-- The instructions that write registers and predicates of their group and nothing else: majors S, V and F, PRD logic, NOP, the conversions within registers, and the moves and reads across lanes. -/
def Sys2Proof.Rules.registerOnly (i : Instr) : Prop :=
  (∃ r ∈ Rules.scalarRows, ∃ w, i = r.1 w) ∨ (∃ r ∈ Rules.scalarImmRows, ∃ w, i = r.1 w) ∨ (∃ r ∈ Rules.vectorRows, ∃ w, i = r.1 w) ∨ (∃ r ∈ Rules.vectorImmRows, ∃ w, i = r.1 w)
  ∨ (∃ r ∈ Rules.floatRows, ∃ w, i = r.1 w) ∨ (∃ r ∈ Rules.floatImmRows, ∃ w, i = r.1 w)
  ∨ (∃ f ∈ [(.sSel : Word → Instr), .sCmp, .sLea, .vAddc, .vCmp, .vSel, .fCmp, .fClass, .mov, .nop, .cvt, .unpack, .getsr, .readlane, .first, .xShfl, .xRot, .xBcast], ∃ w, i = f w)
  ∨ (∃ f ∈ [(.sCmpImm : WordI → Instr), .sMovi, .sLeaImm, .vCmpImm, .fCmpImm, .movImm], ∃ w, i = f w)
  ∨ (∃ f ∈ [(.pLogic : WordP → Instr), .qLogic], ∃ w, i = f w)

/-- The member-mask operations that write as many registers as their TYPE says, or one predicate or mask (R264, R268). -/
def Sys2Proof.Rules.memberMask (i : Instr) : Prop :=
  (∃ f ∈ [(.xRed : Word → Instr), .xScan], ∃ w, i = f w) ∨ (∃ f ∈ [(.pAny : WordP → Instr), .pAll, .pBallot, .pPopc], ∃ w, i = f w)

/-- R189, R243, R246, R266: what a register-only instruction that completes, and a member-mask operation whose lanes are all its own, leave unchanged: everything but their group, the ports of its core and the black box; of their group, every vector element but those of the destination in the lanes of Active(), every uniform register but the destination, every predicate but the one they name, the other arms, and the mask and stack depth of their own. -/
def Obligations.RegisterFrames : Prop :=
  ∀ (i : Instr) (s t : State) (cx : Cx), (Rules.registerOnly i ∨ Rules.memberMask i ∧ cx.Alone s) → Passes i s cx → cx.clean i → exec i s = .next t →
    let n := i.form.dst.n
    t = { s with groups := t.groups, cores := t.cores, ctl := t.ctl, bbSeq := t.bbSeq }
    ∧ (∀ team grp, ¬ (team = cx.c.team ∧ grp = cx.c.grp) → t.group team grp = s.group team grp)
    ∧ (∀ core, (t.core core).lines = (s.core core).lines ∧ (t.core core).tiles = (s.core core).tiles)
    ∧ ∃ g, t.group cx.c.team cx.c.grp = some g
      ∧ (∀ r L, L < 64 → ¬ (cx.wb = true ∧ L ∈ cx.act ∧ ∃ k, cx.vreg cx.h.dst L = some k ∧ k ≤ r ∧ r < k + n) → g.vget r L = cx.g.vget r L)
      ∧ (∀ a r, a < 2 → r < 128 → ¬ (cx.wb = true ∧ ∃ d, cx.h.dst = .s d ∧ d.toNat ≤ r ∧ r < d.toNat + n) → g.sget a r = cx.g.sget a r)
      ∧ (∀ j L, j < 7 → L < 64 → ¬ (L ∈ cx.act ∧ i.form.qw.map (fun x => x.toNat) = some j) → g.pget j L = cx.g.pget j L)
      ∧ (∀ a j, a < 2 → j < 7 → i.form.qw.map (fun x => x.toNat) ≠ some j → g.qget a j = cx.g.qget a j)
      ∧ (∀ a, a < 4 → a ≠ cx.c.arm → g.arm a = cx.g.arm a)
      ∧ (cx.c.arm < 4 → (g.arm cx.c.arm).mask = (cx.g.arm cx.c.arm).mask ∧ (g.arm cx.c.arm).depth = (cx.g.arm cx.c.arm).depth ∧ (g.arm cx.c.arm).live = (cx.g.arm cx.c.arm).live)
      ∧ g.xmask = cx.g.xmask ∧ g.split = cx.g.split ∧ g.melded = cx.g.melded ∧ g.codes = cx.g.codes ∧ g.tpc = cx.g.tpc ∧ g.skid = cx.g.skid ∧ g.trapVec = cx.g.trapVec ∧ g.count = cx.g.count

/-- The instructions that reach memory through their core's cache and the home slices. -/
def Sys2Proof.Rules.throughSlices : List (Word → Instr) :=
  [.ld, .st, .ldu, .stu, .sld, .sst, .l1Wb, .l1Inv, .atom, .atomBinc, .xaccAdd, .xaccFold, .xaccClr, .fence, .waitcnt]

/-- R70, R72, R73: loads, stores, atomics and fences change no byte of memory at issue, and no hash mask, whatever becomes of them: only their slices write memory, when they perform what was sent. (The group is no task, whose traps freeze a queue in memory.) -/
def Obligations.MemoryWaitsForSlices : Prop :=
  ∀ f ∈ Rules.throughSlices, ∀ (w : Word) (s t : State) (cur : Cur) (tm : Team), s.cur = some cur → s.team cur.c.team = some tm → tm.supplier = none → exec (f w) s = .next t →
    t.mem = s.mem ∧ t.hashm = s.hashm ∧ t.ops = s.ops ∧ t.launches = s.launches

/-- R70, R71: bytes stored into a core's cache within one line: the core reads them back there, and every other byte of that line as it did before; memory and every register stand as they did. -/
def Obligations.CoreStores : Prop :=
  ∀ (s : State) (core : Nat) (tag : Tag) (pa n v hint p : Nat), pa % 128 + n ≤ 128 → p / 128 = pa / 128 →
    let t := s.store core tag pa n v hint
    t.coreByte core p = (if pa ≤ p ∧ p < pa + n then BitVec.ofNat 8 (v / 2 ^ (8 * (p - pa))) else s.coreByte core p)
    ∧ t.mem = s.mem ∧ t.groups = s.groups ∧ t.teams = s.teams

/-! ### Fetching, encodings, reset and memory -/

/-- R62, R179 to R183, R363 to R365, R426 to R429: a step whose script names a context issues the instruction that the bundle at its PC holds: the context's first valid slot at or after its own, decoded and run there with the page's privilege. A slot issues when its port does from this context, and the registers of a resumed team that the slot names are in the pool first. Where it rests on the model's own reading or choice, that is log 8, 17, 99, 133. -/
def Obligations.StepsRunDecoded : Prop :=
  ∀ (s : State) (c : CtxId) (b : Bool) (l : List Choice) (g : Group) (tm : Team) (e : TlbEntry) (k : Nat) (i : Instr) (s2 : State), s.script = .issue c b :: l →
    let s0 : State := { s with script := l }
    let a := g.arm c.arm
    s0.context c = some g → s0.team c.team = some tm → s0.stopped = false → s0.mayRun c.team tm a.wait = true → s0.waiting g a.wait = false →
    s0.reach g.core (s0.tenantOf c.team) a.pc { x := true, priv := true } = .ok e →
    let s1 := (s0.fillCore g.core e).note (e.at a.pc)
    s1.poisonAt (e.at a.pc) = false →
    let x := s1.peek (e.at a.pc) 64
    ctrlBad x = false → (List.range 4).find? (fun j => decide (a.slot ≤ j) && (BitVec.ofNat 4 x).getLsbD j) = some k →
    (drainOf x k = true → ∀ m ∈ s1.marksOf c.team c.grp, m = {}) → decode (slotWord x k) = some i → rank3 i g.width k (BitVec.ofNat 4 x) = true →
    let cur : Cur := ⟨c, a.pc, k, BitVec.ofNat 4 x, e.priv, s1.portFor g c b⟩
    s1.firstUse g i cur = .ok s2 →
    let u : State := { s2.updArm c (fun a => { a with slot := k }) with cur := some cur }
    (∀ x, (Turn.run i u).asks = some x → s0.grants s0.contexts x.1 x.2.1 x.2.2 = true) →
    step s = settled (exec i u)

/-- R167 to R177, R190 to R192: decoding the word of a well-formed instruction gives that instruction back, for every instruction that has a word and every value of its fields; and a word that decodes to an instruction is the word of that instruction and of no other, so that no bit of it is dropped. -/
def Obligations.DecodeInvertsEncode : Prop :=
  (∀ i : Instr, i.isWord = true → WellFormed i = true → decode (encode i) = some i)
  ∧ (∀ (x : W96) (i : Instr), decode x = some i → i.isWord = true ∧ encode i = x)

/-- A register-form word whose modifier fields are all zero but TYPE, unguarded. -/
def Sys2Proof.Rules.plainWord (dst a b c : Opd) (t : Ty) : Word :=
  { dst := dst, wbs := false, a := a, b := b, c := c, guard := ⟨false, false, 7⟩, path := .both, cap := none, yield := false, ty := t, round := 0, sat := false, slot := 0, scope := 0, chint := 0, fspec := 0 }

/-- Words that the manual writes out in its chapters on encoding, control, memory, matrices, faults, capacity, hashing, eviction, private programs and fronts decode to the instructions that it says they are. -/
def Obligations.ManualWordsDecode : Prop :=
  decode 0x1000420843E8CF9C00400000 = some (.sAdd (Rules.plainWord (.s 8) (.s 8) (.imm 20) .z .i32))
  ∧ decode 0x300300C00A08010840A00000 = some (.fFma { Rules.plainWord (.v 3) (.v 1) (.s 4) (.v 2) .f32 with guard := ⟨false, false, 2⟩, cap := some 1 })
  ∧ decode 0x3000014C080CCF9C00A00000 = some (.fAdd (Rules.plainWord (.v 5) (.y 1) (.v 6) .z .f32))
  ∧ decode 0x100F40C80BD6CF9C00444000 = some (.sCmp { Rules.plainWord (.s 3) (.s 1) (.imm 11) .z .i32 with round := 2, slot := 2 })
  ∧ decode 0x600001084004CF9C00500860 = some (.ld { Rules.plainWord (.v 4) (.s 8) (.v 2) .z .u32 with scope := 2, fspec := 0x60 })
  ∧ decode 0x600001084004CF9C00500000 = some (.ld (Rules.plainWord (.v 4) (.s 8) (.v 2) .z .u32))
  ∧ decode 0x60024508733ECF9C00500200 = some (.ldu { Rules.plainWord (.s 20) (.s 14) .z .z .u32 with chint := 2 })
  ∧ decode 0x900267C8A22A8B1C00000003 = some (.mma { Rules.plainWord .z (.s 20) (.s 21) (.s 22) .i8 with fspec := 3 })
  ∧ decode 0x001067CCFB3ECF9C00000000 = some (.rfh (Rules.plainWord .z .z .z .z .i8))
  ∧ decode 0xB800450CFB3ECF9C00700013 = some (.sysr { Rules.plainWord (.s 20) .z .z .z .u64 with fspec := 0x13 })
  ∧ decode 0xB80167C8033ECF9C00700029 = some (.sysw { Rules.plainWord .z (.s 0) .z .z .u64 with fspec := 0x29 })
  ∧ decode 0xB80401800B3ECF9C00500001 = some (.perfRd { Rules.plainWord (.v 6) (.v 1) .z .z .u32 with fspec := 1 })
  ∧ decode 0xA00767CF833ECF9C00000000 = some (.topk (Rules.plainWord .z (.imm 16) .z .z .i8))
  ∧ decode 0x800067C81218CF9C00000000 = some (.frontJoin (Rules.plainWord .z (.s 2) (.s 12) .z .i8))

/-- R57, R84, R386, R391: what cold reset leaves, where the manual says it: the hash masks, no work and no queued request, the clock at 0 and running at full frequency, no thermal trip, every core with the pool boundaries of R57; and memory in its canonical form. That memory lists nothing is the model's choice (log 1). -/
def Obligations.ResetState : Prop :=
  State.reset.hashm.map (fun m => m.toNat) = [0x1000000000, 0x2000000000, 0x4000000000, 0x8000000000, 0x100, 0x200, 0x400, 0x800, 0x1000, 0x80, 0x2000, 0x4000, 0x8000, 0x10000, 0x80, 0x100]
  ∧ MemOk State.reset ∧ State.reset.groups = [] ∧ State.reset.teams = [] ∧ State.reset.ops = [] ∧ State.reset.reqs = [] ∧ State.reset.clock = 0
  ∧ State.reset.power.trip = false ∧ State.reset.power.cur = 0 ∧ State.reset.halt.busy = false ∧ State.reset.stopped = false
  ∧ (∀ n, (State.reset.core n).pbReg = 32 ∧ (State.reset.core n).pbScr = 80 ∧ (State.reset.core n).pbPin = 0)

/-- Every step keeps memory in its canonical form: addresses rise and no listed byte is zero (the form of the model's memory, log 1). -/
def Obligations.StepsKeepMemoryCanonical : Prop := ∀ s s' : State, MemOk s → Steps s s' → MemOk s'
end

