-- ==== Sys2Proof/Laws/State.lean ====
section
/-! SUPPORT. What each named update of the state leaves as it was, field by field, and how a group, an arm and a register read after an update of it. -/

namespace Sys2Proof.Machine

/-! ### Lists -/

theorem find_updWhere_const {α : Type} (p : α → Bool) (y : α) (l : List α) (x : α) (h : (updWhere p (fun _ => y) l).find? p = some x) : x = y := by
  have hp := List.find?_some h
  have hm := List.mem_of_find?_eq_some h
  simp only [updWhere, List.mem_map] at hm
  obtain ⟨z, _, hz⟩ := hm
  by_cases hpz : p z <;> simp_all

theorem find_updWhere {α : Type} (p : α → Bool) (f : α → α) (hf : ∀ x, p (f x) = p x) (l : List α) :
    (updWhere p f l).find? p = (l.find? p).map f := by
  induction l with
  | nil => rfl
  | cons x t ih =>
    simp only [updWhere] at ih
    by_cases hx : p x <;> simp [updWhere, hx, hf, ih]

theorem find_updWhere_other {α : Type} (p q : α → Bool) (f : α → α) (hf : ∀ x, q x = true → p (f x) = false ∧ p x = false) (l : List α) :
    (updWhere q f l).find? p = l.find? p := by
  induction l with
  | nil => rfl
  | cons x t ih =>
    simp only [updWhere] at ih
    by_cases hq : q x
    · obtain ⟨h1, h2⟩ := hf x hq
      simp [updWhere, hq, h1, h2, ih]
    · by_cases hx : p x <;> simp [updWhere, hq, hx, ih]

/-! ### Fields that an update leaves -/

section
variable (s : State) (n k : Nat)

@[simp] theorem updCore_mem (f) : (s.updCore n f).mem = s.mem := rfl
@[simp] theorem updCore_groups (f) : (s.updCore n f).groups = s.groups := rfl
@[simp] theorem updCore_teams (f) : (s.updCore n f).teams = s.teams := rfl
@[simp] theorem updCore_tenants (f) : (s.updCore n f).tenants = s.tenants := rfl
@[simp] theorem updCore_launches (f) : (s.updCore n f).launches = s.launches := rfl
@[simp] theorem updCore_clock (f) : (s.updCore n f).clock = s.clock := rfl
@[simp] theorem updCore_reqs (f) : (s.updCore n f).reqs = s.reqs := rfl
@[simp] theorem updCore_asyncs (f) : (s.updCore n f).asyncs = s.asyncs := rfl
@[simp] theorem updCore_ctl (f) : (s.updCore n f).ctl = s.ctl := rfl
@[simp] theorem updCore_errs (f) : (s.updCore n f).errs = s.errs := rfl
@[simp] theorem updTeam_mem (f) : (s.updTeam n f).mem = s.mem := rfl
@[simp] theorem updTeam_groups (f) : (s.updTeam n f).groups = s.groups := rfl
@[simp] theorem updTeam_cores (f) : (s.updTeam n f).cores = s.cores := rfl
@[simp] theorem updTeam_tenants (f) : (s.updTeam n f).tenants = s.tenants := rfl
@[simp] theorem updTeam_launches (f) : (s.updTeam n f).launches = s.launches := rfl
@[simp] theorem updTeam_clock (f) : (s.updTeam n f).clock = s.clock := rfl
@[simp] theorem updTeam_errs (f) : (s.updTeam n f).errs = s.errs := rfl
@[simp] theorem updTenant_mem (f) : (s.updTenant n f).mem = s.mem := rfl
@[simp] theorem updTenant_groups (f) : (s.updTenant n f).groups = s.groups := rfl
@[simp] theorem updTenant_teams (f) : (s.updTenant n f).teams = s.teams := rfl
@[simp] theorem updTenant_cores (f) : (s.updTenant n f).cores = s.cores := rfl
@[simp] theorem updTenant_clock (f) : (s.updTenant n f).clock = s.clock := rfl
@[simp] theorem updTenant_errs (f) : (s.updTenant n f).errs = s.errs := rfl
@[simp] theorem updLaunch_mem (f) : (s.updLaunch n f).mem = s.mem := rfl
@[simp] theorem updLaunch_groups (f) : (s.updLaunch n f).groups = s.groups := rfl
@[simp] theorem updLaunch_teams (f) : (s.updLaunch n f).teams = s.teams := rfl
@[simp] theorem updLaunch_errs (f) : (s.updLaunch n f).errs = s.errs := rfl
@[simp] theorem updGroup_mem (f) : (s.updGroup n k f).mem = s.mem := rfl
@[simp] theorem updGroup_cores (f) : (s.updGroup n k f).cores = s.cores := rfl
@[simp] theorem updGroup_teams (f) : (s.updGroup n k f).teams = s.teams := rfl
@[simp] theorem updGroup_tenants (f) : (s.updGroup n k f).tenants = s.tenants := rfl
@[simp] theorem updGroup_launches (f) : (s.updGroup n k f).launches = s.launches := rfl
@[simp] theorem updGroup_clock (f) : (s.updGroup n k f).clock = s.clock := rfl
@[simp] theorem updGroup_reqs (f) : (s.updGroup n k f).reqs = s.reqs := rfl
@[simp] theorem updGroup_asyncs (f) : (s.updGroup n k f).asyncs = s.asyncs := rfl
@[simp] theorem updGroup_ctl (f) : (s.updGroup n k f).ctl = s.ctl := rfl
@[simp] theorem updGroup_errs (f) : (s.updGroup n k f).errs = s.errs := rfl
@[simp] theorem updArm_mem (c : CtxId) (f) : (s.updArm c f).mem = s.mem := rfl
@[simp] theorem updArm_cores (c : CtxId) (f) : (s.updArm c f).cores = s.cores := rfl
@[simp] theorem updArm_teams (c : CtxId) (f) : (s.updArm c f).teams = s.teams := rfl
@[simp] theorem updArm_tenants (c : CtxId) (f) : (s.updArm c f).tenants = s.tenants := rfl
theorem withLog_groups (x : Sparse 8) (y : Sparse 64) : ({ s with ctl := x, bbSeq := y } : State).groups = s.groups := rfl
@[simp] theorem bb_groups (a b c d : Nat) (i : W64) (e : Nat) : (s.bb a b c d i e).groups = s.groups := withLog_groups s _ _
theorem withLog_mem (x : Sparse 8) (y : Sparse 64) : ({ s with ctl := x, bbSeq := y } : State).mem = s.mem := rfl
@[simp] theorem bb_mem (a b c d : Nat) (i : W64) (e : Nat) : (s.bb a b c d i e).mem = s.mem := withLog_mem s _ _
theorem withLog_teams (x : Sparse 8) (y : Sparse 64) : ({ s with ctl := x, bbSeq := y } : State).teams = s.teams := rfl
@[simp] theorem bb_teams (a b c d : Nat) (i : W64) (e : Nat) : (s.bb a b c d i e).teams = s.teams := withLog_teams s _ _
theorem withLog_cores (x : Sparse 8) (y : Sparse 64) : ({ s with ctl := x, bbSeq := y } : State).cores = s.cores := rfl
@[simp] theorem bb_cores (a b c d : Nat) (i : W64) (e : Nat) : (s.bb a b c d i e).cores = s.cores := withLog_cores s _ _
theorem withLog_tenants (x : Sparse 8) (y : Sparse 64) : ({ s with ctl := x, bbSeq := y } : State).tenants = s.tenants := rfl
@[simp] theorem bb_tenants (a b c d : Nat) (i : W64) (e : Nat) : (s.bb a b c d i e).tenants = s.tenants := withLog_tenants s _ _
theorem withLog_clock (x : Sparse 8) (y : Sparse 64) : ({ s with ctl := x, bbSeq := y } : State).clock = s.clock := rfl
@[simp] theorem bb_clock (a b c d : Nat) (i : W64) (e : Nat) : (s.bb a b c d i e).clock = s.clock := withLog_clock s _ _
end

/-! ### Arms -/

@[simp] theorem arm_updArm (g : Group) (a : Nat) (f : Arm → Arm) : (g.updArm a f).arm a = f (g.arm a) := by
  unfold Group.updArm Group.arm
  split
  · rfl
  · split
    · rfl
    · split <;> rfl

@[simp] theorem updArm_team (g : Group) (a : Nat) (f : Arm → Arm) : (g.updArm a f).team = g.team := by
  unfold Group.updArm
  split
  · rfl
  · split
    · rfl
    · split <;> rfl

@[simp] theorem updArm_idx (g : Group) (a : Nat) (f : Arm → Arm) : (g.updArm a f).idx = g.idx := by
  unfold Group.updArm
  split
  · rfl
  · split
    · rfl
    · split <;> rfl

@[simp] theorem vput_vout (g : Group) (r L : Nat) (x : W32) : (g.vput r L x).vout = g.vout := rfl
@[simp] theorem vput_delivered (g : Group) (r L : Nat) (x : W32) : (g.vput r L x).delivered = g.delivered := rfl
@[simp] theorem vpoison_vout (g : Group) (r L : Nat) : (g.vpoison r L).vout = g.vout := rfl
@[simp] theorem pput_vclean (g : Group) (i L : Nat) (b : Bool) : (g.pput i L b).vclean = g.vclean := rfl
@[simp] theorem pput_vout (g : Group) (i L : Nat) (b : Bool) : (g.pput i L b).vout = g.vout := rfl

/-- A change of a group that keeps its name and its arms: every write of registers and predicates. -/
structure Keeps (f : Group → Group) : Prop where
  team : ∀ g, (f g).team = g.team
  idx : ∀ g, (f g).idx = g.idx
  arm : ∀ g a, (f g).arm a = g.arm a

theorem Keeps.comp {f g : Group → Group} (hf : Keeps f) (hg : Keeps g) : Keeps (fun x => f (g x)) :=
  ⟨fun x => (hf.team _).trans (hg.team x), fun x => (hf.idx _).trans (hg.idx x), fun x a => (hf.arm _ a).trans (hg.arm x a)⟩

theorem Keeps.id : Keeps (fun g => g) := ⟨fun _ => rfl, fun _ => rfl, fun _ _ => rfl⟩

theorem Keeps.foldl {α : Type} (f : Group → α → Group) (hf : ∀ x, Keeps (fun g => f g x)) (l : List α) : Keeps (fun g => l.foldl f g) := by
  induction l with
  | nil => exact Keeps.id
  | cons x t ih => exact Keeps.comp (f := fun g => t.foldl f g) (g := fun g => f g x) ih (hf x)

theorem Keeps.vput (r lane : Nat) (x : W32) : Keeps (fun g => g.vput r lane x) := ⟨fun _ => rfl, fun _ => rfl, fun _ _ => rfl⟩
theorem Keeps.vpoison (r lane : Nat) : Keeps (fun g => g.vpoison r lane) := ⟨fun _ => rfl, fun _ => rfl, fun _ _ => rfl⟩
theorem Keeps.pput (i lane : Nat) (b : Bool) : Keeps (fun g => g.pput i lane b) := ⟨fun _ => rfl, fun _ => rfl, fun _ _ => rfl⟩

theorem Keeps.sput (sel r : Nat) (x : W32) : Keeps (fun g => g.sput sel r x) := by
  constructor <;> intro g <;> unfold Group.sput <;> split <;> intros <;> rfl

theorem Keeps.qput (sel i : Nat) (b : Bool) : Keeps (fun g => g.qput sel i b) := by
  constructor <;> intro g <;> unfold Group.qput <;> split <;> intros <;> rfl

theorem Keeps.vwrite (t : Ty) (r L : Nat) (x : W64) : Keeps (fun g => g.vwrite t r L x) := by
  unfold Group.vwrite
  split
  · exact Keeps.comp (Keeps.vput (r + 1) L (hiOf x)) (Keeps.vput r L (loOf x))
  · exact Keeps.vput r L _

theorem Keeps.swrite (t : Ty) (sel r : Nat) (x : W64) : Keeps (fun g => g.swrite t sel r x) := by
  unfold Group.swrite
  split
  · exact Keeps.comp (Keeps.sput sel (r + 1) (hiOf x)) (Keeps.sput sel r (loOf x))
  · exact Keeps.sput sel r _

/-! ### Groups after an update -/

theorem group_updGroup (s : State) (t k : Nat) (f : Group → Group) (hf : ∀ g, (f g).team = g.team ∧ (f g).idx = g.idx) :
    (s.updGroup t k f).group t k = (s.group t k).map f :=
  find_updWhere _ f (fun x => by simp [hf x]) _

theorem group_updGroup_other (s : State) (t k t' k' : Nat) (f : Group → Group) (hf : ∀ g, (f g).team = g.team ∧ (f g).idx = g.idx) (h : ¬(t' = t ∧ k' = k)) :
    (s.updGroup t k f).group t' k' = s.group t' k' := by
  refine find_updWhere_other _ _ f (fun x hx => ?_) _
  simp only [Bool.and_eq_true, beq_iff_eq] at hx
  have : ¬(x.team = t' ∧ x.idx = k') := fun hh => h ⟨hh.1.symm.trans hx.1, hh.2.symm.trans hx.2⟩
  rw [hf x |>.1, hf x |>.2]
  have : (x.team == t' && x.idx == k') = false := by
    rw [Bool.eq_false_iff]; intro hc; simp only [Bool.and_eq_true, beq_iff_eq] at hc; exact this hc
  exact ⟨this, this⟩

end Sys2Proof.Machine
end

