-- ==== Sys2Proof/Laws/Issue.lean ====
section
/-! SUPPORT. What issuing a slot answers, case by case, in terms of its gate and its meaning's body: the lemmas that every statement about one instruction cites in place of unfolding `issue`. -/

namespace Sys2Proof.Machine

/-- A run of a body keeps the issuing context out of a wait. -/
def Body.Settles (b : Body) (c : CtxId) : Prop := ∀ cx a s, cx.c = c → s.stays c = false → (b.run cx a s).stays c = false

theorem issue_noContext (i : Instr) (s : State) (b : Body) (h : gate i s = .noContext) : issue i s b = .fault .noContext := by
  simp [issue, h]

theorem issue_hold (i : Instr) (s : State) (b : Body) (h : gate i s = .hold) : issue i s b = .next s := by
  simp [issue, h]

theorem issue_trap (i : Instr) (s : State) (b : Body) (cx : Cx) (bad : Bad) (h : gate i s = .trap cx bad) : issue i s b = .next (cx.trap bad s) := by
  simp [issue, h]

theorem issue_skip (i : Instr) (s : State) (b : Body) (cx : Cx) (h : gate i s = .skip cx) :
    issue i s b = .next (cx.advance (cx.passed i s)) := by
  simp [issue, h]

/-- A condition of the meaning's own is taken as a trap. -/
theorem issue_bad (i : Instr) (s : State) (b : Body) (cx : Cx) (bad : Bad) (h : gate i s = .go cx) (hh : b.hold cx s = false)
    (hb : b.first i (isVector i.form cx.h) cx s = some bad) : issue i s b = .next (cx.trap bad s) := by
  simp [issue, h, hh, hb]

/-- The effect of a slot that passes every condition. -/
theorem issue_effect (i : Instr) (s : State) (b : Body) (cx : Cx) (h : gate i s = .go cx) (hh : b.hold cx s = false)
    (hb : b.first i (isVector i.form cx.h) cx s = none) :
    issue i s b = .next (b.effect i (isVector i.form cx.h) cx (cx.opened s)) := by
  simp [issue, h, hh, hb, Cx.opened]

theorem Cx.first_wait {cx : Cx} (h : cx.first = true) :
    (cx.g.arm cx.c.arm).wait.resumed = false ∧ (cx.g.arm cx.c.arm).wait.rel = false ∧ (cx.g.arm cx.c.arm).wait.exec = 0 := by
  simpa [Cx.first, and_assoc] using h

theorem Cx.first_kind {cx : Cx} (h : cx.first = true) :
    (cx.g.arm cx.c.arm).wait.unissued = false := by
  have := (Cx.first_wait h).1
  revert this
  cases hk : (cx.g.arm cx.c.arm).wait.kind <;> simp [Wait.resumed, Wait.unissued, hk] <;> decide

theorem pendingOn_nil (s : State) (w : Wait) (h : w.ids = []) (h' : w.asy = []) : s.pendingOn w = false := by
  simp [State.pendingOn, h, h']

/-- With no lines to write back, only the release comes before the effect. -/
theorem Body.before_eq (b : Body) (cx : Cx) (s : State) (hf : ∀ s, b.flush cx s = []) : b.before cx s = cx.release (b.rel cx) s := by
  unfold Body.before Cx.release
  cases b.rel cx <;> cases s.team cx.c.team <;> simp [hf, State.flushLines]

/-- Once its release is over, with no lines to write back, the effect starts. -/
theorem Body.effect_now (b : Body) (i : Instr) (vec : Bool) (cx : Cx) (s : State) (h1 : cx.first = true)
    (hr : (cx.release (b.rel cx) s).1.pendingOn (cx.release (b.rel cx) s).2 = false)
    (hf : ∀ s, b.flush cx s = []) : b.effect i vec cx s = b.perform i vec cx (cx.release (b.rel cx) s).1 := by
  unfold Body.effect
  simp only [Cx.first_kind h1, (Cx.first_wait h1).2.1, Bool.false_eq_true, if_false]
  have e := b.before_eq cx s hf
  simp only [e, hr, Bool.false_eq_true, if_false]

theorem Body.runArms_each (b : Body) (cx : Cx) (hs : b.Settles cx.c) :
    ∀ (all l : List Nat) (k : Nat) (s : State), s.stays cx.c = false →
      b.runArms cx all k l s = cx.each b.run l s ∧ (cx.each b.run l s).stays cx.c = false := by
  intro all l
  induction l with
  | nil => intro k s h; exact ⟨rfl, h⟩
  | cons a t ih =>
    intro k s h
    have h' : (b.run (cx.refresh s) a s).stays cx.c = false := hs _ a s rfl h
    simp only [Body.runArms, Cx.each, h', Bool.and_false, Bool.false_eq_true, if_false]
    exact ih (k + 1) _ h'

/-! ### The issuing context is in no wait -/

theorem stays_congr {s s' : State} (h : s.groups = s'.groups) (c : CtxId) : s.stays c = s'.stays c := by
  simp [State.stays, State.armOf, State.group, h]

/-- A change of a group that leaves its arms leaves a context's wait. -/
theorem stays_updGroup (s : State) (t k : Nat) (f : Group → Group) (hf : Keeps f) (c : CtxId) : (s.updGroup t k f).stays c = s.stays c := by
  have hg : ∀ g, (f g).team = g.team ∧ (f g).idx = g.idx := fun g => ⟨hf.team g, hf.idx g⟩
  by_cases h : c.team = t ∧ c.grp = k
  · obtain ⟨rfl, rfl⟩ := h
    simp only [State.stays, State.armOf, group_updGroup s c.team c.grp f hg, Option.map_map]
    cases s.group c.team c.grp with
    | none => rfl
    | some g => simp [hf.arm]
  · simp only [State.stays, State.armOf, group_updGroup_other s t k c.team c.grp f hg h]

/-- The group of a slot that issues is in no wait. -/
theorem stays_opened (cx : Cx) (s : State) (h : cx.first = true) :
    (cx.opened s).stays cx.c = false := by
  simp only [State.stays, State.armOf]
  cases hg : (cx.opened s).group cx.c.team cx.c.grp with
  | none => rfl
  | some x =>
    have hx := find_updWhere_const _ _ _ _ hg
    subst hx
    have hk := (Cx.first_wait h).1
    simp only [Option.map_some, Group.endYield, arm_updArm]
    revert hk
    cases hk : (cx.g.arm cx.c.arm).wait.kind <;> simp [Wait.resumed, hk]

theorem issued_stays (cx : Cx) (vec : Bool) (s : State) (c : CtxId) : (cx.issued vec s).stays c = s.stays c := by
  unfold Cx.issued
  extract_lets s1 s2 skid
  have hs : s2.groups = s.groups := by
    show (if cx.h.yield then s1.yieldPorts cx.c cx.core else s1).groups = s.groups
    have : s1.groups = s.groups := by show (if vec then _ else s).groups = s.groups; split <;> rfl
    split <;> exact this
  rw [stays_congr hs.symm c]
  have hg : ∀ g : Group, (({ (g.updArm cx.c.arm (fun a => { a with since := s2.clock, due := false })) with skidSlots := (if skid && !cx.again then Nat.min (g.skidSlots + 1) 255 else g.skidSlots) } : Group).team = g.team) ∧
      (({ (g.updArm cx.c.arm (fun a => { a with since := s2.clock, due := false })) with skidSlots := (if skid && !cx.again then Nat.min (g.skidSlots + 1) 255 else g.skidSlots) } : Group).idx = g.idx) :=
    fun g => ⟨updArm_team g _ _, updArm_idx g _ _⟩
  by_cases h : c.team = cx.c.team ∧ c.grp = cx.c.grp
  · simp only [State.stays, State.armOf]
    rw [h.1, h.2, group_updGroup _ _ _ _ hg]
    cases s2.group cx.c.team cx.c.grp with
    | none => rfl
    | some g =>
      simp only [Option.map_some]
      have : ∀ (g : Group) (a b : Nat) (f : Arm → Arm) (_ : ∀ x, (f x).wait = x.wait), ((g.updArm a f).arm b).wait = (g.arm b).wait := by
        intro g a b f hf
        unfold Group.updArm Group.arm
        by_cases h0 : a = 0 <;> by_cases h1 : a = 1 <;> by_cases h2 : a = 2 <;> by_cases k0 : b = 0 <;> by_cases k1 : b = 1 <;> by_cases k2 : b = 2 <;> simp [h0, h1, h2, k0, k1, k2, hf]
      have e := this g cx.c.arm c.arm (fun a => { a with since := s2.clock, due := false }) (fun _ => rfl)
      show (((g.updArm cx.c.arm _).arm c.arm).wait.kind != WaitKind.idle) = _
      rw [e]
  · simp only [State.stays, State.armOf, group_updGroup_other _ _ _ _ _ _ hg h]

theorem foldl_groups {α : Type} (f : State → α → State) (hf : ∀ s x, (f s x).groups = s.groups) (l : List α) (s : State) : (l.foldl f s).groups = s.groups := by
  induction l generalizing s with
  | nil => rfl
  | cons x t ih => exact (ih _).trans (hf s x)

theorem deferred_groups (cx : Cx) (i : Instr) (vec : Bool) (used : List (Nat × Nat)) (s : State) : (cx.deferred i vec used s).groups = s.groups :=
  foldl_groups _ (fun _ _ => bb_groups ..) _ _

theorem foldl_writeBack_groups (core : Nat) (l : List Line) (s : State) : (l.foldl (fun s x => s.writeBack core x.addr) s).groups = s.groups := by
  refine foldl_groups _ (fun s x => ?_) l s
  unfold State.writeBack
  split
  · rfl
  · dsimp only
    split
    · rfl
    · simp only [updCore_groups, State.send, State.noFill, State.note]
      split <;> rfl

theorem release_groups (cx : Cx) (scope : Option Nat) (s : State) : (cx.release scope s).1.groups = s.groups := by
  unfold Cx.release
  split
  · unfold State.startRelease
    dsimp only
    split
    · rfl
    · split
      · exact foldl_writeBack_groups ..
      · rfl
  · rfl

theorem starts_stays (cx : Cx) (i : Instr) (scope : Option Nat) (s : State) (ws : List (Nat × Nat)) (h : cx.first = true) : (cx.starts i scope s ws).stays cx.c = false := by
  unfold Cx.starts
  rw [issued_stays, stays_congr (deferred_groups cx i _ _ _) cx.c, stays_congr (release_groups cx scope _) cx.c]
  exact stays_opened cx s h

/-! ### A slot that completes -/

/-- A slot whose conditions are passed and whose release is over, whose meaning neither waits nor moves the PC itself, completes (R44, R45, R95, R181, R188). -/
theorem issue_completes (i : Instr) (s : State) (b : Body) (cx : Cx) (h : gate i s = .go cx) (h1 : cx.first = true) (hown : b.own = false)
    (hh : b.hold cx s = false) (hb : b.first i (isVector i.form cx.h) cx s = none) (hr : cx.released (b.rel cx) s) (hf : ∀ s, b.flush cx s = [])
    (ho : b.once = false) (hs : b.Settles cx.c) :
    issue i s b = .next (cx.completes i b.run (cx.starts i (b.rel cx) s (b.words i (isVector i.form cx.h) cx))) := by
  rw [issue_effect i s b cx h hh hb, Body.effect_now b i _ cx _ h1 hr hf]
  unfold Body.perform Cx.completes Cx.leaves
  have hk := (Cx.first_wait h1).2.2
  have ha : b.arms cx (isVector i.form cx.h) = cx.arms (isVector i.form cx.h) := by simp [Body.arms, ho]
  have ha' : b.arms { cx with wb := true } (isVector i.form cx.h) = cx.arms (isVector i.form cx.h) := by simp [Body.arms, ho, Cx.arms, Cx.again]
  have hst := starts_stays cx i (b.rel cx) s (b.words i (isVector i.form cx.h) cx) h1
  have e := b.runArms_each cx hs (cx.arms (isVector i.form cx.h)) (cx.arms (isVector i.form cx.h)) 0 _ hst
  have e' := b.runArms_each { cx with wb := true } hs (cx.arms (isVector i.form cx.h)) (cx.arms (isVector i.form cx.h)) 0 _ hst
  unfold Cx.starts at e e' ⊢
  simp only [hk, ha, ha', List.drop_zero, e.1, e.2, hown, Bool.or_self, Bool.not_false, Bool.and_true, Bool.false_eq_true, if_false]
  cases cx.h.cap.isSome
  · rfl
  · cases hw : cx.wb
    · exact congrArg (fun x => Host.Outcome.next (cx.advance (cx.capture x _))) e'.1
    · rfl

/-- A slot whose meaning moves the PC itself leaves the state of its effect (R45). -/
theorem issue_leaves (i : Instr) (s : State) (b : Body) (cx : Cx) (h : gate i s = .go cx) (h1 : cx.first = true) (hown : b.own = true)
    (hh : b.hold cx s = false) (hb : b.first i (isVector i.form cx.h) cx s = none) (hr : cx.released (b.rel cx) s) (hf : ∀ s, b.flush cx s = [])
    (hc : cx.h.cap = none) :
    issue i s b = .next (cx.each b.run (b.arms cx (isVector i.form cx.h)) (cx.starts i (b.rel cx) s (b.words i (isVector i.form cx.h) cx))) := by
  rw [issue_effect i s b cx h hh hb, Body.effect_now b i _ cx _ h1 hr hf]
  have e : ∀ (all l : List Nat) (k : Nat) (s : State), b.runArms cx all k l s = cx.each b.run l s := by
    intro all l
    induction l with
    | nil => intro k s; rfl
    | cons a t ih => intro k s; simp [Body.runArms, Cx.each, hown, ih]
  unfold Body.perform Cx.starts
  simp [e, hown, hc, (Cx.first_wait h1).2.2]

/-- A slot whose release is not over waits at its slot (R95). -/
theorem issue_waits (i : Instr) (s : State) (b : Body) (cx : Cx) (h : gate i s = .go cx) (h1 : cx.first = true)
    (hh : b.hold cx s = false) (hb : b.first i (isVector i.form cx.h) cx s = none) (hr : ¬ cx.released (b.rel cx) s) (hf : ∀ s, b.flush cx s = []) :
    issue i s b = .next (cx.stay (cx.release (b.rel cx) (cx.opened s)).2 (cx.release (b.rel cx) (cx.opened s)).1) := by
  rw [issue_effect i s b cx h hh hb]
  unfold Body.effect
  simp only [Cx.first_kind h1, (Cx.first_wait h1).2.1, Bool.false_eq_true, if_false]
  have e := b.before_eq cx (cx.opened s) hf
  have hp : (cx.release (b.rel cx) (cx.opened s)).1.pendingOn (cx.release (b.rel cx) (cx.opened s)).2 = true := by
    simpa [Cx.released] using hr
  simp only [e, hp, if_true]

theorem released_none (cx : Cx) (s : State) : cx.released none s := pendingOn_nil _ _ rfl rfl

end Sys2Proof.Machine
end

