-- ==== Sys2Proof/Laws/Memory.lean ====
section
/-! SUPPORT. The laws of sparse contents: what a read finds after a write, and that every operation over memory keeps its canonical form. -/

namespace Sys2Proof

/-! ### Reads after writes -/

variable {w : Nat}

theorem get_erase (m : Sparse w) (a b : Nat) : (Sparse.erase m a).get b = if b = a then 0 else Sparse.get m b := by
  induction m with
  | nil => simp [Sparse.erase, Sparse.get]
  | cons p t ih =>
    obtain ⟨k, x⟩ := p
    by_cases hk : k = a <;> by_cases hb : k = b <;> simp_all [Sparse.erase, Sparse.get] <;> omega

theorem get_insert (m : Sparse w) (a b : Nat) (v : BitVec w) (h : Sparse.get m a = 0 ∧ ∀ p ∈ m, p.1 ≠ a) :
    (Sparse.insert m a v).get b = if b = a then v else Sparse.get m b := by
  induction m with
  | nil => by_cases hb : a = b <;> simp_all [Sparse.insert, Sparse.get, eq_comm]
  | cons p t ih =>
    obtain ⟨k, x⟩ := p
    have hk : k ≠ a := h.2 (k, x) (List.mem_cons_self ..)
    have ht : Sparse.get t a = 0 ∧ ∀ p ∈ t, p.1 ≠ a := ⟨by simpa [Sparse.get, hk] using h.1, fun p hp => h.2 p (List.mem_cons_of_mem _ hp)⟩
    by_cases hlt : a < k
    · by_cases hb : b = a
      · simp [Sparse.insert, Sparse.get, hlt, hb]
      · simp [Sparse.insert, Sparse.get, hlt, hb, Ne.symm hb]
    · rw [Sparse.insert, if_neg hlt, Sparse.get, Sparse.get, ih ht]
      split
      · next hb => rw [if_neg (hb ▸ hk)]
      · rfl

theorem not_mem_erase (m : Sparse w) (a : Nat) : ∀ p ∈ Sparse.erase m a, p.1 ≠ a := by
  induction m with
  | nil => simp [Sparse.erase]
  | cons q t ih =>
    obtain ⟨k, x⟩ := q
    by_cases hk : k = a
    · simpa [Sparse.erase, hk] using ih
    · intro p hp
      simp only [Sparse.erase, hk, if_false, List.mem_cons] at hp
      rcases hp with rfl | hp
      · exact hk
      · exact ih p hp

/-- A read after a write: the value at its index, and every other as before. -/
@[simp] theorem get_set (m : Sparse w) (a b : Nat) (v : BitVec w) : (Sparse.set m a v).get b = if b = a then v else Sparse.get m b := by
  unfold Sparse.set
  split
  · next hv => rw [get_erase, hv]
  · rw [get_insert _ _ _ _ ⟨by rw [get_erase]; simp, not_mem_erase m a⟩, get_erase]
    split <;> rfl

/-- What each byte is after a write of n bytes. -/
theorem get_write (n a v b : Nat) (m : Sparse 8) :
    (Sparse.write m a n v).get b = if a ≤ b ∧ b < a + n then BitVec.ofNat 8 (v / 256 ^ (b - a)) else Sparse.get m b := by
  induction n generalizing a v m with
  | zero => rw [if_neg (by omega)]; rfl
  | succ n ih =>
    rw [Sparse.write, ih, get_set]
    by_cases hb : b = a
    · subst hb
      rw [if_neg (by omega), if_pos rfl, if_pos (by omega)]
      simp
    · by_cases h : a + 1 ≤ b ∧ b < a + 1 + n
      · have e : b - a = (b - (a + 1)) + 1 := by omega
        rw [if_pos h, if_pos (by omega), e, Nat.pow_succ, Nat.mul_comm, ← Nat.div_div_eq_div_mul]
      · rw [if_neg h, if_neg hb, if_neg (by omega)]

/-- What each byte is after a write of the bytes of a mask. -/
theorem get_writeMask (n a mask v b : Nat) (m : Sparse 8) :
    (Sparse.writeMask m a n mask v).get b = if a ≤ b ∧ b < a + n ∧ mask.testBit (b - a) then BitVec.ofNat 8 (v / 256 ^ (b - a)) else Sparse.get m b := by
  induction n generalizing a mask v m with
  | zero => simp [Sparse.writeMask]; omega
  | succ n ih =>
    rw [Sparse.writeMask, ih]
    by_cases hb : b = a
    · subst hb
      rw [if_neg (by omega)]
      by_cases hm : mask % 2 = 1 <;> simp [hm, Nat.testBit_zero]
    · have hs : Sparse.get (if mask % 2 = 1 then m.set a (BitVec.ofNat 8 v) else m) b = Sparse.get m b := by split <;> simp [hb]
      by_cases h : a + 1 ≤ b ∧ b < a + 1 + n
      · have e : b - a = (b - (a + 1)) + 1 := by omega
        have h' : a ≤ b ∧ b < a + (n + 1) := by omega
        simp only [h, h', true_and, e, Nat.testBit_succ, hs, Nat.pow_succ, Nat.mul_comm _ 256, ← Nat.div_div_eq_div_mul]
      · have h' : ¬ (a ≤ b ∧ b < a + (n + 1)) := by omega
        simp only [← and_assoc, h, h', false_and, if_false, hs]

/-- Reading back a write gives its value modulo its width. -/
theorem read_write (n a v : Nat) (m : Sparse 8) : (Sparse.write m a n v).read a n = v % 256 ^ n := by
  have aux : ∀ (k b : Nat) (f : Sparse 8), (∀ i, i < k → Sparse.get f (b + i) = BitVec.ofNat 8 (v / 256 ^ (b - a + i))) → a ≤ b →
      f.read b k = (v / 256 ^ (b - a)) % 256 ^ k := by
    intro k
    induction k with
    | zero => intro b f _ _; simp [Sparse.read, Nat.mod_one]
    | succ k ih =>
      intro b f hf hb
      have h0 : Sparse.get f b = BitVec.ofNat 8 (v / 256 ^ (b - a)) := by simpa using hf 0 (by omega)
      have h1 := ih (b + 1) f (fun i hi => by rw [show b + 1 + i = b + (i + 1) by omega, hf (i + 1) (by omega)]; congr 2; congr 1; omega) (by omega)
      rw [Sparse.read, h0, h1, show b + 1 - a = b - a + 1 by omega, Nat.pow_succ, Nat.pow_succ, Nat.mul_comm (256 ^ k) 256, Nat.mod_mul, ← Nat.div_div_eq_div_mul]
      simp
  simpa using aux n a _ (fun i hi => by rw [get_write, if_pos (by omega)]; simp) (Nat.le_refl a)

/-! ### The canonical form -/

theorem wfFrom_cons {k n : Nat} {x : BitVec w} {t : Sparse w} : Sparse.wfFrom n ((k, x) :: t) = true ↔ n ≤ k ∧ x ≠ 0 ∧ Sparse.wfFrom (k + 1) t = true := by
  simp only [Sparse.wfFrom, Bool.and_eq_true, decide_eq_true_eq, and_assoc]

theorem wfFrom_le {m : Sparse w} {n k : Nat} (h : Sparse.wfFrom n m = true) (hk : k ≤ n) : Sparse.wfFrom k m = true := by
  cases m with
  | nil => rfl
  | cons p t =>
    have h' := wfFrom_cons.mp h
    exact wfFrom_cons.mpr ⟨by omega, h'.2⟩

theorem erase_wfFrom {m : Sparse w} {n : Nat} (a : Nat) (h : Sparse.wfFrom n m = true) : (Sparse.erase m a).wfFrom n = true := by
  induction m generalizing n with
  | nil => rfl
  | cons p t ih =>
    obtain ⟨hk, hx, ht⟩ := wfFrom_cons.mp h
    unfold Sparse.erase
    split
    · exact wfFrom_le (ih ht) (by omega)
    · exact wfFrom_cons.mpr ⟨hk, hx, ih ht⟩

theorem insert_wfFrom {m : Sparse w} {n a : Nat} {v : BitVec w} (h : Sparse.wfFrom n m = true) (hn : n ≤ a) (hv : v ≠ 0) (hm : ∀ p ∈ m, p.1 ≠ a) :
    (Sparse.insert m a v).wfFrom n = true := by
  induction m generalizing n with
  | nil => exact wfFrom_cons.mpr ⟨hn, hv, rfl⟩
  | cons p t ih =>
    obtain ⟨hk, hx, ht⟩ := wfFrom_cons.mp h
    have hne : p.1 ≠ a := hm p (List.mem_cons_self ..)
    unfold Sparse.insert
    split
    · next hlt => exact wfFrom_cons.mpr ⟨hn, hv, wfFrom_cons.mpr ⟨hlt, hx, ht⟩⟩
    · next hlt => exact wfFrom_cons.mpr ⟨hk, hx, ih ht (by simp at hne hlt; omega) (fun q hq => hm q (List.mem_cons_of_mem _ hq))⟩

/-- Writing one value keeps the canonical form. -/
theorem set_wf {m : Sparse w} (a : Nat) (v : BitVec w) (h : m.wf = true) : (Sparse.set m a v).wf = true := by
  unfold Sparse.set
  split
  · exact erase_wfFrom a h
  · next hv => exact insert_wfFrom (erase_wfFrom a h) (Nat.zero_le _) hv (not_mem_erase m a)

/-- Writing bytes keeps the canonical form. -/
theorem write_wf {m : Sparse 8} (a n v : Nat) (h : m.wf = true) : (Sparse.write m a n v).wf = true := by
  induction n generalizing a v m with
  | zero => exact h
  | succ n ih => exact ih _ _ (set_wf _ _ h)

theorem writeMask_wf {m : Sparse 8} (a n mask v : Nat) (h : m.wf = true) : (Sparse.writeMask m a n mask v).wf = true := by
  induction n generalizing a mask v m with
  | zero => exact h
  | succ n ih => exact ih _ _ _ (by split <;> first | exact set_wf _ _ h | exact h)

theorem filter_wfFrom {m : Sparse w} {n : Nat} (p : Nat × BitVec w → Bool) (h : Sparse.wfFrom n m = true) : Sparse.wfFrom n (m.filter p) = true := by
  induction m generalizing n with
  | nil => rfl
  | cons q t ih =>
    obtain ⟨hk, hx, ht⟩ := wfFrom_cons.mp h
    by_cases hp : p q
    · rw [List.filter_cons_of_pos hp]
      exact wfFrom_cons.mpr ⟨hk, hx, ih ht⟩
    · rw [List.filter_cons_of_neg hp]
      exact wfFrom_le (ih ht) (by omega)

/-- Keeping only some entries keeps the canonical form. -/
theorem filter_wf {m : Sparse w} (p : Nat × BitVec w → Bool) (h : m.wf = true) : Sparse.wf (m.filter p) = true := filter_wfFrom p h

/-- Writing a list of values keeps the canonical form. -/
theorem foldl_set_wf {α : Type} (l : List α) (key : α → Nat) (val : α → BitVec w) {m : Sparse w} (h : m.wf = true) :
    (l.foldl (fun m p => Sparse.set m (key p) (val p)) m).wf = true := by
  induction l generalizing m with
  | nil => exact h
  | cons p t ih => exact ih (set_wf _ _ h)

/-! ### Memory -/

theorem wf_nil : Memory.wf [] = true := rfl

/-- Reset memory is canonical: it lists nothing (log 1). -/
theorem reset_wf : Memory.wf Machine.State.reset.mem = true := rfl

namespace Machine

@[simp] theorem wake_mem (s : State) (c : CtxId) (v : W32) : (s.wake c v).mem = s.mem := by
  unfold State.wake
  repeat' split
  all_goals rfl

theorem foldl_wake_mem (l : List TlWaiter) (s : State) : (l.foldl (fun s w => s.wake w.c 1) s).mem = s.mem := by
  induction l generalizing s with
  | nil => rfl
  | cons w t ih => rw [List.foldl_cons, ih, wake_mem]

@[simp] theorem evalTl_mem (s : State) (lo n : Nat) : (s.evalTl lo n).mem = s.mem := foldl_wake_mem _ _

@[simp] theorem note_mem (s : State) (pa : Nat) : (s.note pa).mem = s.mem := by
  unfold State.note
  repeat' split
  all_goals rfl

/-- What each byte is after a write of the bytes of a mask to memory (R4). -/
@[simp] theorem pokeMask_mem (s : State) (pa n mask v : Nat) : (s.pokeMask pa n mask v).mem = Sparse.writeMask s.mem pa n mask v := by
  unfold State.pokeMask
  rw [evalTl_mem]

@[simp] theorem poke_mem (s : State) (pa n v : Nat) : (s.poke pa n v).mem = Sparse.writeMask s.mem pa n (2 ^ n - 1) v := by
  unfold State.poke
  rw [pokeMask_mem, note_mem]

/-- What each byte is after n bytes are written to memory (R4). -/
theorem poke_get (s : State) (pa n v b : Nat) :
    (s.poke pa n v).mem.get b = if pa ≤ b ∧ b < pa + n then BitVec.ofNat 8 (v / 256 ^ (b - pa)) else s.mem.get b := by
  rw [poke_mem, get_writeMask]
  by_cases h : pa ≤ b ∧ b < pa + n
  · rw [if_pos h, if_pos ⟨h.1, h.2, by rw [Nat.testBit_two_pow_sub_one]; simp; omega⟩]
  · rw [if_neg h, if_neg (fun h' => h ⟨h'.1, h'.2.1⟩)]

/-- Every write to memory keeps its canonical form. -/
theorem pokeMask_wf (s : State) (pa n mask v : Nat) (h : Memory.wf s.mem = true) : Memory.wf (s.pokeMask pa n mask v).mem = true := by
  rw [pokeMask_mem]
  exact writeMask_wf _ _ _ _ h

theorem poke_wf (s : State) (pa n v : Nat) (h : Memory.wf s.mem = true) : Memory.wf (s.poke pa n v).mem = true := by
  rw [poke_mem]
  exact writeMask_wf _ _ _ _ h

/-- A page moved between tiers, a hash mask written and a program placed keep it (R86, R87). -/
theorem moveRange_wf (s : State) (dst src n : Nat) (h : Memory.wf s.mem = true) : Memory.wf (s.moveRange dst src n).mem = true :=
  foldl_set_wf _ _ _ (filter_wf _ h)

theorem setMaskReg_wf (s : State) (i : Nat) (x : W64) : Memory.wf (s.setMaskReg i x).mem = true := foldl_set_wf _ _ _ wf_nil

theorem place_wf (s : State) (x : Nat) (h : Memory.wf s.mem = true) : Memory.wf (s.place x).mem = true := write_wf _ _ _ h

end Machine

end Sys2Proof
end

