-- ==== Sys2Proof/Laws/Operands.lean ====
section
/-! SUPPORT. What the writes of registers and predicates leave: every arm and its wait, every other group, and all of the state but the groups; and what they write. -/

namespace Sys2Proof.Machine

/-- A list of register writes keeps a group's name and arms. -/
theorem Keeps.writes (cx : Cx) (t : Ty) (vals : List (Nat × W64)) :
    Keeps (fun g => vals.foldl (fun g p => match cx.vreg cx.h.dst p.1 with | some r => g.vwrite t r p.1 p.2 | none => g) g) := by
  refine Keeps.foldl _ (fun x => ?_) vals
  cases h : cx.vreg cx.h.dst x.1 with
  | none => exact Keeps.id
  | some r => exact Keeps.vwrite t r x.1 x.2

theorem Keeps.preds (i : Nat) (vals : List (Nat × Bool)) : Keeps (fun g => vals.foldl (fun g p => g.pput i p.1 p.2) g) :=
  Keeps.foldl _ (fun x => Keeps.pput i x.1 x.2) vals

theorem writeV_stays (cx : Cx) (t : Ty) (vals : List (Nat × W64)) (s : State) (c : CtxId) : (cx.writeV t vals s).stays c = s.stays c := by
  unfold Cx.writeV
  split
  · exact stays_updGroup _ _ _ _ (Keeps.writes cx t vals) c
  · rfl

theorem writeU_stays (cx : Cx) (sel : Nat) (t : Ty) (x : W64) (s : State) (c : CtxId) : (cx.writeU sel t x s).stays c = s.stays c := by
  unfold Cx.writeU
  split
  · split
    · exact stays_updGroup _ _ _ _ (Keeps.swrite t sel _ x) c
    · rfl
  · rfl

theorem writeP_stays (cx : Cx) (i : Nat) (vals : List (Nat × Bool)) (s : State) (c : CtxId) : (cx.writeP i vals s).stays c = s.stays c := by
  unfold Cx.writeP
  split
  · rfl
  · exact stays_updGroup _ _ _ _ (Keeps.preds i vals) c

theorem writeQ_stays (cx : Cx) (sel i : Nat) (b : Bool) (s : State) (c : CtxId) : (cx.writeQ sel i b s).stays c = s.stays c := by
  unfold Cx.writeQ
  split
  · rfl
  · exact stays_updGroup _ _ _ _ (Keeps.qput sel i b) c

/-- A body with no checks of its own, no release and no write-back completes when no source word is poisoned. -/
theorem issue_plain (i : Instr) (s : State) (run : Cx → Nat → State → State) (cx : Cx) (h : Passes i s cx) (hc : cx.clean i)
    (hs : Body.Settles { run := run } cx.c) : issue i s { run := run } = .next (cx.completes i run (cx.begun i s)) := by
  have hp : cx.poison (({ run := run } : Body).words i (isVector i.form cx.h) cx) = none := hc
  have hb : ({ run := run } : Body).first i (isVector i.form cx.h) cx s = none := by
    unfold Body.first
    have h0 : ∀ l : List Nat, firstBad (l.filterMap (fun _ => (none : Option Bad))) = none := fun l => by
      rw [List.filterMap_eq_nil_iff.mpr (fun _ _ => rfl)]; rfl
    split
    · rfl
    · simp [hp, h0, show firstBad [] = none from rfl]
  exact issue_completes i s _ cx h.2.1 h.2.2 rfl rfl hb (released_none cx s) (fun _ => rfl) rfl hs

/-- The slot of a context is the instruction's own. -/
theorem gate_head {i : Instr} {s : State} {cx : Cx} (h : gate i s = .go cx) : i.head = some cx.h := by
  unfold gate at h
  split at h
  · next cur hd hc hh =>
    split at h
    · cases h
    · dsimp only at h
      split at h
      · cases h
      · split at h
        · split at h
          · cases h
          · cases h; exact hh
        · split at h
          · cases h
          · split at h
            · cases h
            · split at h
              · cases h
              · cases h; exact hh
  · cases h

/-- An instruction whose form allows no capture captures nothing. -/
theorem Passes.cap_none {i : Instr} {s : State} {cx : Cx} (h : Passes i s cx) (hf : i.form.cap = false) : cx.h.cap = none := by
  have hw := h.1
  simp only [WellFormed, gate_head h.2.1, wordOk, hf, Bool.false_and, Bool.or_false, Bool.and_eq_true, beq_iff_eq] at hw
  exact hw.1.1.1.1.2

/-- What captures nothing completes without a capture. -/
theorem completes_eq_ends (cx : Cx) (i : Instr) (f : Cx → Nat → State → State) (s : State) (h : cx.h.cap = none) :
    cx.completes i f s = cx.ends i f s := by
  simp [Cx.completes, Cx.ends, h]

/-- Effects that agree on every context of the slot's own word run alike. -/
theorem each_congr (cx : Cx) (f g : Cx → Nat → State → State) (h : ∀ cx' a s, cx'.h = cx.h → f cx' a s = g cx' a s) (l : List Nat) (s : State) :
    cx.each f l s = cx.each g l s := by
  induction l generalizing s with
  | nil => rfl
  | cons a t ih =>
    have e := h (cx.refresh s) a s rfl
    simp only [Cx.each, e, ih]

theorem completes_congr (cx : Cx) (i : Instr) (f g : Cx → Nat → State → State) (h : ∀ cx' a s, cx'.h = cx.h → f cx' a s = g cx' a s) (s : State) :
    cx.completes i f s = cx.completes i g s := by
  have h' : ∀ cx' a s, cx'.h = ({ cx with wb := true } : Cx).h → f cx' a s = g cx' a s := h
  simp only [Cx.completes, Cx.leaves, each_congr cx f g h, each_congr { cx with wb := true } f g h']

theorem ends_congr (cx : Cx) (i : Instr) (f g : Cx → Nat → State → State) (h : ∀ cx' a s, cx'.h = cx.h → f cx' a s = g cx' a s) (s : State) :
    cx.ends i f s = cx.ends i g s := by
  simp only [Cx.ends, Cx.leaves, each_congr cx f g h]

/-- A uniform instruction with no checks of its own ends with its effect in each arm (R45, R189). -/
theorem issue_uniform (i : Instr) (s : State) (run g : Cx → Nat → State → State) (cx : Cx) (hd : Head) (hi : i.head = some hd) (h : Passes i s cx) (hc : cx.clean i)
    (hf : i.form.cap = false) (hs : Body.Settles { run := run } cx.c) (hg : ∀ cx' a s, cx'.h = hd → run cx' a s = g cx' a s) :
    issue i s { run := run } = .next (cx.ends i g (cx.begun i s)) := by
  have e : cx.h = hd := Option.some.inj ((gate_head h.2.1).symm.trans hi)
  rw [issue_plain i s run cx h hc hs, completes_eq_ends cx i run _ (h.cap_none hf), ends_congr cx i run g (fun cx' a s hh => hg cx' a s (hh.trans e)) _]

/-- A vector instruction with no checks of its own completes with its effect. -/
theorem issue_vector (i : Instr) (s : State) (run g : Cx → Nat → State → State) (cx : Cx) (hd : Head) (hi : i.head = some hd) (h : Passes i s cx) (hc : cx.clean i)
    (hs : Body.Settles { run := run } cx.c) (hg : ∀ cx' a s, cx'.h = hd → run cx' a s = g cx' a s) :
    issue i s { run := run } = .next (cx.completes i g (cx.begun i s)) := by
  have e : cx.h = hd := Option.some.inj ((gate_head h.2.1).symm.trans hi)
  rw [issue_plain i s run cx h hc hs, completes_congr cx i run g (fun cx' a s hh => hg cx' a s (hh.trans e)) _]

end Sys2Proof.Machine
end

