-- ==== Sys2Proof/Tests/Slice0.lean ====
section
/-! SUPPORT. The tests: words written out bit by bit from the manual's encodings (R167, R191) and what they decode to, ill-formed words that WellFormed refuses, single steps whose results the manual's rules give, and for every obligation with hypotheses a state and operands that meet them. -/

namespace Sys2Proof.Tests
open Sys2Proof.Machine
set_option Elab.async false

/-! ### Words and states -/

/-- A register-form word with its modifier fields zero. -/
abbrev wd (dst a b c : Opd) (t : Ty) : Word := Rules.plainWord dst a b c t

/-- An immediate-form word with its modifier fields zero. -/
def wi (dst a : Opd) (imm : W32) (t : Ty) : WordI :=
  { dst := dst, wbs := false, a := a, imm := imm, guard := ⟨false, false, 7⟩, path := .both, cap := none, yield := false, ty := t, round := 0, sat := false, slot := 0, neg := false }

/-- A predicate word without operands. -/
def wp : WordP :=
  { dst := .z, wbs := false, a := .z, b := .z, c := .z, guard := ⟨false, false, 7⟩, path := .both, cap := none, yield := false, ty := .i8, pd := 0, pa := 1, pb := 2, neg := false, tt := 8 }

/-- The machine after reset with one group of 16 lanes, at slot 0 of a privileged bundle at address 0. -/
def base : State :=
  { State.reset.place 0 with script := [], cur := some { c := ⟨0, 0, 0⟩, bundle := 0, slot := 0, valid := 15, priv := true, portB := false } }

/-- A context made of nothing, for a slot that does not pass. -/
def noCx : Cx :=
  { c := ⟨0, 0, 0⟩, g := { team := 0, idx := 0, core := 0 }, W := 16, act := [], sels := [], wb := true, h := ⟨.z, false, .z, .z, .z, ⟨false, false, 7⟩, .both, none, false, none⟩, lat := [],
    bundle := 0, slot := 0, valid := 0, priv := false, portB := false, core := 0, tenant := 0 }

/-- The context that a slot passes with. -/
def cxOf (i : Instr) (s : State) : Cx := match gate i s with | .go cx => cx | _ => noCx

/-- The slot passes its conditions at its first issue. -/
def ready (i : Instr) (s : State) : Bool := WellFormed i && match gate i s with | .go cx => cx.first | _ => false

/-- The slot passes, and nothing that it reads is poisoned. -/
def readyClean (i : Instr) (s : State) : Bool :=
  ready i s && ((cxOf i s).poison (((cxOf i s).arms (isVector i.form (cxOf i s).h)).flatMap ((cxOf i s).srcWords i (isVector i.form (cxOf i s).h)))).isNone

theorem passes {i : Instr} {s : State} (h : ready i s = true) : Passes i s (cxOf i s) := by
  unfold ready at h
  unfold cxOf
  cases hg : gate i s <;> simp_all [Passes]

theorem passesClean {i : Instr} {s : State} (h : readyClean i s = true) : Passes i s (cxOf i s) ∧ (cxOf i s).clean i := by
  simp only [readyClean, Bool.and_eq_true, Option.isNone_iff_eq_none] at h
  exact ⟨passes h.1, h.2⟩

/-- Each row of a table of instructions passes somewhere, by a word from a list of candidates. -/
theorem rows_pass {α ω : Type} {rows : List α} {mk : α → ω → Instr} {ws : List ω} {s : State}
    (h : rows.all (fun r => ws.any (fun w => readyClean (mk r w) s)) = true) :
    ∀ r ∈ rows, ∃ (w : ω) (s : State) (cx : Cx), Passes (mk r w) s cx ∧ cx.clean (mk r w) := by
  intro r hr
  obtain ⟨w, -, hw⟩ := List.any_eq_true.mp (List.all_eq_true.mp h r hr)
  exact ⟨w, s, _, passesClean hw⟩

theorem test_decodes_control : ([
    (0x000067CCFB3ECFA801000000, .nop { wd .z .z .z .z .i8 with guard := ⟨false, true, 2⟩, yield := true }),
    (0x000167CCFFFFFFD400400FFE, .bra { wi .z .z 0xFFFFFFFE .i32 with guard := ⟨true, false, 5⟩ }),
    (0x000267CCF800091C00407345, .brd { wi .z .z 0x12345 .i32 with slot := 3, neg := true }),
    (0x000367CCFB3ECF9C00000000, .join (wd .z .z .z .z .i8)),
    (0x0004450CF800001C00400007, .call (wi (.s 20) .z 0x7 .i32)),
    (0x000567C8A33ECF9C00000000, .ret (wd .z (.s 20) .z .z .i8)),
    (0x00064588A33ECFE400000000, .jmpi { wd (.s 22) (.s 20) .z .z .i8 with guard := ⟨true, true, 1⟩ }),
    (0x000767CCFB3ECF9C00005000, .meld { wd .z .z .z .z .i8 with slot := 2, scope := 4 }),
    (0x000869404B3ECF9E00000003, .meldMap { wd (.m 5) (.v 9) .z .z .i8 with fspec := 0x3, path := .arm1 }),
    (0x000967CCFB3ECF9C00000000, .meldEnd (wd .z .z .z .z .i8)),
    (0x000A67CCFB3ECF8C00000000, .exit { wd .z .z .z .z .i8 with guard := ⟨false, false, 3⟩ }),
    (0x000B67CCFB3ECF9C00000000, .yield (wd .z .z .z .z .i8)),
    (0x000C67CF9FFFFF9C004A0FFF, .yieldOn { wi .z (.imm 19) 0xFFFFFFFF .i32 with round := 5 }),
    (0x000D67CCFB3ECF9C000000A5, .bpt { wd .z .z .z .z .i8 with fspec := 0xA5 }),
    (0x000E67CCFB3ECF9C00000007, .trap { wd .z .z .z .z .i8 with fspec := 0x7 }),
    (0x000F4108333ECF9C00000009, .hcall { wd (.s 4) (.s 6) .z .z .i8 with fspec := 0x9 }),
    (0x001067CCFB3ECF9C00000000, .rfh (wd .z .z .z .z .i8))] : List (W96 × Instr)).all (fun p => decode p.1 == some p.2 && WellFormed p.2) = true := by decide

theorem test_decodes_scalar : ([
    (0x1000420853DECF9C00400000, .sAdd (wd (.s 8) (.s 10) (.imm 15) .z .i32)),
    (0x1001420853DCCFD400510000, .sSub { wd (.s 8) (.s 10) (.imm 14) .z .u32 with sat := true, guard := ⟨true, false, 5⟩ }),
    (0x1002420853DACFE400600000, .sMul { wd (.s 8) (.s 10) (.imm 13) .z .i64 with guard := ⟨true, true, 1⟩ }),
    (0x1003420853D8CF9C00700000, .sMulh (wd (.s 8) (.s 10) (.imm 12) .z .u64)),
    (0x1004420853D6CFD400400000, .sDiv { wd (.s 8) (.s 10) (.imm 11) .z .i32 with guard := ⟨true, false, 5⟩ }),
    (0x1005420853DECFE400500000, .sRem { wd (.s 8) (.s 10) (.imm 15) .z .u32 with guard := ⟨true, true, 1⟩ }),
    (0x1006420853DCCF9C00600000, .sAnd (wd (.s 8) (.s 10) (.imm 14) .z .i64)),
    (0x1007420853DACFD400700000, .sOr { wd (.s 8) (.s 10) (.imm 13) .z .u64 with guard := ⟨true, false, 5⟩ }),
    (0x1008420853D8CFE400400000, .sXor { wd (.s 8) (.s 10) (.imm 12) .z .i32 with guard := ⟨true, true, 1⟩ }),
    (0x1009420853D6CF9C00510000, .sShl { wd (.s 8) (.s 10) (.imm 11) .z .u32 with sat := true }),
    (0x100A420853DECFD400600000, .sShr { wd (.s 8) (.s 10) (.imm 15) .z .i64 with guard := ⟨true, false, 5⟩ }),
    (0x100B420853DCCFE400700000, .sSar { wd (.s 8) (.s 10) (.imm 14) .z .u64 with guard := ⟨true, true, 1⟩ }),
    (0x100C420853DACF9C00400000, .sMin (wd (.s 8) (.s 10) (.imm 13) .z .i32)),
    (0x100D420853D8CFD400500000, .sMax { wd (.s 8) (.s 10) (.imm 12) .z .u32 with guard := ⟨true, false, 5⟩ }),
    (0x108042085400001C00400000, .sAddImm (wi (.s 8) (.s 10) 0x80000000 .i32)),
    (0x108142085400001C00510001, .sSubImm { wi (.s 8) (.s 10) 0x80000001 .u32 with sat := true }),
    (0x108242085400001C00600002, .sMulImm (wi (.s 8) (.s 10) 0x80000002 .i64)),
    (0x108342085400001C00700003, .sMulhImm (wi (.s 8) (.s 10) 0x80000003 .u64)),
    (0x108442085400001C00400004, .sDivImm (wi (.s 8) (.s 10) 0x80000004 .i32)),
    (0x108542085400001C00500005, .sRemImm (wi (.s 8) (.s 10) 0x80000005 .u32)),
    (0x108642085400001C00600006, .sAndImm (wi (.s 8) (.s 10) 0x80000006 .i64)),
    (0x108742085400001C00700007, .sOrImm (wi (.s 8) (.s 10) 0x80000007 .u64)),
    (0x108842085400001C00400008, .sXorImm (wi (.s 8) (.s 10) 0x80000008 .i32)),
    (0x108942085400001C00510009, .sShlImm { wi (.s 8) (.s 10) 0x80000009 .u32 with sat := true }),
    (0x108A42085400001C0060000A, .sShrImm (wi (.s 8) (.s 10) 0x8000000A .i64)),
    (0x108B42085400001C0070000B, .sSarImm (wi (.s 8) (.s 10) 0x8000000B .u64)),
    (0x108C42085400001C0040000C, .sMinImm (wi (.s 8) (.s 10) 0x8000000C .i32)),
    (0x108D42085400001C0050000D, .sMaxImm (wi (.s 8) (.s 10) 0x8000000D .u32)),
    (0x100E40C80A04CF9C00509000, .sSel { wd (.s 3) (.s 1) (.s 2) .z .u32 with slot := 4, scope := 4 }),
    (0x100F40C80BD6CF9C00444000, .sCmp { wd (.s 3) (.s 1) (.imm 11) .z .i32 with round := 2, slot := 2 }),
    (0x108F67C8B800001C00522013, .sCmpImm { wi .z (.s 23) 0x13 .u32 with round := 1, slot := 1 }),
    (0x1010400CF800001C00400005, .sMovi (wi (.s 0) .z 0x5 .i32)),
    (0x101141083212CF9C00406000, .sLea { wd (.s 4) (.s 6) (.s 9) .z .i32 with slot := 3 }),
    (0x109141083000001C00404100, .sLeaImm { wi (.s 4) (.s 6) 0x100 .i32 with slot := 2 }),
    (0x10124208533ECF9C00700000, .sClz (wd (.s 8) (.s 10) .z .z .u64)),
    (0x101342085B3ECF9C00500000, .sPopc (wd (.s 8) (.s 11) .z .z .u32)),
    (0x10144588A3F4FB1C00500000, .sBfx (wd (.s 22) (.s 20) (.imm 26) (.imm 22) .u32)),
    (0x10154588A3E6FA1C00400000, .sBfi (wd (.s 22) (.s 20) (.imm 19) (.imm 20) .i32))] : List (W96 × Instr)).all (fun p => decode p.1 == some p.2 && WellFormed p.2) = true := by decide

theorem test_decodes_vector : ([
    (0x20000100400CCF9C20010000, .vAdd { wd (.v 4) (.v 8) (.v 6) .z .i8 with sat := true, cap := some 0 }),
    (0x200201004214CF8C00100000, .vSub { wd (.v 4) (.v 8) (.s 10) .z .u8 with guard := ⟨false, false, 3⟩ }),
    (0x20030100433ECFD400210000, .vMul { wd (.v 4) (.v 8) .z .z .i16 with sat := true, guard := ⟨true, false, 5⟩ }),
    (0x2004010043EECFA880300000, .vMulh { wd (.v 4) (.v 8) (.imm 23) .z .u16 with guard := ⟨false, true, 2⟩, cap := some 3 }),
    (0x20060100400CCF9C00410000, .vDiv { wd (.v 4) (.v 8) (.v 6) .z .i32 with sat := true }),
    (0x200701004214CF8C00500000, .vRem { wd (.v 4) (.v 8) (.s 10) .z .u32 with guard := ⟨false, false, 3⟩ }),
    (0x20080100433ECFD400600000, .vAnd { wd (.v 4) (.v 8) .z .z .i64 with guard := ⟨true, false, 5⟩ }),
    (0x2009010043EECFA800700000, .vOr { wd (.v 4) (.v 8) (.imm 23) .z .u64 with guard := ⟨false, true, 2⟩ }),
    (0x200A0100400CCF9C00000000, .vXor (wd (.v 4) (.v 8) (.v 6) .z .i8)),
    (0x200B01004214CF8C80100000, .vShl { wd (.v 4) (.v 8) (.s 10) .z .u8 with guard := ⟨false, false, 3⟩, cap := some 3 }),
    (0x200C0100433ECFD400200000, .vShr { wd (.v 4) (.v 8) .z .z .i16 with guard := ⟨true, false, 5⟩ }),
    (0x200D010043EECFA800300000, .vSar { wd (.v 4) (.v 8) (.imm 23) .z .u16 with guard := ⟨false, true, 2⟩ }),
    (0x200E0100400CCF9C20400000, .vMin { wd (.v 4) (.v 8) (.v 6) .z .i32 with cap := some 0 }),
    (0x200F01004214CF8C00500000, .vMax { wd (.v 4) (.v 8) (.s 10) .z .u32 with guard := ⟨false, false, 3⟩ }),
    (0x20010100400CCF9C0050A000, .vAddc { wd (.v 4) (.v 8) (.v 6) .z .u32 with slot := 5 }),
    (0x20050100400C051C00210000, .vMad { wd (.v 4) (.v 8) (.v 6) (.v 10) .i16 with sat := true }),
    (0x20100100433ECF9C00000000, .vAbs (wd (.v 4) (.v 8) .z .z .i8)),
    (0x201167C043C0CF9C0006C000, .vCmp { wd .z (.v 8) (.imm 0) .z .i8 with round := 3, slot := 6 }),
    (0x201268C04304CF9D00503000, .vSel { wd (.m 3) (.v 8) (.y 2) .z .u32 with slot := 1, scope := 4, path := .arm0 }),
    (0x2013010043E6FA9C00300000, .vBfx (wd (.v 4) (.v 8) (.imm 19) (.imm 21) .u16)),
    (0x2014010043E6FA9C00400000, .vBfi (wd (.v 4) (.v 8) (.imm 19) (.imm 21) .i32)),
    (0x20150100433ECF9C00700000, .vPopc (wd (.v 4) (.v 8) .z .z .u64)),
    (0x20160120433ECF9CC0100000, .vClz { wd (.v 4) (.v 8) .z .z .u8 with cap := some 5, wbs := true }),
    (0x208001004000009C00010000, .vAddImm { wi (.v 4) (.v 8) 0x1000 .i8 with sat := true }),
    (0x208201004000011C00100001, .vSubImm (wi (.v 4) (.v 8) 0x2001 .u8)),
    (0x208301004000019C00200002, .vMulImm (wi (.v 4) (.v 8) 0x3002 .i16)),
    (0x208801004000021C00300003, .vAndImm (wi (.v 4) (.v 8) 0x4003 .u16)),
    (0x208901004000029C00400004, .vOrImm (wi (.v 4) (.v 8) 0x5004 .i32)),
    (0x208A01004000031C00500005, .vXorImm (wi (.v 4) (.v 8) 0x6005 .u32)),
    (0x208B01004000039C00610006, .vShlImm { wi (.v 4) (.v 8) 0x7006 .i64 with sat := true }),
    (0x208C01004000041C00700007, .vShrImm (wi (.v 4) (.v 8) 0x8007 .u64)),
    (0x208D01004000049C00000008, .vSarImm (wi (.v 4) (.v 8) 0x9008 .i8)),
    (0x208E01004000051C00100009, .vMinImm (wi (.v 4) (.v 8) 0xA009 .u8)),
    (0x208F01004000059C0020000A, .vMaxImm (wi (.v 4) (.v 8) 0xB00A .i16)),
    (0x2091010047FFFF9C004AEFFF, .vCmpImm { wi (.v 4) (.v 8) 0xFFFFFFFF .i32 with round := 5, slot := 7 })] : List (W96 × Instr)).all (fun p => decode p.1 == some p.2 && WellFormed p.2) = true := by decide

theorem test_decodes_float : ([
    (0x30000100400CCF9C00800000, .fAdd (wd (.v 4) (.v 8) (.v 6) .z .f16)),
    (0x30010100400CCFA800920000, .fSub { wd (.v 4) (.v 8) (.v 6) .z .bf16 with round := 1, guard := ⟨false, true, 2⟩ }),
    (0x30020100400CCF9C00A40000, .fMul { wd (.v 4) (.v 8) (.v 6) .z .f32 with round := 2 }),
    (0x30030100400C052800B60000, .fFma { wd (.v 4) (.v 8) (.v 6) (.v 10) .f64 with round := 3, guard := ⟨false, true, 2⟩ }),
    (0x30070100400CCF9C00880000, .fDiv { wd (.v 4) (.v 8) (.v 6) .z .f16 with round := 4 }),
    (0x30080100433ECFA800900000, .fSqrt { wd (.v 4) (.v 8) .z .z .bf16 with guard := ⟨false, true, 2⟩ }),
    (0x30090100433ECF9C00A20000, .fRcp { wd (.v 4) (.v 8) .z .z .f32 with round := 1 }),
    (0x300A0100433ECFA800B40000, .fRsq { wd (.v 4) (.v 8) .z .z .f64 with round := 2, guard := ⟨false, true, 2⟩ }),
    (0x300B0100433ECF9C00860000, .fExp2 { wd (.v 4) (.v 8) .z .z .f16 with round := 3 }),
    (0x300C0100433ECFA800980000, .fLog2 { wd (.v 4) (.v 8) .z .z .bf16 with round := 4, guard := ⟨false, true, 2⟩ }),
    (0x30100100433ECF9C00A00000, .fRound (wd (.v 4) (.v 8) .z .z .f32)),
    (0x30040100420CCF9C00A00000, .fMin (wd (.v 4) (.v 8) (.s 6) .z .f32)),
    (0x30050100420CCF9C00B00000, .fMax (wd (.v 4) (.v 8) (.s 6) .z .f64)),
    (0x300D0100433ECF9C00800000, .fSin (wd (.v 4) (.v 8) .z .z .f16)),
    (0x300E0100433ECF9C00900000, .fCos (wd (.v 4) (.v 8) .z .z .bf16)),
    (0x300F0100433ECF9C00A00000, .fTanh (wd (.v 4) (.v 8) .z .z .f32)),
    (0x30110100433ECF9C00B00000, .fClass (wd (.v 4) (.v 8) .z .z .f64)),
    (0x30060100400CCF9C00AE6000, .fCmp { wd (.v 4) (.v 8) (.v 6) .z .f32 with round := 7, slot := 3 }),
    (0x308001004216401C00A20000, .fAddImm { wi (.v 4) (.v 8) 0x42C80000 .f32 with round := 1 }),
    (0x308101004216401C00A40000, .fSubImm { wi (.v 4) (.v 8) 0x42C80000 .f32 with round := 2 }),
    (0x308201004216401C00A60000, .fMulImm { wi (.v 4) (.v 8) 0x42C80000 .f32 with round := 3 }),
    (0x308401004000019C00800C00, .fMinImm (wi (.v 4) (.v 8) 0x3C00 .f16)),
    (0x308501004000019C00800C00, .fMaxImm (wi (.v 4) (.v 8) 0x3C00 .f16)),
    (0x308667C041FF801C00BC0000, .fCmpImm { wi .z (.v 8) 0x3FF00000 .f64 with round := 6 })] : List (W96 × Instr)).all (fun p => decode p.1 == some p.2 && WellFormed p.2) = true := by decide

theorem test_decodes_conversion : ([
    (0x40000100433ECF9C00B00004, .cvt { wd (.v 4) (.v 8) .z .z .f64 with fspec := 0x4 }),
    (0x400101004214CF9C00CA400A, .cvtN { wd (.v 4) (.v 8) (.s 10) .z .slot with round := 5, slot := 2, fspec := 0xA }),
    (0x40020100433ECF9C00A06000, .cvtW { wd (.v 4) (.v 8) .z .z .f32 with slot := 3 }),
    (0x400301004012CF9C00820000, .pack { wd (.v 4) (.v 8) (.v 9) .z .f16 with round := 1 }),
    (0x40040100433ECF9C00000003, .unpack { wd (.v 4) (.v 8) .z .z .i8 with fspec := 0x3 }),
    (0x400567C83010F81C00C0210A, .blkEnc { wd .z (.s 6) (.v 8) (.imm 16) .slot with slot := 1, chint := 1, fspec := 0xA }),
    (0x40060208333ECF9C0090E000, .blkDec { wd (.v 8) (.s 6) .z .z .bf16 with slot := 7 })] : List (W96 × Instr)).all (fun p => decode p.1 == some p.2 && WellFormed p.2) = true := by decide

theorem test_decodes_predicate : ([
    (0x480067CCFB3ECFD400006709, .pLogic ⟨.z, false, .z, .z, .z, ⟨true, false, 5⟩, .both, none, false, .i8, 3, 1, 6, false, 9⟩),
    (0x480167CCFB3ECF9C0000DD0E, .qLogic ⟨.z, false, .z, .z, .z, ⟨false, false, 7⟩, .both, none, false, .i8, 6, 7, 2, false, 14⟩),
    (0x480267CCFBDECF9C00005010, .pAny ⟨.z, false, .z, .imm 15, .z, ⟨false, false, 7⟩, .both, none, false, .i8, 2, 4, 0, true, 0⟩),
    (0x480367CCFA3CCF9C0000A000, .pAll ⟨.z, false, .z, .s 30, .z, ⟨false, false, 7⟩, .both, none, false, .i8, 5, 0, 0, false, 0⟩),
    (0x4804420CFBDECF9C0070EC00, .pBallot ⟨.s 8, false, .z, .imm 15, .z, ⟨false, false, 7⟩, .both, none, false, .u64, 7, 3, 0, false, 0⟩),
    (0x4805420CFBDECF9C0050FC10, .pPopc ⟨.s 8, false, .z, .imm 15, .z, ⟨false, false, 7⟩, .both, none, false, .u32, 7, 7, 0, true, 0⟩)] : List (W96 × Instr)).all (fun p => decode p.1 == some p.2 && WellFormed p.2) = true := by decide

theorem test_decodes_crosslane : ([
    (0x5000010043E2CF9C00500010, .xShfl { wd (.v 4) (.v 8) (.imm 17) .z .u32 with fspec := 0x10 }),
    (0x500101004212CF9C00B00000, .xRot (wd (.v 4) (.v 8) (.s 9) .z .f64)),
    (0x5002010043EA041C00600000, .xBcast (wd (.v 4) (.v 8) (.imm 21) (.v 8) .i64)),
    (0x5003420043DECF9C00A40000, .xRed { wd (.s 8) (.v 8) (.imm 15) .z .f32 with round := 2 }),
    (0x5004010043DECF9C00410008, .xScan { wd (.v 4) (.v 8) (.imm 15) .z .i32 with sat := true, fspec := 0x8 }),
    (0x50050100423CCF9C00700000, .xMatch (wd (.v 4) (.v 8) (.s 30) .z .u64))] : List (W96 × Instr)).all (fun p => decode p.1 == some p.2 && WellFormed p.2) = true := by decide

theorem test_decodes_moves : ([
    (0x580001083B3ECF9C00500000, .mov (wd (.v 4) (.s 7) .z .z .u32)),
    (0x5880410CFEF56D9C00500EEF, .movImm (wi (.s 4) .z 0xDEADBEEF .u32)),
    (0x5801410043E6CF9C00400000, .readlane (wd (.s 4) (.v 8) (.imm 19) .z .i32)),
    (0x58024100433ECF9C00B00000, .first (wd (.s 4) (.v 8) .z .z .f64)),
    (0x5803010CFB3ECF9C00500000, .getsr (wd (.v 4) .z .z .z .u32)),
    (0x580467CF8B3ECF9C00500014, .setsr { wd .z (.imm 17) .z .z .u32 with fspec := 0x14 }),
    (0x580567CCFB3ECF9C0000001F, .grow { wd .z .z .z .z .i8 with fspec := 0x1F }),
    (0x5805410CFB3ECF9C00000084, .growTry { wd (.s 4) .z .z .z .i8 with fspec := 0x84 }),
    (0x580667CCFB3ECF9C00000001, .shrink { wd .z .z .z .z .i8 with fspec := 0x1 })] : List (W96 × Instr)).all (fun p => decode p.1 == some p.2 && WellFormed p.2) = true := by decide

theorem test_decodes_memory : ([
    (0x600001084004CF9C00500860, .ld { wd (.v 4) (.s 8) (.v 2) .z .u32 with scope := 2, fspec := 0x60 }),
    (0x600167C84004031C00800110, .st { wd .z (.s 8) (.v 2) (.v 6) .f16 with chint := 1, fspec := 0x10 }),
    (0x60024508733ECF9C00500200, .ldu { wd (.s 20) (.s 14) .z .z .u32 with chint := 2 }),
    (0x600367C873E8849C00100C80, .stu { wd .z (.s 14) (.imm 20) (.s 9) .u8 with scope := 3, fspec := 0x80 }),
    (0x600401084004CF9C00300010, .sld { wd (.v 4) (.s 8) (.v 2) .z .u16 with fspec := 0x10 }),
    (0x600567C84004031C00400480, .sst { wd .z (.s 8) (.v 2) (.v 6) .i32 with scope := 1, fspec := 0x80 }),
    (0x600041484212859C00000001, .ldSrec { wd (.s 5) (.s 8) (.s 9) (.s 11) .i8 with fspec := 0x1 }),
    (0x600167C84212CF9C00000001, .stSrec { wd .z (.s 8) (.s 9) .z .i8 with fspec := 0x1 }),
    (0x600667C84212CF9C00000000, .l1Wb (wd .z (.s 8) (.s 9) .z .i8)),
    (0x600767CCFB3ECF9C00000000, .l1Inv (wd .z .z .z .z .i8)),
    (0x600841084212CF9C00000000, .tierPref (wd (.s 4) (.s 8) (.s 9) .z .i8))] : List (W96 × Instr)).all (fun p => decode p.1 == some p.2 && WellFormed p.2) = true := by decide

theorem test_decodes_atomic : ([
    (0x700001084004031C005008CA, .atom { wd (.v 4) (.s 8) (.v 2) (.v 6) .u32 with scope := 2, fspec := 0xCA }),
    (0x70014108433E851C00700840, .atomBinc { wd (.s 4) (.s 8) .z (.s 10) .u64 with scope := 2, fspec := 0x40 }),
    (0x700267C84004031C00900000, .xaccAdd (wd .z (.s 8) (.v 2) (.v 6) .bf16)),
    (0x700301084004CF9C00B60000, .xaccFold { wd (.v 4) (.s 8) (.v 2) .z .f64 with round := 3 }),
    (0x700467C84004CF9C00000000, .xaccClr (wd .z (.s 8) (.v 2) .z .i8))] : List (W96 × Instr)).all (fun p => decode p.1 == some p.2 && WellFormed p.2) = true := by decide

theorem test_decodes_sync : ([
    (0x780067CCFB3ECF9C00000CC0, .fence { wd .z .z .z .z .i8 with scope := 3, fspec := 0xC0 }),
    (0x780167CF9B3ECF9C00000000, .barArrive (wd .z (.imm 19) .z .z .i8)),
    (0x7802410F9B3E829C00000000, .barWait (wd (.s 4) (.imm 19) .z (.s 5) .i8)),
    (0x780367C833F0CF9C00000000, .barSync (wd .z (.s 6) (.imm 24) .z .i8)),
    (0x780467C833E8CF9C00000000, .bobjInit (wd .z (.s 6) (.imm 20) .z .i8)),
    (0x7805410833E2CF9C00000800, .bobjArrive { wd (.s 4) (.s 6) (.imm 17) .z .i8 with scope := 2 }),
    (0x78064108320E841C00000400, .bobjWait { wd (.s 4) (.s 6) (.s 7) (.s 8) .i8 with scope := 1 }),
    (0x780767C833E2CF9C00000C00, .tlSignal { wd .z (.s 6) (.imm 17) .z .i8 with scope := 3 }),
    (0x780841083214CF9C00000800, .tlWait { wd (.s 4) (.s 6) (.s 10) .z .i8 with scope := 2 }),
    (0x780967CCFB3ECF9C000A003F, .waitcnt { wd .z .z .z .z .i8 with round := 5, fspec := 0x3F }),
    (0x780A4108333ECF9C00000000, .futWait (wd (.s 4) (.s 6) .z .z .i8)),
    (0x780B4108333ECFD400000000, .futTest { wd (.s 4) (.s 6) .z .z .i8 with guard := ⟨true, false, 5⟩ }),
    (0x780C67C8333ECF9C00000000, .futCancel (wd .z (.s 6) .z .z .i8))] : List (W96 × Instr)).all (fun p => decode p.1 == some p.2 && WellFormed p.2) = true := by decide

theorem test_decodes_front : ([
    (0x800067C81218CF9C00000000, .frontJoin (wd .z (.s 2) (.s 12) .z .i8)),
    (0x800167CCFB3ECF9C00000000, .frontLeave (wd .z .z .z .z .i8)),
    (0x800267CCFB3ECF9C00000000, .frontStep (wd .z .z .z .z .i8)),
    (0x8003410CFB3ECF9C00500003, .frontStat { wd (.s 4) .z .z .z .u32 with fspec := 0x3 })] : List (W96 × Instr)).all (fun p => decode p.1 == some p.2 && WellFormed p.2) = true := by decide

theorem test_decodes_copy_and_tasks : ([
    (0x8800410833E8CF9C00000000, .kick (wd (.s 4) (.s 6) (.imm 20) .z .i8)),
    (0x880167C83212859C00000001, .cpy { wd .z (.s 6) (.s 9) (.s 11) .i8 with fspec := 0x1 }),
    (0x880267C83212CF9C00000010, .contPark { wd .z (.s 6) (.s 9) .z .i8 with fspec := 0x10 }),
    (0x880367C83210851C00000800, .tqInit { wd .z (.s 6) (.s 8) (.s 10) .i8 with scope := 2 }),
    (0x880401083010CF9C0000EC00, .tqPush { wd (.v 4) (.s 6) (.v 8) .z .i8 with slot := 7, scope := 3 }),
    (0x88054208333ECF9C00004400, .tqPop { wd (.s 8) (.s 6) .z .z .i8 with slot := 2, scope := 1 })] : List (W96 × Instr)).all (fun p => decode p.1 == some p.2 && WellFormed p.2) = true := by decide

theorem test_decodes_matrix : ([
    (0x900067CCFB3ECF9C00000000, .mtokAcq (wd .z .z .z .z .i8)),
    (0x9000410CFB3ECF9C00000040, .mtokAcqTry { wd (.s 4) .z .z .z .i8 with fspec := 0x40 }),
    (0x900167CF9B3ECF9C00000000, .mtokPass (wd .z (.imm 19) .z .z .i8)),
    (0x900267C8A22A8B1C00000003, .mma { wd .z (.s 20) (.s 21) (.s 22) .i8 with fspec := 0x3 }),
    (0x900367C8A22ACF9C0000001F, .mmaSp { wd .z (.s 20) (.s 21) .z .i8 with fspec := 0x1F }),
    (0x90044108A22ACF9C00000025, .mmaOut { wd (.s 4) (.s 20) (.s 21) .z .i8 with fspec := 0x25 }),
    (0x900567CCFB3ECF9C00000012, .accZero { wd .z .z .z .z .i8 with fspec := 0x12 }),
    (0x90064108A22ACF9C00000001, .accLd { wd (.s 4) (.s 20) (.s 21) .z .i8 with fspec := 0x1 }),
    (0x900767C8A33ECF9C0000001E, .accSt { wd .z (.s 20) .z .z .i8 with fspec := 0x1E }),
    (0x9008010FAB3ECF9C00A00007, .accMovTov { wd (.v 4) (.imm 21) .z .z .f32 with fspec := 0x7 }),
    (0x900867C84808CF9C00A00087, .accMovToa { wd .z (.s 9) (.v 4) .z .f32 with fspec := 0x87 }),
    (0x900967C8A3DECF9C0000000B, .layout { wd .z (.s 20) (.imm 15) .z .i8 with fspec := 0xB })] : List (W96 × Instr)).all (fun p => decode p.1 == some p.2 && WellFormed p.2) = true := by decide

theorem test_decodes_attention : ([
    (0xA0004108320ECF9C00000000, .attn (wd (.s 4) (.s 6) (.s 7) .z .i8)),
    (0xA00067C8333ECF9C00000001, .attnScore { wd .z (.s 6) .z .z .i8 with fspec := 0x1 }),
    (0xA00101004012051C00506000, .kvLookup { wd (.v 4) (.v 8) (.v 9) (.v 10) .u32 with slot := 3 }),
    (0xA00241084212851C0050E000, .kvAlloc { wd (.s 4) (.s 8) (.s 9) (.s 10) .u32 with slot := 7 }),
    (0xA00367C0233ECF9C00500000, .kvFree (wd .z (.v 4) .z .z .u32)),
    (0xA00467CF833ECF9C00000000, .kvCompact (wd .z (.imm 16) .z .z .i8)),
    (0xA0054108333ECF9C00000000, .kvSweep (wd (.s 4) (.s 6) .z .z .i8)),
    (0xA00667C83212CF9C00000000, .scoreClr (wd .z (.s 6) (.s 9) .z .i8)),
    (0xA00767CF833ECF9C00000000, .topk (wd .z (.imm 16) .z .z .i8)),
    (0xA00841083212CF9C00004000, .pfxLookup { wd (.s 4) (.s 6) (.s 9) .z .i8 with slot := 2 }),
    (0xA00941083212859C0000E000, .pfxInsert { wd (.s 4) (.s 6) (.s 9) (.s 11) .i8 with slot := 7 }),
    (0xA00A67C0220C041C00A02000, .exitTest { wd .z (.v 4) (.s 6) (.v 8) .f32 with slot := 1 }),
    (0xA00B4100200ACF9C00500000, .backfill (wd (.s 4) (.v 4) (.v 5) .z .u32))] : List (W96 × Instr)).all (fun p => decode p.1 == some p.2 && WellFormed p.2) = true := by decide

theorem test_decodes_expert : ([
    (0xB00067C83008CF9C00500000, .ebmSet (wd .z (.s 6) (.v 4) .z .u32)),
    (0xB001410833F0CF9C00500000, .ebmRank (wd (.s 4) (.s 6) (.imm 24) .z .u32)),
    (0xB00201083010FE1C00500000, .ebmSelect (wd (.v 4) (.s 6) (.v 8) (.imm 28) .u32)),
    (0xB00301002810CF9C00500006, .regroup { wd (.v 4) (.v 5) (.v 8) .z .u32 with fspec := 0x6 })] : List (W96 × Instr)).all (fun p => decode p.1 == some p.2 && WellFormed p.2) = true := by decide

theorem test_decodes_system : ([
    (0xB800450CFB3ECF9C00700013, .sysr { wd (.s 20) .z .z .z .u64 with fspec := 0x13 }),
    (0xB80167C8033ECF9C00700029, .sysw { wd .z (.s 0) .z .z .u64 with fspec := 0x29 }),
    (0xB80267C83212CF9C00000800, .tlbinv { wd .z (.s 6) (.s 9) .z .i8 with scope := 2 }),
    (0xB80367CCFB3ECF9C00000000, .raceClr (wd .z .z .z .z .i8)),
    (0xB80401800B3ECF9C00500001, .perfRd { wd (.v 6) (.v 1) .z .z .u32 with fspec := 0x1 })] : List (W96 × Instr)).all (fun p => decode p.1 == some p.2 && WellFormed p.2) = true := by decide

/-- A translation of one megabyte at 1 MiB that reads and writes. -/
def page : TlbEntry := { tenant := 0, va := 0x100000, pa := 0x100000, size := 2 ^ 20, priv := false, x := false, w := true, rd := true }

/-- Two format slots (R138): an element format with an outlier table, and a block format. -/
def slots : Nat := 2 + 20 * 2 ^ 32 + 0x110000 * 2 ^ 64 + 0x120000 * 2 ^ 128 + (5 + 32 * 2 ^ 8 + 3 * 2 ^ 16) * 2 ^ 256

/-- `base` with memory at 1 MiB, a scratchpad of 64 KiB with four armed objects, tables of its tenant, and addresses in its uniform registers: s6 and s8 in memory, s10, s11 and s12 in scratchpad. -/
def rich : State :=
  (((base.updCore 0 (fun x => { x with tlb := page :: x.tlb })).updTeam 0 (fun t => { t with scrSize := 65536, armed := [0, 1, 2, 3] })).updTenant 0 (fun t =>
    { t with ticket := 8, tix := (List.range 9).map (fun k => (k, k % 4)), fquota := 4, quota := 4, hcRing := 0x102000, kvtBase := 0x140000, kvtSize := 8, pfxBase := 0x150000 })).updGroup 0 0 (fun g =>
    { g with s := [(6, 0x100000), (8, 0x100100), (10, 64), (11, 128), (12, 4)], divLim := 3, ctxBase := 0x180000, privBase := 0x190000 })

/-- `rich` as a task's only group (R309). -/
def task : State := { rich with launches := rich.launches.map (fun l => { l with hdr := l.hdr ||| BitVec.ofNat 4096 (2 ^ 746) }) }

/-- `rich` with the format slots of `slots` in its launch record. -/
def formats : State := { rich with launches := rich.launches.map (fun l => { l with hdr := l.hdr ||| BitVec.ofNat 4096 (slots * 2 ^ 2048) }) }

theorem of_toList {α : Type} {o : Option α} {P : α → Prop} (h : ∀ x ∈ o.toList, P x) : ∀ x, o = some x → P x := fun x hx => h x (by simp [hx])

/-- `Cx.Alone` as a computation. -/
def aloneB (cx : Cx) (s : State) : Bool :=
  cx.memberBad.isNone && cx.g.vpo.isEmpty && cx.g.spo.isEmpty && (cx.W != 64 || !cx.opMarked (s.marksOf cx.c.team cx.c.grp) cx.h.b { s := true, n := 2 }) && !cx.blocked && !cx.peerWaits

theorem alone {cx : Cx} {s : State} (h : aloneB cx s = true) : cx.Alone s := by
  simp [aloneB] at h
  exact ⟨h.1.1.1.1.1, ⟨h.1.1.1.1.2, h.1.1.1.2⟩, fun w => by simpa [w] using h.1.1.2, h.1.2, h.2⟩

/-- The slot of `i` passes alone in `s`. -/
def readyAlone (i : Instr) (s : State) : Bool := ready i s && aloneB (cxOf i s) s

theorem passesAlone {i : Instr} {s : State} (h : readyAlone i s = true) : Passes i s (cxOf i s) ∧ (cxOf i s).Alone s := by
  simp only [readyAlone, Bool.and_eq_true] at h
  exact ⟨passes h.1, alone h.2⟩

/-- The slot of `i` passes, and no register word of its group is poisoned. -/
def readyPure (i : Instr) (s : State) : Bool := ready i s && (cxOf i s).g.vpo.isEmpty && (cxOf i s).g.spo.isEmpty

theorem passesPure {i : Instr} {s : State} (h : readyPure i s = true) : Passes i s (cxOf i s) ∧ (cxOf i s).pure := by
  simp only [readyPure, Bool.and_eq_true, List.isEmpty_iff] at h
  exact ⟨passes h.1.1, h.1.2, h.2⟩

/-- Each instruction of a list passes somewhere, by the word at its place. -/
theorem all_pass {α ω : Type} {rows : List (α × ω)} {mk : α → ω → Instr} {s : State} (h : rows.all (fun r => readyClean (mk r.1 r.2) s) = true) :
    ∀ r ∈ rows, ∃ (w : ω) (s : State) (cx : Cx), Passes (mk r.1 w) s cx ∧ cx.clean (mk r.1 w) :=
  fun r hr => ⟨r.2, s, _, passesClean (List.all_eq_true.mp h r hr)⟩

/-- A computation that answers a value. -/
def okB {ε α : Type} : Except ε α → Bool
  | .ok _ => true
  | .error _ => false

theorem of_ok {ε α : Type} {x : Except ε α} (h : okB x = true) : ∃ y, x = .ok y := by
  cases x <;> simp_all [okB]

/-- `Resumes` as a computation, for arm 0. -/
def resumesB (i : Instr) (s : State) : Bool :=
  let cx := cxOf i s
  let w := (cx.g.arm cx.c.arm).wait
  WellFormed i && (match gate i s with | .go _ => true | _ => false) && w.resumed && w.rel && w.kind != .release && w.kind != .acks && (cx.arms (isVector i.form cx.h)).drop w.exec == [0]

theorem resumes {i : Instr} {s : State} (h : resumesB i s = true) : Resumes i s (cxOf i s) 0 := by
  simp only [resumesB, Bool.and_eq_true, bne_iff_ne, beq_iff_eq] at h
  obtain ⟨⟨⟨⟨⟨⟨h1, h2⟩, h3⟩, h4⟩, h5⟩, h6⟩, h7⟩ := h
  refine ⟨h1, ?_, h3, h4, ⟨h5, h6⟩, h7⟩
  unfold cxOf
  cases hg : gate i s <;> simp_all

/-- A state in which the wait of arm 0 at its slot, of a kind, has ended with a status. -/
def after (k : WaitKind) (v : W32) (s : State) : State :=
  s.updGroup 0 0 (fun g => { g with arm0 := { g.arm0 with wait := { kind := k, status := some v, rel := true, asy := [7] } } })

/-- A record that a slot asked for and waits for. -/
def asked (parts : List Part) : Async := { id := 7, core := 0, tag := {}, dest := .none, ty := .u32, parts := parts, blk := some 0 }

/-- A state in which a record with these parts has answered the slot that asked for it. -/
def answers (parts : List Part) (s : State) : State := after .slice 1 { s with asyncs := [asked parts] }

theorem of_ok' {x : Tr} (h : (match x with | .ok _ => true | _ => false) = true) : ∃ y, x = .ok y := by
  cases x <;> simp_all

theorem of_some {α : Type} {x : Option α} (h : x.isSome = true) : ∃ y, x = some y := Option.isSome_iff_exists.mp h

theorem released {cx : Cx} {k : Option Nat} {s : State} (h : (cx.release k (cx.opened s)).1.pendingOn (cx.release k (cx.opened s)).2 = false) : cx.released k s := h

theorem notReleased {cx : Cx} {k : Option Nat} {s : State} (h : (cx.release k (cx.opened s)).1.pendingOn (cx.release k (cx.opened s)).2 = true) : ¬ cx.released k s := fun h' => by
  unfold Cx.released at h'
  simp_all

theorem begins {i : Instr} {k : Option Nat} {ok : Prop} {s : State} {cx : Cx} (h : Passes i s cx ∧ cx.clean i) (ho : ok) (hr : cx.released k s) : Begins i k ok s cx (cx.starts i k s) :=
  .inl ⟨h.1, h.2, ho, hr, rfl⟩

theorem begins_again {i : Instr} {k : Option Nat} {ok : Prop} {s : State} {cx : Cx} (hg : gate i s = .go cx)
    (h : WellFormed i = true ∧ (cx.g.arm cx.c.arm).wait.kind = .release ∧ (cx.g.arm cx.c.arm).wait.exec = 0) : Begins i k ok s cx (cx.rebegun i s) :=
  .inr ⟨h.1, hg, h.2.1, h.2.2, rfl⟩

theorem goes {i : Instr} {s : State} (h : (match gate i s with | .go _ => true | _ => false) = true) : gate i s = .go (cxOf i s) := by
  unfold cxOf
  cases hg : gate i s <;> simp_all

/-- The first pass of a slot: its conditions, its poison, and the release of a scope. -/
theorem of_isNone {α : Type} {l : List Nat} {f : Nat → Option α} (h : l.all (fun k => (f k).isNone) = true) : ∀ k ∈ l, f k = none :=
  fun k hk => Option.isNone_iff_eq_none.mp (List.all_eq_true.mp h k hk)

theorem team0 {s : State} {k : Nat} {t : Team} (hk : k = 0) (h : s.team 0 = some t) : s.team k = some t := hk ▸ h

/-- What holds of the value that a computation answers. -/
def okAll {ε α : Type} (f : α → Bool) : Except ε α → Bool
  | .ok x => f x
  | .error _ => false

theorem of_error {ε α : Type} {x : Except ε α} (h : okB x = false) : ∃ e, x = .error e := by
  cases x <;> simp_all [okB]

/-- The value that a computation answers. -/
def okGet {ε α : Type} (d : α) : Except ε α → α
  | .ok x => x
  | .error _ => d

theorem okIs {ε α : Type} [DecidableEq α] {x : Except ε α} {y : α} (h : okAll (fun z => decide (z = y)) x = true) : x = .ok y := by
  cases x <;> simp_all [okAll]

theorem okEq {ε α : Type} {d : α} {x : Except ε α} (h : okB x = true) : x = .ok (okGet d x) := by
  cases x <;> simp_all [okB, okGet]

/-! ### Ill-formed words, one for each check of WellFormed (R171 to R177, R188, R429) -/

theorem test_wf_mod : WellFormed (.sAdd { wd (.s 8) (.s 8) (.imm 20) .z .i32 with chint := 1 }) = false := by decide
theorem test_wf_type : WellFormed (.sAdd (wd (.s 8) (.s 8) (.imm 20) .z .f32)) = false := by decide
theorem test_wf_unused_dst : WellFormed (.bpt (wd (.s 8) .z .z .z .i8)) = false := by decide
theorem test_wf_unused_a : WellFormed (.join (wd .z (.s 8) .z .z .i8)) = false := by decide
theorem test_wf_unused_b : WellFormed (.mov (wd (.v 4) (.s 8) (.s 2) .z .u32)) = false := by decide
theorem test_wf_unused_c : WellFormed (.sAdd (wd (.s 8) (.s 8) (.imm 20) (.s 2) .i32)) = false := by decide
theorem test_wf_guard : WellFormed (.sAdd { wd (.s 8) (.s 8) (.imm 20) .z .i32 with guard := ⟨false, false, 2⟩ }) = false := by decide
theorem test_wf_stack : WellFormed (.vAdd { wd .z (.v 8) (.v 6) .z .i32 with wbs := true }) = false := by decide
theorem test_wf_capture : WellFormed (.sAdd { wd (.s 8) (.s 8) (.imm 20) .z .i32 with cap := some 1 }) = false := by decide
theorem test_wf_reserved_dst : WellFormed (.vAdd (wd (.rsv 4) (.v 8) (.v 6) .z .i32)) = false := by decide
theorem test_wf_reserved_a : WellFormed (.vAdd (wd (.v 4) (.rsv 0) (.v 6) .z .i32)) = false := by decide
theorem test_wf_reserved_b : WellFormed (.vAdd (wd (.v 4) (.v 8) (.rsv 0x100) .z .i32)) = false := by decide
theorem test_wf_reserved_c : WellFormed (.vMad (wd (.v 4) (.v 8) (.v 6) (.rsv 0x19F) .i32)) = false := by decide
theorem test_wf_reserved_kept : WellFormed (.vAdd (wd (.v 4) (.rsv 0x200) (.v 6) .z .i32)) = true := by decide

/-! ### Single steps -/

/-- `base` with uniform registers, and with v8 and v6 in lane 1. -/
def regs (l : List (Nat × W32)) (a b : W32) : State := base.updGroup 0 0 (fun g => { g with s := l, v := [(6 * 64 + 1, b), (8 * 64 + 1, a)] })

/-- What a group holds after one instruction. -/
def sees (i : Instr) (s : State) (f : Group → Bool) : Bool := match exec i s with | .next t => (t.group 0 0).any f | _ => false

/-- s4 after a uniform instruction on s6 and s8. -/
def uni (i : Instr) (a b : W32) : Option W32 := match exec i (regs [(6, a), (8, b)] 0 0) with | .next t => (t.group 0 0).map (fun g => g.sget 0 4) | _ => none

/-- v4 in lane 1 after a vector instruction on v8 and v6. -/
def vec (i : Instr) (a b : W32) : Option W32 := match exec i (regs [] a b) with | .next t => (t.group 0 0).map (fun g => g.vget 4 1) | _ => none

/-- A uniform word s4, s6, s8 and a vector word v4, v8, v6 of a type. -/
def uw (t : Ty) : Word := wd (.s 4) (.s 6) (.s 8) .z t
def vw (t : Ty) : Word := wd (.v 4) (.v 8) (.v 6) .z t

/-- R237: a sum wraps. -/
theorem test_s_add : uni (.sAdd (uw .i32)) 0xFFFFFFFF 2 = some 1 := by decide +kernel
/-- R238's table of edge cases. -/
theorem test_s_div : uni (.sDiv (uw .i32)) 7 0xFFFFFFFE = some 0xFFFFFFFD := by decide +kernel
theorem test_s_div_sat : uni (.sDiv { uw .i32 with sat := true }) 0x80000000 0xFFFFFFFF = some 0x7FFFFFFF := by decide +kernel
theorem test_s_div_zero : uni (.sDiv (uw .u32)) 5 0 = some 0xFFFFFFFF := by decide +kernel
theorem test_s_rem : uni (.sRem (uw .i32)) 7 0xFFFFFFFE = some 1 := by decide +kernel
theorem test_s_rem_zero : uni (.sRem (uw .u32)) 5 0 = some 5 := by decide +kernel
theorem test_s_shl : uni (.sShl (uw .u32)) 1 40 = some 0 := by decide +kernel
theorem test_s_shl_sat : uni (.sShl { uw .i32 with sat := true }) 0x40000000 2 = some 0x7FFFFFFF := by decide +kernel
theorem test_s_sar : uni (.sSar (uw .i32)) 0x80000010 4 = some 0xF8000001 := by decide +kernel
theorem test_s_shr : uni (.sShr (uw .i32)) 0x80000010 4 = some 0x08000001 := by decide +kernel
theorem test_s_mulh : uni (.sMulh (uw .i32)) 0x40000000 8 = some 2 := by decide +kernel
theorem test_s_mulh_unsigned : uni (.sMulh (uw .u32)) 0xFFFFFFFF 0xFFFFFFFF = some 0xFFFFFFFE := by decide +kernel
/-- R243's examples. -/
theorem test_s_bfx : uni (.sBfx { uw .i32 with b := .imm 24, c := .imm 20 }) 0x0F00 0 = some 0xFFFFFFFF := by decide +kernel
theorem test_s_bfx_unsigned : uni (.sBfx { uw .u32 with b := .imm 24, c := .imm 20 }) 0x0F00 0 = some 0xF := by decide +kernel
theorem test_s_bfi : sees (.sBfi (wd (.s 4) (.s 6) (.imm 20) (.imm 24) .u32)) (regs [(4, 0xFFFFFFFF)] 0 0) (fun g => g.sget 0 4 == 0xFFFFF00F) = true := by decide +kernel
/-- R240's example: −7 < −5. -/
theorem test_s_cmp : sees (.sCmp { wd (.s 3) (.s 1) (.imm 11) .z .i32 with round := 2, slot := 2 }) (regs [(1, 0xFFFFFFF9)] 0 0) (fun g => g.sget 0 3 == 1 && g.qget 0 2 && !g.qget 0 1) = true := by decide +kernel
/-- R242: an address steps back by 4096 bytes. -/
theorem test_s_lea : sees (.sLeaImm (wi (.s 10) (.s 4) 0xFFFFF000 .i32)) (regs [(4, 0), (5, 1)] 0 0) (fun g => g.sget 0 10 == 0xFFFFF000 && g.sget 0 11 == 0) = true := by decide +kernel
/-- R241: a 64-bit type fills the pair. -/
theorem test_s_movi : sees (.sMovi (wi (.s 4) .z 0xFFFFFFFE .i64)) base (fun g => g.sget 0 4 == 0xFFFFFFFE && g.sget 0 5 == 0xFFFFFFFF) = true := by decide +kernel
/-- R247, R170: a result of 8 bits is sign-extended, and the sum wraps or saturates. -/
theorem test_v_add : vec (.vAdd (vw .i8)) 0x7F 1 = some 0xFFFFFF80 := by decide +kernel
theorem test_v_add_sat : vec (.vAdd { vw .i8 with sat := true }) 0x7F 1 = some 0x7F := by decide +kernel
/-- R249: the carry out of one lane. -/
theorem test_v_addc : sees (.vAddc { vw .u32 with slot := 3 }) (regs [] 0xFFFFFFFF 1) (fun g => g.vget 4 1 == 0 && g.pget 3 1 && !g.pget 3 0) = true := by decide +kernel
/-- R249: the most negative value. -/
theorem test_v_abs : vec (.vAbs (wd (.v 4) (.v 8) .z .z .i32)) 0x80000000 0 = some 0x80000000 := by decide +kernel
theorem test_v_abs_sat : vec (.vAbs { wd (.v 4) (.v 8) .z .z .i16 with sat := true }) 0x8000 0 = some 0x7FFF := by decide +kernel
/-- R250, R127: 1.5 + 2.25, and the sign of an exact zero sum. -/
theorem test_f_add : vec (.fAdd (vw .f32)) 0x3FC00000 0x40100000 = some 0x40700000 := by decide +kernel
theorem test_f_add_zero : vec (.fAdd (vw .f32)) 0x3FC00000 0xBFC00000 = some 0 := by decide +kernel
/-- R253: −0 is below +0, and a single NaN is left out. -/
theorem test_f_min : vec (.fMin (vw .f32)) 0 0x80000000 = some 0x80000000 := by decide +kernel
theorem test_f_min_nan : vec (.fMin (vw .f32)) 0x7F800001 0x3F800000 = some 0x3F800000 := by decide +kernel
/-- R251: 1 ÷ −0, and the square root of −0. -/
theorem test_f_rcp : vec (.fRcp (wd (.v 4) (.v 8) .z .z .f32)) 0x80000000 0 = some 0xFF800000 := by decide +kernel
theorem test_f_sqrt : vec (.fSqrt (wd (.v 4) (.v 8) .z .z .f32)) 0x80000000 0 = some 0x80000000 := by decide +kernel
/-- R254: −0 and +0 are equal, and ne holds of a NaN. -/
theorem test_f_cmp : vec (.fCmp { vw .f32 with slot := 7 }) 0x80000000 0 = some 1 := by decide +kernel
theorem test_f_cmp_nan : vec (.fCmp { vw .f32 with round := 1, slot := 7 }) 0x7FC00000 0x7FC00000 = some 1 := by decide +kernel
/-- R46: a move into the active lanes, and no other. -/
theorem test_mov : sees (.mov (wd (.v 4) (.s 6) .z .z .u32)) (regs [(6, 9)] 0 0) (fun g => g.vget 4 0 == 9 && g.vget 4 15 == 9 && g.vget 4 16 == 0) = true := by decide +kernel
/-- R47: an index at or above the width gives the fallback and sets OOR. -/
theorem test_readlane : sees (.readlane (wd (.s 4) (.v 8) (.s 6) (.imm 19) .u32)) (regs [(6, 16)] 7 0) (fun g => g.sget 0 4 == 3 && g.oor) = true := by decide +kernel
/-- R267's example: X.SHFL.xor by 1. -/
theorem test_shfl : sees (.xShfl { wd (.v 4) (.v 8) (.imm 17) (.v 6) .u32 with fspec := 0x10 }) (regs [] 6 0) (fun g => g.vget 4 0 == 6 && g.vget 4 1 == 0) = true := by decide +kernel
/-- R268: the sum of 16 lanes of which one holds 6. -/
theorem test_red : sees (.xRed (wd (.s 4) (.v 8) (.imm 15) .z .i32)) (regs [] 6 0) (fun g => g.sget 0 4 == 6) = true := by decide +kernel
/-- R29's divergent branch: six lanes jump to the third bundle on, the others go on at the next. -/
theorem test_brd : sees (.brd { wi .z .z 3 .i32 with slot := 1 }) (State.updGroup { base with cur := base.cur.map (fun c => { c with slot := 3 }) } 0 0 (fun g => { g with p := [(1, 0x3F)] }))
    (fun g => g.split && g.arm0.pc == 64 && g.arm0.mask == 0xFFC0 && g.arm1.pc == 192 && g.arm1.mask == 0x3F && g.arm1.live) = true := by decide +kernel
/-- R232: TRAP raises SWTRAP, 0x39, with its code. -/
theorem test_trap : (match exec (.trap { wd .z .z .z .z .i8 with fspec := 7 }) base with | .next t => ((t.team 0).bind (fun x => x.squall)).map (fun q => (q.trap.cause, q.trap.detail)) | _ => none) = some (0x39, 7) := by decide +kernel
/-- R269's worked example: a prefix sum in which lanes 2 and 3 have exited and the guard leaves lane 5 out. -/
theorem test_scan : sees (.xScan { wd (.v 7) (.v 1) (.imm 15) .z .i32 with guard := ⟨false, false, 0⟩ })
    (base.updGroup 0 0 (fun g => { g with v := (List.range 16).map (fun L => (64 + L, BitVec.ofNat 32 (L + 1))), p := [(0, 0xFFDF)], xmask := 0xC, arm0 := { g.arm0 with mask := 0xFFF3 } }))
    (fun g => [0, 1, 2, 3, 4, 5, 6, 7, 15].map (fun L => (g.vget 7 L).toNat) == [1, 3, 0, 0, 8, 0, 15, 23, 123]) = true := by decide +kernel
/-- R276: a scratchpad store of 16 bits, low byte first. -/
theorem test_sst : (match exec (.sst (wd .z (.s 10) .z (.s 6) .u16)) (rich.updGroup 0 0 (fun g => { g with s := [(6, 0x12345678), (10, 512)] })) with
    | .next t => some (t.scrRead 0 511 4) | _ => none) = some 0x567800 := by decide +kernel
/-! ### Witnesses: arithmetic, conversions, predicates and lanes -/

theorem witness_ScalarFunctions :
    (∀ r ∈ Rules.scalarRows, ∃ (w : Word) (s : State) (cx : Cx), Passes (r.1 w) s cx ∧ cx.clean (r.1 w))
    ∧ (∀ r ∈ Rules.scalarImmRows, ∃ (w : WordI) (s : State) (cx : Cx), Passes (r.1 w) s cx ∧ cx.clean (r.1 w)) :=
  ⟨rows_pass (ws := [wd (.s 8) (.s 10) (.imm 15) .z .i32, wd (.s 8) (.s 10) .z .z .u32, wd (.s 8) (.s 10) (.imm 4) (.imm 8) .u32]) (s := base) (by decide +kernel),
   rows_pass (ws := [wi (.s 8) (.s 10) 0x80000000 .i64]) (s := base) (by decide +kernel)⟩

theorem witness_ScalarSelectCompare :
    (∀ i ∈ [(.sSel : Word → Instr), .sCmp, .sLea], ∃ (w : Word) (s : State) (cx : Cx), Passes (i w) s cx ∧ cx.clean (i w))
    ∧ (∀ i ∈ [(.sCmpImm : WordI → Instr), .sMovi, .sLeaImm], ∃ (w : WordI) (s : State) (cx : Cx), Passes (i w) s cx ∧ cx.clean (i w)) :=
  ⟨rows_pass (mk := id) (ws := [wd (.s 8) (.s 10) (.s 12) .z .i32, wd (.s 8) (.s 10) (.s 12) .z .u32]) (s := base) (by decide +kernel),
   rows_pass (mk := id) (ws := [wi (.s 8) (.s 10) 5 .i32, wi (.s 8) .z 5 .i32, wi (.s 8) (.s 10) 5 .u64]) (s := base) (by decide +kernel)⟩

theorem witness_BitFieldsAreBitwise : ∃ t : Ty, t.isInt = true := ⟨.i32, rfl⟩

theorem witness_ConditionsMeanTheirTables :
    (∃ (t : Ty) (a b : W64), (decodeF t a).isNan = true ∨ (decodeF t b).isNan = true)
    ∧ (∃ (t : Ty) (a b : W64), t.isFloat = true ∧ (decodeF t a).isNan = false ∧ (decodeF t b).isNan = false) :=
  ⟨⟨.f32, 0x7FC00000, 0, .inl (by decide +kernel)⟩, ⟨.f32, 0x7F800000, 0x80000000, by decide +kernel⟩⟩

theorem witness_VectorFunctions :
    (∀ r ∈ Rules.vectorRows, ∃ (w : Word) (s : State) (cx : Cx), Passes (r.1 w) s cx ∧ cx.clean (r.1 w))
    ∧ (∀ r ∈ Rules.vectorImmRows, ∃ (w : WordI) (s : State) (cx : Cx), Passes (r.1 w) s cx ∧ cx.clean (r.1 w)) :=
  ⟨rows_pass (ws := [wd (.v 4) (.v 8) (.v 6) .z .i32, wd (.v 4) (.v 8) .z .z .i32, wd (.v 4) (.v 8) (.v 6) (.v 10) .i32]) (s := base) (by decide +kernel),
   rows_pass (ws := [wi (.v 4) (.v 8) 0x80000000 .i64]) (s := base) (by decide +kernel)⟩

theorem witness_VectorCarryCompareSelect :
    (∀ i ∈ [(.vAddc : Word → Instr), .vCmp, .vSel], ∃ (w : Word) (s : State) (cx : Cx), Passes (i w) s cx ∧ cx.clean (i w))
    ∧ (∀ i ∈ [(.vCmpImm : WordI → Instr)], ∃ (w : WordI) (s : State) (cx : Cx), Passes (i w) s cx ∧ cx.clean (i w)) :=
  ⟨rows_pass (mk := id) (ws := [wd (.v 4) (.v 8) (.v 6) .z .u32]) (s := base) (by decide +kernel),
   rows_pass (mk := id) (ws := [wi (.v 4) (.v 8) 5 .i32]) (s := base) (by decide +kernel)⟩

theorem witness_FloatFunctions :
    (∀ r ∈ Rules.floatRows, ∃ (w : Word) (s : State) (cx : Cx), Passes (r.1 w) s cx ∧ cx.clean (r.1 w))
    ∧ (∀ r ∈ Rules.floatImmRows, ∃ (w : WordI) (s : State) (cx : Cx), Passes (r.1 w) s cx ∧ cx.clean (r.1 w)) :=
  ⟨rows_pass (ws := [wd (.v 4) (.v 8) (.v 6) .z .f32, wd (.v 4) (.v 8) .z .z .f32, wd (.v 4) (.v 8) (.v 6) (.v 10) .f32]) (s := base) (by decide +kernel),
   rows_pass (ws := [wi (.v 4) (.v 8) 0x3F800000 .f32]) (s := base) (by decide +kernel)⟩

theorem witness_FloatCompareClass :
    (∀ i ∈ [(.fCmp : Word → Instr), .fClass], ∃ (w : Word) (s : State) (cx : Cx), Passes (i w) s cx ∧ cx.clean (i w))
    ∧ (∀ i ∈ [(.fCmpImm : WordI → Instr)], ∃ (w : WordI) (s : State) (cx : Cx), Passes (i w) s cx ∧ cx.clean (i w)) :=
  ⟨rows_pass (mk := id) (ws := [wd (.v 4) (.v 8) (.v 6) .z .f32, wd (.v 4) (.v 8) .z .z .f64]) (s := base) (by decide +kernel),
   rows_pass (mk := id) (ws := [wi (.v 4) (.v 8) 5 .f32]) (s := base) (by decide +kernel)⟩

theorem witness_Conversions :
    (∀ i ∈ [(.cvt : Word → Instr), .unpack], ∃ (w : Word) (s : State) (cx : Cx), Passes (i w) s cx ∧ cx.clean (i w))
    ∧ (∃ (w : Word) (s : State) (cx : Cx), (Passes (.cvtW w) s cx ∧ cx.clean (.cvtW w)) ∧ fmtBad (s.fmtSlot cx w.slot) false = none)
    ∧ (∃ (w : Word) (s : State) (cx : Cx), (Passes (.pack w) s cx ∧ cx.clean (.pack w)) ∧ w.ty.bits = 8 ∧ cx.act ≠ [] ∧ ∀ L ∈ cx.act, ∀ x ∈ cx.opWords w.dst 1 (armSel cx.c) L, cx.g.badWord x.2 = false) :=
  ⟨rows_pass (mk := id) (ws := [{ wd (.v 4) (.v 8) .z .z .f64 with fspec := 0x4 }, { wd (.v 4) (.v 8) .z .z .i8 with fspec := 0x3 }]) (s := base) (by decide +kernel),
   ⟨{ wd (.v 4) (.v 8) .z .z .f32 with slot := 0 }, formats, _, passesClean (by decide +kernel), by decide +kernel⟩,
   ⟨{ wd (.v 4) (.v 8) (.v 9) .z .i8 with fspec := 1 }, base, _, passesClean (by decide +kernel), by decide +kernel⟩⟩

theorem witness_Narrowing :
    (∃ (w : Word) (s : State) (cx : Cx), (Passes (.cvtN w) s cx ∧ cx.clean (.cvtN w)) ∧ fmtBad (s.fmtSlot cx w.slot) false = none
      ∧ ∀ L ∈ cx.act, (cx.narrow w (s.fmtSlot cx w.slot) L).2.2 = false)
    ∧ (∃ (w : Word) (s : State) (cx : Cx), (Passes (.cvtN w) s cx ∧ cx.clean (.cvtN w)) ∧ fmtBad (s.fmtSlot cx w.slot) false = none
      ∧ (∃ L ∈ cx.act, (cx.narrow w (s.fmtSlot cx w.slot) L).2.2 = true) ∧ ∀ ln, s.countLine cx.tag (s.fmtSlot cx w.slot) = some ln → (s.core cx.core).line ln = none ∧ s.lineIds cx.core ln = []) :=
  ⟨⟨{ wd (.v 4) (.v 8) (.s 10) .z .slot with fspec := 0xA }, formats, _, passesClean (by decide +kernel), by decide +kernel⟩,
   ⟨{ wd (.v 4) (.v 8) (.s 10) .z .slot with fspec := 0xA }, formats.updGroup 0 0 (fun g => { g with v := [(8 * 64, 0x7F000000)] }), _, passesClean (by decide +kernel), by decide +kernel, by decide +kernel, of_toList (by decide +kernel)⟩⟩

theorem witness_Predicates :
    (∃ (w : WordP) (s : State) (cx : Cx), Passes (.pLogic w) s cx ∧ cx.clean (.pLogic w)) ∧ (∃ (w : WordP) (s : State) (cx : Cx), Passes (.qLogic w) s cx ∧ cx.clean (.qLogic w))
    ∧ (∃ (w : WordP) (s : State) (cx : Cx), Passes (.pAny w) s cx ∧ cx.Alone s) ∧ (∃ (w : WordP) (s : State) (cx : Cx), Passes (.pAll w) s cx ∧ cx.Alone s)
    ∧ (∃ (w : WordP) (s : State) (cx : Cx), Passes (.pBallot w) s cx ∧ cx.Alone s) ∧ (∃ (w : WordP) (s : State) (cx : Cx), Passes (.pPopc w) s cx ∧ cx.Alone s) :=
  ⟨⟨wp, base, _, passesClean (by decide +kernel)⟩, ⟨wp, base, _, passesClean (by decide +kernel)⟩,
   ⟨{ wp with b := .imm 15, pb := 0, tt := 0 }, base, _, passesAlone (by decide +kernel)⟩, ⟨{ wp with b := .imm 15, pb := 0, tt := 0 }, base, _, passesAlone (by decide +kernel)⟩,
   ⟨{ wp with dst := .s 8, b := .imm 15, pd := 7, pb := 0, tt := 0, ty := .u32 }, base, _, passesAlone (by decide +kernel)⟩,
   ⟨{ wp with dst := .s 8, b := .imm 15, pd := 7, pb := 0, tt := 0, ty := .u32 }, base, _, passesAlone (by decide +kernel)⟩⟩

/-- Two arms of a split group: the issuing one has the lower half of the lanes, the other the rest (R31). -/
def halves : State :=
  base.updGroup 0 0 (fun g => { g with split := true, arm0 := { g.arm0 with mask := 0xFF }, arm1 := { live := true, mask := 0xFF00 } })

/-- `halves` with an arm that waits for the other at the slot. -/
def halfWaits (arm : Nat) : State := halves.updGroup 0 0 (fun g => g.updArm arm (fun a => { a with wait := { kind := .member 0 0 } }))

theorem witness_MemberMaskWaits :
    (∀ i ∈ [Instr.xScan (wd (.v 4) (.v 8) (.imm 15) .z .i32), .xRed (wd (.v 4) (.v 8) (.imm 15) .z .i32), .xMatch (wd (.v 4) (.v 8) (.imm 15) .z .u32),
        .pAny { wp with b := .imm 15, pd := 4, pb := 0, tt := 0 }, .pAll { wp with b := .imm 15, pd := 4, pb := 0, tt := 0 },
        .pBallot { wp with dst := .s 100, b := .imm 15, pd := 7, pb := 0, tt := 0, ty := .u32 }, .pPopc { wp with dst := .s 100, b := .imm 15, pd := 7, pb := 0, tt := 0, ty := .u32 }],
      Rules.hasMembers i = true ∧
      (∃ (s : State) (cx : Cx), (Passes i s cx ∧ cx.pure) ∧ cx.W ≠ 64 ∧ cx.memberBad = none ∧ cx.blocked = true ∧ cx.peerWaits = false ∧ (cx.g.arm cx.c.arm).wait.kind ≠ .member cx.bundle cx.slot)
      ∧ (∃ (s : State) (cx : Cx), (Passes i s cx ∧ cx.pure) ∧ cx.W ≠ 64 ∧ cx.memberBad = none ∧ cx.blocked = true ∧ cx.peerWaits = false ∧ (cx.g.arm cx.c.arm).wait.kind = .member cx.bundle cx.slot)
      ∧ (∃ (s : State) (cx : Cx), (Passes i s cx ∧ cx.pure) ∧ cx.W ≠ 64 ∧ cx.memberBad = none ∧ cx.peerWaits = true ∧ cx.h.cap = none
          ∧ ((cx.refresh (cx.begun i s)).forPeer (cx.begun i s)).latchesOk (cx.begun i s) = true))
    ∧ (∃ (i : Instr) (s : State) (cx : Cx), (Passes i s cx ∧ cx.pure) ∧ Rules.hasMembers i = true ∧ cx.W ≠ 64 ∧ cx.memberBad = none ∧ cx.peerWaits = true ∧ cx.blocked = true
          ∧ ((cx.refresh (cx.begun i s)).forPeer (cx.begun i s)).latchesOk (cx.begun i s) = false) := by
  refine ⟨?_, .xScan (wd (.v 4) (.y 0) (.imm 15) .z .i32), (halfWaits 1).updCore 0 (fun x => { x with portA := { cur := some ⟨0, 0, 0⟩, valid := 63 } }), _, passesPure (by decide +kernel), by decide +kernel⟩
  simp only [List.forall_mem_cons]
  refine ⟨?_, ?_, ?_, ?_, ?_, ?_, ?_, by simp⟩ <;>
    exact ⟨rfl, ⟨halves, _, passesPure (by decide +kernel), by decide +kernel⟩, ⟨halfWaits 0, _, passesPure (by decide +kernel), by decide +kernel⟩, halfWaits 1, _, passesPure (by decide +kernel), by decide +kernel⟩

theorem witness_CrossLane :
    (∃ (w : Word) (s : State) (cx : Cx), (Passes (.xRed w) s cx ∧ cx.Alone s) ∧ w.dst.isVec = true)
    ∧ (∃ (w : Word) (r : BitVec 7) (s : State) (cx : Cx), (Passes (.xRed w) s cx ∧ cx.Alone s) ∧ w.dst = .s r)
    ∧ (∃ (w : Word) (s : State) (cx : Cx), Passes (.xScan w) s cx ∧ cx.Alone s)
    ∧ (∃ (w : Word) (s : State) (cx : Cx), (Passes (.xMatch w) s cx ∧ cx.Alone s) ∧ (cx.W = 64 → ∀ L ∈ cx.act, cx.meldBad { m := true, n := 2, al := 2 } w.dst L = false))
    ∧ (∀ i ∈ [(.xShfl : Word → Instr), .xRot, .xBcast], ∃ (w : Word) (s : State) (cx : Cx), Passes (i w) s cx ∧ cx.pure) := by
  refine ⟨⟨wd (.v 4) (.v 8) (.imm 15) .z .i32, base, _, passesAlone (by decide +kernel), rfl⟩, ⟨wd (.s 8) (.v 8) (.imm 15) .z .i32, 8, base, _, passesAlone (by decide +kernel), rfl⟩,
    ⟨wd (.v 4) (.v 8) (.imm 15) .z .i32, base, _, passesAlone (by decide +kernel)⟩, ⟨wd (.v 4) (.v 8) (.imm 15) .z .u32, base, _, passesAlone (by decide +kernel), by decide +kernel⟩, ?_⟩
  simp only [List.forall_mem_cons]
  exact ⟨⟨wd (.v 4) (.v 8) (.imm 17) .z .u32, base, _, passesPure (by decide +kernel)⟩, ⟨wd (.v 4) (.v 8) (.imm 17) .z .u32, base, _, passesPure (by decide +kernel)⟩,
    ⟨wd (.v 4) (.v 8) (.imm 17) .z .u32, base, _, passesPure (by decide +kernel)⟩, by simp⟩

theorem witness_MovesAndSpecialRegisters :
    (∃ (w : Word) (s : State) (cx : Cx), (Passes (.mov w) s cx ∧ cx.clean (.mov w)) ∧ isVector (Instr.mov w).form (headR w) = true)
    ∧ (∃ (w : Word) (s : State) (cx : Cx), (Passes (.mov w) s cx ∧ cx.clean (.mov w)) ∧ isVector (Instr.mov w).form (headR w) = false)
    ∧ (∃ (w : WordI) (s : State) (cx : Cx), Passes (.movImm w) s cx ∧ cx.clean (.movImm w))
    ∧ (∃ (w : Word) (s : State) (cx : Cx), Passes (.readlane w) s cx ∧ cx.pure) ∧ (∃ (w : Word) (s : State) (cx : Cx), Passes (.first w) s cx ∧ cx.pure)
    ∧ (∃ (w : Word) (s : State) (cx : Cx), Passes (.getsr w) s cx ∧ cx.clean (.getsr w)) ∧ (∃ (w : Word) (s : State) (cx : Cx), Passes (.setsr w) s cx ∧ cx.clean (.setsr w))
    ∧ (∃ (s : State) (cx : Cx) (t : Team), s.team cx.c.team = some t ∧ s.frontOf cx.g = none)
    ∧ (∃ (s : State) (cx : Cx) (t : Team) (pa k : Nat) (e : FrontEnt), s.team cx.c.team = some t ∧ s.frontOf cx.g = some (pa, k) ∧ s.frontAt pa = some e) :=
  ⟨⟨wd (.v 4) (.s 7) .z .z .u32, base, _, passesClean (by decide +kernel), rfl⟩, ⟨wd (.s 4) (.s 7) .z .z .u32, base, _, passesClean (by decide +kernel), rfl⟩,
   ⟨wi (.v 4) .z 7 .u32, base, _, passesClean (by decide +kernel)⟩, ⟨wd (.s 4) (.v 8) (.imm 19) .z .i32, base, _, passesPure (by decide +kernel)⟩,
   ⟨wd (.s 4) (.v 8) .z .z .i32, base, _, passesPure (by decide +kernel)⟩, ⟨wd (.v 4) .z .z .z .u32, base, _, passesClean (by decide +kernel)⟩,
   ⟨{ wd .z (.imm 17) .z .z .u32 with fspec := 0x14 }, base, _, passesClean (by decide +kernel)⟩, ⟨base, noCx, _, rfl, rfl⟩,
   ⟨{ base with fronts := [{ pa := 0x101000, va := 0x101000, tenant := 0, mem := 8, slip := 2, pat := 64 }] }, { noCx with g := { noCx.g with front := some (0x101000, 3) } }, _, 0x101000, 3, _, rfl, rfl, rfl⟩⟩

/-- `base` with a group that stands at GROW for 8 registers more, and another that has gone. -/
def growing : State := base.updGroup 0 0 (fun g => { g with count := 16, arm0 := { g.arm0 with wait := { kind := .grow 1 0 } } })

theorem witness_RegisterAllocation :
    (∃ (w : Word) (s : State) (cx : Cx), (Passes (.grow w) s cx ∧ cx.clean (.grow w)) ∧ cx.g.count + 8 * w.fspec.toNat = 256
      ∧ 8 * w.fspec.toNat * cx.W * 4 ≤ (s.core cx.core).pbReg * 65536 ∧ (cx.g.arm cx.c.arm).wait.status = none)
    ∧ (∃ (w : Word) (s : State) (cx : Cx), Passes (.growTry w) s cx ∧ cx.clean (.growTry w))
    ∧ (∃ (w : Word) (s : State) (cx : Cx), (Passes (.shrink w) s cx ∧ cx.clean (.shrink w)) ∧ 8 * w.fspec.toNat + 8 = cx.g.count
      ∧ (cx.g.trapVec.getLsbD 0 = true → 8 * cx.g.hVregs ≤ cx.g.count - 8 * w.fspec.toNat) ∧ ∀ m ∈ s.marksOf cx.c.team cx.c.grp, ∀ r ∈ m.v, r < cx.g.count - 8 * w.fspec.toNat)
    ∧ (∃ (core : Nat) (c : CtxId) (n k : Nat) (g : Group) (s : State), s.oldest (s.growWaits core) = some (c, n, k) ∧ s.group c.team c.grp = some g ∧ s.stopped = false ∧ s.grantable g n = true) :=
  ⟨⟨{ wd .z .z .z .z .i8 with fspec := 30 }, base.updGroup 0 0 (fun g => { g with count := 16 }), _, passesClean (by decide +kernel), by decide +kernel⟩,
   ⟨{ wd (.s 4) .z .z .z .i8 with fspec := 0x84 }, base, _, passesClean (by decide +kernel)⟩,
   ⟨{ wd .z .z .z .z .i8 with fspec := 31 }, base, _, passesClean (by decide +kernel), by decide +kernel⟩,
   ⟨0, ⟨0, 0, 0⟩, 1, 0, _, growing, by decide +kernel, rfl, by decide +kernel⟩⟩

/-! ### Witnesses: control -/

/-- `rich` with predicate p0 true in the lower half of its lanes. -/
def parted : State := rich.updGroup 0 0 (fun g => { g with p := [(0, 0xFF)] })

/-- `parted` with two entries on the divergence stack of arm 0. -/
def stacked : State := parted.updGroup 0 0 (fun g => { g with arm0 := { g.arm0 with depth := 2 } })

theorem witness_Branches :
    (∃ (w : Word) (s : State) (cx : Cx), Passes (.nop w) s cx ∧ cx.clean (.nop w))
    ∧ (∃ (w : WordI) (s : State) (cx : Cx), (Passes (.bra w) s cx ∧ cx.clean (.bra w)) ∧ w.guard.perLane = true ∧ cx.guardFalse = [])
    ∧ (∃ (w : WordI) (s : State) (cx : Cx), (Passes (.bra w) s cx ∧ cx.clean (.bra w)) ∧ w.guard.perLane = true ∧ cx.act = [])
    ∧ (∃ (w : WordI) (s : State) (cx : Cx), Passes (.call w) s cx ∧ cx.clean (.call w))
    ∧ (∃ (w : Word) (s : State) (cx : Cx), (Passes (.ret w) s cx ∧ cx.clean (.ret w)) ∧ ∀ k ∈ cx.arms false, badTarget (cx.srcU k w.a .u64) = none)
    ∧ (∃ (w : Word) (s : State) (cx : Cx), (Passes (.jmpi w) s cx ∧ cx.clean (.jmpi w)) ∧ ∀ k ∈ cx.arms false, badTarget (cx.srcU k w.a .u64) = none) :=
  ⟨⟨wd .z .z .z .z .i8, base, _, passesClean (by decide +kernel)⟩,
   ⟨{ wi .z .z 0xFFFFFFFE .i32 with guard := ⟨false, true, 0⟩ }, base, _, passesClean (by decide +kernel), rfl, by decide +kernel⟩,
   ⟨{ wi .z .z 0xFFFFFFFE .i32 with guard := ⟨false, false, 0⟩ }, base, _, passesClean (by decide +kernel), rfl, by decide +kernel⟩,
   ⟨wi (.s 20) .z 7 .i32, base, _, passesClean (by decide +kernel)⟩, ⟨wd .z (.s 8) .z .z .i8, rich, _, passesClean (by decide +kernel), by decide +kernel⟩,
   ⟨wd (.s 22) (.s 8) .z .z .i8, rich, _, passesClean (by decide +kernel), by decide +kernel⟩⟩

theorem witness_ControlTraps :
    (∃ (w : Word) (s : State) (cx : Cx) (k : Nat), (Passes (.ret w) s cx ∧ isVector (Instr.ret w).form cx.h = false ∧ cx.arms false = [k]) ∧ fld (cx.srcU k w.a .u64).toNat 63 56 = 0 ∧ fld (cx.srcU k w.a .u64).toNat 5 0 ≠ 0)
    ∧ (∃ (w : Word) (s : State) (cx : Cx) (k : Nat), (Passes (.jmpi w) s cx ∧ isVector (Instr.jmpi w).form cx.h = false ∧ cx.arms false = [k]) ∧ fld (cx.srcU k w.a .u64).toNat 63 56 ≠ 0 ∧ fld (cx.srcU k w.a .u64).toNat 5 0 = 0)
    ∧ (∃ (w : WordI) (s : State) (cx : Cx), Passes (.brd w) s cx ∧ ¬ (cx.g.split = false ∧ (cx.g.arm cx.c.arm).depth = 0 ∧ Rules.fall cx w ≠ 0 ∧ Rules.taken cx w ≠ 0)
      ∧ fld cx.g.divLim.toNat 7 0 = (cx.g.arm cx.c.arm).depth) :=
  ⟨⟨wd .z (.s 12) .z .z .i8, rich, _, 0, ⟨passes (by decide +kernel), by decide +kernel⟩, by decide +kernel⟩,
   ⟨wd (.s 22) (.s 14) .z .z .i8, rich.updGroup 0 0 (fun g => { g with s := [(15, 0x1000000)] }), _, 0, ⟨passes (by decide +kernel), by decide +kernel⟩, by decide +kernel⟩,
   ⟨wi .z .z 5 .i32, stacked.updGroup 0 0 (fun g => { g with divLim := 2 }), _, passes (by decide +kernel), by decide +kernel⟩⟩

theorem witness_DivergentBranch :
    (∃ (w : WordI) (s : State) (cx : Cx), (Passes (.brd w) s cx ∧ cx.clean (.brd w)) ∧ cx.g.split = false ∧ (cx.g.arm cx.c.arm).depth = 0 ∧ Rules.fall cx w ≠ 0 ∧ Rules.taken cx w ≠ 0)
    ∧ (∃ (w : WordI) (s : State) (cx : Cx) (pa : Nat), (Passes (.brd w) s cx ∧ cx.clean (.brd w))
      ∧ ¬ (cx.g.split = false ∧ (cx.g.arm cx.c.arm).depth = 0 ∧ Rules.fall cx w ≠ 0 ∧ Rules.taken cx w ≠ 0)
      ∧ (cx.g.arm cx.c.arm).depth < fld cx.g.divLim.toNat 7 0 ∧ s.entryAt cx (cx.g.arm cx.c.arm).depth (needW cx.priv) = .ok pa) :=
  ⟨⟨wi .z .z 5 .i32, parted, _, passesClean (by decide +kernel), by decide +kernel⟩,
   (of_ok (x := stacked.entryAt (cxOf (.brd (wi .z .z 5 .i32)) stacked) _ (needW _)) (by decide +kernel)).elim fun pa h =>
     ⟨wi .z .z 5 .i32, stacked, _, pa, passesClean (by decide +kernel), by decide +kernel, by decide +kernel, h⟩⟩

/-- A context of the lower half of the lanes with one entry on its divergence stack: its phase, the lanes it saved, and its bundle (R30, R31). -/
def entry (phase mask : Nat) : State :=
  (rich.updGroup 0 0 (fun g => { g with p := [(0, 0xFF)], arm0 := { g.arm0 with depth := 1, mask := 0xFF } })).poke 0x190000 16 (mask * 2 ^ 64 + 5 * 2 ^ 14 + phase)

/-- Joins without a stack, with one entry in each phase, and with two. -/
theorem witness_Join :
    let i : Instr := .join (wd .z .z .z .z .i8)
    let at_ (phase mask : Nat) : Prop := ∃ (s : State) (cx : Cx), (Passes i s cx ∧ cx.clean i) ∧ s.entryAt cx 0 (needR cx.priv) = .ok 0x190000 ∧ s.entryAt cx 0 (needW cx.priv) = .ok 0x190000
      ∧ cx.arms (isVector i.form cx.h) = [armSel cx.c] ∧ (cx.g.arm cx.c.arm).depth = 0 + 1 ∧ (s.coreRead cx.core 0x190000 16).testBit 0 = (phase == 1)
      ∧ (BitVec.ofNat 64 (s.coreRead cx.core 0x190000 16 / 2 ^ 64) &&& ~~~cx.g.xmask : W64) &&& ~~~(cx.g.curMask cx.c.arm) = BitVec.ofNat 64 (mask / 256 * 256)
    (∃ (s : State) (cx : Cx), (Passes i s cx ∧ cx.clean i) ∧ cx.arms (isVector i.form cx.h) = [armSel cx.c] ∧ (cx.g.arm cx.c.arm).depth = 0 ∧ cx.g.split = false)
    ∧ (∃ (s : State) (cx : Cx), (Passes i s cx ∧ cx.clean i) ∧ cx.arms (isVector i.form cx.h) = [armSel cx.c] ∧ (cx.g.arm cx.c.arm).depth = 0 ∧ cx.g.split = true)
    ∧ at_ 0 0xFFFF ∧ at_ 0 0xFF ∧ at_ 1 0xFFFF
    ∧ (∃ (s s1 s2 : State) (cx : Cx), (Passes i s cx ∧ cx.clean i) ∧ cx.arms (isVector i.form cx.h) = [armSel cx.c] ∧ (cx.g.arm cx.c.arm).depth = 2
      ∧ s.joinStep cx cx.bundle ((cx.g.arm cx.c.arm).depth + 1) = .ok s1
      ∧ (cx.begun i s).joinStep (cx.refresh (cx.begun i s)) cx.bundle ((cx.g.arm cx.c.arm).depth + 1) = .ok s2) :=
  ⟨⟨base, _, passesClean (by decide +kernel), by decide +kernel⟩, ⟨halves, _, passesClean (by decide +kernel), by decide +kernel⟩,
   ⟨entry 0 0xFFFF, _, passesClean (by decide +kernel), okIs (by decide +kernel), okIs (by decide +kernel), by decide +kernel⟩, ⟨entry 0 0xFF, _, passesClean (by decide +kernel), okIs (by decide +kernel), okIs (by decide +kernel), by decide +kernel⟩,
   ⟨entry 1 0xFFFF, _, passesClean (by decide +kernel), okIs (by decide +kernel), okIs (by decide +kernel), by decide +kernel⟩,
   (of_ok (x := stacked.joinStep (cxOf (.join (wd .z .z .z .z .i8)) stacked) _ _) (by decide +kernel)).elim fun s1 h1 =>
     (of_ok (x := State.joinStep _ (Cx.refresh (cxOf (.join (wd .z .z .z .z .i8)) stacked) _) _ _) (by decide +kernel)).elim fun s2 h2 =>
     ⟨stacked, s1, s2, _, passesClean (by decide +kernel), by decide +kernel, by decide +kernel, h1, h2⟩⟩

theorem witness_Melding :
    (∃ (w : Word) (s : State) (cx : Cx), Passes (.meld w) s cx ∧ cx.clean (.meld w))
    ∧ (∃ (w : Word) (k : BitVec 6) (j : BitVec 8) (s : State) (cx : Cx), Passes (.meldMap w) s cx ∧ w.dst = .m k ∧ w.a = .v j)
    ∧ (∃ (w : Word) (s : State) (cx : Cx), Passes (.meldEnd w) s cx ∧ cx.clean (.meldEnd w)) :=
  ⟨⟨{ wd .z .z .z .z .i8 with slot := 2, scope := 4 }, base, _, passesClean (by decide +kernel)⟩,
   ⟨{ wd (.m 60) (.v 9) .z .z .i8 with fspec := 3 }, 60, 9, base.updGroup 0 0 (fun g => { g with melded := true, armBits := 0xFF, ren0 := identityTable, ren1 := identityTable }), _, passes (by decide +kernel), rfl, rfl⟩,
   ⟨wd .z .z .z .z .i8, base.updGroup 0 0 (fun g => { g with melded := true, armBits := 0xFF, ren0 := identityTable, ren1 := identityTable }), _, passesClean (by decide +kernel)⟩⟩

/-- Two arms without a stack, the issuing one with the lower half of the lanes; the other as given. -/
def exiting (other : Arm) : State := base.updGroup 0 0 (fun g => { g with split := true, arm0 := { g.arm0 with mask := 0xFF }, arm1 := other })

theorem witness_Exit :
    let i : Instr := .exit (wd .z .z .z .z .i8)
    let w := wd .z .z .z .z .i8
    let flat (f : Cx → Bool) : Prop := ∃ (s : State) (cx : Cx), Passes i s cx ∧ cx.g.curMask cx.c.arm &&& ~~~(Rules.exiting cx w) = 0 ∧ (cx.g.arm cx.c.arm).depth = 0 ∧ f cx = true
    let other (cx : Cx) : Arm := cx.g.arm (if armSel cx.c = 0 then cx.c.arm + 1 else cx.c.arm - 1)
    let left (cx : Cx) : W64 := (other cx).mask &&& ~~~(cx.g.xmask ||| Rules.exiting cx w)
    let deep (phase : Nat) : Prop := ∃ (s : State) (cx : Cx), Passes i s cx ∧ s.entryAt cx 0 (needR cx.priv) = .ok 0x190000 ∧ s.entryAt cx 0 (needW cx.priv) = .ok 0x190000
      ∧ cx.g.curMask cx.c.arm &&& ~~~(Rules.exiting cx w) = 0 ∧ (cx.g.arm cx.c.arm).depth = 0 + 1 ∧ (s.coreRead cx.core 0x190000 16).testBit 0 = (phase == 1)
      ∧ (BitVec.ofNat 64 (s.coreRead cx.core 0x190000 16 / 2 ^ 64) &&& ~~~(cx.g.xmask ||| Rules.exiting cx w) : W64) &&& fullMask cx.g.width ≠ 0
    (∃ (w : Word) (s : State) (cx : Cx), Passes (.exit w) s cx ∧ cx.g.curMask cx.c.arm &&& ~~~(Rules.exiting cx w) ≠ 0)
    ∧ flat (fun cx => !cx.g.split)
    ∧ (∃ (s : State) (cx : Cx), Passes i s cx ∧ cx.g.curMask cx.c.arm &&& ~~~(Rules.exiting cx w) = 0 ∧ (cx.g.arm cx.c.arm).depth = 0 ∧ (cx.g.split && !(other cx).parked && left cx != 0) = true
      ∧ ((Rules.exited cx w s).group cx.c.team cx.c.grp).isSome = true)
    ∧ flat (fun cx => cx.g.split && (other cx).parked && left cx &&& fullMask cx.g.width != 0) ∧ flat (fun cx => cx.g.split && (other cx).parked && left cx &&& fullMask cx.g.width == 0)
    ∧ flat (fun cx => cx.g.split && !(other cx).parked && left cx == 0) ∧ deep 0 ∧ deep 1
    ∧ (∃ (s s1 s2 : State) (cx : Cx), Passes i s cx ∧ cx.exit s = .ok s1 ∧ (cx.refresh (cx.begun i s)).exit (cx.begun i s) = .ok s2) := by
  refine ⟨⟨{ wd .z .z .z .z .i8 with guard := ⟨false, false, 0⟩ }, parted, _, passes (by decide +kernel), by decide +kernel⟩, ⟨base, _, passes (by decide +kernel), by decide +kernel⟩,
    ⟨exiting { live := true, mask := 0xFF00 }, _, passes (by decide +kernel), by decide +kernel⟩,
    ⟨exiting { live := true, mask := 0xFF00, parked := true }, _, passes (by decide +kernel), by decide +kernel⟩, ⟨exiting { live := true, parked := true }, _, passes (by decide +kernel), by decide +kernel⟩,
    ⟨exiting {}, _, passes (by decide +kernel), by decide +kernel⟩, ⟨entry 0 0xFFFF, _, passes (by decide +kernel), okIs (by decide +kernel), okIs (by decide +kernel), by decide +kernel⟩, ⟨entry 1 0xFFFF, _, passes (by decide +kernel), okIs (by decide +kernel), okIs (by decide +kernel), by decide +kernel⟩, ?_⟩
  exact (of_ok (x := (cxOf (.exit (wd .z .z .z .z .i8)) base).exit base) (by decide +kernel)).elim fun s1 h1 =>
    (of_ok (x := (Cx.refresh (cxOf (.exit (wd .z .z .z .z .i8)) base) (Cx.begun _ (.exit (wd .z .z .z .z .i8)) base)).exit _) (by decide +kernel)).elim fun s2 h2 =>
    ⟨base, s1, s2, _, passes (by decide +kernel), h1, h2⟩

theorem witness_RetireAndRejoin :
    (∃ (s : State) (team grp : Nat) (g : Group) (tm : Team), s.group team grp = some g ∧ (∀ y ∈ s.groups, y.team = team → y.idx = grp ∨ y.retired = true) ∧ s.team team = some tm)
    ∧ (∃ (s : State) (c : CtxId) (g : Group), s.group c.team c.grp = some g ∧ c.arm < 2 ∧ (g.arm (1 - c.arm)).parked = false ∧ (g.arm (1 - c.arm)).mask &&& ~~~g.xmask ≠ 0)
    ∧ (∃ (s : State) (c : CtxId) (g : Group), s.group c.team c.grp = some g ∧ c.arm < 2 ∧ (g.arm (1 - c.arm)).parked = true)
    ∧ (∃ (s : State) (c : CtxId) (g : Group), s.group c.team c.grp = some g ∧ c.arm < 2 ∧ (g.arm (1 - c.arm)).mask &&& ~~~g.xmask = 0) :=
  ⟨⟨base, 0, 0, _, _, rfl, by decide +kernel, rfl⟩, ⟨halves, ⟨0, 0, 1⟩, _, rfl, by decide +kernel⟩, ⟨exiting { live := true, mask := 0xFF00, parked := true }, ⟨0, 0, 0⟩, _, rfl, by decide +kernel⟩,
   ⟨exiting {}, ⟨0, 0, 0⟩, _, rfl, by decide +kernel⟩⟩

theorem witness_YieldsAndTraps :
    (∃ (w : Word) (s : State) (cx : Cx), Passes (.yield w) s cx)
    ∧ (∃ (w : WordI) (s : State) (cx : Cx), (Passes (.yieldOn w) s cx ∧ cx.clean (.yieldOn w)) ∧ isVector (Instr.yieldOn w).form cx.h = false)
    ∧ (∃ (i : Instr) (s : State) (cur : Cur) (g : Group) (cls n : Nat), i.isWord = true ∧ s.cur = some cur ∧ s.context cur.c = some g ∧ (g.arm cur.c.arm).wait.kind = .yieldOn cls n ∧ n < g.ecnt.getD cls 0)
    ∧ (∀ i ∈ [(.bpt : Word → Instr), .trap], ∃ (w : Word) (s : State) (cx : Cx) (tm : Team), Passes (i w) s cx ∧ cx.g.hmode = false ∧ s.team cx.c.team = some tm ∧ tm.squall = none) := by
  refine ⟨⟨wd .z .z .z .z .i8, base, _, passes (by decide +kernel)⟩, ⟨{ wi .z (.imm 19) 0xFFFFFFFF .i32 with round := 5 }, base, _, passesClean (by decide +kernel), by decide +kernel⟩,
    ⟨.nop (wd .z .z .z .z .i8), base.updGroup 0 0 (fun g => { g with ecnt := [0, 0, 2], arm0 := { g.arm0 with wait := { kind := .yieldOn 2 1 } } }), _, _, 2, 1, rfl, rfl, rfl, by decide +kernel⟩, ?_⟩
  simp only [List.forall_mem_cons]
  exact ⟨⟨{ wd .z .z .z .z .i8 with fspec := 0xA5 }, base, _, _, passes (by decide +kernel), by decide +kernel, rfl, rfl⟩, ⟨{ wd .z .z .z .z .i8 with fspec := 7 }, base, _, _, passes (by decide +kernel), by decide +kernel, rfl, rfl⟩, by simp⟩

/-- `rich` with one earlier store of its core on its way to its slice. -/
def storing : State := rich.store 0 {} 0x100200 4 7 0

theorem witness_HostCall :
    let ok (s : State) (cx : Cx) : Prop := isVector (Instr.hcall { wd (.s 4) (.s 6) .z .z .i8 with fspec := 9 }).form cx.h = false ∧ cx.arms false = [0]
      ∧ (∃ e, s.reach cx.core cx.tenant (s.tenant cx.tenant).hcRing.toNat (needRW cx.priv) = .ok e) ∧ ∃ t, s.team cx.c.team = some t
    let i : Instr := .hcall { wd (.s 4) (.s 6) .z .z .i8 with fspec := 9 }
    (∃ (s s1 : State) (cx : Cx), ok s cx ∧ Begins i (some 3) True s cx s1 ∧ cx.first = true) ∧ (∃ (s s1 : State) (cx : Cx), ok s cx ∧ Begins i (some 3) True s cx s1 ∧ cx.first = false)
    ∧ (∃ (s : State) (cx : Cx), ok s cx ∧ (Passes i s cx ∧ cx.clean i) ∧ ¬ cx.released (some 3) s)
    ∧ (∃ (s : State) (cx : Cx) (k n : Nat) (v : W32) (tm : Team), Resumes i s cx k ∧ (cx.g.arm cx.c.arm).wait.kind = .hcallReply n ∧ (cx.g.arm cx.c.arm).wait.status = some v ∧ s.team cx.c.team = some tm) :=
  ⟨⟨rich, _, _, ⟨by decide +kernel, by decide +kernel, of_ok' (by decide +kernel), _, rfl⟩, begins (passesClean (by decide +kernel)) trivial (released (by decide +kernel)), by decide +kernel⟩,
   ⟨after .release 1 rich, _, _, ⟨by decide +kernel, by decide +kernel, of_ok' (by decide +kernel), _, rfl⟩, begins_again (goes (by decide +kernel)) (by decide +kernel), by decide +kernel⟩,
   ⟨storing, _, ⟨by decide +kernel, by decide +kernel, of_ok' (by decide +kernel), _, rfl⟩, passesClean (by decide +kernel), notReleased (by decide +kernel)⟩,
   ⟨after (.hcallReply 7) 5 rich, _, 0, 7, 5, _, resumes (by decide +kernel), by decide +kernel, by decide +kernel, rfl⟩⟩
/-! ### Witnesses: memory -/

theorem reaches {w : Word} {vec : Bool} {s : State} {cx : Cx} {need : Need}
    (h : (!s.ownMarked cx ((cx.arms vec).flatMap (cx.memAccs w vec)) && (cx.arms vec).all (fun k =>
      (s.rank10 cx (aligned (cx.memAccs w vec k) (accBytes w)) [] true).isNone && (s.rank11 cx (cx.memAccs w vec k) need).isNone)) = true) : Rules.reaches w vec s cx need := by
  simp only [Bool.and_eq_true, Bool.not_eq_true', List.all_eq_true, Option.isNone_iff_eq_none] at h
  exact h

theorem witness_Loads :
    (∃ (w : Word) (s : State) (cx : Cx) (vec : Bool), vec = isVector (Instr.ld w).form (headR w) ∧ (Passes (.ld w) s cx ∧ cx.clean (.ld w)) ∧ Rules.reaches w vec s cx (needR cx.priv))
    ∧ (∃ (w : Word) (s : State) (cx : Cx), (Passes (.ldu w) s cx ∧ cx.clean (.ldu w)) ∧ isVector (Instr.ldu w).form cx.h = false ∧ Rules.reaches w false s cx (needR cx.priv)) :=
  ⟨⟨{ wd (.v 4) (.s 8) (.v 2) .z .u32 with scope := 2, fspec := 0x60 }, rich, _, true, by decide +kernel, passesClean (by decide +kernel), reaches (by decide +kernel)⟩,
   ⟨{ wd (.s 20) (.s 8) .z .z .u32 with chint := 2 }, rich, _, passesClean (by decide +kernel), by decide +kernel, reaches (by decide +kernel)⟩⟩

theorem witness_Stores :
    (∃ (w : Word) (s s0 : State) (cx : Cx) (vec : Bool), vec = isVector (Instr.st w).form (headR w) ∧ s.ownMarked cx ((cx.arms vec).flatMap (cx.memAccs w vec)) = false
      ∧ Begins (.st w) (Rules.releaseOf w) (Rules.reaches w vec s cx (needW cx.priv)) s cx s0)
    ∧ (∃ (w : Word) (s s0 : State) (cx : Cx), isVector (Instr.stu w).form cx.h = false ∧ s.ownMarked cx ((cx.arms false).flatMap (cx.memAccs w false)) = false
      ∧ Rules.releaseOf w ≠ none ∧ Begins (.stu w) (Rules.releaseOf w) (Rules.reaches w false s cx (needW cx.priv)) s cx s0)
    ∧ (∃ (w : Word) (s : State) (cx : Cx), (Passes (.stu w) s cx ∧ cx.clean (.stu w)) ∧ isVector (Instr.stu w).form cx.h = false ∧ Rules.reaches w false s cx (needW cx.priv)
      ∧ ¬ cx.released (Rules.releaseOf w) s)
    ∧ (∃ (w : Word) (s s0 : State) (cx : Cx), isVector (Instr.stu w).form cx.h = false ∧ s.ownMarked cx ((cx.arms false).flatMap (cx.memAccs w false)) = false ∧ cx.first = false
      ∧ Begins (.stu w) (Rules.releaseOf w) (Rules.reaches w false s cx (needW cx.priv)) s cx s0) :=
  ⟨⟨{ wd .z (.s 8) (.v 2) (.v 6) .u32 with chint := 1 }, rich, _, _, true, by decide +kernel, by decide +kernel, begins (passesClean (by decide +kernel)) (reaches (by decide +kernel)) (released (by decide +kernel))⟩,
   ⟨{ wd .z (.s 8) .z (.s 9) .u8 with scope := 3, fspec := 0x80 }, rich, _, _, by decide +kernel, by decide +kernel, by decide +kernel, begins (passesClean (by decide +kernel)) (reaches (by decide +kernel)) (released (by decide +kernel))⟩,
   ⟨{ wd .z (.s 8) .z (.s 9) .u8 with scope := 3, fspec := 0x80 }, storing, _, passesClean (by decide +kernel), by decide +kernel, reaches (by decide +kernel), notReleased (by decide +kernel)⟩,
   ⟨{ wd .z (.s 8) .z (.s 9) .u8 with scope := 3, fspec := 0x80 }, after .release 1 rich, _, _, by decide +kernel, by decide +kernel, by decide +kernel, begins_again (goes (by decide +kernel)) (by decide +kernel)⟩⟩

theorem witness_AccessConditions :
    (∃ (w : Word) (s : State) (cx : Cx) (k : Nat) (b : Bad), (cx.arms false = [k] ∧ s.ownMarked cx (cx.memAccs w false k) = false ∧ isVector (Instr.ldu w).form cx.h = false) ∧ Passes (.ldu w) s cx
      ∧ s.rank10 cx (aligned (cx.memAccs w false k) (accBytes w)) [] true = some b)
    ∧ (∃ (w : Word) (s : State) (cx : Cx) (k : Nat) (b : Bad), (cx.arms false = [k] ∧ s.ownMarked cx (cx.memAccs w false k) = false ∧ isVector (Instr.ldu w).form cx.h = false)
      ∧ (Passes (.ldu w) s cx ∧ cx.clean (.ldu w)) ∧ s.rank10 cx (aligned (cx.memAccs w false k) (accBytes w)) [] true = none ∧ s.rank11 cx (cx.memAccs w false k) (needR cx.priv) = some b)
    ∧ (∃ (w : Word) (s : State) (cx : Cx) (k : Nat) (b : Bad), (cx.arms false = [k] ∧ s.ownMarked cx (cx.memAccs w false k) = false ∧ isVector (Instr.stu w).form cx.h = false) ∧ Passes (.stu w) s cx
      ∧ s.rank10 cx (aligned (cx.memAccs w false k) (accBytes w)) [] true = some b)
    ∧ (∃ (w : Word) (s : State) (cx : Cx) (k : Nat) (b : Bad), (cx.arms false = [k] ∧ s.ownMarked cx (cx.memAccs w false k) = false ∧ isVector (Instr.stu w).form cx.h = false)
      ∧ (Passes (.stu w) s cx ∧ cx.clean (.stu w)) ∧ s.rank10 cx (aligned (cx.memAccs w false k) (accBytes w)) [] true = none ∧ s.rank11 cx (cx.memAccs w false k) (needW cx.priv) = some b) :=
  ⟨(of_some (x := rich.rank10 (cxOf (.ldu (wd (.s 20) (.s 8) (.imm 1) .z .u32)) rich) (aligned (Cx.memAccs _ (wd (.s 20) (.s 8) (.imm 1) .z .u32) false 0) 4) [] true) (by decide +kernel)).elim fun b h =>
     ⟨wd (.s 20) (.s 8) (.imm 1) .z .u32, rich, _, 0, b, by decide +kernel, passes (by decide +kernel), h⟩,
   (of_some (x := base.rank11 (cxOf (.ldu (wd (.s 20) (.s 8) .z .z .u32)) base) (Cx.memAccs _ (wd (.s 20) (.s 8) .z .z .u32) false 0) (needR _)) (by decide +kernel)).elim fun b h =>
     ⟨wd (.s 20) (.s 8) .z .z .u32, base, _, 0, b, by decide +kernel, passesClean (by decide +kernel), by decide +kernel, h⟩,
   (of_some (x := rich.rank10 (cxOf (.stu (wd .z (.s 8) (.imm 1) (.s 9) .u32)) rich) (aligned (Cx.memAccs _ (wd .z (.s 8) (.imm 1) (.s 9) .u32) false 0) 4) [] true) (by decide +kernel)).elim fun b h =>
     ⟨wd .z (.s 8) (.imm 1) (.s 9) .u32, rich, _, 0, b, by decide +kernel, passes (by decide +kernel), h⟩,
   (of_some (x := base.rank11 (cxOf (.stu (wd .z (.s 8) .z (.s 9) .u32)) base) (Cx.memAccs _ (wd .z (.s 8) .z (.s 9) .u32) false 0) (needW _)) (by decide +kernel)).elim fun b h =>
     ⟨wd .z (.s 8) .z (.s 9) .u32, base, _, 0, b, by decide +kernel, passesClean (by decide +kernel), by decide +kernel, h⟩⟩

/-- Each clause of the address conditions, at the edges of its range: the first address beyond 2^56, the last below it, the bytes next to the guard span. -/
theorem witness_AddressConditions :
    let cx (p : Bool) : Cx := { noCx with priv := p, g := { noCx.g with privBase := 0x10001000 } }
    (∃ (a : Acc), a.va = 2 ^ 56) ∧ (∃ (a : Acc) (al : Nat), a.va = 2 ^ 56 - 1 ∧ a.va % al ≠ 0)
    ∧ (∃ (a : Acc) (al : Nat), a.va < 2 ^ 56 ∧ a.va % al = 0 ∧ (cx false).priv = false ∧ a.va < (cx false).g.guardSpan.1 + (cx false).g.guardSpan.2 ∧ (cx false).g.guardSpan.1 + 1 = a.va + a.n)
    ∧ (∃ (a : Acc) (al : Nat), a.va < 2 ^ 56 ∧ a.va % al = 0 ∧ (cx false).priv = false ∧ (cx false).g.guardSpan.1 + (cx false).g.guardSpan.2 = a.va) :=
  ⟨⟨⟨0, 2 ^ 56, 4⟩, rfl⟩, ⟨⟨0, 2 ^ 56 - 1, 4⟩, 4, rfl, by decide +kernel⟩, ⟨⟨0, 0x10000FFD, 4⟩, 1, by decide +kernel⟩, ⟨⟨0, 0x10001040, 4⟩, 4, by decide +kernel⟩⟩

theorem witness_Scratchpad :
    (∃ (w : Word) (s : State) (cx : Cx) (vec : Bool), vec = isVector (Instr.sld w).form (headR w) ∧ (Passes (.sld w) s cx ∧ cx.clean (.sld w))
      ∧ ∀ k ∈ cx.arms vec, s.rank10 cx [] (aligned (cx.scrAccs w vec k) (accBytes w)) false = none)
    ∧ (∀ first : Bool, ∃ (w : Word) (s s0 : State) (cx : Cx) (vec : Bool), cx.first = first ∧ vec = isVector (Instr.sst w).form (headR w)
      ∧ Begins (.sst w) (Rules.releaseOf w) (∀ k ∈ cx.arms vec, s.rank10 cx [] (aligned (cx.scrAccs w vec k) (accBytes w)) false = none) s cx s0
      ∧ (s.tenant cx.tenant).debugCfg.getLsbD 1 = false) :=
  ⟨⟨wd (.v 4) (.s 10) (.v 2) .z .u32, rich, _, true, by decide +kernel, passesClean (by decide +kernel), of_isNone (by decide +kernel)⟩, fun first => by
    cases first
    · exact ⟨{ wd .z (.s 10) (.v 2) (.v 6) .i32 with scope := 1, fspec := 0x80 }, after .release 1 rich, _, _, true, by decide +kernel, by decide +kernel, begins_again (goes (by decide +kernel)) (by decide +kernel), by decide +kernel⟩
    · exact ⟨{ wd .z (.s 10) (.v 2) (.v 6) .i32 with scope := 1, fspec := 0x80 }, rich, _, _, true, by decide +kernel, by decide +kernel,
        begins (passesClean (by decide +kernel)) (of_isNone (by decide +kernel)) (released (by decide +kernel)), by decide +kernel⟩⟩

/-- `rich` with s6 and s7 at 0x100000, s8 at a length of 64 KiB, s9 at 1, and s10 at a record in scratchpad. -/
def ranges : State := rich.updGroup 0 0 (fun g => { g with s := [(6, 0x100000), (8, 0x10000), (9, 0x40), (10, 64), (11, 1)] })

theorem witness_Caches :
    (∃ (w : Word) (s : State) (cx : Cx), (Passes (.l1Inv w) s cx ∧ cx.clean (.l1Inv w)) ∧ (∀ k ∈ cx.arms false, cx.cacheCheck w k s = none) ∧ isVector (Instr.l1Inv w).form cx.h = false
      ∧ ∀ x ∈ s.asyncs, ¬ (x.load = true ∧ x.tag.team = cx.c.team ∧ x.tag.grp = cx.c.grp))
    ∧ (∃ (w : Word) (s : State) (cx : Cx), (Passes (.l1Wb w) s cx ∧ cx.clean (.l1Wb w)) ∧ (∀ k ∈ cx.arms false, cx.cacheCheck w k s = none) ∧ isVector (Instr.l1Wb w).form cx.h = false
      ∧ ∀ k ∈ cx.arms false, ∀ l ∈ (s.core cx.core).lines, (cx.opened s).inRange cx w k l.addr = false)
    ∧ (∃ (w : Word) (s : State) (cx : Cx), WellFormed (.l1Wb w) = true ∧ gate (.l1Wb w) s = .go cx ∧ isVector (Instr.l1Wb w).form cx.h = false ∧ (cx.g.arm cx.c.arm).wait.kind = .acks
      ∧ (cx.g.arm cx.c.arm).wait.exec = 0)
    ∧ (∃ (w : Word) (s : State) (cx : Cx), (Passes (.ldSrec w) s cx ∧ cx.clean (.ldSrec w)) ∧ isVector (Instr.ldSrec w).form cx.h = false ∧ cx.opHeld 2 s = false
      ∧ ∀ k ∈ cx.arms false, s.rank10 cx [(⟨0, (cx.srcU k w.a .u64).toNat, 32⟩, 32)] ((⟨0, (cx.srcU k w.b .u32).toNat, 0⟩, 4) :: cx.bobjAcc k) false = none)
    ∧ (∃ (w : Word) (s : State) (cx : Cx), (Passes (.stSrec w) s cx ∧ cx.clean (.stSrec w)) ∧ isVector (Instr.stSrec w).form cx.h = false ∧ cx.opHeld 2 s = false
      ∧ ∀ k ∈ cx.arms false, s.rank10 cx [(⟨0, (cx.srcU k w.a .u64).toNat, 32⟩, 32)] ((⟨0, (cx.srcU k w.b .u32).toNat, 0⟩, 4) :: cx.bobjAcc k) false = none)
    ∧ (∃ (w : Word) (s : State) (cx : Cx), (Passes (.tierPref w) s cx ∧ cx.clean (.tierPref w)) ∧ isVector (Instr.tierPref w).form cx.h = false ∧ cx.opHeld 5 s = false
      ∧ ∀ k ∈ cx.arms false, (cx.srcU k w.a .u64).toNat % 65536 = 0 ∧ (cx.srcU k w.b .u32).toNat ≠ 0 ∧ (cx.srcU k w.b .u32).toNat % 65536 = 0
        ∧ s.rank10 cx [(⟨0, (cx.srcU k w.a .u64).toNat, 1⟩, 1)] (cx.bobjAcc k) false = none) :=
  ⟨⟨wd .z .z .z .z .i8, rich, _, passesClean (by decide +kernel), by decide +kernel⟩,
   ⟨wd .z (.s 6) (.s 8) .z .i8, ranges, _, passesClean (by decide +kernel), by decide +kernel⟩,
   ⟨wd .z (.s 6) (.s 8) .z .i8, after .acks 1 ranges, _, by decide +kernel, goes (by decide +kernel), by decide +kernel⟩,
   ⟨{ wd (.s 5) (.s 6) (.s 9) (.s 10) .i8 with fspec := 1 }, ranges, _, passesClean (by decide +kernel), by decide +kernel, by decide +kernel, of_isNone (by decide +kernel)⟩,
   ⟨{ wd .z (.s 6) (.s 9) .z .i8 with fspec := 1 }, ranges, _, passesClean (by decide +kernel), by decide +kernel, by decide +kernel, of_isNone (by decide +kernel)⟩,
   ⟨wd (.s 4) (.s 6) (.s 8) .z .i8, ranges, _, passesClean (by decide +kernel), by decide +kernel⟩⟩

theorem witness_Blocks :
    let reached (cx : Cx) (s : State) (w : Word) (need : Need) : Prop := s.ownMarked cx [cx.blkAcc (s.fmtSlot cx w.slot) w.a] = false ∧ fmtBad (s.fmtSlot cx w.slot) true = none
      ∧ s.rank10 cx [(cx.blkAcc (s.fmtSlot cx w.slot) w.a, 2)] [] true = none ∧ s.rank11 cx [cx.blkAcc (s.fmtSlot cx w.slot) w.a] need = none
    (∃ (w : Word) (s : State) (cx : Cx), Passes (.blkEnc w) s cx ∧ cx.act = [])
    ∧ (∃ (w : Word) (s : State) (cx : Cx), (Passes (.blkEnc w) s cx ∧ cx.pure) ∧ cx.act ≠ [] ∧ reached cx s w (needW cx.priv) ∧ ∀ b ∈ cx.encBlocks w (s.fmtSlot cx w.slot), b.2 = [])
    ∧ (∃ (w : Word) (s : State) (cx : Cx), Passes (.blkDec w) s cx ∧ cx.act = [])
    ∧ (∃ (w : Word) (s : State) (cx : Cx), (Passes (.blkDec w) s cx ∧ cx.pure) ∧ cx.act ≠ [] ∧ reached cx s w (needR cx.priv))
    ∧ (∃ (w : Word) (s : State) (cx : Cx) (k : Nat) (x : Async), Resumes (.blkDec w) s cx k ∧ cx.act ≠ [] ∧ s.ownMarked cx [cx.blkAcc (s.fmtSlot cx w.slot) w.a] = false ∧ (cx.g.arm cx.c.arm).wait.kind = .slice
      ∧ s.asyncs.find? (fun x => (cx.g.arm cx.c.arm).wait.asy.contains x.id) = some x) :=
  ⟨⟨{ wd .z (.s 6) (.v 8) (.imm 16) .slot with slot := 1, fspec := 0xA, guard := ⟨false, false, 0⟩ }, formats, _, passes (by decide +kernel), by decide +kernel⟩,
   ⟨{ wd .z (.s 6) (.v 8) (.imm 16) .slot with slot := 1, fspec := 0xA }, formats, _, passesPure (by decide +kernel), by decide +kernel⟩,
   ⟨{ wd (.v 8) (.s 6) .z .z .bf16 with slot := 1, guard := ⟨false, false, 0⟩ }, formats, _, passes (by decide +kernel), by decide +kernel⟩,
   ⟨{ wd (.v 8) (.s 6) .z .z .bf16 with slot := 1 }, formats, _, passesPure (by decide +kernel), by decide +kernel⟩,
   ⟨{ wd (.v 8) (.s 6) .z .z .bf16 with slot := 1 }, answers [{ done := true }] formats, _, 0, _, resumes (by decide +kernel), by decide +kernel, by decide +kernel, by decide +kernel, rfl⟩⟩

/-- The words of the five atomics of the table, each of its own shape. -/
def atomWord : Nat → Word
  | 0 => { wd (.v 4) (.s 8) (.v 2) (.v 6) .u32 with scope := 2, fspec := 0xCA }
  | 1 => { wd (.s 4) (.s 8) .z (.s 10) .u64 with scope := 2, fspec := 0x40 }
  | 2 => wd .z (.s 6) (.v 2) (.v 6) .bf16
  | 3 => { wd (.v 4) (.s 6) (.v 2) .z .f64 with round := 3 }
  | _ => wd .z (.s 6) (.v 2) .z .i8

theorem isPure {cx : Cx} (h : (cx.g.vpo.isEmpty && cx.g.spo.isEmpty) = true) : cx.pure := by
  simpa [Cx.pure] using h

theorem witness_Atomics :
    (∀ (n : Nat), n < 5 → ∃ (w : Word) (s s0 : State) (cx : Cx) (vec : Bool), ∃ r, (Rules.atomicRows w vec)[n]? = some r ∧ vec = isVector r.1.form (headR w) ∧ cx.pure
      ∧ Begins r.1 (Rules.atomicRelease w)
        (∀ k ∈ cx.arms vec, s.rank10 cx (aligned (cx.atomAccs w vec k r.2.1) r.2.1) [] true = none ∧ s.rank11 cx (cx.atomAccs w vec k r.2.1) (needRW cx.priv) = none) s cx s0)
    ∧ (∃ (w : Word) (s s0 : State) (cx : Cx), isVector (Instr.atom w).form (headR w) = true ∧ cx.first = false ∧ cx.pure ∧ Begins (.atom w) (Rules.atomicRelease w)
        (∀ k ∈ cx.arms true, s.rank10 cx (aligned (cx.atomAccs w true k w.ty.bytes) w.ty.bytes) [] true = none ∧ s.rank11 cx (cx.atomAccs w true k w.ty.bytes) (needRW cx.priv) = none) s cx s0) := by
  have step {i : Instr} {k : Option Nat} {ok : Prop} (h : (readyPure i rich && readyClean i rich) = true) (ho : ok) (hr : (cxOf i rich).released k rich) :
      (cxOf i rich).pure ∧ Begins i k ok rich (cxOf i rich) ((cxOf i rich).starts i k rich) := by
    simp only [Bool.and_eq_true] at h
    exact ⟨(passesPure h.1).2, begins (passesClean h.2) ho hr⟩
  refine ⟨fun n hn => ?_, ⟨atomWord 0, after .release 1 rich, _, _, by decide +kernel, by decide +kernel, isPure (by decide +kernel), begins_again (goes (by decide +kernel)) (by decide +kernel)⟩⟩
  match n with
  | 0 => exact ⟨atomWord 0, rich, _, _, true, _, rfl, by decide +kernel, step (by decide +kernel) (by decide +kernel) (released (by decide +kernel))⟩
  | 1 => exact ⟨atomWord 1, rich, _, _, false, _, rfl, by decide +kernel, step (by decide +kernel) (by decide +kernel) (released (by decide +kernel))⟩
  | 2 => exact ⟨atomWord 2, rich, _, _, true, _, rfl, by decide +kernel, step (by decide +kernel) (by decide +kernel) (released (by decide +kernel))⟩
  | 3 => exact ⟨atomWord 3, rich, _, _, true, _, rfl, by decide +kernel, step (by decide +kernel) (by decide +kernel) (released (by decide +kernel))⟩
  | 4 => exact ⟨atomWord 4, rich, _, _, true, _, rfl, by decide +kernel, step (by decide +kernel) (by decide +kernel) (released (by decide +kernel))⟩

/-! ### Witnesses: synchronisation -/

/-- `rich` with s6 at barrier 15, s7 at 64 groups and s20 at one, and an object at 32. -/
def bars : State := rich.updGroup 0 0 (fun g => { g with s := [(6, 15), (7, 64), (8, 0x100100), (10, 32), (11, 0), (20, 1)] })

/-- `bars` where the group has arrived at barrier 15 in its present phase. -/
def arrived : State := bars.updTeam 0 (fun t => { t with bars := t.bars.set 15 { arrived := 1, expect := 2, ever := 1 } })

/-- A state in which an earlier result of the group is still on its way. -/
def owing (s : State) : State := { s with asyncs := [asked []] }

theorem witness_Fences :
    (∃ (w : Word) (s : State) (cx : Cx), Passes (.waitcnt w) s cx ∧ cx.g.ecnt.getD w.round.toNat 0 = w.fspec.toNat % 64)
    ∧ (∃ (w : Word) (s : State) (cx : Cx), Passes (.waitcnt w) s cx ∧ w.fspec.toNat % 64 + 1 = cx.g.ecnt.getD w.round.toNat 0)
    ∧ (∃ (w : Word) (s : State) (cx : Cx) (x : Async), Passes (.fence w) s cx ∧ w.fspec.toNat / 64 % 2 = 1 ∧ x ∈ s.asyncs ∧ x.tag.team = cx.c.team ∧ x.tag.grp = cx.c.grp
      ∧ (cx.g.split = false ∨ x.tag.arm = armSel cx.c)) :=
  ⟨⟨{ wd .z .z .z .z .i8 with round := 5, fspec := 3 }, rich.updGroup 0 0 (fun g => { g with ecnt := [0, 0, 0, 0, 0, 3] }), _, passes (by decide +kernel), by decide +kernel⟩,
   ⟨{ wd .z .z .z .z .i8 with round := 5, fspec := 2 }, rich.updGroup 0 0 (fun g => { g with ecnt := [0, 0, 0, 0, 0, 3] }), _, passes (by decide +kernel), by decide +kernel⟩,
   ⟨{ wd .z .z .z .z .i8 with scope := 3, fspec := 0x40 }, owing rich, _, asked [], passes (by decide +kernel), by decide +kernel⟩⟩

/-- The words of the five instructions that make a release and act at once. -/
def relWord : Nat → Word
  | 0 => { wd .z .z .z .z .i8 with scope := 3, fspec := 0x80 }
  | 1 => wd .z (.s 6) (.s 7) .z .i8
  | 2 => wd .z (.s 10) (.imm 20) .z .i8
  | 3 => { wd (.s 4) (.s 10) (.imm 17) .z .i8 with scope := 2 }
  | _ => { wd .z (.s 8) (.s 6) .z .i8 with scope := 3 }

theorem witness_Releasing :
    ∀ (n : Nat), n < 5 → ∃ r, Rules.releasing[n]? = some r ∧
      (∃ (w : Word) (s s0 : State) (cx : Cx), isVector (r.1 w).form cx.h = false ∧ r.2.2.1 w cx s ∧ cx.first = true ∧ Begins (r.1 w) (r.2.1 w) (∀ k ∈ cx.arms false, r.2.2.2.1 w cx k s) s cx s0)
      ∧ (∃ (w : Word) (s s0 : State) (cx : Cx), isVector (r.1 w).form cx.h = false ∧ r.2.2.1 w cx s ∧ cx.first = false ∧ Begins (r.1 w) (r.2.1 w) (∀ k ∈ cx.arms false, r.2.2.2.1 w cx k s) s cx s0)
      ∧ (∃ (w : Word) (s : State) (cx : Cx), isVector (r.1 w).form cx.h = false ∧ r.2.2.1 w cx s ∧ (Passes (r.1 w) s cx ∧ cx.clean (r.1 w)) ∧ (∀ k ∈ cx.arms false, r.2.2.2.1 w cx k s) ∧ ¬ cx.released (r.2.1 w) s)
  | 0, _ => ⟨_, rfl, ⟨{ wd .z .z .z .z .i8 with scope := 3, fspec := 0xC0 }, bars, _, _, by decide +kernel, by decide +kernel, by decide +kernel, begins (passesClean (by decide +kernel)) (fun _ _ => trivial) (released (by decide +kernel))⟩,
      ⟨relWord 0, after .release 1 bars, _, _, by decide +kernel, by decide +kernel, by decide +kernel, begins_again (goes (by decide +kernel)) (by decide +kernel)⟩,
      ⟨relWord 0, owing bars, _, by decide +kernel, by decide +kernel, passesClean (by decide +kernel), fun _ _ => trivial, notReleased (by decide +kernel)⟩⟩
  | 1, _ => ⟨_, rfl, ⟨relWord 1, bars, _, _, by decide +kernel, trivial, by decide +kernel, begins (passesClean (by decide +kernel)) (by decide +kernel) (released (by decide +kernel))⟩,
      ⟨wd .z (.s 6) .z .z .i8, after .release 1 bars, _, _, by decide +kernel, trivial, by decide +kernel, begins_again (goes (by decide +kernel)) (by decide +kernel)⟩,
      ⟨relWord 1, owing bars, _, by decide +kernel, trivial, passesClean (by decide +kernel), by decide +kernel, notReleased (by decide +kernel)⟩⟩
  | 2, _ => ⟨_, rfl, ⟨relWord 2, bars, _, _, by decide +kernel, trivial, by decide +kernel, begins (passesClean (by decide +kernel)) (by decide +kernel) (released (by decide +kernel))⟩,
      ⟨relWord 2, after .release 1 bars, _, _, by decide +kernel, trivial, by decide +kernel, begins_again (goes (by decide +kernel)) (by decide +kernel)⟩,
      ⟨relWord 2, owing bars, _, by decide +kernel, trivial, passesClean (by decide +kernel), by decide +kernel, notReleased (by decide +kernel)⟩⟩
  | 3, _ => ⟨_, rfl, ⟨relWord 3, bars, _, _, by decide +kernel, trivial, by decide +kernel, begins (passesClean (by decide +kernel)) (by decide +kernel) (released (by decide +kernel))⟩,
      ⟨relWord 3, after .release 1 bars, _, _, by decide +kernel, trivial, by decide +kernel, begins_again (goes (by decide +kernel)) (by decide +kernel)⟩,
      ⟨relWord 3, owing bars, _, by decide +kernel, trivial, passesClean (by decide +kernel), by decide +kernel, notReleased (by decide +kernel)⟩⟩
  | 4, _ => ⟨_, rfl, ⟨relWord 4, bars, _, _, by decide +kernel, trivial, by decide +kernel, begins (passesClean (by decide +kernel)) (by decide +kernel) (released (by decide +kernel))⟩,
      ⟨relWord 4, after .release 1 bars, _, _, by decide +kernel, trivial, by decide +kernel, begins_again (goes (by decide +kernel)) (by decide +kernel)⟩,
      ⟨relWord 4, owing bars, _, by decide +kernel, trivial, passesClean (by decide +kernel), by decide +kernel, notReleased (by decide +kernel)⟩⟩

theorem bar_over {s : State} {team grp b : Nat}
    (h : (match s.team team with | some t => (match t.bars[b]? with | some x => !x.ever.getLsbD grp || x.phase != x.lastph.getLsbD grp | none => false) | none => false) = true) : Rules.barOver s team grp b := by
  cases ht : s.team team with
  | none => simp [ht] at h
  | some t =>
    cases hx : t.bars[b]? with
    | none => simp [ht, hx] at h
    | some x => exact ⟨t, x, ht, hx, by simpa [ht, hx] using h⟩

theorem bar_on {s : State} {team grp b : Nat}
    (h : (match s.team team with | some t => (match t.bars[b]? with | some x => x.ever.getLsbD grp && x.phase == x.lastph.getLsbD grp | none => false) | none => false) = true) : Rules.barOn s team grp b := by
  cases ht : s.team team with
  | none => simp [ht] at h
  | some t =>
    cases hx : t.bars[b]? with
    | none => simp [ht, hx] at h
    | some x => exact ⟨t, x, ht, hx, by simpa [ht, hx] using h⟩

/-- The arrival of BAR.SYNC at barrier 15, from the state in which it begins. -/
def syncs (w : Word) (s s0 : State) (cx : Cx) (k : Nat) (l : List Nat) : Prop :=
  isVector (Instr.barSync w).form cx.h = false ∧ cx.arms false = k :: l
  ∧ Begins (.barSync w) (some 1) (∀ k ∈ cx.arms false, (cx.srcU k w.a .u32).toNat ≤ 15 ∧ (w.b = .z ∨ (1 ≤ (cx.srcU k w.b .u32).toNat ∧ (cx.srcU k w.b .u32).toNat ≤ 64))) s cx s0

/-- A BAR.SYNC that alone is expected, and one that awaits 64 groups. -/
def syncWord (alone : Bool) : Word := wd (.s 4) (.s 6) (.s (if alone then 20 else 7)) .z .i8

theorem witness_Barriers :
    let waits (w : Word) (s : State) (cx : Cx) : Prop := (Passes (.barWait w) s cx ∧ cx.clean (.barWait w)) ∧ isVector (Instr.barWait w).form cx.h = false ∧ ∀ k ∈ cx.arms false, (cx.srcU k w.a .u32).toNat ≤ 15
    let arrives (w : Word) (s0 : State) (cx : Cx) (k : Nat) : State := s0.arriveBar cx.c.team cx.c.grp (cx.srcU k w.a .u32).toNat (if w.b = .z then none else some (cx.srcU k w.b .u32).toNat)
    (∃ (w : Word) (s : State) (cx : Cx), waits w s cx ∧ (∀ k ∈ cx.arms false, Rules.barOver s cx.c.team cx.c.grp (cx.srcU k w.a .u32).toNat) ∧ (w.dst ≠ w.a ∨ (cx.arms false).length = 1))
    ∧ (∃ (w : Word) (s : State) (cx : Cx) (k : Nat) (l : List Nat), waits w s cx ∧ cx.arms false = k :: l ∧ Rules.barOn s cx.c.team cx.c.grp (cx.srcU k w.a .u32).toNat)
    ∧ (∀ first : Bool, ∃ (w : Word) (s s0 : State) (cx : Cx) (k : Nat), cx.first = first ∧ syncs w s s0 cx k [] ∧ Rules.barOver (arrives w s0 cx k) cx.c.team cx.c.grp (cx.srcU k w.a .u32).toNat)
    ∧ (∀ first : Bool, ∃ (w : Word) (s s0 : State) (cx : Cx) (k : Nat), cx.first = first ∧ syncs w s s0 cx k [] ∧ Rules.barOn (arrives w s0 cx k) cx.c.team cx.c.grp (cx.srcU k w.a .u32).toNat)
    ∧ (∃ (w : Word) (s : State) (cx : Cx) (k : Nat), isVector (Instr.barSync w).form cx.h = false ∧ cx.arms false = [k] ∧ (Passes (.barSync w) s cx ∧ cx.clean (.barSync w))
      ∧ (∀ k ∈ cx.arms false, (cx.srcU k w.a .u32).toNat ≤ 15 ∧ (w.b = .z ∨ (1 ≤ (cx.srcU k w.b .u32).toNat ∧ (cx.srcU k w.b .u32).toNat ≤ 64))) ∧ ¬ cx.released (some 1) s)
    ∧ (∀ i ∈ [((.barWait : Word → Instr)), .barSync], ∃ (w : Word) (s : State) (cx : Cx) (k b : Nat) (v : W32), Resumes (i w) s cx k ∧ isVector (i w).form cx.h = false
      ∧ (cx.g.arm cx.c.arm).wait.kind = .bar b ∧ (cx.g.arm cx.c.arm).wait.status = some v) := by
  refine ⟨⟨wd (.s 4) (.s 6) .z .z .i8, bars, cxOf (.barWait (wd (.s 4) (.s 6) .z .z .i8)) bars, ⟨passesClean (by decide +kernel), by decide +kernel, by decide +kernel⟩, ?_, by decide +kernel⟩,
    ⟨wd (.s 4) (.s 6) .z .z .i8, arrived, _, 0, [], ⟨passesClean (by decide +kernel), by decide +kernel, by decide +kernel⟩, by decide +kernel, bar_on (by decide +kernel)⟩, fun first => ?_, fun first => ?_,
    ⟨syncWord true, owing bars, _, 0, by decide +kernel, by decide +kernel, passesClean (by decide +kernel), by decide +kernel, notReleased (by decide +kernel)⟩, fun i hi => ?_⟩
  · have h : (cxOf (.barWait (wd (.s 4) (.s 6) .z .z .i8)) bars).arms false = [0] := by decide +kernel
    intro k hk
    rw [h, List.mem_singleton] at hk
    subst hk
    exact bar_over (by decide +kernel)
  · cases first
    · exact ⟨syncWord true, after .release 1 bars, _, _, 0, by decide +kernel, ⟨by decide +kernel, by decide +kernel, begins_again (goes (by decide +kernel)) (by decide +kernel)⟩, bar_over (by decide +kernel)⟩
    · exact ⟨syncWord true, bars, _, _, 0, by decide +kernel, ⟨by decide +kernel, by decide +kernel, begins (passesClean (by decide +kernel)) (by decide +kernel) (released (by decide +kernel))⟩, bar_over (by decide +kernel)⟩
  · cases first
    · exact ⟨syncWord false, after .release 1 bars, _, _, 0, by decide +kernel, ⟨by decide +kernel, by decide +kernel, begins_again (goes (by decide +kernel)) (by decide +kernel)⟩, bar_on (by decide +kernel)⟩
    · exact ⟨syncWord false, bars, _, _, 0, by decide +kernel, ⟨by decide +kernel, by decide +kernel, begins (passesClean (by decide +kernel)) (by decide +kernel) (released (by decide +kernel))⟩, bar_on (by decide +kernel)⟩
  · simp only [List.mem_cons, List.not_mem_nil, or_false] at hi
    rcases hi with rfl | rfl
    · exact ⟨wd (.s 4) (.s 6) .z .z .i8, after (.bar 15) 1 bars, _, 0, 15, 1, resumes (by decide +kernel), by decide +kernel⟩
    · exact ⟨wd .z (.s 6) .z .z .i8, after (.bar 15) 1 bars, _, 0, 15, 1, resumes (by decide +kernel), by decide +kernel⟩

/-- `bars` with word 2 of the object at 32 poisoned. -/
def badObject : State := bars.updTeam 0 (fun t => { t with scrPoison := [10] })

theorem witness_BarrierObjects :
    let off (w : Word) (cx : Cx) (k : Nat) : Nat := (cx.srcU k w.a .u32).toNat % 2 ^ 32
    let waits (w : Word) (s : State) (cx : Cx) : Prop := (Passes (.bobjWait w) s cx ∧ cx.clean (.bobjWait w)) ∧ isVector (Instr.bobjWait w).form cx.h = false
      ∧ ∀ k ∈ cx.arms false, s.isArmed cx.c.team (off w cx k) = true ∧ s.rank10 cx [] [(⟨0, off w cx k, 16⟩, 16)] false = none
    (∃ (w : Word) (s : State) (cx : Cx), waits w s cx ∧ (∀ k ∈ cx.arms false, s.scrBad cx.c.team (off w cx k) 16 = false
      ∧ fld (s.scrRead cx.c.team (off w cx k) 16) 47 32 ≠ (cx.srcU k w.b .u32).toNat % 65536) ∧ (w.dst ≠ w.a ∧ w.dst ≠ w.b ∨ (cx.arms false).length = 1))
    ∧ (∃ (w : Word) (s : State) (cx : Cx) (k : Nat), waits w s cx ∧ cx.arms false = [k] ∧ s.scrBad cx.c.team (off w cx k) 16 = false
      ∧ fld (s.scrRead cx.c.team (off w cx k) 16) 47 32 = (cx.srcU k w.b .u32).toNat % 65536)
    ∧ (∃ (w : Word) (s : State) (cx : Cx) (k : Nat), waits w s cx ∧ cx.arms false = [k] ∧ s.scrBad cx.c.team (off w cx k) 16 = true)
    ∧ (∃ (w : Word) (s : State) (cx : Cx) (k : Nat) (v : W32), Resumes (.bobjWait w) s cx k ∧ isVector (Instr.bobjWait w).form cx.h = false ∧ (∃ o p, (cx.g.arm cx.c.arm).wait.kind = .bobj o p)
      ∧ (cx.g.arm cx.c.arm).wait.status = some v) :=
  ⟨⟨{ wd (.s 4) (.s 10) (.s 6) (.s 8) .i8 with scope := 1 }, bars, _, ⟨passesClean (by decide +kernel), by decide +kernel⟩, by decide +kernel⟩,
   ⟨{ wd (.s 4) (.s 10) (.s 11) (.s 8) .i8 with scope := 1 }, bars, _, 0, ⟨passesClean (by decide +kernel), by decide +kernel⟩, by decide +kernel⟩,
   ⟨{ wd (.s 4) (.s 10) (.s 11) (.s 8) .i8 with scope := 1 }, badObject, _, 0, ⟨passesClean (by decide +kernel), by decide +kernel⟩, by decide +kernel⟩,
   ⟨{ wd (.s 4) (.s 10) (.s 6) (.s 8) .i8 with scope := 1 }, after (.bobj 32 0) 2 bars, _, 0, 2, resumes (by decide +kernel), by decide +kernel, ⟨32, 0, by decide +kernel⟩, by decide +kernel⟩⟩

/-- An arrival that leaves the phase, one that ends it, and an object at the end of its phase (R111, R294). -/
theorem witness_BarrierArithmetic :
    (∃ (s : State) (team grp b n : Nat) (t : Team) (x : Bar), s.team team = some t ∧ t.bars[b]? = some x ∧ grp < 64 ∧ 0 < n ∧ x.arrived = 0 ∧ x.arrived + 1 < n)
    ∧ (∃ (s : State) (team grp b n : Nat) (t : Team) (x : Bar), s.team team = some t ∧ t.bars[b]? = some x ∧ grp < 64 ∧ 0 < n ∧ x.arrived ≠ 0 ∧ x.everyone = false ∧ x.expect = x.arrived + 1)
    ∧ (∃ (s : State) (team off : Nat) (t : Team), s.team team = some t ∧ t.place ≠ .unplaced ∧ s.isArmed team off = true ∧ s.scrBad team off 16 = false
      ∧ fld (s.scrRead team off 16) 31 16 ≤ fld (s.scrRead team off 16) 15 0 ∧ sgn 32 (fld (s.scrRead team off 16) 127 96) ≤ 0) :=
  ⟨⟨bars, 0, 63, 15, 2, _, _, rfl, rfl, by decide, by decide, by decide +kernel⟩, ⟨arrived, 0, 0, 15, 2, _, _, rfl, rfl, by decide, by decide, by decide +kernel⟩,
   ⟨rich, 0, 32, _, rfl, by decide +kernel⟩⟩

theorem witness_Timelines :
    (∃ (w : Word) (s : State) (cx : Cx) (k : Nat) (l : List Nat), (Passes (.tlWait w) s cx ∧ cx.clean (.tlWait w)) ∧ isVector (Instr.tlWait w).form cx.h = false ∧ cx.arms false = k :: l
      ∧ ∀ k ∈ cx.arms false, s.rank10 cx [(⟨0, (cx.srcU k w.a .u64).toNat, 8⟩, 8)] [] false = none ∧ s.rank11 cx [⟨0, (cx.srcU k w.a .u64).toNat, 8⟩] (needR cx.priv) = none)
    ∧ (∃ (w : Word) (s : State) (cx : Cx) (k : Nat) (v : W32), Resumes (.tlWait w) s cx k ∧ isVector (Instr.tlWait w).form cx.h = false ∧ (cx.g.arm cx.c.arm).wait.kind = .timeline
      ∧ (cx.g.arm cx.c.arm).wait.status = some v) :=
  ⟨⟨{ wd (.s 4) (.s 6) (.s 10) .z .i8 with scope := 2 }, rich, _, 0, [], passesClean (by decide +kernel), by decide +kernel⟩,
   ⟨{ wd (.s 4) (.s 6) (.s 10) .z .i8 with scope := 2 }, after .timeline 1 rich, _, 0, 1, resumes (by decide +kernel), by decide +kernel⟩⟩

/-- `rich` whose group waits at a timeline that request 7 stands for, with the timeline's counter at 5. -/
def counting : State := (rich.updGroup 0 0 (fun g => { g with arm0 := { g.arm0 with wait := { kind := .timeline, ids := [7], rel := true } } })).poke 0x100000 8 5

theorem witness_TimelinesPerform :
    (∃ (s : State) (pa : Nat), s.poisonAt pa = false ∧ ∀ t ∈ s.tenants, t.raceEpoch ≠ some pa)
    ∧ (∀ reached : Bool, ∃ (s : State) (r : Req) (pa : Nat) (t : W64) (c : CtxId) (a : Arm), s.armOf c = some a ∧ a.wait.kind = .timeline ∧ a.wait.status = none ∧ a.wait.ids = [r.id] ∧ s.poisonAt pa = false
      ∧ decide (t.toNat ≤ s.peek pa 8) = reached) :=
  ⟨⟨counting, 0x100000, by decide +kernel⟩, fun reached => by
    cases reached
    · exact ⟨counting, { id := 7, core := 0, tenant := 0, tag := {}, line := 0x2000, kind := .op (.kvFree 0) }, 0x100000, 6, ⟨0, 0, 0⟩, _, rfl, by decide +kernel⟩
    · exact ⟨counting, { id := 7, core := 0, tenant := 0, tag := {}, line := 0x2000, kind := .op (.kvFree 0) }, 0x100000, 5, ⟨0, 0, 0⟩, _, rfl, by decide +kernel⟩⟩

/-- `rich` with s6 a handle of the complete ticket 5, s7 of the pending ticket 4. -/
def handles : State := rich.updGroup 0 0 (fun g => { g with s := [(6, 5), (7, 4)] })

theorem witness_Futures :
    let names (w : Word) (s : State) (cx : Cx) : Prop := ∀ k ∈ cx.arms false, (s.tenant cx.tenant).handleOk (cx.handle k w.a) = true
    let state (w : Word) (s : State) (cx : Cx) (k : Nat) : Nat := (s.tenant cx.tenant).stateOf ((cx.handle k w.a).toNat % 2 ^ 24)
    (∃ (w : Word) (s : State) (cx : Cx), (Passes (.futTest w) s cx ∧ cx.clean (.futTest w)) ∧ isVector (Instr.futTest w).form cx.h = false ∧ names w s cx)
    ∧ (∃ (w : Word) (s : State) (cx : Cx), (Passes (.futWait w) s cx ∧ cx.clean (.futWait w)) ∧ isVector (Instr.futWait w).form cx.h = false ∧ names w s cx
      ∧ (∀ k ∈ cx.arms false, state w s cx k ≠ 0) ∧ (w.dst ≠ w.a ∨ (cx.arms false).length = 1))
    ∧ (∃ (w : Word) (s : State) (cx : Cx) (k : Nat), (Passes (.futWait w) s cx ∧ cx.clean (.futWait w)) ∧ isVector (Instr.futWait w).form cx.h = false ∧ names w s cx
      ∧ cx.arms false = [k] ∧ state w s cx k = 0)
    ∧ (∃ (w : Word) (s : State) (cx : Cx) (k f : Nat), Resumes (.futWait w) s cx k ∧ isVector (Instr.futWait w).form cx.h = false ∧ (cx.g.arm cx.c.arm).wait.kind = .future f ∧ state w s cx k ≠ 0)
    ∧ (∃ (w : Word) (s : State) (cx : Cx), (Passes (.futCancel w) s cx ∧ cx.clean (.futCancel w)) ∧ isVector (Instr.futCancel w).form cx.h = false ∧ names w s cx) :=
  ⟨⟨wd (.s 4) (.s 7) .z .z .i8, handles, _, passesClean (by decide +kernel), by decide +kernel⟩,
   ⟨wd (.s 4) (.s 6) .z .z .i8, handles, _, passesClean (by decide +kernel), by decide +kernel⟩,
   ⟨wd (.s 4) (.s 7) .z .z .i8, handles, _, 0, passesClean (by decide +kernel), by decide +kernel⟩,
   ⟨wd (.s 4) (.s 6) .z .z .i8, after (.future 5) 1 handles, _, 0, 5, resumes (by decide +kernel), by decide +kernel⟩,
   ⟨wd .z (.s 7) .z .z .i8, handles, _, passesClean (by decide +kernel), by decide +kernel⟩⟩

/-- `rich` whose group stands at a wait that is due at cycle 64, which it is. -/
def due : State := { rich.updGroup 0 0 (fun g => { g with arm0 := { g.arm0 with wait := { kind := .bobj 32 0, deadline := some 64, rel := true } } }) with clock := 64 }

theorem witness_WaitsTimeOut :
    ∃ (c : CtxId) (s : State) (a : Arm) (t : Team) (d : Nat), s.armOf c = some a ∧ s.team c.team = some t ∧ s.stopped = false ∧ a.live = true ∧ a.wait.status = none ∧ a.wait.deadline = some d
      ∧ d = s.clock ∧ t.place.here = true :=
  ⟨⟨0, 0, 0⟩, due, _, _, 64, rfl, rfl, by decide +kernel⟩

/-! ### Witnesses: fronts, copies, tasks -/

/-- `rich` whose group is bound to slot 3 of the front at 0x101000. -/
def bound : State := rich.updGroup 0 0 (fun g => { g with front := some (0x101000, 3), frontAddr := 0x101000 })

theorem witness_Fronts :
    let bare : Word := wd .z .z .z .z .i8
    (∃ (w : Word) (s : State) (cx : Cx) (k : Nat) (x : Async), Resumes (.frontJoin w) s cx k ∧ isVector (Instr.frontJoin w).form cx.h = false ∧ cx.answered s = some x ∧ ∀ p ∈ x.parts, p.data ≠ 2)
    ∧ (∃ (w : Word) (s : State) (cx : Cx) (k : Nat), (Passes (.frontJoin w) s cx ∧ cx.clean (.frontJoin w)) ∧ isVector (Instr.frontJoin w).form cx.h = false ∧ cx.arms false = [k]
      ∧ cx.joinCheck k s = none ∧ s.rank11 cx [⟨0, (cx.joinOps k).1, 256⟩] (needRW cx.priv) = none)
    ∧ (∃ (s : State) (cx : Cx) (k : Nat) (x : Async), Resumes (.frontLeave bare) s cx k ∧ isVector (Instr.frontLeave bare).form cx.h = false ∧ cx.answered s = some x)
    ∧ (∃ (s : State) (cx : Cx) (k : Nat), Resumes (.frontStep bare) s cx k ∧ isVector (Instr.frontStep bare).form cx.h = false ∧ (cx.g.arm cx.c.arm).wait.kind = .lull
      ∧ (cx.g.arm cx.c.arm).wait.status.isSome = true)
    ∧ (∀ i ∈ [((.frontLeave : Word → Instr)), .frontStep], ∀ b : Option (Nat × Nat), b = none ∨ b = some (0x101000, 3) →
      ∃ (s : State) (cx : Cx), Passes (i bare) s cx ∧ isVector (i bare).form cx.h = false ∧ s.frontOf cx.g = b)
    ∧ (∀ b : Option (Nat × Nat), b = none ∨ b = some (0x101000, 3) → ∃ (w : Word) (s : State) (cx : Cx), (Passes (.frontStat w) s cx ∧ cx.clean (.frontStat w)) ∧ isVector (Instr.frontStat w).form cx.h = false
      ∧ s.frontOf cx.g = b) := by
  refine ⟨⟨wd .z (.s 6) (.s 12) .z .i8, answers [{ data := 1, done := true }] rich, _, 0, _, resumes (by decide +kernel), by decide +kernel, rfl, by decide +kernel⟩,
   ⟨wd .z (.s 6) (.s 12) .z .i8, rich, _, 0, passesClean (by decide +kernel), by decide +kernel⟩,
   ⟨answers [{ done := true }] bound, _, 0, _, resumes (by decide +kernel), by decide +kernel, rfl⟩,
   ⟨after .lull 1 bound, _, 0, resumes (by decide +kernel), by decide +kernel⟩, fun i hi b hb => ?_, fun b hb => ?_⟩
  · simp only [List.mem_cons, List.not_mem_nil, or_false] at hi
    rcases hi with rfl | rfl <;> rcases hb with rfl | rfl
    · exact ⟨rich, _, passes (by decide +kernel), by decide +kernel⟩
    · exact ⟨bound, _, passes (by decide +kernel), by decide +kernel⟩
    · exact ⟨rich, _, passes (by decide +kernel), by decide +kernel⟩
    · exact ⟨bound, _, passes (by decide +kernel), by decide +kernel⟩
  · rcases hb with rfl | rfl
    · exact ⟨{ wd (.s 4) .z .z .z .u32 with fspec := 3 }, rich, _, passesClean (by decide +kernel), by decide +kernel⟩
    · exact ⟨{ wd (.s 4) .z .z .z .u32 with fspec := 3 }, bound, _, passesClean (by decide +kernel), by decide +kernel⟩

/-- A front of slots 3 and 63 in which slot 63 has waited for exactly FRPAT cycles for slot 3. -/
def lulled : State :=
  { rich with clock := 100, fronts := [{ pa := 0x101000, va := 0x101000, tenant := 0, slip := 1, pat := 100, mem := 0x8000000000000008, steps := [(63, 2)], who := [(3, 0, 0), (63, 0, 1)], lull := [(63, 0, ⟨0, 1, 0⟩)] }] }

theorem witness_FrontsPerform :
    (∃ (s : State) (pa k team grp : Nat) (e : FrontEnt) (g : Group), s.frontAt pa = some e ∧ s.group team grp = some g ∧ k = 63)
    ∧ (∃ (s : State) (pa k : Nat) (c : CtxId) (e : FrontEnt), s.frontAt pa = some e ∧ e.mem.getLsbD k = true ∧ (k, c.team, c.grp) ∈ e.who ∧ e.within k = true ∧ ∀ l ∈ e.lull, l.1 ≠ k)
    ∧ (∃ (s : State) (pa k : Nat) (c : CtxId) (e : FrontEnt), s.frontAt pa = some e ∧ e.mem.getLsbD k = true ∧ (k, c.team, c.grp) ∈ e.who ∧ e.within k = false) :=
  ⟨⟨lulled, 0x101000, 63, 0, 0, _, _, rfl, rfl, rfl⟩, ⟨lulled, 0x101000, 3, ⟨0, 0, 0⟩, _, rfl, by decide +kernel⟩, ⟨lulled, 0x101000, 63, ⟨0, 1, 0⟩, _, rfl, by decide +kernel⟩⟩

theorem witness_FrontEjects :
    ∃ (record m k : Nat) (s : State) (e : FrontEnt), s.frontAt record = some e ∧ s.stopped = false ∧ (∃ l ∈ e.lull, l.2.1 + e.pat = s.clock) ∧ e.minOf e.mem = some m
      ∧ (lanesOf e.mem).find? (fun k => (e.steps.get k).toNat == m) = some k :=
  ⟨0x101000, 0, 3, lulled, _, rfl, by decide +kernel⟩

/-- `rich` with s6 at 64 and s7 at 1 in one word each, a device address in s8 and a length of 4 in s12. -/
def copying : State := rich.updGroup 0 0 (fun g => { g with s := [(6, 64), (7, 64), (8, 0x100100), (12, 4)] })

theorem witness_Copies :
    (∃ (w : Word) (s : State) (cx : Cx), (Passes (.kick w) s cx ∧ cx.clean (.kick w)) ∧ isVector (Instr.kick w).form cx.h = false ∧ cx.opHeld 0 s = false
      ∧ ∀ k ∈ cx.arms false, (1 ≤ (cx.srcU k w.b .u32).toNat ∧ (cx.srcU k w.b .u32).toNat = 64) ∧ s.rank10 cx [] [(⟨0, (cx.srcU k w.a .u32).toNat, 32 * (cx.srcU k w.b .u32).toNat⟩, 32)] false = none)
    ∧ (∃ (w : Word) (s : State) (cx : Cx), (Passes (.cpy w) s cx ∧ cx.clean (.cpy w)) ∧ isVector (Instr.cpy w).form cx.h = false ∧ cx.opHeld 0 s = false
      ∧ ∀ k ∈ cx.arms false, (cx.srcU k w.c .u32).toNat % 4 = 0 ∧ s.rank10 cx (cx.cpyAccs w k false) (cx.cpyAccs w k true) false = none) :=
  ⟨⟨wd (.s 4) (.s 6) (.s 7) .z .i8, copying, _, passesClean (by decide +kernel), by decide +kernel⟩,
   ⟨{ wd .z (.s 8) (.s 6) (.s 12) .i8 with fspec := 1 }, copying, _, passesClean (by decide +kernel), by decide +kernel⟩⟩

theorem witness_OperationsIssue :
    ∀ d : Opd, d = .s 4 ∨ d = .z → ∃ (cx : Cx) (cls : Nat) (s : State) (g : Group), s.group cx.c.team cx.c.grp = some g ∧ cls < g.ecnt.length ∧ cx.tenant < s.tenants.length ∧ cx.wb = true ∧ cx.h.dst = d :=
  fun d hd => by
    rcases hd with rfl | rfl
    · exact ⟨{ noCx with wb := true, h := { noCx.h with dst := .s 4 } }, 5, rich, _, rfl, by decide +kernel, by decide +kernel, rfl, rfl⟩
    · exact ⟨{ noCx with wb := true, h := { noCx.h with dst := .z } }, 5, rich, _, rfl, by decide +kernel, by decide +kernel, rfl, rfl⟩

theorem witness_Park :
    ∃ (w : Word) (s : State) (cx : Cx) (k : Nat) (tm : Team), (Passes (.contPark w) s cx ∧ cx.pure) ∧ isVector (Instr.contPark w).form cx.h = false ∧ cx.arms false = [k]
      ∧ s.team cx.c.team = some tm ∧ s.group cx.c.team cx.c.grp ≠ none ∧ (∀ m ∈ s.marksOf cx.c.team cx.c.grp, (∀ r ∈ m.v, w.fspec.toNat ≤ r) ∧ ∀ r ∈ m.u, 4 ≤ r)
      ∧ (s.tenant cx.tenant).handleOk (cx.handle k w.b) = true
      ∧ s.rank10 cx [(⟨0, (cx.srcU k w.a .u64).toNat, cx.contSize w.fspec.toNat⟩, 64)] [] false = none
      ∧ s.rank11 cx [⟨0, (cx.srcU k w.a .u64).toNat, cx.contSize w.fspec.toNat⟩] (needW cx.priv) = none ∧ cx.released (some 2) s :=
  (of_some (x := task.team 0) (by decide +kernel)).elim fun tm h =>
    ⟨{ wd .z (.s 6) (.s 12) .z .i8 with fspec := 0x10 }, task, cxOf (.contPark { wd .z (.s 6) (.s 12) .z .i8 with fspec := 0x10 }) task, 0, tm, passesPure (by decide +kernel), by decide +kernel, by decide +kernel,
      team0 (by decide +kernel) h, by decide +kernel, by decide +kernel, by decide +kernel, by decide +kernel, by decide +kernel, released (by decide +kernel)⟩

/-- `rich` with a queue header of 2^24 entries of 64 bytes at 0x100000, one of them held. -/
def queues : State :=
  let q : State := { rich with mem := rich.mem.write 0x100000 32 (24 + 6 * 2 ^ 8 + 4 * 2 ^ 64 + 5 * 2 ^ 96 + 0x110000 * 2 ^ 192) }
  q.updGroup 0 0 (fun g => { g with s := [(6, 0x100000), (8, 0x110000), (10, 0x618)] })

theorem witness_TaskQueues :
    let geo (w : Word) (cx : Cx) (vec : Bool) (k : Nat) : Prop := ∀ x ∈ cx.hdrAccs vec k,
      let g := (cx.srcAny vec k w.c .u32 x.lane).toNat
      fld g 7 5 = 0 ∧ fld g 31 11 = 0 ∧ fld g 4 0 ≤ 24 ∧ 3 ≤ fld g 10 8 ∧ fld g 10 8 ≤ 6 ∧ (cx.srcAny vec k w.b .u64 x.lane).toNat % 2 ^ fld g 10 8 = 0
    (∀ first : Bool, ∃ (w : Word) (s s0 : State) (cx : Cx) (vec : Bool), cx.first = first ∧ vec = isVector (Instr.tqInit w).form (headR w)
      ∧ Begins (.tqInit w) (some w.scope.toNat) (∀ k ∈ cx.arms vec, geo w cx vec k ∧ s.hdrCheck cx vec k = none ∧ s.rank11 cx (cx.hdrAccs vec k) (needRW cx.priv) = none) s cx s0)
    ∧ (∀ first : Bool, ∃ (w : Word) (s s0 : State) (cx : Cx) (vec : Bool) (k : Nat) (l : List Nat), cx.first = first ∧ vec = isVector (Instr.tqPush w).form (headR w) ∧ cx.arms vec = k :: l
      ∧ cx.opMarked (s.marksOf cx.c.team cx.c.grp) w.b { n := s.entryRegs cx vec w.b } = false ∧ cx.fsqHeld vec s = false
      ∧ Begins (.tqPush w) (some w.scope.toNat) (∀ k ∈ cx.arms vec, s.hdrCheck cx vec k = none ∧ cx.poison (s.tqWords cx vec k w.b) = none
        ∧ s.rank11 cx (cx.hdrAccs vec k) (needRW cx.priv) = none) s cx s0 ∧ cx.hdrAccs vec k ≠ [])
    ∧ (∃ (w : Word) (s : State) (cx : Cx) (k : Nat) (x : Async), Resumes (.tqPush w) s cx k ∧ isVector (Instr.tqPush w).form (headR w) = true ∧ cx.answered s = some x
      ∧ cx.opMarked (s.marksOf cx.c.team cx.c.grp) w.b { n := s.entryRegs cx true w.b } = false ∧ (cx.g.arm cx.c.arm).wait.kind = .slice)
    ∧ (∃ (w : Word) (s : State) (cx : Cx) (k : Nat) (x : Async) (p : Part) (ps : List Part), Resumes (.tqPush w) s cx k ∧ isVector (Instr.tqPush w).form (headR w) = false ∧ cx.answered s = some x
      ∧ x.parts = p :: ps ∧ cx.opMarked (s.marksOf cx.c.team cx.c.grp) w.b { n := s.entryRegs cx false w.b } = false ∧ (cx.g.arm cx.c.arm).wait.kind = .slice)
    ∧ (∃ (w : Word) (s : State) (cx : Cx) (vec : Bool), vec = isVector (Instr.tqPop w).form (headR w) ∧ (Passes (.tqPop w) s cx ∧ cx.clean (.tqPop w))
      ∧ cx.opMarked (s.marksOf cx.c.team cx.c.grp) w.dst { n := s.entryRegs cx vec w.dst } = false
      ∧ ∀ k ∈ cx.arms vec, s.hdrCheck cx vec k = none ∧ s.rank11 cx (cx.hdrAccs vec k) (needRW cx.priv) = none ∧ cx.hdrAccs vec k ≠ []) := by
  refine ⟨fun first => ?_, fun first => ?_,
   ⟨{ wd (.v 4) (.s 6) (.v 8) .z .i8 with slot := 6, scope := 3 }, answers [{ data := 4, done := true, pred := true }] queues, _, 0, asked [{ data := 4, done := true, pred := true }], resumes (by decide +kernel), by decide +kernel⟩,
   ⟨{ wd (.s 4) (.s 6) (.s 16) .z .i8 with slot := 7, scope := 3 }, answers [{ data := 4, done := true, pred := true }] queues, _, 0, asked [{ data := 4, done := true, pred := true }], _, _, resumes (by decide +kernel), by decide +kernel, by decide +kernel, rfl, by decide +kernel⟩,
   ⟨{ wd (.s 8) (.s 6) .z .z .i8 with slot := 2, scope := 1 }, queues, _, false, by decide +kernel, passesClean (by decide +kernel), by decide +kernel⟩⟩
  · cases first
    · exact ⟨{ wd .z (.s 6) (.s 8) (.s 10) .i8 with scope := 2 }, after .release 1 queues, _, _, false, by decide +kernel, by decide +kernel, begins_again (goes (by decide +kernel)) (by decide +kernel)⟩
    · exact ⟨{ wd .z (.s 6) (.s 8) (.s 10) .i8 with scope := 2 }, queues, _, _, false, by decide +kernel, by decide +kernel, begins (passesClean (by decide +kernel)) (by decide +kernel) (released (by decide +kernel))⟩
  · cases first
    · exact ⟨{ wd (.v 4) (.s 6) (.v 8) .z .i8 with slot := 6, scope := 3 }, after .release 1 queues, _, _, true, 0, [], by decide +kernel, by decide +kernel, by decide +kernel, by decide +kernel, by decide +kernel,
        begins_again (goes (by decide +kernel)) (by decide +kernel), by decide +kernel⟩
    · exact ⟨{ wd (.s 4) (.s 6) (.s 16) .z .i8 with slot := 7, scope := 3 }, queues, _, _, false, 0, [], by decide +kernel, by decide +kernel, by decide +kernel, by decide +kernel, by decide +kernel,
        begins (passesClean (by decide +kernel)) (by decide +kernel) (released (by decide +kernel)), by decide +kernel⟩

/-- A queue that is frozen, one that is full with TAIL wrapped round, one that is empty, and one that takes a push and a pop. -/
theorem witness_QueueOperations :
    let st (x : Nat) : State := { rich with mem := rich.mem.write 0x100000 32 x }
    let h (x : Nat) : Hdr := hdrOf ((st x).peek 0x100000 64)
    let tr (_ : Nat) : Tr := .ok page
    (∃ x, (st x).poisonAt 0x100000 = false ∧ (h x).frozen = true)
    ∧ (∃ x, (st x).poisonAt 0x100000 = false ∧ (h x).frozen = false ∧ (h x).cap = (h x).count ∧ (h x).tail < (h x).head)
    ∧ (∃ x, (st x).poisonAt 0x100000 = false ∧ (h x).frozen = false ∧ (h x).tail = (h x).head)
    ∧ (∃ x, ∃ e, (st x).poisonAt 0x100000 = false ∧ (h x).frozen = false ∧ (h x).count + 1 = (h x).cap ∧ (h x).tail ≠ (h x).head ∧ tr ((h x).ring + (h x).tail % 2 ^ (h x).log2c * 2 ^ (h x).log2e) = .ok e) :=
  ⟨⟨2 ^ 16, by decide +kernel⟩, ⟨1 + 3 * 2 ^ 8 + 0xFFFFFFFE * 2 ^ 64 + 0 * 2 ^ 96, by decide +kernel⟩,
   ⟨1 + 3 * 2 ^ 8 + 5 * 2 ^ 64 + 5 * 2 ^ 96, by decide +kernel⟩,
   ⟨1 + 3 * 2 ^ 8 + 5 * 2 ^ 64 + 6 * 2 ^ 96 + 0x110000 * 2 ^ 192, page, by decide +kernel, by decide +kernel, by decide +kernel, by decide +kernel, rfl⟩⟩

theorem record_passes (i : Word → Instr) (op : Nat → OpKind) (n : Nat) (w : Word) (s : State)
    (h : readyClean (i w) s = true) (h1 : isVector (i w).form (cxOf (i w) s).h = false) (h2 : (cxOf (i w) s).opHeld 4 s = false)
    (h3 : ((cxOf (i w) s).arms false).all (fun k => (s.rank10 (cxOf (i w) s) [] ((⟨0, ((cxOf (i w) s).srcU k w.a .u32).toNat, 64⟩, 64) :: (match (cxOf (i w) s).bobjB k with | some b => [(⟨0, b, 16⟩, 16)] | none => [])) false).isNone) = true) :
    let r : (Word → Instr) × (Nat → OpKind) × Nat := (i, op, n)
    ∃ (w : Word) (s : State) (cx : Cx), (Passes (r.1 w) s cx ∧ cx.clean (r.1 w)) ∧ isVector (r.1 w).form cx.h = false ∧ cx.opHeld 4 s = false
      ∧ ∀ k ∈ cx.arms false, s.rank10 cx [] ((⟨0, (cx.srcU k w.a .u32).toNat, 64⟩, 64) :: (match cx.bobjB k with | some b => [(⟨0, b, 16⟩, 16)] | none => [])) false = none :=
  ⟨w, s, _, passesClean h, h1, h2, of_isNone h3⟩

/-- `rich` with a record's offset in s6, a barrier object's in s7, an address in s8 and a count in s10. -/
def records : State := rich.updGroup 0 0 (fun g => { g with s := [(6, 64), (7, 16), (8, 0x100000), (10, 3), (12, 65535)] })

/-! ### Witnesses: attention and tables -/

theorem witness_Records :
    ∀ r ∈ Rules.recordRows, ∃ (w : Word) (s : State) (cx : Cx), (Passes (r.1 w) s cx ∧ cx.clean (r.1 w)) ∧ isVector (r.1 w).form cx.h = false ∧ cx.opHeld 4 s = false
      ∧ ∀ k ∈ cx.arms false, s.rank10 cx [] ((⟨0, (cx.srcU k w.a .u32).toNat, 64⟩, 64) :: (match cx.bobjB k with | some b => [(⟨0, b, 16⟩, 16)] | none => [])) false = none := by
  simp only [Rules.recordRows, List.forall_mem_cons]
  exact ⟨record_passes .attn (fun r => .attn r false) 0 (wd (.s 4) (.s 6) (.s 7) .z .i8) records (by decide +kernel) (by decide +kernel) (by decide +kernel) (by decide +kernel),
    record_passes .attnScore (fun r => .attn r true) 0 { wd .z (.s 6) .z .z .i8 with fspec := 1 } records (by decide +kernel) (by decide +kernel) (by decide +kernel) (by decide +kernel),
    record_passes .topk .topk 64 (wd (.s 4) (.s 6) (.s 7) .z .i8) records (by decide +kernel) (by decide +kernel) (by decide +kernel) (by decide +kernel),
    record_passes .kvCompact .compact 64 (wd (.s 4) (.s 6) (.s 7) .z .i8) records (by decide +kernel) (by decide +kernel) (by decide +kernel) (by decide +kernel), by simp⟩

theorem witness_Sweeps :
    (∃ (w : Word) (s : State) (cx : Cx), (Passes (.kvSweep w) s cx ∧ cx.clean (.kvSweep w)) ∧ isVector (Instr.kvSweep w).form cx.h = false ∧ cx.opHeld 5 s = false
      ∧ ∀ k ∈ cx.arms false, (cx.srcU k w.a .u32).toNat % 2 ^ 32 ≠ 0 ∧ (cx.srcU k w.a .u32).toNat % 2 ^ 32 = 65535)
    ∧ (∃ (w : Word) (s : State) (cx : Cx), (Passes (.scoreClr w) s cx ∧ cx.clean (.scoreClr w)) ∧ isVector (Instr.scoreClr w).form cx.h = false
      ∧ (let accs (cx : Cx) (k : Nat) : List Acc := (List.range ((cx.srcU k w.b .u32).toNat % 2 ^ 32)).map (fun j => ⟨0, ((cx.srcU k w.a .u64).toNat + 4 * j) % 2 ^ 64, 4⟩)
        s.ownMarked cx ((cx.arms false).flatMap (accs cx)) = false
        ∧ ∀ k ∈ cx.arms false, (cx.srcU k w.b .u32).toNat % 2 ^ 32 ≤ 2 ^ 24 ∧ s.rank10 cx ((⟨0, (cx.srcU k w.a .u64).toNat, 0⟩, 4) :: aligned (accs cx k) 4) [] false = none
          ∧ s.rank11 cx (accs cx k) (needW cx.priv) = none)) :=
  ⟨⟨wd (.s 4) (.s 12) .z .z .i8, records, _, passesClean (by decide +kernel), by decide +kernel⟩,
   ⟨wd .z (.s 8) (.s 10) .z .i8, records, _, passesClean (by decide +kernel), by decide +kernel⟩⟩

theorem witness_Tables :
    let reads (cx : Cx) (s : State) (w : Word) : Prop := ∀ k ∈ cx.arms false, cx.srcU k w.a .u64 ≠ 0 ∧ s.rank10 cx [] [(⟨0, (cx.srcU k w.b .u32).toNat, 64⟩, 4)] false = none ∧ s.scrBad cx.c.team (cx.srcU k w.b .u32).toNat 64 = false
    (∃ (w : Word) (s : State) (cx : Cx) (vec : Bool), vec = isVector (Instr.kvLookup w).form (headR w) ∧ (Passes (.kvLookup w) s cx ∧ cx.clean (.kvLookup w)) ∧ cx.lanes vec ≠ [])
    ∧ (∃ (w : Word) (s : State) (cx : Cx) (vec : Bool), vec = isVector (Instr.kvAlloc w).form (headR w) ∧ (Passes (.kvAlloc w) s cx ∧ cx.clean (.kvAlloc w)) ∧ cx.lanes vec ≠ [])
    ∧ (∀ i ∈ [((.kvLookup : Word → Instr)), .kvAlloc], ∃ (w : Word) (s : State) (cx : Cx), isVector (i w).form (headR w) = true ∧ Passes (i w) s cx ∧ cx.act = [])
    ∧ (∀ first : Bool, ∃ (w : Word) (s s0 : State) (cx : Cx), cx.first = first ∧ isVector (Instr.kvFree w).form (headR w) = true ∧ cx.act = [] ∧ Begins (.kvFree w) (some 2) True s cx s0)
    ∧ (∀ first : Bool, ∃ (w : Word) (s s0 : State) (cx : Cx) (vec : Bool), cx.first = first ∧ vec = isVector (Instr.kvFree w).form (headR w) ∧ cx.lanes vec ≠ []
      ∧ Begins (.kvFree w) (some 2) (∀ k ∈ cx.arms vec, cx.idxCheck vec k s = none) s cx s0)
    ∧ (∃ (w : Word) (s s0 : State) (cx : Cx), isVector (Instr.pfxLookup w).form cx.h = false ∧ Begins (.pfxLookup w) none (reads cx s w) s cx s0)
    ∧ (∀ first : Bool, ∃ (w : Word) (s s0 : State) (cx : Cx), cx.first = first ∧ isVector (Instr.pfxInsert w).form cx.h = false ∧ Begins (.pfxInsert w) (some 2) (reads cx s w) s cx s0) := by
  refine ⟨⟨{ wd (.v 4) (.v 8) (.v 9) (.v 10) .u32 with slot := 3 }, rich, _, true, by decide +kernel, passesClean (by decide +kernel), by decide +kernel⟩,
   ⟨{ wd (.s 4) (.s 8) (.s 9) (.s 10) .u32 with slot := 7 }, rich, _, false, by decide +kernel, passesClean (by decide +kernel), by decide +kernel⟩, fun i hi => ?_, fun first => ?_, fun first => ?_,
   ⟨{ wd (.s 4) (.s 6) (.s 10) .z .i8 with slot := 2 }, rich, _, _, by decide +kernel, begins (passesClean (by decide +kernel)) (by decide +kernel) (released (by decide +kernel))⟩, fun first => ?_⟩
  · simp only [List.mem_cons, List.not_mem_nil, or_false] at hi
    rcases hi with rfl | rfl
    · exact ⟨{ wd (.v 4) (.v 8) (.v 9) (.v 10) .u32 with slot := 3, guard := ⟨false, false, 0⟩ }, rich, _, by decide +kernel, passes (by decide +kernel), by decide +kernel⟩
    · exact ⟨{ wd (.v 4) (.v 8) (.v 9) (.v 10) .u32 with slot := 3, guard := ⟨false, false, 0⟩ }, rich, _, by decide +kernel, passes (by decide +kernel), by decide +kernel⟩
  · cases first
    · exact ⟨{ wd .z (.v 4) .z .z .u32 with guard := ⟨false, false, 0⟩ }, after .release 1 rich, _, _, by decide +kernel, by decide +kernel, by decide +kernel, begins_again (goes (by decide +kernel)) (by decide +kernel)⟩
    · exact ⟨{ wd .z (.v 4) .z .z .u32 with guard := ⟨false, false, 0⟩ }, rich, _, _, by decide +kernel, by decide +kernel, by decide +kernel, begins (passesClean (by decide +kernel)) trivial (released (by decide +kernel))⟩
  · cases first
    · exact ⟨wd .z (.v 4) .z .z .u32, after .release 1 rich, _, _, true, by decide +kernel, by decide +kernel, by decide +kernel, begins_again (goes (by decide +kernel)) (by decide +kernel)⟩
    · exact ⟨wd .z (.v 4) .z .z .u32, rich, _, _, true, by decide +kernel, by decide +kernel, by decide +kernel, begins (passesClean (by decide +kernel)) (by decide +kernel) (released (by decide +kernel))⟩
  · cases first
    · exact ⟨{ wd (.s 4) (.s 6) (.s 10) (.s 11) .i8 with slot := 7 }, after .release 1 rich, _, _, by decide +kernel, by decide +kernel, begins_again (goes (by decide +kernel)) (by decide +kernel)⟩
    · exact ⟨{ wd (.s 4) (.s 6) (.s 10) (.s 11) .i8 with slot := 7 }, rich, _, _, by decide +kernel, by decide +kernel, begins (passesClean (by decide +kernel)) (by decide +kernel) (released (by decide +kernel))⟩

/-- `rich` whose table names a backfill queue at 0x160000 (R147). -/
def backed : State := rich.poke 0x14002C 8 0x160000

/-- A test whose threshold every lane meets. -/
def testWord : Word := { wd .z (.v 4) (.s 13) (.v 8) .f32 with slot := 1 }

theorem witness_EarlyExit :
    let held (w : Word) (s : State) (cx : Cx) : Prop := cx.opMarked (s.marksOf cx.c.team cx.c.grp) w.c { n := 6 } = false
    (∃ (w : Word) (s : State) (cx : Cx), (Passes (.exitTest w) s cx ∧ cx.pure) ∧ held w s cx
      ∧ cx.act ≠ [] ∧ ∀ L ∈ cx.act, floatCond 5 .f32 (cx.src w.a .f32 L) (cx.src w.b .f32 L) = false)
    ∧ (∀ first : Bool, ∃ (w : Word) (s s0 : State) (cx : Cx) (va pa : Nat), cx.first = first ∧ cx.pure ∧ held w s cx
      ∧ cx.act.filter (fun L => floatCond 5 .f32 (cx.src w.a .f32 L) (cx.src w.b .f32 L)) ≠ [] ∧ Begins (.exitTest w) (some 2) True s cx s0 ∧ s0.backQueue (s0.tabOf cx.core cx.tag) = .ok (va, pa))
    ∧ (∃ (w : Word) (s : State) (cx : Cx) (k : Nat) (x : Async), Resumes (.exitTest w) s cx k ∧ held w s cx ∧ cx.answered s = some x)
    ∧ (∃ (w : Word) (s : State) (cx : Cx) (vec : Bool) (t : Team), vec = isVector (Instr.backfill w).form (headR w) ∧ (Passes (.backfill w) s cx ∧ cx.clean (.backfill w)) ∧ cx.lanes vec ≠ []
      ∧ cx.opHeld 4 s = false ∧ (∀ k ∈ cx.arms vec, cx.idxCheck vec k s = none) ∧ s.team cx.c.team = some t) := by
  refine ⟨⟨{ wd .z (.v 4) (.s 6) (.v 8) .f32 with slot := 1 }, rich.updGroup 0 0 (fun g => { g with s := [(6, 0x3F800000)] }), _, passesPure (by decide +kernel), by decide +kernel⟩, fun first => ?_,
   ⟨{ wd .z (.v 4) (.s 6) (.v 8) .f32 with slot := 1 }, answers [{ lane := 3, done := true, pred := true }] rich, _, 0, asked [{ lane := 3, done := true, pred := true }], resumes (by decide +kernel), by decide +kernel⟩,
   ⟨wd (.s 4) (.v 4) (.v 5) .z .u32, rich, cxOf (.backfill (wd (.s 4) (.v 4) (.v 5) .z .u32)) rich, true, _, by decide +kernel, passesClean (by decide +kernel), by decide +kernel, by decide +kernel, by decide +kernel, team0 (by decide +kernel) rfl⟩⟩
  cases first
  · exact ⟨testWord, after .release 1 backed, _, _, 0x160000, 0x160000, by decide +kernel, isPure (by decide +kernel), by decide +kernel, by decide +kernel, begins_again (goes (by decide +kernel)) (by decide +kernel), okIs (by decide +kernel)⟩
  · exact ⟨testWord, backed, _, _, 0x160000, 0x160000, by decide +kernel, isPure (by decide +kernel), by decide +kernel, by decide +kernel, begins (passesClean (by decide +kernel)) trivial (released (by decide +kernel)), okIs (by decide +kernel)⟩

/-! ### Witnesses: the matrix engine -/

/-- `records` whose group holds the matrix token. -/
def holding : State := records.updTeam 0 (fun t => { t with tok := some 0 })

/-- `records` whose token another group holds. -/
def awaiting : State :=
  ({ records with groups := records.groups ++ [{ team := 0, idx := 1, core := 0, arm0 := { live := true, mask := 1 } }] } : State).updTeam 0 (fun t => { t with tok := some 1 })

theorem witness_Tokens :
    let bare : Word := wd .z .z .z .z .i8
    let free (cx : Cx) (s : State) : Prop := cx.noEngine s = false ∧ (cx.token s = some cx.c.grp ∨ cx.token s = none ∧ cx.tokBehind ((cx.g.arm cx.c.arm).tokSeq.getD s.nextId) s = false)
    (∀ owner : Option Nat, owner = none ∨ owner = some 0 → ∃ (s : State) (cx : Cx) (k : Nat), Passes (.mtokAcq bare) s cx ∧ isVector (Instr.mtokAcq bare).form cx.h = false ∧ cx.arms false = [k]
      ∧ cx.token s = owner ∧ free cx s)
    ∧ (∃ (s : State) (cx : Cx) (k : Nat), Passes (.mtokAcq bare) s cx ∧ isVector (Instr.mtokAcq bare).form cx.h = false ∧ cx.arms false = [k] ∧ ¬ free cx s)
    ∧ (∀ still : Bool, ∃ (s : State) (cx : Cx) (k q : Nat), Resumes (.mtokAcq bare) s cx k ∧ isVector (Instr.mtokAcq bare).form cx.h = false ∧ (cx.g.arm cx.c.arm).wait.kind = .mtok q
      ∧ (cx.g.arm cx.c.arm).wait.status ≠ none ∧ (cx.token s = some cx.c.grp ↔ still = true))
    ∧ (∃ (w : Word) (s : State) (cx : Cx), Passes (.mtokAcqTry w) s cx ∧ isVector (Instr.mtokAcqTry w).form cx.h = false)
    ∧ (∃ (w : Word) (s : State) (cx : Cx), (Passes (.mtokPass w) s cx ∧ cx.clean (.mtokPass w)) ∧ isVector (Instr.mtokPass w).form cx.h = false ∧ w.a = .z)
    ∧ (∃ (w : Word) (s : State) (cx : Cx), (Passes (.mtokPass w) s cx ∧ cx.clean (.mtokPass w)) ∧ isVector (Instr.mtokPass w).form cx.h = false ∧ ∀ k ∈ cx.arms false, (cx.srcU k w.a .u32).toNat % 2 ^ 32 = 63) := by
  refine ⟨fun owner ho => ?_, ⟨awaiting, _, 0, passes (by decide +kernel), by decide +kernel⟩, fun still => ?_,
   ⟨{ wd (.s 4) .z .z .z .i8 with fspec := 0x40 }, records, _, passes (by decide +kernel), by decide +kernel⟩,
   ⟨wd .z .z .z .z .i8, holding, _, passesClean (by decide +kernel), by decide +kernel, rfl⟩,
   ⟨wd .z (.s 6) .z .z .i8, holding.updGroup 0 0 (fun g => { g with s := [(6, 63)] }), _, passesClean (by decide +kernel), by decide +kernel⟩⟩
  · rcases ho with rfl | rfl
    · exact ⟨records, _, 0, passes (by decide +kernel), by decide +kernel⟩
    · exact ⟨holding, _, 0, passes (by decide +kernel), by decide +kernel⟩
  · cases still
    · exact ⟨after (.mtok 0) 1 awaiting, _, 0, 0, resumes (by decide +kernel), by decide +kernel⟩
    · exact ⟨after (.mtok 0) 1 holding, _, 0, 0, resumes (by decide +kernel), by decide +kernel⟩

theorem witness_TokenTaken : ∃ (cx : Cx) (s : State) (t : Team), s.team cx.c.team = some t ∧ t.saved = false := ⟨noCx, records, _, rfl, by decide +kernel⟩

theorem witness_QueueEntered : ∃ (cx : Cx) (s : State) (t : Team), s.team cx.c.team = some t ∧ t.saved = false ∧ t.core2 ≠ some t.core := ⟨noCx, records, _, rfl, by decide +kernel⟩

theorem witness_MatrixInstructions :
    (∃ (w : Word) (s : State) (cx : Cx), (Passes (.mma w) s cx ∧ cx.clean (.mma w)) ∧ isVector (Instr.mma w).form cx.h = false ∧ cx.mheld s (w.fspec.getLsbD 4) = false
      ∧ ∀ k ∈ cx.arms false, s.rank10 cx [] (cx.recAt k w.a 32 :: ([] ++ [cx.recAt k w.b 32])) false = none)
    ∧ (∃ (w : Word) (s : State) (cx : Cx), (Passes (.mmaSp w) s cx ∧ cx.clean (.mmaSp w)) ∧ isVector (Instr.mmaSp w).form cx.h = false ∧ cx.mheld s (w.fspec.getLsbD 4) = false
      ∧ ∀ k ∈ cx.arms false, s.rank10 cx [] (cx.recAt k w.a 32 :: ([(⟨0, (cx.srcU k w.a .u32).toNat + 32, 32⟩, 32)] ++ [cx.recAt k w.b 32])) false = none)
    ∧ (∃ (w : Word) (s : State) (cx : Cx), (Passes (.mmaOut w) s cx ∧ cx.clean (.mmaOut w)) ∧ isVector (Instr.mmaOut w).form cx.h = false ∧ cx.mheld s false = false ∧ cx.opHeld 1 s = false
      ∧ ∀ k ∈ cx.arms false, s.rank10 cx [] [cx.recAt k w.a 32, cx.recAt k w.b 32] false = none)
    ∧ (∃ (w : Word) (s : State) (cx : Cx), Passes (.accZero w) s cx ∧ isVector (Instr.accZero w).form cx.h = false ∧ cx.mheld s (w.fspec.getLsbD 4) = false)
    ∧ (∃ (w : Word) (s : State) (cx : Cx), (Passes (.accLd w) s cx ∧ cx.clean (.accLd w)) ∧ isVector (Instr.accLd w).form cx.h = false ∧ cx.mheld s (w.fspec.getLsbD 4) = false ∧ cx.opHeld 1 s = false
      ∧ ∀ k ∈ cx.arms false, s.rank10 cx [] (cx.recAt k w.a 32 :: cx.bobjBAcc k) false = none)
    ∧ (∃ (w : Word) (s : State) (cx : Cx), (Passes (.accSt w) s cx ∧ cx.clean (.accSt w)) ∧ isVector (Instr.accSt w).form cx.h = false ∧ cx.mheld s (w.fspec.getLsbD 4) = false ∧ cx.opHeld 1 s = false
      ∧ ∀ k ∈ cx.arms false, s.rank10 cx [] (cx.recAt k w.a 64 :: cx.bobjBAcc k) false = none)
    ∧ (∃ (w : Word) (s : State) (cx : Cx), (Passes (.layout w) s cx ∧ cx.clean (.layout w)) ∧ isVector (Instr.layout w).form cx.h = false ∧ cx.mheld s false = false
      ∧ ∀ k ∈ cx.arms false, s.rank10 cx [] [cx.recAt k w.a 32] false = none) :=
  ⟨⟨{ wd .z (.s 6) (.s 6) (.s 9) .i8 with fspec := 3 }, holding, _, passesClean (by decide +kernel), by decide +kernel, by decide +kernel, of_isNone (by decide +kernel)⟩,
   ⟨{ wd .z (.s 6) (.s 6) .z .i8 with fspec := 15 }, holding, _, passesClean (by decide +kernel), by decide +kernel, by decide +kernel, of_isNone (by decide +kernel)⟩,
   ⟨{ wd (.s 4) (.s 6) (.s 6) .z .i8 with fspec := 0x25 }, holding, _, passesClean (by decide +kernel), by decide +kernel, by decide +kernel, by decide +kernel, of_isNone (by decide +kernel)⟩,
   ⟨{ wd .z .z .z .z .i8 with fspec := 2 }, holding, _, passes (by decide +kernel), by decide +kernel⟩,
   ⟨{ wd (.s 4) (.s 6) (.s 7) .z .i8 with fspec := 1 }, holding, _, passesClean (by decide +kernel), by decide +kernel, by decide +kernel, by decide +kernel, of_isNone (by decide +kernel)⟩,
   ⟨{ wd .z (.s 6) .z .z .i8 with fspec := 14 }, holding, _, passesClean (by decide +kernel), by decide +kernel, by decide +kernel, by decide +kernel, of_isNone (by decide +kernel)⟩,
   ⟨{ wd .z (.s 6) (.imm 15) .z .i8 with fspec := 0xB }, holding, _, passesClean (by decide +kernel), by decide +kernel, by decide +kernel, of_isNone (by decide +kernel)⟩⟩

/-- `holding` with the last row's number in s6. -/
def lastRow : State := holding.updGroup 0 0 (fun g => { g with s := [(6, 63)] })

theorem witness_TileMoves :
    let spread (o : Opd) (s : State) (cx : Cx) : Prop := cx.mheld s false = false ∧ cx.opMarked (s.marksOf cx.c.team cx.c.grp) o { n := 64 / cx.W } = false
    (∃ (w : Word) (s : State) (cx : Cx), (Passes (.accMovTov w) s cx ∧ cx.clean (.accMovTov w)) ∧ isVector (Instr.accMovTov w).form cx.h = true ∧ spread w.dst s cx
      ∧ (cx.srcU cx.oneSel w.a .u32).toNat % 2 ^ 32 = 63 ∧ cx.act ≠ [])
    ∧ (∃ (w : Word) (s : State) (cx : Cx), cx.act = [] ∧ Passes (.accMovTov w) s cx ∧ isVector (Instr.accMovTov w).form cx.h = true ∧ spread w.dst s cx)
    ∧ (∃ (w : Word) (s : State) (cx : Cx), cx.act = [] ∧ Passes (.accMovToa w) s cx ∧ isVector (Instr.accMovToa w).form cx.h = true ∧ spread w.b s cx)
    ∧ (∃ (w : Word) (s : State) (cx : Cx), (Passes (.accMovToa w) s cx ∧ cx.pure) ∧ isVector (Instr.accMovToa w).form cx.h = true ∧ spread w.b s cx
      ∧ (cx.srcU cx.oneSel w.a .u32).toNat % 2 ^ 32 = 63 ∧ cx.act ≠ []) :=
  ⟨⟨{ wd (.v 4) (.s 6) .z .z .f32 with fspec := 7 }, lastRow, _, passesClean (by decide +kernel), by decide +kernel⟩,
   ⟨{ wd (.v 4) (.s 6) .z .z .f32 with fspec := 7, guard := ⟨false, false, 0⟩ }, lastRow, _, by decide +kernel, passes (by decide +kernel), by decide +kernel⟩,
   ⟨{ wd .z (.s 6) (.v 4) .z .f32 with fspec := 0x87, guard := ⟨false, false, 0⟩ }, lastRow, _, by decide +kernel, passes (by decide +kernel), by decide +kernel⟩,
   ⟨{ wd .z (.s 6) (.v 4) .z .f32 with fspec := 0x87 }, lastRow, _, passesPure (by decide +kernel), by decide +kernel⟩⟩

/-- `holding` with one ACC.ZERO in its queue. -/
def queued : State := holding.updCore 0 (fun x => { x with bound := some 0, mq := [{ id := 9, kind := .zero 3 false, tag := {} }] })

theorem witness_MatrixEnginePerforms :
    ∃ (core : Nat) (s s' : State) (m : MInst) (q : List MInst) (t : Team), (s.core core).mq = m :: q ∧ s.team m.tag.team = some t ∧ s.stopped = false ∧ (m.kind.memory = true → s.ownsSlot m.tag.tenant = true)
      ∧ (m.kind.paired = true → core = t.core) ∧ (∀ c ∈ (if m.kind.paired then t.cores else [core]), ∃ x r, (s.core c).mq = x :: r ∧ x.id = m.id)
      ∧ (∀ id o, m.op = some id → s.op id = some o → o.cancelled = false)
      ∧ (match m.op with | some id => s.updOp id (fun o => { o with started := true }) | none => s).doMatrix m core (if m.kind.paired then t.cores else [core]) = some s' :=
  ⟨0, queued, _, { id := 9, kind := .zero 3 false, tag := {} }, [], _, rfl, rfl, by decide +kernel, fun h => absurd h (by decide), fun h => absurd h (by decide),
    fun c hc => by
      simp [MKind.paired] at hc
      subst hc
      exact ⟨_, _, rfl, rfl⟩,
    fun id o h => absurd h (by simp), rfl⟩

/-- `queued` with a layout record of 64 rows of f32 at offset 0. -/
def laid : State := queued.updTeam 0 (fun t => { t with scr := Sparse.write (([] : Sparse 8)) 0 32 (256 + 10 * 2 ^ 48 + 32 * 2 ^ 64 + 64 * 2 ^ 192 + 2 ^ 208 + 2 ^ 224 + 2 ^ 240) })

/-- The scratchpad of `laid`. -/
def laidScr : Sparse 8 := Sparse.write [] 0 32 (256 + 10 * 2 ^ 48 + 32 * 2 ^ 64 + 64 * 2 ^ 192 + 2 ^ 208 + 2 ^ 224 + 2 ^ 240)

theorem witness_ProductsAccumulate :
    ∃ (s s' : State) (old : Sparse 8) (team core t la lb koff : Nat), t < 16 ∧ s.doMma old team core [core] false t la lb koff = .ok s' := by
  obtain ⟨s', h⟩ := of_ok (x := laid.doMma laidScr 0 0 [0] false 15 0 0 8) (by decide +kernel)
  exact ⟨laid, s', laidScr, 0, 0, 15, 0, 0, 8, by decide, h⟩

/-! ### Witnesses: experts and system -/

/-- `rich` with a bitmap's address in s6, its length of 64 bits in s10, and the values 2^24 and 0 in s12 and s14. -/
def bitmaps : State := rich.updGroup 0 0 (fun g => { g with s := [(6, 0x100000), (10, 64), (12, 0x1000000)] })

theorem witness_Bitmaps :
    (∃ (w : Word) (s : State) (cx : Cx) (vec : Bool), vec = isVector (Instr.ebmSet w).form (headR w) ∧ (Passes (.ebmSet w) s cx ∧ cx.clean (.ebmSet w)) ∧ cx.lanes vec ≠ []
      ∧ ∀ k ∈ cx.arms vec, cx.ebmCheck vec k [w.b] (cx.ebmWord vec k) s = none ∧ s.rank11 cx ((cx.lanes vec).map (cx.ebmWord vec k)) (needRW cx.priv) = none)
    ∧ (∀ r ∈ [((.ebmRank : Word → Instr), (fun w : Word => w.b), (fun w : Word => [w.b])), (.ebmSelect, (fun w => w.c), (fun w => [w.b, w.c]))],
      ∃ (w : Word) (s : State) (cx : Cx) (vec : Bool), vec = isVector (r.1 w).form (headR w) ∧ (Passes (r.1 w) s cx ∧ cx.clean (r.1 w)) ∧ cx.lanes vec ≠ []
      ∧ (let acc (cx : Cx) (k L : Nat) : Acc := ⟨L, cx.ebmBase vec k L, (cx.ebmVal vec k (r.2.1 w) L + 7) / 8⟩
        let accs (cx : Cx) (k : Nat) : List Acc := ((cx.lanes vec).map (acc cx k)).filter (fun x => x.n != 0)
        s.ownMarked cx ((cx.arms vec).flatMap (accs cx)) = false
        ∧ ∀ k ∈ cx.arms vec, cx.ebmCheck vec k (r.2.2 w) (acc cx k) s = none ∧ s.rank11 cx (accs cx k) (needR cx.priv) = none)) := by
  refine ⟨⟨wd .z (.s 6) (.v 4) .z .u32, bitmaps, _, true, by decide +kernel, passesClean (by decide +kernel), by decide +kernel⟩, ?_⟩
  simp only [List.forall_mem_cons]
  exact ⟨⟨wd (.s 4) (.s 6) (.s 10) .z .u32, bitmaps, _, false, by decide +kernel, passesClean (by decide +kernel), by decide +kernel⟩,
    ⟨wd (.v 4) (.s 6) (.v 8) (.s 10) .u32, bitmaps, _, true, by decide +kernel, passesClean (by decide +kernel), by decide +kernel⟩, by simp⟩

/-- A REGROUP of six registers from v8, by the keys in v5. -/
def groupWord : Word := { wd (.v 4) (.v 5) (.v 8) .z .u32 with fspec := 6 }

theorem witness_Regroup :
    (∀ first : Bool, ∃ (w : Word) (s s0 : State) (cx : Cx) (r : BitVec 8), cx.first = first ∧ cx.pure ∧ isVector (Instr.regroup w).form cx.h = true ∧ w.b = .v r
      ∧ cx.opMarked (s.marksOf cx.c.team cx.c.grp) w.b { n := w.fspec.toNat % 64 } = false ∧ Begins (.regroup w) (some 1) True s cx s0)
    ∧ (∃ (w : Word) (s : State) (cx : Cx) (x : Group), (Passes (.regroup w) s cx ∧ cx.pure) ∧ isVector (Instr.regroup w).form cx.h = true
      ∧ cx.opMarked (s.marksOf cx.c.team cx.c.grp) w.b { n := w.fspec.toNat % 64 } = false ∧ cx.released (some 1) s
      ∧ x ∈ s.groups ∧ x.team = cx.c.team ∧ x.retired = false ∧ x.idx ≠ cx.c.grp ∧ s.group cx.c.team x.idx = some x ∧ (x.arm x.mainArm).wait = {})
    ∧ (∃ (w : Word) (s : State) (cx : Cx) (k : Nat) (v : W32), Resumes (.regroup w) s cx k ∧ isVector (Instr.regroup w).form cx.h = true
      ∧ (∃ r n d l, (cx.g.arm cx.c.arm).wait.kind = .regroup r n d l) ∧ (cx.g.arm cx.c.arm).wait.status = some v) := by
  refine ⟨fun first => ?_, ⟨groupWord, awaiting, cxOf (.regroup groupWord) awaiting, { team := 0, idx := 1, core := 0, arm0 := { live := true, mask := 1 } },
     passesPure (by decide +kernel), by decide +kernel, by decide +kernel, released (by decide +kernel), by decide +kernel⟩,
   ⟨groupWord, after (.regroup 8 6 (some 4) []) 1 awaiting, _, 0, 1, resumes (by decide +kernel), by decide +kernel, ⟨8, 6, some 4, [], by decide +kernel⟩, by decide +kernel⟩⟩
  cases first
  · exact ⟨groupWord, after .release 1 rich, _, _, 8, by decide +kernel, isPure (by decide +kernel), by decide +kernel, rfl, by decide +kernel, begins_again (goes (by decide +kernel)) (by decide +kernel)⟩
  · exact ⟨groupWord, rich, _, _, 8, by decide +kernel, isPure (by decide +kernel), by decide +kernel, rfl, by decide +kernel, begins (passesClean (by decide +kernel)) trivial (released (by decide +kernel))⟩

theorem witness_BitmapResults :
    (∃ (x : Async) (h p : Part), x.parts = [h, p] ∧ h.n = 0 ∧ p.n ≠ 0 ∧ p.lane = h.lane ∧ p.bits < 2 ^ 24 ∧ x.gather = .rank)
    ∧ (∃ (x : Async) (h p : Part), x.parts = [h, p] ∧ h.n = 0 ∧ p.n ≠ 0 ∧ p.lane = h.lane ∧ p.bits < 2 ^ 24 ∧ x.gather = .select) :=
  ⟨⟨{ asked [{ lane := 63 }, { lane := 63, n := 64, bits := 512, data := 5 }] with gather := .rank }, _, _, rfl, rfl, by decide, rfl, by decide, rfl⟩,
   ⟨{ asked [{ lane := 63, arg := 1 }, { lane := 63, n := 64, bits := 512, data := 5 }] with gather := .select }, _, _, rfl, rfl, by decide, rfl, by decide, rfl⟩⟩

theorem witness_SystemRegisters :
    (∃ (w : Word) (s : State) (cx : Cx), Passes (.sysr w) s cx)
    ∧ (∃ (w : Word) (s : State) (cx : Cx), (Passes (.sysw w) s cx ∧ cx.clean (.sysw w)) ∧ isVector (Instr.sysw w).form cx.h = false ∧ w.fspec = 0x38
      ∧ ∀ k ∈ cx.arms false, cx.syswBad w.fspec.toNat (cx.srcU k w.a .u64) s = false ∧ epochVa (cx.srcU k w.a .u64) ≠ 0
        ∧ s.rank11 cx [⟨0, epochVa (cx.srcU k w.a .u64), 8⟩] { priv := true } = none)
    ∧ (∃ (w : Word) (s : State) (cx : Cx), (Passes (.tlbinv w) s cx ∧ cx.clean (.tlbinv w)) ∧ isVector (Instr.tlbinv w).form cx.h = false ∧ (w.a = .z ∧ w.b = .z))
    ∧ (∃ (w : Word) (s : State) (cx : Cx), (Passes (.tlbinv w) s cx ∧ cx.clean (.tlbinv w)) ∧ isVector (Instr.tlbinv w).form cx.h = false ∧ (w.a ≠ .z ∧ w.b ≠ .z)
      ∧ ∀ k ∈ cx.arms false, s.rank10 cx [(⟨0, (cx.srcU k w.a .u64).toNat, 0⟩, 1)] [] false = none)
    ∧ (∃ (w : Word) (s : State) (cx : Cx), Passes (.raceClr w) s cx) :=
  ⟨⟨{ wd (.s 20) .z .z .z .u64 with fspec := 0x13 }, base, _, passes (by decide +kernel)⟩,
   ⟨{ wd .z (.s 6) .z .z .u64 with fspec := 0x38 }, rich, _, passesClean (by decide +kernel), by decide +kernel, rfl, by decide +kernel⟩,
   ⟨{ wd .z .z .z .z .i8 with scope := 2 }, rich, _, passesClean (by decide +kernel), by decide +kernel, rfl, rfl⟩,
   ⟨{ wd .z (.s 6) (.s 9) .z .i8 with scope := 2 }, rich, _, passesClean (by decide +kernel), by decide +kernel, by decide, by decide +kernel⟩,
   ⟨wd .z .z .z .z .i8, base, _, passes (by decide +kernel)⟩⟩

/-- A write of the first and one of the last of the registers that keep what is written. -/
theorem witness_SystemRegistersHold :
    ∀ n : Nat, n = 0x08 ∨ n = 0x39 → ∃ r ∈ Rules.plainRegs, r.1 = n ∧ ∃ (s : State) (cx : Cx), s.group cx.c.team cx.c.grp = some cx.g ∧ cx.tenant < s.tenants.length :=
  fun n hn => by
    rcases hn with rfl | rfl
    · exact ⟨(0x08, [(10, 55)]), by decide, rfl, rich, cxOf (.nop (wd .z .z .z .z .i8)) rich, by decide +kernel⟩
    · exact ⟨(0x39, [(0, 1)]), by decide, rfl, rich, cxOf (.nop (wd .z .z .z .z .i8)) rich, by decide +kernel⟩

theorem witness_CountersRead :
    (∃ (w : Word) (s : State) (cx : Cx), (Passes (.perfRd w) s cx ∧ cx.clean (.perfRd w)) ∧ isVector (Instr.perfRd w).form cx.h = true
      ∧ (∀ x ∈ s.asyncs, ¬ (x.tag.team = cx.c.team ∧ x.tag.grp = cx.c.grp)) ∧ cx.act ≠ [] ∧ ∀ L ∈ cx.act, (cx.src w.a .u32 L).toNat % 2 ^ 32 < (perfBank w.fspec.toNat).2)
    ∧ (∃ (w : Word) (s : State) (cx : Cx), (Passes (.perfRd w) s cx ∧ cx.clean (.perfRd w)) ∧ isVector (Instr.perfRd w).form cx.h = false
      ∧ (∀ x ∈ s.asyncs, ¬ (x.tag.team = cx.c.team ∧ x.tag.grp = cx.c.grp)) ∧ ∀ k ∈ cx.arms false, (cx.srcU k w.a .u32).toNat % 2 ^ 32 + 1 = (perfBank w.fspec.toNat).2) :=
  ⟨⟨{ wd (.v 6) (.v 1) .z .z .u32 with fspec := 1 }, rich, _, passesClean (by decide +kernel), by decide +kernel⟩,
   ⟨{ wd (.s 4) (.s 6) .z .z .u32 with fspec := 1 }, rich.updGroup 0 0 (fun g => { g with s := [(6, BitVec.ofNat 32 ((perfBank 1).2 - 1))] }), _, passesClean (by decide +kernel), by decide +kernel⟩⟩

/-- `rich` with its group in its handler, whose context issues. -/
def handling : State :=
  { rich.updGroup 0 0 (fun g => { g with hmode := true, armH0 := { live := true, mask := 0xFFFF } }) with
    cur := some { c := ⟨0, 0, 2⟩, bundle := 0, slot := 0, valid := 15, priv := true, portB := false } }

theorem witness_Return :
    ∀ first : Bool, ∃ (w : Word) (s s0 : State) (cx : Cx), cx.first = first ∧ isVector (Instr.rfh w).form cx.h = false ∧ Begins (.rfh w) (some 1) True s cx s0 := fun first => by
  cases first
  · exact ⟨wd .z .z .z .z .i8, handling.updGroup 0 0 (fun g => { g with armH0 := { g.armH0 with wait := { kind := .release, status := some 1, rel := true } } }), _, _, by decide +kernel, by decide +kernel,
      begins_again (goes (by decide +kernel)) (by decide +kernel)⟩
  · exact ⟨wd .z .z .z .z .i8, handling, _, _, by decide +kernel, by decide +kernel, begins (passesClean (by decide +kernel)) trivial (released (by decide +kernel))⟩
/-! ### Witnesses: results, slices and acknowledgements -/

/-- `rich` with the result of a vector load that has come for register 4 of lane 63. -/
def landing : State := { rich with asyncs := [{ asked [{ lane := 63, regs := [4], n := 4, data := 7, done := true }] with dest := .vec, blk := none, load := true }] }

/-- `rich` whose context waits at its slot for a record that has been answered. -/
def asking : State :=
  { rich.updGroup 0 0 (fun g => { g with arm0 := { g.arm0 with wait := { kind := .slice, asy := [7], rel := true } } }) with asyncs := [asked [{ data := 1, done := true }]] }

theorem witness_ResultsLand :
    (∃ (id : Nat) (s : State) (x : Async) (g : Group), s.asyncs.find? (fun x => x.id == id) = some x ∧ s.stopped = false ∧ (∀ p ∈ x.parts, p.done = true ∨ p.skip = true) ∧ s.landsAfter x = false ∧ x.blk = none
      ∧ s.group x.tag.team x.tag.grp = some g ∧ g.retired = false)
    ∧ (∃ (id : Nat) (s : State) (x : Async) (c : CtxId), s.asyncs.find? (fun x => x.id == id) = some x ∧ s.stopped = false ∧ (∀ p ∈ x.parts, p.done = true ∨ p.skip = true) ∧ s.landsAfter x = false ∧ x.blk.isSome = true ∧ s.asker x = some c)
    ∧ (∃ (x : Async) (p : Part) (r : Nat), x.dest = .vec ∧ x.gather = .value ∧ x.pd = none ∧ x.parts = [p] ∧ p.skip = false ∧ p.regs = [r] ∧ x.ty.is64 = false ∧ p.lane < 64 ∧ p.poison = true) :=
  ⟨⟨7, landing, _, _, rfl, by decide +kernel, by decide, by decide +kernel, rfl, rfl, by decide +kernel⟩,
   ⟨7, asking, asked [{ data := 1, done := true }], ⟨0, 0, 0⟩, by decide +kernel, by decide +kernel, by decide, by decide +kernel, rfl, by decide +kernel⟩,
   ⟨{ asked [{ lane := 63, regs := [255], n := 4, done := true, poison := true }] with dest := .vec }, _, _, rfl, rfl, rfl, rfl, rfl, rfl, rfl, by decide, rfl⟩⟩

/-- `rich` with one request of a kind for the line at 0x100000. -/
def request (k : ReqKind) : State := { rich with reqs := [{ id := 5, core := 0, tenant := 0, line := 0x2000, kind := k, tag := {} }] }

theorem witness_SlicesPerform :
    (∃ (id : Nat) (s : State) (r : Req), s.reqs.find? (fun r => r.id == id) = some r ∧ s.takes r = true ∧ r.kind = .read ∧ ∀ n ∈ s.merges, ¬ (n.line = r.line ∧ n.tenant = r.tenant ∧ n.closed = false))
    ∧ (∃ (id : Nat) (s : State) (r : Req) (d : BitVec 1024) (m : BitVec 128) (p : BitVec 32), s.reqs.find? (fun r => r.id == id) = some r ∧ s.takes r = true ∧ r.kind = .write d m p
      ∧ (s.tenant r.tag.tenant).raceCfg.getLsbD 0 = false ∧ s.clash r.tag r.line r.strong = 0)
    ∧ (∃ (id : Nat) (s s' : State) (r : Req) (o : SliceOp), s.reqs.find? (fun r => r.id == id) = some r ∧ r.kind = .op o ∧ s.takes r = true
      ∧ (((s.dropReq id).mixedAll r.tag r.line r.strong).perfLine r.tenant r.line).sliceOp r o = some s')
    ∧ (∃ (id : Nat) (s : State) (m : Merge), s.merges.find? (fun m => m.id == id) = some m ∧ s.stopped = false ∧ m.joined ≠ []) :=
  ⟨⟨5, request .read, _, rfl, by decide +kernel, rfl, by simp [request]; decide⟩, ⟨5, request (.write 7 0xF 0), _, _, _, _, rfl, by decide +kernel, rfl, by decide +kernel⟩,
   (of_some (x := ((((request (.op (.orBit 0x100000 31))).dropReq 5).mixedAll {} 0x2000 []).perfLine 0 0x2000).sliceOp { id := 5, core := 0, tenant := 0, line := 0x2000, kind := .op (.orBit 0x100000 31), tag := {} } (.orBit 0x100000 31)) (by decide +kernel)).elim
     fun s' h => ⟨5, request (.op (.orBit 0x100000 31)), s', { id := 5, core := 0, tenant := 0, line := 0x2000, kind := .op (.orBit 0x100000 31), tag := {} }, .orBit 0x100000 31, rfl, rfl, by decide +kernel, h⟩,
   ⟨6, { rich with merges := [{ id := 6, line := 0x2000, tenant := 0, data := 7, poison := false, joined := [{ id := 5, core := 0, tenant := 0, line := 0x2000, kind := .read, tag := {} }] }] }, _, rfl, by decide +kernel, by decide⟩⟩

/-- `rich` with a write of 4 bytes of the line at 0x100000 that its slice has started. -/
def writing (failed : Nat) (line : Nat := 0x2000) : State := { rich with acks := [{ id := 5, core := 0, tenant := 0, line := line, data := 0x01020304, mask := 0xF, poison := 0, tag := {}, failed := failed }] }

theorem witness_WritesAcknowledged :
    (∃ (id : Nat) (s : State) (a : Ack), s.acks.find? (fun a => a.id == id) = some a ∧ s.stopped = false ∧ a.failed = 0)
    ∧ (∃ (id : Nat) (s : State) (a : Ack), s.acks.find? (fun a => a.id == id) = some a ∧ s.stopped = false ∧ a.failed ≠ 0)
    ∧ (∃ (id : Nat) (s : State) (a : Ack) (r : Nat), s.acks.find? (fun a => a.id == id) = some a ∧ s.stopped = false ∧ r = 1)
    ∧ (∃ (id : Nat) (s : State) (a : Ack) (r : Nat), s.acks.find? (fun a => a.id == id) = some a ∧ s.stopped = false ∧ r = 2 ∧ isHost (a.line * 128) = true) :=
  ⟨⟨5, writing 0, _, rfl, by decide +kernel, rfl⟩, ⟨5, writing 2, _, rfl, by decide +kernel, by decide⟩, ⟨5, writing 0, _, 1, rfl, by decide +kernel, rfl⟩,
   ⟨5, writing 0 (2 ^ 44), _, 2, rfl, by decide +kernel, rfl, by decide +kernel⟩⟩

/-! ### Witnesses: engine operations -/

/-- `rich` with an operation of a kind, and one of its class counted in its group. -/
def operating (cls : Nat) (k : OpKind) : State :=
  { rich.updGroup 0 0 (fun g => { g with ecnt := [1, 1, 1, 1, 1, 1] }) with ops := [{ id := 9, cls := cls, tag := {}, core := 0, ticket := some 4, kind := k }] }

/-- The operation of a state. -/
def opOf (s : State) : EngOp := s.ops.headD { id := 0, cls := 0, tag := {}, core := 0, kind := .kick 0 0 }

theorem witness_OperationsComplete :
    ∃ (id : Nat) (s : State) (o : EngOp) (g : Group) (k : Nat), s.op id = some o ∧ s.stopped = false ∧ (o.ready = true ∨ o.cancelled = true) ∧ (opsBefore s.ops o = false ∧ ∀ c ∈ s.cores, ∀ m ∈ c.mq, m.op ≠ some id) ∧ s.group o.tag.team o.tag.grp = some g
      ∧ o.cls < g.ecnt.length ∧ o.ticket = some k ∧ o.tag.tenant < s.tenants.length :=
  ⟨9, (operating 5 (.kick 64 1)).updOp 9 (fun o => { o with ready := true }), _, _, 4, rfl, by decide +kernel, .inl rfl, by decide +kernel, rfl, by decide +kernel, rfl, by decide +kernel⟩

/-- `operating` with a copy record at 64 in scratchpad: 8 bytes from memory at 0x100100 to scratchpad at 512. -/
def kicking : State := (operating 0 (.kick 64 1)).updTeam 0 (fun t => { t with scr := Sparse.write (([] : Sparse 8)) 64 32 (2 + 0xFFFFFFFF * 2 ^ 64 + 8 * 2 ^ 96 + 0x100100 * 2 ^ 128 + 512 * 2 ^ 192) })

/-- `operating` with a stream record at 0x100000 in memory: 2 by 3 rows of 8 bytes from 0x100100. -/
def streaming : State :=
  { operating 2 (.stream true 0x100000 1024) with mem := rich.mem.write 0x100000 32 (0x100100 + 8 * 2 ^ 128 + 3 * 2 ^ 160 + 2 * 2 ^ 176 + 16 * 2 ^ 192 + 64 * 2 ^ 224) }

theorem split {α β : Type} {x : α × β} {b : β} (h : x.2 = b) : x = (x.1, b) := by rw [← h]

theorem witness_CopiesPerform :
    (∃ (id k so n : Nat) (s u : State) (o : EngOp), s.op id = some o ∧ s.opRuns o = true ∧ o.kind = .kick so n ∧ k + 1 = n ∧ o.prog.contains k = false ∧ s.kickTurn o = true
      ∧ (∀ j ≤ k, o.prog.contains j = false → s.kickBad o so j = none)
      ∧ (s.updOp id (fun o => { o with started := true })).engCopy o (s.kickRec o so k).dst (s.kickRec o so k).src (s.kickRec o so k).len = (u, none))
    ∧ (∃ (id dst src len dir : Nat) (s u : State) (o : EngOp) (f : Option EFault), s.op id = some o ∧ s.opRuns o = true ∧ o.kind = .cpy dst src len dir ∧ o.prog.contains 0 = false
      ∧ (s.updOp id (fun o => { o with started := true })).engCopy o ⟨dir.testBit 1, dst⟩ ⟨dir.testBit 0, src⟩ len = (u, f))
    ∧ (∃ (id rec_ so row : Nat) (load : Bool) (s p u : State) (o : EngOp), s.op id = some o ∧ s.opRuns o = true ∧ o.kind = .stream load rec_ so ∧ o.prog.contains row = false ∧ s.streamStart o rec_ so = (p, true)
      ∧ (let x := match p.op id with | some o => o.result | none => 0
        let inner := fld x 175 160
        let n := fld x 159 128
        let scr : End := ⟨true, so + row * n⟩
        let mem : End := ⟨false, wrapN 64 ((fld x 55 0 : Int) + (row / max inner 1 : Nat) * sgn 32 (fld x 255 224) + (row % max inner 1 : Nat) * sgn 32 (fld x 223 192))⟩
        row < fld x 191 176 * inner ∧ p.engCopy o (if load then scr else mem) (if load then mem else scr) n = (u, none))) :=
  ⟨⟨9, 0, 64, 1, kicking, _, opOf kicking, by decide +kernel, by decide +kernel, by decide +kernel, rfl, by decide +kernel, by decide +kernel, by decide +kernel, split (by decide +kernel)⟩,
   ⟨9, 0x100000, 64, 8, 1, operating 0 (.cpy 0x100000 64 8 1), _, opOf (operating 0 (.cpy 0x100000 64 8 1)), _, by decide +kernel, by decide +kernel, by decide +kernel, by decide +kernel, split rfl⟩,
   ⟨9, 0x100000, 1024, 5, true, streaming, _, _, opOf streaming, by decide +kernel, by decide +kernel, by decide +kernel, by decide +kernel, split (by decide +kernel), by decide +kernel, split (by decide +kernel)⟩⟩

/-- `rich` with page tables of its tenant from 0x200000 that map one page of 64 KiB at 0x100000 onto itself. -/
def tables (s : State) : State :=
  { s.updTenant 0 (fun t => { t with root := 0x200000 }) with
    mem := (((s.mem.write 0x200000 8 0x210001).write 0x210000 8 0x220001).write 0x220000 8 0x230001).write (0x230000 + 8 * 16) 8 0x100071 }

theorem witness_PagesPromote :
    ∃ (id va len : Nat) (s : State) (o : EngOp) (e : TlbEntry), s.op id = some o ∧ s.opRuns o = true ∧ o.kind = .tier va len ∧ (o.prog.length + 1) * 65536 = len
      ∧ s.reach o.core o.tag.tenant (va + 65536 * o.prog.length) { priv := o.tag.priv } = .ok e ∧ isLp (e.at (va + 65536 * o.prog.length)) = false :=
  ⟨9, 0x100000, 65536, operating 5 (.tier 0x100000 65536), opOf (operating 5 (.tier 0x100000 65536)), page, by decide +kernel⟩

/-- An ATTN operation over no block, which has started (R154): one head, slice 0 sends an empty triple. -/
def attending (score susp : Bool) : State := (operating 4 (.attn 64 score)).updOp 9 (fun o => { o with started := true, susp := susp, again := susp, result := 10 * 2 ^ 96 })

theorem witness_AttentionPerforms :
    (∃ (id slice head rec_ : Nat) (score : Bool) (s u : State) (o o' : EngOp), s.op id = some o ∧ o.kind = .attn rec_ score ∧ s.opRuns o = true ∧ (s.attnStart o rec_ score).op id = some o' ∧ o'.ready = false
      ∧ o'.slices.contains slice = true ∧ slice < 192 ∧ head < recHeads o'.result ∧ o'.prog.contains (slice * 16 + head) = false ∧ o'.prog.contains (4096 + slice) = false
      ∧ (s.attnStart o rec_ score).attnTiles o' slice = .ok u
      ∧ (((u.op id).getD o').arrived (o'.prog ++ [slice * 16 + head]) = true ∧ ((u.op id).getD o').susp = false ∧ (score = true → u.scoreTurn ((u.op id).getD o') = true)))
    ∧ (∃ (id slice head rec_ : Nat) (score : Bool) (s : State) (o o' : EngOp) (e : EFault), s.op id = some o ∧ o.kind = .attn rec_ score ∧ s.opRuns o = true ∧ (s.attnStart o rec_ score).op id = some o'
      ∧ o'.ready = false ∧ o'.slices.contains slice = true ∧ slice < 192 ∧ head < recHeads o'.result ∧ o'.prog.contains (slice * 16 + head) = false ∧ o'.prog.contains (4096 + slice) = false
      ∧ (s.attnStart o rec_ score).attnTiles o' slice = .error e)
    ∧ (∃ (id : Nat) (s : State) (o : EngOp), s.op id = some o ∧ o.susp = true ∧ o.again = true ∧ s.opRuns o = true) := by
  refine ⟨?_, ?_, ⟨9, attending false true, _, rfl, rfl, rfl, by decide +kernel⟩⟩
  · obtain ⟨u, h⟩ := of_ok (x := (attending true false).attnTiles (opOf (attending true false)) 0) (by decide +kernel)
    refine ⟨9, 0, 0, 64, true, attending true false, u, opOf (attending true false), opOf (attending true false), by decide +kernel, by decide +kernel, by decide +kernel, by decide +kernel, by decide +kernel, by decide +kernel,
      by decide, by decide +kernel, by decide +kernel, by decide +kernel, h, ?_⟩
    have hu : okAll (fun u => ((u.op 9).getD (opOf (attending true false))).arrived ((opOf (attending true false)).prog ++ [0]) && !((u.op 9).getD (opOf (attending true false))).susp
        && u.scoreTurn ((u.op 9).getD (opOf (attending true false)))) ((attending true false).attnTiles (opOf (attending true false)) 0) = true := by decide +kernel
    simpa [okAll, h, and_assoc] using hu
  · obtain ⟨e, h⟩ := of_error (x := ((attending false false).updOp 9 (fun o => { o with blks := [⟨0, 0, 0x500000, 7⟩] })).attnTiles (opOf ((attending false false).updOp 9 (fun o => { o with blks := [⟨0, 0, 0x500000, 7⟩] }))) 7) (by decide +kernel)
    exact ⟨9, 7, 0, 64, false, (attending false false).updOp 9 (fun o => { o with blks := [⟨0, 0, 0x500000, 7⟩] }), opOf ((attending false false).updOp 9 (fun o => { o with blks := [⟨0, 0, 0x500000, 7⟩] })),
      opOf ((attending false false).updOp 9 (fun o => { o with blks := [⟨0, 0, 0x500000, 7⟩] })), e, by decide +kernel, by decide +kernel, by decide +kernel, by decide +kernel, by decide +kernel, by decide +kernel,
      by decide, by decide +kernel, by decide +kernel, by decide +kernel, h⟩

/-- `s` with a key-value table of 256 entries at 0x140000 that every unit reaches: one LIVE entry, free arrays at 0x160000 and on, a clock period of 5 cycles. -/
def table (s : State) : State :=
  { s.updTenant 0 (fun t => { t with kvtSize := 0x900000808 }) with
    clock := 5, agentTlb := (List.range 197).map (fun u => (u, page))
    mem := (s.mem.write 0x140000 44 (0x160000 + 0x161000 * 2 ^ 64 + 0x162000 * 2 ^ 128 + 5 * 2 ^ 320)).write 0x140100 32 (1 + 8 + 0x170000 * 2 ^ 192) }

/-- A KV.FREE of an entry that has waited for a move. -/
def freeing : State := { table rich with kvw := [{ id := 5, core := 0, tenant := 0, line := 0x2802, kind := .op (.kvFree 0), tag := {} }] }

theorem witness_TableEvents :
    (∃ (id rec_ : Nat) (s u : State) (n : Nat) (o : EngOp), s.op id = some o ∧ o.kind = .compact rec_ ∧ s.opRuns o = true ∧ o.started = true ∧ s.compactRun o = .ok (u, n))
    ∧ (∃ (id : Nat) (l : List (Nat × Nat)) (s u : State) (o : EngOp), s.op id = some o ∧ o.kind = .backfill l ∧ s.opRuns o = true ∧ s.pendingOn { ids := o.ids, asy := o.asy } = false
      ∧ (s.tabOf o.core o.tag).ok = true ∧ (∀ p ∈ l, s.entBusy (s.tabOf o.core o.tag) p.1 = false)
      ∧ l.foldl (fun (acc : Except EFault State) p => do (← acc).publish (s.tabOf o.core o.tag) p.1 p.2) (.ok (s.updOp id (fun o => { o with started := true }))) = .ok u)
    ∧ (∃ (id i : Nat) (s : State) (r : Req), s.kvw.find? (fun r => r.id == id) = some r ∧ r.kind = .op (.kvFree i) ∧ s.stopped = false ∧ s.ownsSlot r.tenant = true ∧ s.entIn (s.tabOf r.core r.tag) i 2 = false)
    ∧ (∃ (tenant : Nat) (s u : State), tenant < 16 ∧ s.stopped = false ∧ s.period tenant ≠ 0 ∧ (s.tabAgent unitTier tenant).ok = true ∧ s.ownsSlot tenant = true ∧ (s.tenant tenant).tierAt + s.period tenant = s.clock
      ∧ (s.updTenant tenant (fun x => { x with tierAt := s.clock })).kvVisit (s.tabAgent unitTier tenant) = .ok u)
    ∧ (∃ (id : Nat) (s u : State) (m : Move), s.moves.find? (fun m => m.id == id) = some m ∧ s.stopped = false ∧ s.ownsSlot m.tenant = true
      ∧ (let v : State := { s with moves := s.moves.filter (fun x => x.id != id) }
        v.moveDone (v.moveTab m) m (moveWrote 0 m 0) = (u, none)))
    ∧ (∃ (id : Nat) (s u : State) (o : OldBlock), s.olds.find? (fun o => o.id == id) = some o ∧ s.stopped = false ∧ s.ownsSlot o.tenant = true ∧ (∀ k ∈ o.readers, ∀ x ∈ s.ops, x.id = k → x.ready = true)
      ∧ ({ s with olds := s.olds.filter (fun x => x.id != id) } : State).kvPush (({ s with olds := s.olds.filter (fun x => x.id != id) } : State).tabAgent unitTier o.tenant) o.tier o.addr.toNat = .ok u) := by
  refine ⟨?_, ?_, ⟨5, 0, freeing, { id := 5, core := 0, tenant := 0, line := 0x2802, kind := .op (.kvFree 0), tag := {} }, by decide +kernel, rfl, by decide +kernel⟩, ?_, ?_, ?_⟩
  · obtain ⟨⟨u, n⟩, h⟩ := of_ok (x := ((operating 4 (.compact 64)).updOp 9 (fun o => { o with started := true })).compactRun (opOf ((operating 4 (.compact 64)).updOp 9 (fun o => { o with started := true })))) (by decide +kernel)
    exact ⟨9, 64, (operating 4 (.compact 64)).updOp 9 (fun o => { o with started := true }), u, n, opOf ((operating 4 (.compact 64)).updOp 9 (fun o => { o with started := true })), by decide +kernel, by decide +kernel, by decide +kernel, by decide +kernel, h⟩
  · obtain ⟨u, h⟩ := of_ok (x := ([(0, 15)] : List (Nat × Nat)).foldl (fun (acc : Except EFault State) p => do (← acc).publish ((table (operating 4 (.backfill [(0, 15)]))).tabOf 0 {}) p.1 p.2)
      (.ok ((table (operating 4 (.backfill [(0, 15)]))).updOp 9 (fun o => { o with started := true })))) (by decide +kernel)
    exact ⟨9, [(0, 15)], table (operating 4 (.backfill [(0, 15)])), u, { id := 9, cls := 4, tag := {}, core := 0, ticket := some 4, kind := .backfill [(0, 15)] }, by decide +kernel, rfl, by decide +kernel, by decide +kernel, by decide +kernel,
      by decide +kernel, h⟩
  · obtain ⟨u, h⟩ := of_ok (x := ((table rich).updTenant 0 (fun x => { x with tierAt := 5 })).kvVisit ((table rich).tabAgent unitTier 0)) (by decide +kernel)
    exact ⟨0, table rich, u, by decide, by decide +kernel, by decide +kernel, by decide +kernel, by decide +kernel, by decide +kernel, h⟩
  · exact ⟨5, { table rich with moves := [{ id := 5, tenant := 0, idx := 0, addr := 0x171000, old := 0x170000, tier := 0 }] }, _, { id := 5, tenant := 0, idx := 0, addr := 0x171000, old := 0x170000, tier := 0 },
      by decide +kernel, by decide +kernel, by decide +kernel, split (by decide +kernel)⟩
  · exact ⟨5, { table rich with olds := [{ id := 5, tenant := 0, addr := 0x170000, tier := 0, readers := [] }] }, _, { id := 5, tenant := 0, addr := 0x170000, tier := 0, readers := [] }, by decide +kernel, by decide +kernel,
      by decide +kernel, by decide +kernel, okEq (d := rich) (by decide +kernel)⟩

/-! ### Witnesses: launches, teams and traps -/

/-- The fields of a launch record of one task of 16 lanes at 0x100000, with its areas in the page at 1 MiB (R351, R353). -/
def record : Nat :=
  0x100000 + 0x180000 * 2 ^ 192 + 0x190000 * 2 ^ 256 + 2 ^ 448 + 2 ^ 480 + 2 ^ 512 + 32 * 2 ^ 672 + 80 * 2 ^ 680 + 2 ^ 696 + 16 * 2 ^ 704 + 16 * 2 ^ 712 + 2 ^ 728 + 2 ^ 746 + 0x1A0000 * 2 ^ 832

/-- The launch that `record` makes. -/
def launch1 : Launch := { recVa := 0x120000, hdr := BitVec.ofNat 4096 record, tenant := 0, args := 0x1122334455667788, total := 1 }

/-- `rich` where every unit reaches the page at 1 MiB, `record` stands at 0x120000, a queue with one entry that names it at 0x113000, a continuation record of it at 0x110000, and its tenant has shares of the module. -/
def works : State :=
  { (table rich).updTenant 0 (fun t => { t with lq3 := 0x113000, armTab := 0x114000 }) with
    mem := [(0, 1), (1114120, 1), (1114124, 5), (1114128, 64), (1114130, 16), (1114138, 18), (1114152, 15), (1126400, 1), (1126401, 3), (1126412, 1), (1126425, 80), (1126426, 17), (1134594, 18), (1138688, 1), (1138689, 3)]
      ++ [(1138700, 1), (1138713, 112), (1138714, 17), (1179650, 16), (1179674, 24), (1179682, 25), (1179704, 1), (1179708, 1), (1179712, 1), (1179732, 32), (1179733, 80), (1179735, 1), (1179736, 16), (1179737, 16), (1179739, 1)]
      ++ [(1179741, 4), (1179754, 26), (1310722, 22), (1310729, 16), (1310730, 22), (1310737, 32), (1310738, 22), (1310760, 5), (1310765, 96), (1310766, 17), (1310774, 18), (1310976, 9), (1311002, 23)] }

/-- `works` with the launch accepted and none of its teams placed. -/
def launched : State := { works with launches := works.launches ++ [launch1] }

/-- `works` with an eligible continuation. -/
def continued : State := { works.updTenant 0 (fun t => { t with kvtSize := 0 }) with conts := [{ id := 5, tenant := 0, va := 0x110000, ticket := 5, supplier := none, eligible := true }] }

/-- `works` with a page at 2 MiB in LPDDR-6 that TIER_PROMOTE is to move, and the queue at 0x113000 for frames that come and frames that go. -/
def promoting : State :=
  ({ operating 5 (.tier 0x200000 65536) with
     mem := works.mem, agentTlb := works.agentTlb, tenants := (works.updTenant 0 (fun t => { t with promQ := 0x113000, retQ := 0x113000 })).tenants } : State).updCore 0
    (fun c => { c with tlb := { page with va := 0x200000, pa := 0x10000000000, size := 65536 } :: c.tlb })

theorem ok_true {x : Except EFault Bool} (h : (match x with | .ok b => b | .error _ => false) = true) : x = .ok true := by
  cases x <;> simp_all

theorem witness_PagesMove :
    (∃ (id va len : Nat) (s w : State) (o : EngOp) (e : TlbEntry) (h f : Nat), (s.op id = some o ∧ s.opRuns o = true ∧ o.kind = .tier va len
      ∧ s.reach o.core o.tag.tenant (va + 65536 * o.prog.length) { priv := o.tag.priv } = .ok e ∧ isLp (e.at (va + 65536 * o.prog.length)) = true ∧ e.size = 65536
      ∧ f < 2 ^ 40 ∧ f % 65536 = 0) ∧ (s.fillCore o.core e).retRoom o.tag.tenant = .ok true ∧ (s.fillCore o.core e).takeFrame o.core o.tag.tenant = (w, .done h f))
    ∧ (∃ (s : State) (f old : Nat), s.mem.wf = true ∧ f % 65536 = 0 ∧ old % 65536 = 0 ∧ f ≠ old) :=
  ⟨⟨9, 0x200000, 65536, promoting, _, opOf promoting, { page with va := 0x200000, pa := 0x10000000000, size := 65536 }, 0, 0x120000, by decide +kernel, ok_true (by decide +kernel), split (by decide +kernel)⟩,
   ⟨rich, 0x100000, 0x10000000000, by decide +kernel⟩⟩

theorem witness_LaunchesArrive :
    (∃ (tenant cls i x : Nat) (s u : State), tenant < 16 ∧ cls < 4 ∧ s.stopped = false ∧ (s.tenant tenant).lq cls ≠ 0 ∧ s.slotTenant = some tenant ∧ s.headWaits tenant ((s.tenant tenant).lq cls) = false
      ∧ s.agentPop unitDispatch tenant ((s.tenant tenant).lq cls).toNat = (u, .done i x))
    ∧ (∃ (tenant : Nat) (addr : W64) (l : List Byte) (s u : State), tenant < 16 ∧ s.stopped = false ∧ s.eweovUp = true ∧ s.ownsSlot tenant = true
      ∧ s.vwrite (s.agentTr unitFabric tenant { w := true }) addr.toNat l.length (ofBytes l) = .ok u) :=
  ⟨⟨0, 3, 0, 0x120000, works, _, by decide, by decide, by decide +kernel, by decide +kernel, by decide +kernel, by decide +kernel, split (by decide +kernel)⟩,
   ⟨0, 0x100000, [1, 2, 3], works, _, by decide, by decide +kernel, by decide +kernel, by decide +kernel, okEq (d := works) (by decide +kernel)⟩⟩

theorem witness_TeamsDispatch :
    ∃ (launch core g : Nat) (s : State), s.stopped = false ∧ (s.launch launch).next < (s.launch launch).total ∧ s.outranked (.launch launch) = false ∧ (s.launch launch).together = false
      ∧ s.fitsAt (s.launch launch) (some launch) core = true ∧ g < (s.launch launch).gpt ∧ launch < s.launches.length :=
  ⟨1, 767, 0, { launched.updTenant 0 (fun t => { t with kvtSize := 0 }) with launches := works.launches ++ [launch1] }, by decide +kernel⟩

/-- `launched` where the launch has placed its one team, which has retired, and waits for nothing. -/
def ended : State := { works with launches := works.launches ++ [{ launch1 with next := 1, retired := 1, ending := true }] }

theorem witness_TeamsRetire :
    (∃ (team : Nat) (s : State) (t : Team), s.team team = some t ∧ s.stopped = false ∧ t.place = .retired ∧ s.released team t = true ∧ t.launch < s.launches.length)
    ∧ (∃ (launch : Nat) (s : State), s.stopped = false ∧ (s.launch launch).complete = false ∧ (s.launch launch).total ≠ 0 ∧ (s.launch launch).total ≤ (s.launch launch).next
      ∧ (s.launch launch).total ≤ (s.launch launch).retired ∧ (∀ o ∈ s.ops, (s.team o.tag.team).map (fun t => t.launch) ≠ some launch) ∧ (s.launch launch).ending = true
      ∧ s.pendingOn { ids := (s.launch launch).ids } = false ∧ (∀ r ∈ s.errs, r.tenant ≠ (s.launch launch).tenant) ∧ ((s.launch launch).f 383 320 = 0 ∨ s.slotTenant = some (s.launch launch).tenant)) :=
  ⟨⟨0, rich.updTeam 0 (fun t => { t with place := .retired }), { launch := 0, index := 0, core := 0, place := .retired, bars := List.replicate 16 {}, scrSize := 65536, armed := [0, 1, 2, 3] }, by decide +kernel, by decide +kernel, rfl,
     by decide +kernel⟩,
   ⟨1, ended, by decide +kernel⟩⟩

theorem witness_TasksStart :
    (∃ (id core x0 x : Nat) (s : State) (c : Cont) (l : Launch), s.conts.find? (fun c => c.id == id) = some c ∧ s.stopped = false ∧ c.eligible = true ∧ (s.ownsSlot c.tenant = true ∧ s.outranked (.cont id) = false)
      ∧ s.vread (s.agentTr unitDispatch c.tenant { rd := true }) c.va.toNat 64 = .ok x0 ∧ s.contLaunch c = some l ∧ s.refusal c.tenant none none l = none
      ∧ s.vread (s.agentTr unitDispatch c.tenant { rd := true }) c.va.toNat (64 + fld x0 68 64 * l.width * 4) = .ok x ∧ s.fitsAt l none core = true)
    ∧ (∃ (tenant core bfk q i v : Nat) (s u : State) (l : Launch) (e : TlbEntry), (s.bfAddrs tenant = some (bfk, q) ∧ s.stopped = false ∧ s.slotTenant = some tenant ∧ s.outranked (.backfill tenant) = false ∧ s.bfLaunch tenant bfk = some l
      ∧ s.fitsAt l none core = true ∧ s.tokenless core = true ∧ s.reachAgent unitBackfill tenant q { rd := true, w := true } = .ok e) ∧ s.agentPop unitBackfill tenant q = (u, .done i v)) :=
  ⟨⟨5, 1, _, _, continued, { id := 5, tenant := 0, va := 0x110000, ticket := 5, supplier := none, eligible := true }, { launch1 with args := 0, next := 1, complete := true }, by decide +kernel, by decide +kernel, rfl, by decide +kernel,
     okEq (d := 0) (by decide +kernel), by decide +kernel, by decide +kernel, okEq (d := 0) (by decide +kernel), by decide +kernel⟩,
   ⟨0, 1, 0x120000, 0x116000, 0, 0, works, _, { launch1 with args := 0 }, page, by decide +kernel, split (by decide +kernel)⟩⟩

theorem witness_BoundariesApply :
    (∃ (core : Nat) (s : State), s.stopped = false ∧ (s.core core).held ≠ [] ∧ s.occupied core = false)
    ∧ (∃ (c : CtxId) (s : State) (g : Group), s.context c = some g ∧ s.stopped = false ∧ s.waiting g (g.arm c.arm).wait = false ∧ (g.arm c.arm).readySince + 512 = s.clock) :=
  ⟨⟨767, rich.updCore 767 (fun c => { c with held := [(1, 88)] }), by decide +kernel⟩, ⟨⟨0, 0, 0⟩, { rich with clock := 512 }, _, rfl, by decide +kernel⟩⟩

/-! ### Witnesses: pre-emption, trap events, the host and the fabric -/

/-- `works` where the launch of team 0 is the one of `record`, and team 0 stands in a place. -/
def placedAt (p : Place) : State :=
  { works.updTeam 0 (fun t => { t with place := p, scrSize := 0, armed := [] }) with launches := [{ launch1 with next := 1 }] }

/-- The team 0 of a state. -/
def team0Of (s : State) : Team := s.teams.headD { launch := 0, index := 0, core := 0 }

/-- `placedAt` for an unplaced team that is to resume. -/
def resuming : State := (placedAt .unplaced).updTeam 0 (fun t => { t with wantResume := true })

theorem witness_TeamsPreempt :
    (∃ (team : Nat) (s : State) (t : Team), s.team team = some t ∧ s.stopped = false ∧ t.preempt = true ∧ t.place.here = true ∧ s.deferred team t = false
      ∧ (s.updTeam team (fun t => { t with place := .stopping })).atRest team t = true ∧ (s.updTeam team (fun t => { t with place := .stopping })).ownsSlot ((s.updTeam team (fun t => { t with place := .stopping })).tenantOf team) = true)
    ∧ (∃ (team : Nat) (s : State) (t : Team), s.team team = some t ∧ s.stopped = false ∧ t.preempt = true ∧ t.place.here = true ∧ s.deferred team t = false
      ∧ (s.updTeam team (fun t => { t with place := .stopping })).atRest team t = false)
    ∧ (∃ (team : Nat) (s u : State) (t : Team), s.team team = some t ∧ s.stopped = false ∧ t.place = .placed ∧ (t.wantResume = false ∧ s.ownsSlot (s.tenantOf team) = true) ∧ s.saveImage team t = .ok u)
    ∧ (∃ (team core : Nat) (s : State) (t : Team), s.team team = some t ∧ s.stopped = false ∧ t.wantResume = true ∧ (s.ownsSlot (s.tenantOf team) = true ∧ s.outranked (.team team) = false) ∧ t.place = .placed ∧ core = t.core)
    ∧ (∃ (team core : Nat) (s : State) (t : Team), s.team team = some t ∧ s.stopped = false ∧ t.wantResume = true ∧ (s.ownsSlot (s.tenantOf team) = true ∧ s.outranked (.team team) = false) ∧ t.place = .unplaced ∧ s.teamFits team core = true
      ∧ s.teamWrites team = false) :=
  ⟨⟨0, rich.updTeam 0 (fun t => { t with preempt := true }), team0Of (rich.updTeam 0 (fun t => { t with preempt := true })), rfl, by decide +kernel, rfl, rfl, by decide +kernel⟩,
   ⟨0, after .slice 1 (rich.updTeam 0 (fun t => { t with preempt := true })), team0Of (rich.updTeam 0 (fun t => { t with preempt := true })), rfl, by decide +kernel, rfl, rfl, by decide +kernel⟩,
   ⟨0, placedAt .placed, _, team0Of (placedAt .placed), rfl, by decide +kernel, rfl, by decide +kernel, okEq (d := works) (by decide +kernel)⟩,
   ⟨0, 0, rich.updTeam 0 (fun t => { t with place := .placed, wantResume := true }), team0Of (rich.updTeam 0 (fun t => { t with place := .placed, wantResume := true })), rfl, by decide +kernel, rfl, by decide +kernel, rfl, rfl⟩,
   ⟨0, 767, resuming, team0Of resuming, rfl, by decide +kernel, rfl, by decide +kernel, rfl,
     by decide +kernel⟩⟩

/-- `rich` with an imprecise fault of its group on its way, and its team in a place. -/
def faulting (p : Place) (cause : Nat := 0x10) : State := { rich.updTeam 0 (fun t => { t with place := p }) with faults := [⟨0, 0, { cause := cause, imp := true }⟩] }

/-- `rich` where every context has halted for a trap of its group. -/
def squalled : State := rich.updTeam 0 (fun t => { t with squall := some ⟨0, { cause := 5 }, 0, false, false⟩ })

/-- `rich` with its group in its handler for five cycles, one more than the watchdog's limit. -/
def barking : State := { rich.updGroup 0 0 (fun g => { g with hmode := true }) with wdog := 4, clock := 5 }

theorem witness_TrapEvents :
    (∃ (n : Nat) (s : State) (f : FaultRec) (t : Team), s.faults[n]? = some f ∧ s.team f.team = some t ∧ s.stopped = false ∧ f.trap.cause = 0x3A)
    ∧ (∃ (n : Nat) (s : State) (f : FaultRec) (t : Team), s.faults[n]? = some f ∧ s.team f.team = some t ∧ s.stopped = false ∧ f.trap.cause ≠ 0x3A ∧ t.place.finished 0 = true)
    ∧ (∃ (n : Nat) (s : State) (f : FaultRec) (t : Team), s.faults[n]? = some f ∧ s.team f.team = some t ∧ s.stopped = false ∧ f.trap.cause ≠ 0x3A ∧ t.place.finished 0 = false ∧ t.place.here = false)
    ∧ (∃ (n : Nat) (s u : State) (f : FaultRec) (t : Team) (g : Group), s.faults[n]? = some f ∧ s.team f.team = some t ∧ s.stopped = false ∧ f.trap.cause ≠ 0x3A ∧ t.place.finished 0 = false ∧ t.place.here = true
      ∧ s.group f.team f.grp = some g ∧ g.retired = false ∧ ({ s with faults := s.faults.eraseIdx n } : State).takeFault g f.trap = some u)
    ∧ (∃ (team : Nat) (s : State) (t : Team) (q : Squall), s.team team = some t ∧ s.stopped = false ∧ t.squall = some q ∧ q.entered = false ∧ t.place = .resident ∧ (s.quiet team = true ∧ s.ownsSlot (s.tenantOf team) = true)
      ∧ (s.settleTeam team t).2 = false)
    ∧ (∃ (s : State) (tenant : Nat), s.stopped = false ∧ s.halt.busy = false ∧ tenant < 16)
    ∧ (∃ (team : Nat) (s : State) (t : Team) (g : Group), s.team team = some t ∧ s.stopped = false ∧ t.place = .resident
      ∧ (s.liveGroups team).find? (fun g => g.hmode && s.wdog != 0 && decide (g.hAt + s.wdog.toNat ≤ s.clock)) = some g) := by
  refine ⟨⟨0, faulting .resident 0x3A, _, team0Of (faulting .resident 0x3A), rfl, rfl, by decide +kernel, rfl⟩, ⟨0, faulting .retired, _, team0Of (faulting .retired), rfl, rfl, by decide +kernel, by decide, rfl⟩,
    ⟨0, faulting .placed, _, team0Of (faulting .placed), rfl, rfl, by decide +kernel, by decide, rfl, rfl⟩, ?_,
    ⟨0, squalled, team0Of squalled, _, rfl, by decide +kernel, rfl, rfl, rfl, by decide +kernel⟩, ⟨rich, 15, by decide +kernel, by decide +kernel, by decide⟩, ?_⟩
  · obtain ⟨u, h⟩ := of_some (x := ({ faulting .resident with faults := [] } : State).takeFault ((faulting .resident).groups.headD { team := 0, idx := 0, core := 0 }) { cause := 0x10, imp := true }) (by decide +kernel)
    exact ⟨0, faulting .resident, u, _, team0Of (faulting .resident), _, rfl, rfl, by decide +kernel, by decide, rfl, rfl, rfl, by decide +kernel, h⟩
  · obtain ⟨g, h⟩ := of_some (x := (barking.liveGroups 0).find? (fun g => g.hmode && barking.wdog != 0 && decide (g.hAt + barking.wdog.toNat ≤ barking.clock))) (by decide +kernel)
    exact ⟨0, barking, team0Of barking, g, rfl, by decide +kernel, rfl, h⟩

/-- `works` with a host call whose ring is the queue at 0x113000. -/
def calling : State :=
  { works.updGroup 0 0 (fun g => { g with arm0 := { g.arm0 with wait := { kind := .hcallPush } } }) with hcalls := [{ c := ⟨0, 0, 0⟩, tenant := 0, data := 5, pa := 0x113000 }] }

/-- `works` with a host call that stands at index 9 of its ring. -/
def called : State :=
  { works.updGroup 0 0 (fun g => { g with arm0 := { g.arm0 with wait := { kind := .hcallReply 9 } } }) with hcalls := [{ c := ⟨0, 0, 0⟩, tenant := 0, data := 5, index := some 9 }] }

theorem witness_HostCalls :
    (∃ (c : CtxId) (s u : State) (h : HCall) (g : Group) (t : Team) (i a : Nat), s.hcalls.find? (fun h => h.c == c && h.index.isNone) = some h ∧ s.group c.team c.grp = some g ∧ s.team c.team = some t
      ∧ s.stopped = false ∧ t.place = .resident ∧ s.ownsSlot h.tenant = true ∧ (g.arm c.arm).wait.kind = .hcallPush
      ∧ (s.note h.pa).qPush (fun va => s.reachAgent (sliceOf h.pa) h.tenant va (needW h.priv)) h.pa h.data.toNat = (u, .done i a))
    ∧ (∃ (tenant n : Nat) (s : State) (h : HCall) (g : Group) (t : Team), s.hcalls.find? (fun h => h.tenant == tenant && h.index == some n) = some h ∧ s.stopped = false ∧ s.eweovUp = true
      ∧ s.group h.c.team h.c.grp = some g ∧ s.team h.c.team = some t ∧ t.place.here = true ∧ t.squall = none) :=
  ⟨⟨⟨0, 0, 0⟩, calling, _, { c := ⟨0, 0, 0⟩, tenant := 0, data := 5, pa := 0x113000 }, calling.groups.headD { team := 0, idx := 0, core := 0 }, team0Of calling, 1, 0, by decide +kernel, rfl, rfl, by decide +kernel, rfl,
     by decide +kernel, rfl, split (by decide +kernel)⟩,
   ⟨0, 9, called, { c := ⟨0, 0, 0⟩, tenant := 0, data := 5, index := some 9 }, called.groups.headD { team := 0, idx := 0, core := 0 }, team0Of called, by decide +kernel, by decide +kernel, by decide +kernel, rfl, rfl, rfl, rfl⟩⟩

/-- `rich` in a cycle that belongs to no tenant (R76). -/
def idleSlot : State := { rich with ctl := [(64, 255)] }

theorem witness_HostAccesses :
    (∃ (r : HostReq) (s : State), s.hostTakes r.pa = true ∧ isHost r.pa = false ∧ isHole r.pa = false ∧ r.pa % 128 + r.size ≤ 128 ∧ r.write = false)
    ∧ (∃ (r : HostReq) (s : State), s.hostTakes r.pa = true ∧ isHost r.pa = false ∧ isHole r.pa = false ∧ r.pa % 128 + r.size ≤ 128 ∧ r.write = true)
    ∧ (∃ (pa size op : Nat) (signed : Bool) (t : Ty) (s : State), hostTy size signed = some t ∧ s.hostTakes pa = true ∧ isHost pa = false ∧ pa % size = 0 ∧ op = 10 ∧ s.poisonAt pa = false) :=
  ⟨⟨⟨false, 0x100000, 128, 0⟩, idleSlot, by decide +kernel, by decide +kernel, by decide +kernel, by decide, rfl⟩, ⟨⟨true, 0x10007F, 1, 7⟩, idleSlot, by decide +kernel, by decide +kernel, by decide +kernel, by decide, rfl⟩,
   ⟨0x100008, 8, 10, false, .u64, idleSlot, rfl, by decide +kernel, by decide +kernel, by decide, rfl, by decide +kernel⟩⟩

theorem witness_ControlSpace :
    (∃ (offset size : Nat) (s : State), 0 < size ∧ offset % 8 + size ≤ 8 ∧ s.eweovUp = true ∧ 0x1000 ≤ offset ∧ offset < 0x2000)
    ∧ (∃ (offset size : Nat) (s : State), 0 < size ∧ offset % 8 + size ≤ 8 ∧ s.eweovUp = true ∧ 456 ≤ offset ∧ offset < 464)
    ∧ (∃ (offset size : Nat) (s : State), 0 < size ∧ offset % 8 + size ≤ 8 ∧ s.eweovUp = true ∧ 64 ≤ offset ∧ offset + size ≤ 224)
    ∧ (∃ (tenant : Nat), tenant < 16)
    ∧ (∃ s : State, s.stopped = false) :=
  ⟨⟨0x1FF8, 8, rich, by decide, by decide, by decide +kernel, by decide, by decide⟩, ⟨463, 1, rich, by decide, by decide, by decide +kernel, by decide, by decide⟩,
   ⟨216, 8, rich, by decide, by decide, by decide +kernel, by decide, by decide⟩, ⟨15, by decide⟩, ⟨rich, by decide +kernel⟩⟩

theorem witness_PowerStates :
    (∃ s : State, s.power.trip = true ∧ s.power.hot = true) ∧ (∃ s : State, s.power.trip = false ∧ s.power.cur ≠ 3) ∧ (∃ s : State, s.power.trip = false ∧ s.power.cur = 3) ∧ (∃ s : State, s.stopped = false ∧ s.power.busy = true ∧ s.power.req < 3 ∧ s.clock % 64 = 0)
    ∧ (∃ s : State, s.stopped = false ∧ s.power.busy = true ∧ s.power.req = 3 ∧ s.ops = [] ∧ s.inbox = [] ∧ s.moves = [] ∧ s.linkBusy = false) ∧ (∃ s : State, s.power.trip = false) :=
  ⟨⟨{ rich with power := { trip := true, hot := true } }, rfl, rfl⟩, ⟨{ rich with power := { cur := 2 } }, rfl, by decide⟩, ⟨{ rich with power := { cur := 3, req := 3 } }, rfl, rfl⟩, ⟨{ rich with power := { busy := true, req := 2 }, clock := 64 }, by decide +kernel, rfl, by decide, by decide⟩,
   ⟨{ rich with power := { busy := true, req := 3 } }, by decide +kernel, rfl, rfl, by decide +kernel⟩, ⟨{ rich with power := {} }, rfl⟩⟩

theorem witness_LinksChange :
    (∃ s : State, s.stopped = false ∧ s.eweovUp = true) ∧ (∃ s : State, s.stopped = false ∧ s.eweovUp = false)
    ∧ (∃ (port : Nat) (s : State), s.stopped = false ∧ port < 18 ∧ s.norvanUp.getLsbD port = true) ∧ (∃ (port : Nat) (s : State), s.stopped = false ∧ port < 18 ∧ s.norvanUp.getLsbD port = false) :=
  ⟨⟨rich, by decide +kernel⟩, ⟨{ rich with eweovUp := false }, by decide +kernel, rfl⟩, ⟨17, rich, by decide +kernel, by decide, by decide +kernel⟩, ⟨0, { rich with norvanUp := 0 }, by decide +kernel, by decide, rfl⟩⟩

/-- `works` whose send queue is the queue at 0x113000, with a message of a kind in its inbox. -/
def sending (kind : Nat) : State :=
  { works.updTenant 0 (fun t => { t with fsq := 0x113000 }) with
    inbox := [{ id := 7, tenant := 0, kind := kind, land := 3, rowb := 4, row0 := 1, data := [1, 2, 3, 4, 5, 6, 7, 8] }] }

/-- `operating` with a send to another module that has left, and no message in the inbox. -/
def sent : State := (operating 4 (.send 0 (BitVec.ofNat 256 (5 * 2 ^ 224)))).updOp 9 (fun o => { o with started := true })

theorem witness_FabricMoves :
    (∃ (tenant i v : Nat) (s u : State), s.stopped = false ∧ tenant < 16 ∧ s.ownsSlot tenant = true ∧ (s.tenant tenant).fsq ≠ 0 ∧ s.agentPop unitFabric tenant (s.tenant tenant).fsq.toNat = (u, .done i v))
    ∧ (∃ (id k off n : Nat) (s : State) (m : Landing), s.inbox.find? (fun m => m.id == id) = some m ∧ s.stopped = false ∧ m.done.contains k = false ∧ s.ownsSlot m.tenant = true
      ∧ m.parts[k]? = some (off, n) ∧ m.kind = 0)
    ∧ (∃ (id k off n : Nat) (s : State) (m : Landing), s.inbox.find? (fun m => m.id == id) = some m ∧ s.stopped = false ∧ m.done.contains k = false ∧ s.ownsSlot m.tenant = true
      ∧ m.parts[k]? = some (off, n) ∧ m.kind = 1)
    ∧ (∃ (id k off n : Nat) (s : State) (m : Landing), s.inbox.find? (fun m => m.id == id) = some m ∧ s.stopped = false ∧ m.done.contains k = false ∧ s.ownsSlot m.tenant = true
      ∧ m.parts[k]? = some (off, n) ∧ m.kind = 2 ∧ k = 0)
    ∧ (∃ (id : Nat) (s : State) (o : EngOp), s.op id = some o ∧ s.stopped = false ∧ s.sendAcked o = true ∧ (opsBefore s.ops o = false ∧ ∀ c ∈ s.cores, ∀ m ∈ c.mq, m.op ≠ some id) ∧ ∃ k, o.ticket = some k ∧ o.cancelled = false ∧ o.tag.tenant < s.tenants.length ∧ s.loops o = false) :=
  ⟨⟨0, 0, 0x120000, sending 0, _, by decide +kernel, by decide, by decide +kernel, by decide +kernel, split (by decide +kernel)⟩,
   ⟨7, 0, 0, 8, sending 0, _, rfl, by decide +kernel, rfl, by decide +kernel, by decide +kernel, rfl⟩, ⟨7, 1, 4, 4, sending 1, _, rfl, by decide +kernel, rfl, by decide +kernel, by decide +kernel, rfl⟩,
   ⟨7, 0, 0, 8, sending 2, _, rfl, by decide +kernel, rfl, by decide +kernel, rfl, rfl, rfl⟩, ⟨9, sent, opOf sent, rfl, by decide +kernel, by decide +kernel, by decide +kernel, _, rfl, by decide +kernel⟩⟩

theorem witness_ErrorsPoison :
    (∃ (pa : Nat) (s : State), s.stopped = false ∧ isHbm pa = true) ∧ (∃ (pa : Nat) (s : State), s.stopped = false ∧ isLp pa = true)
    ∧ (∃ (team grp r L : Nat) (s : State) (g : Group), s.stopped = false ∧ s.group team grp = some g ∧ r < g.count ∧ L < g.width) :=
  ⟨⟨0x100000, rich, by decide +kernel⟩, ⟨0x10000000000, rich, by decide +kernel⟩,
   ⟨0, 0, 7, 15, rich, rich.groups.headD { team := 0, idx := 0, core := 0 }, by decide +kernel, rfl, by decide +kernel⟩⟩
/-! ### Witnesses: the shared conditions, traps, frames and steps -/

/-- exec answers a next state. -/
def nextB (i : Instr) (s : State) : Bool := match exec i s with | .next _ => true | _ => false

theorem nexts {i : Instr} {s : State} (h : nextB i s = true) : ∃ t, exec i s = .next t := by
  unfold nextB at h
  cases hx : exec i s <;> simp_all

/-- A state whose group waits for a load into v8. -/
def marked8 : State := { base with asyncs := [{ id := 7, core := 0, tag := {}, dest := .vec, ty := .u32, parts := [{ regs := [8] }] }] }

/-- `base` in an unprivileged page. -/
def user : State := { base with cur := base.cur.map (fun c => { c with priv := false }) }

/-- The slot of `i` is held. -/
def holdsB (i : Instr) (s : State) : Bool := match gate i s with | .hold => true | _ => false

theorem holds {i : Instr} {s : State} (h : holdsB i s = true) : gate i s = .hold := by
  unfold holdsB at h
  cases hx : gate i s <;> simp_all

theorem notHolds {i : Instr} {s : State} (h : holdsB i s = false) : gate i s ≠ .hold := fun h' => by
  simp [holdsB, h'] at h

/-- The conditions of a slot come to a trap, or to a skip. -/
def trapB (i : Instr) (s : State) : Bool := match gate i s with | .trap _ _ => true | _ => false
def skipB (i : Instr) (s : State) : Bool := match gate i s with | .skip _ => true | _ => false

theorem traps {i : Instr} {s : State} (h : trapB i s = true) : ∃ cx b, gate i s = .trap cx b := by
  unfold trapB at h
  cases hx : gate i s <;> simp_all

theorem skips {i : Instr} {s : State} (h : skipB i s = true) : ∃ cx, gate i s = .skip cx := by
  unfold skipB at h
  cases hx : gate i s <;> simp_all

theorem witness_SharedConditions :
    (∃ (i : Instr) (s : State), i.isWord = true ∧ gate i s = .noContext) ∧ (∃ (i : Instr) (s : State), i.isWord = true ∧ gate i s = .hold)
    ∧ (∃ (i : Instr) (s : State) (cx : Cx) (b : Bad), i.isWord = true ∧ gate i s = .trap cx b) ∧ (∃ (i : Instr) (s : State) (cx : Cx), i.isWord = true ∧ gate i s = .skip cx) := by
  refine ⟨⟨.vAdd (wd (.v 4) (.v 8) (.v 6) .z .i32), State.reset, rfl, rfl⟩, ⟨.vAdd (wd (.v 4) (.v 8) (.v 6) .z .i32), marked8, rfl, holds (by decide +kernel)⟩, ?_, ?_⟩
  · obtain ⟨cx, b, h⟩ := traps (i := .sysr { wd (.s 4) .z .z .z .u64 with fspec := 0x13 }) (s := user) (by decide +kernel)
    exact ⟨_, _, cx, b, rfl, h⟩
  · obtain ⟨cx, h⟩ := skips (i := .vAdd { wd (.v 4) (.v 8) (.v 6) .z .i32 with guard := ⟨false, true, 7⟩ }) (s := base) (by decide +kernel)
    exact ⟨_, _, cx, rfl, h⟩

/-- The first group of a state. -/
def group0Of (s : State) : Group := s.groups.headD { team := 0, idx := 0, core := 0 }

/-- The slot of `base`, in an unprivileged page or in a privileged one. -/
def curOf (p : Bool) : Cur := { c := ⟨0, 0, 0⟩, bundle := 0, slot := 0, valid := 15, priv := p, portB := false }

theorem witness_Privileged :
    (∀ i ∈ [(.sysr (wd (.s 4) .z .z .z .u64) : Instr), .sysw (wd .z (.s 4) .z .z .u64), .tlbinv (wd .z (.s 4) .z .z .i8), .raceClr (wd .z .z .z .z .i8)],
      ∃ (s : State) (cur : Cur) (g : Group), s.cur = some cur ∧ s.context cur.c = some g ∧ Rules.forbidden i s cur g ∧ gate i s ≠ .hold ∧ (g.arm cur.c.arm).wait.resumed = false)
    ∧ (∀ i ∈ [(.rfh (wd .z .z .z .z .i8) : Instr), .contPark (wd .z (.s 4) .z .z .i8), .sysw { wd .z (.s 4) .z .z .u64 with fspec := 0x20 }],
      ∃ (s : State) (cur : Cur) (g : Group), s.cur = some cur ∧ s.context cur.c = some g ∧ Rules.forbidden i s cur g ∧ gate i s ≠ .hold ∧ (g.arm cur.c.arm).wait.resumed = false) := by
  refine ⟨fun i hi => ⟨user, curOf false, group0Of user, rfl, rfl, .inl ⟨rfl, ?_⟩, notHolds ?_, by decide +kernel⟩, fun i hi => ?_⟩
  · simp only [List.mem_cons, List.not_mem_nil, or_false] at hi
    rcases hi with rfl | rfl | rfl | rfl
    · exact ⟨_, .inl rfl⟩
    · exact ⟨_, .inr (.inl rfl)⟩
    · exact ⟨_, .inr (.inr (.inl rfl))⟩
    · exact ⟨_, .inr (.inr (.inr rfl))⟩
  · simp only [List.mem_cons, List.not_mem_nil, or_false] at hi
    rcases hi with rfl | rfl | rfl | rfl <;> decide +kernel
  · simp only [List.mem_cons, List.not_mem_nil, or_false] at hi
    rcases hi with rfl | rfl | rfl
    · exact ⟨base, curOf true, group0Of base, rfl, rfl, .inr (.inl ⟨by decide +kernel, _, rfl⟩), notHolds (by decide +kernel), by decide +kernel⟩
    · refine ⟨base, curOf true, group0Of base, rfl, rfl, .inr (.inr (.inl ⟨fun t h => ?_, _, rfl⟩)), notHolds (by decide +kernel), by decide +kernel⟩
      have ht : (base.team 0).all (fun t => (base.launch t.launch).task == false) = true := by decide +kernel
      have h0 : base.team 0 = some t := h
      simpa [h0] using ht
    · exact ⟨{ base with ops := [{ id := 9, cls := 0, tag := {}, core := 0, kind := .kick 0 0 }] }, curOf true, group0Of base, rfl, rfl, .inr (.inr (.inr ⟨by decide +kernel, _, rfl, by decide, by decide⟩)),
        notHolds (by decide +kernel), by decide +kernel⟩

theorem witness_FalseGuardSkips :
    ∃ (i : Instr) (s : State) (h : Head) (cur : Cur) (g : Group), i.head = some h ∧ h.guard.idx = 7 ∧ h.guard.neg = true ∧ h.yield = false ∧ i.form.priv = false ∧ (∀ w, i ≠ .rfh w ∧ i ≠ .contPark w ∧ i ≠ .sysw w)
      ∧ s.cur = some cur ∧ s.context cur.c = some g ∧ gate i s ≠ .hold ∧ (g.arm cur.c.arm).wait.resumed = false :=
  ⟨.vAdd { wd (.v 4) (.v 8) (.v 6) .z .i32 with guard := ⟨false, true, 7⟩ }, base, _, curOf true, group0Of base, rfl, rfl, rfl, rfl, rfl, fun w => ⟨nofun, nofun, nofun⟩, rfl, rfl, notHolds (by decide +kernel), by decide +kernel⟩

theorem witness_TrapsTaken :
    ∃ (cx : Cx) (s : State) (tm : Team) (g : Group), s.team cx.c.team = some tm ∧ s.group cx.c.team cx.c.grp = some g ∧ tm.squall = none ∧ tm.supplier = none ∧ cx.g.hmode = false ∧ cx.c.arm < 4 :=
  ⟨noCx, rich, team0Of rich, group0Of rich, rfl, rfl, rfl, rfl, rfl, by decide⟩

theorem witness_Delivery :
    ∃ (s : State) (team grp : Nat) (t : Trap) (g : Group), s.group team grp = some g ∧ t.imp = false ∧ 1 ≤ t.cause ∧ t.cause ≤ 60 ∧ t.exited = none ∧ g.skidSlots < 256 :=
  ⟨rich, 0, 0, { cause := 60 }, group0Of rich, rfl, rfl, by decide, by decide, rfl, by decide +kernel⟩

theorem witness_NextTrap :
    ∃ (s : State) (team grp : Nat) (tm : Team) (g : Group) (t : Trap) (l : List Trap), s.team team = some tm ∧ s.group team grp = some g ∧ g.pend = t :: l ∧ t.imp = false :=
  ⟨rich.updGroup 0 0 (fun g => { g with hmode := true, pend := [{ cause := 5 }] }), 0, 0, team0Of rich, group0Of (rich.updGroup 0 0 (fun g => { g with hmode := true, pend := [{ cause := 5 }] })), { cause := 5 }, [], rfl, rfl, rfl, rfl⟩

theorem witness_NoVector :
    ∃ (s : State) (team : Nat) (tm : Team) (q : Squall) (g : Group), s.team team = some tm ∧ tm.squall = some q ∧ q.fatal = false ∧ s.group team q.origin = some g ∧ g.trapVec.getLsbD 0 = false :=
  ⟨squalled, 0, team0Of squalled, _, group0Of squalled, rfl, rfl, rfl, rfl, by decide +kernel⟩

theorem witness_RegisterFrames :
    (∃ (w : Word) (s t : State) (cx : Cx), (Rules.registerOnly (.sAdd w) ∨ Rules.memberMask (.sAdd w) ∧ cx.Alone s) ∧ (Passes (.sAdd w) s cx ∧ cx.clean (.sAdd w)) ∧ exec (.sAdd w) s = .next t)
    ∧ (∃ (w : WordI) (s t : State) (cx : Cx), (Rules.registerOnly (.vCmpImm w) ∨ Rules.memberMask (.vCmpImm w) ∧ cx.Alone s) ∧ (Passes (.vCmpImm w) s cx ∧ cx.clean (.vCmpImm w)) ∧ exec (.vCmpImm w) s = .next t)
    ∧ (∃ (w : WordP) (s t : State) (cx : Cx), (Rules.registerOnly (.pLogic w) ∨ Rules.memberMask (.pLogic w) ∧ cx.Alone s) ∧ (Passes (.pLogic w) s cx ∧ cx.clean (.pLogic w)) ∧ exec (.pLogic w) s = .next t)
    ∧ (∃ (w : Word) (s t : State) (cx : Cx), (Rules.registerOnly (.xRed w) ∨ Rules.memberMask (.xRed w) ∧ cx.Alone s) ∧ (Passes (.xRed w) s cx ∧ cx.clean (.xRed w)) ∧ exec (.xRed w) s = .next t) := by
  refine ⟨?_, ?_, ?_, ?_⟩
  · obtain ⟨t, h⟩ := nexts (i := .sAdd (wd (.s 4) (.s 8) (.s 6) .z .i32)) (s := base) (by decide +kernel)
    exact ⟨_, base, t, _, .inl (.inl ⟨(.sAdd, _), List.mem_cons_self .., _, rfl⟩), passesClean (by decide +kernel), h⟩
  · obtain ⟨t, h⟩ := nexts (i := .vCmpImm (wi (.v 4) (.v 8) 5 .i32)) (s := base) (by decide +kernel)
    exact ⟨_, base, t, _, .inl (.inr (.inr (.inr (.inr (.inr (.inr (.inr (.inl ⟨.vCmpImm, by simp, _, rfl⟩)))))))), passesClean (by decide +kernel), h⟩
  · obtain ⟨t, h⟩ := nexts (i := .pLogic wp) (s := base) (by decide +kernel)
    exact ⟨_, base, t, _, .inl (.inr (.inr (.inr (.inr (.inr (.inr (.inr (.inr ⟨.pLogic, by simp, _, rfl⟩)))))))), passesClean (by decide +kernel), h⟩
  · obtain ⟨t, h⟩ := nexts (i := .xRed (wd (.s 4) (.v 8) (.imm 15) .z .i32)) (s := base) (by decide +kernel)
    exact ⟨_, base, t, _, .inr ⟨.inl ⟨.xRed, by simp, _, rfl⟩, (passesAlone (by decide +kernel)).2⟩, passesClean (by decide +kernel), h⟩

theorem witness_MemoryWaitsForSlices :
    ∃ (f : Word → Instr) (w : Word) (s t : State) (cur : Cur) (tm : Team), f ∈ Rules.throughSlices ∧ s.cur = some cur ∧ s.team cur.c.team = some tm ∧ tm.supplier = none ∧ exec (f w) s = .next t := by
  obtain ⟨t, h⟩ := nexts (i := .st (wd .z (.s 6) (.v 2) (.v 4) .u32)) (s := rich) (by decide +kernel)
  exact ⟨.st, _, rich, t, curOf true, team0Of rich, by simp [Rules.throughSlices], rfl, rfl, rfl, h⟩

theorem witness_CoreStores : (∃ pa n p : Nat, pa % 128 + n ≤ 128 ∧ p / 128 = pa / 128 ∧ pa ≤ p ∧ p < pa + n) ∧ (∃ pa n p : Nat, pa % 128 + n ≤ 128 ∧ p / 128 = pa / 128 ∧ ¬ (pa ≤ p ∧ p < pa + n)) :=
  ⟨⟨0x1FF, 1, 0x1FF, by decide, by decide, by decide, by decide⟩, ⟨0x100, 4, 0x104, by decide, by decide, by decide⟩⟩

/-- The machine after reset with the word of S.ADD s8 = s8 + 20 in front of a context. -/
def fetching : State := State.reset.place 0x1000420843E8CF9C00400000

theorem witness_StepsRunDecoded :
    ∃ (s : State) (c : CtxId) (b : Bool) (l : List Choice) (g : Group) (tm : Team) (e : TlbEntry) (k : Nat) (i : Instr) (s2 : State), s.script = .issue c b :: l ∧
      let s0 : State := { s with script := l }
      let a := g.arm c.arm
      (s0.context c = some g ∧ s0.team c.team = some tm ∧ s0.stopped = false ∧ s0.mayRun c.team tm a.wait = true ∧ s0.waiting g a.wait = false) ∧
      s0.reach g.core (s0.tenantOf c.team) a.pc { x := true, priv := true } = .ok e ∧
      let s1 := (s0.fillCore g.core e).note (e.at a.pc)
      let x := s1.peek (e.at a.pc) 64
      (s1.poisonAt (e.at a.pc) = false ∧ ctrlBad x = false ∧ (List.range 4).find? (fun j => decide (a.slot ≤ j) && (BitVec.ofNat 4 x).getLsbD j) = some k ∧
      (drainOf x k = true → ∀ m ∈ s1.marksOf c.team c.grp, m = {}) ∧ decode (slotWord x k) = some i ∧ rank3 i g.width k (BitVec.ofNat 4 x) = true) ∧
      let cur : Cur := ⟨c, a.pc, k, BitVec.ofNat 4 x, e.priv, s1.portFor g c b⟩
      s1.firstUse g i cur = .ok s2 ∧
      let u : State := { s2.updArm c (fun a => { a with slot := k }) with cur := some cur }
      ∀ x, (Turn.run i u).asks = some x → s0.grants s0.contexts x.1 x.2.1 x.2.2 = true := by
  refine ⟨fetching, ⟨0, 0, 0⟩, false, [], group0Of fetching, team0Of fetching, { tenant := 0, va := 0, pa := 0, size := 2 ^ 16, priv := true, x := true, w := false, rd := false }, 0,
    .sAdd (Rules.plainWord (.s 8) (.s 8) (.imm 20) .z .i32), _, rfl, ?_, by decide +kernel, ?_, okEq (d := fetching) (by decide +kernel), ?_⟩
  · decide +kernel
  · decide +kernel
  · exact of_toList (by decide +kernel)

theorem witness_DecodeInvertsEncode : (∃ i : Instr, i.isWord = true ∧ WellFormed i = true) ∧ (∃ (x : W96) (i : Instr), decode x = some i) :=
  ⟨⟨.sAdd (wd (.s 8) (.s 8) (.imm 20) .z .i32), rfl, by decide +kernel⟩, ⟨0x1000420843E8CF9C00400000, .sAdd (Rules.plainWord (.s 8) (.s 8) (.imm 20) .z .i32), by decide +kernel⟩⟩

theorem witness_StepsKeepMemoryCanonical : ∃ s s' : State, MemOk s ∧ Steps s s' := by
  have h : (match step fetching with | .next _ => true | _ => false) = true := by decide +kernel
  cases hs : step fetching with
  | next t => exact ⟨fetching, t, (by decide +kernel : Memory.wf fetching.mem = true), hs⟩
  | fault f => simp [hs] at h
  | refused f => simp [hs] at h

theorem witness_AtomicFunctions : ∃ t : Ty, t.isInt = true := ⟨.i64, rfl⟩

end Sys2Proof.Tests
end

namespace Sys2Proof.Machine

/-! ### What a slot that passes its conditions has met -/

/-- The order of the shared conditions (R426): a slot that is let through at its first issue met none of ranks 4 to 7, in the state in which its handles were read, and its guard lets it act. -/
theorem gate_go_ranks {i : Instr} {s : State} {cx : Cx} (h : gate i s = .go cx) (hw : (cx.g.arm cx.c.arm).wait.resumed = false) :
    ∃ s' : State, rank4 i cx s' = none ∧ cx.noEffect = false ∧ rank5 i (isVector i.form cx.h) cx = none
      ∧ rank6 i (isVector i.form cx.h) cx s' = none ∧ rank7 i cx s' = none := by
  unfold gate at h
  split at h
  · split at h
    · cases h
    · dsimp only at h
      split at h
      · cases h
      · split at h
        · next hres =>
          split at h
          · cases h
          · cases h
            exact absurd hres (by simp [hw])
        · split at h
          · cases h
          · next h4 =>
            split at h
            · cases h
            · next hn =>
              split at h
              · cases h
              · next h567 =>
                cases h
                obtain ⟨h5, h67⟩ := Option.or_eq_none_iff.mp h567
                obtain ⟨h6, h7⟩ := Option.or_eq_none_iff.mp h67
                exact ⟨_, h4, by simpa using hn, h5, h6, h7⟩
  · cases h

/-- The kinds of operand of rank 6 (R432): a field that the instruction uses holds a kind that its rule allows. -/
theorem rank6_kinds {i : Instr} {vec : Bool} {cx : Cx} {s : State} (h : rank6 i vec cx s = none) :
    ∀ p ∈ [((i.formW cx.W).dst, cx.h.dst), ((i.formW cx.W).a, cx.h.a), ((i.formW cx.W).b, cx.h.b), ((i.formW cx.W).c, cx.h.c)],
      p.1.used = true → opKindOk p.1 p.2 = true := by
  intro p hp hu
  cases hk : opKindOk p.1 p.2
  case true => rfl
  case false =>
    have hany : List.any [((i.formW cx.W).dst, cx.h.dst), ((i.formW cx.W).a, cx.h.a), ((i.formW cx.W).b, cx.h.b), ((i.formW cx.W).c, cx.h.c)]
        (fun p => p.1.used && (!opKindOk p.1 p.2 || countBad cx.g p.1 p.2)) = true :=
      List.any_eq_true.mpr ⟨p, hp, by simp only [hu, hk, Bool.not_false, Bool.true_or, Bool.and_self]⟩
    simp only [rank6, hany, Bool.true_or, if_true, reduceCtorEq] at h

/-- A rule that allows no operand of a vector instruction (R172). -/
def uniformRule (r : OpRule) : Bool := !r.v && !r.m && !r.y

/-- What such a rule lets through, used or unused, is no vector operand (R171, R172). -/
theorem isVec_of_uniformRule {r : OpRule} {o : Opd} (hr : uniformRule r = true) (hu : unusedOk r o = true)
    (hk : r.used = true → opKindOk r o = true) : o.isVec = false := by
  simp only [uniformRule, Bool.and_eq_true, Bool.not_eq_true'] at hr
  obtain ⟨⟨hv, hm⟩, hy⟩ := hr
  cases hused : r.used
  case false =>
    have hz : o = .z := by simpa [unusedOk, hused] using hu
    subst hz
    rfl
  case true =>
    have hk := hk hused
    cases o <;> simp_all [opKindOk, Opd.isVec]

/-- The guards of the uniform control instructions name no per-lane predicate (R217). -/
theorem perLane_of_guardOk_q {f : Form} {g : Guard} (hf : f.guard = .q) (h : guardOk f g = true) : g.perLane = false := by
  simp only [guardOk, hf, Bool.or_eq_true, beq_iff_eq] at h
  rcases h with h | h <;> simp [Guard.perLane, h]

/-- An instruction with a uniform guard and no vector operand passes only as a uniform instruction (R172, R173). -/
theorem Passes.uniform {i : Instr} {s : State} {cx : Cx} (h : Passes i s cx) (hw : i.formW cx.W = i.form) (hp : i.form.pvec = false) (hq : i.form.guard = .q)
    (hr : [i.form.dst, i.form.a, i.form.b, i.form.c].all uniformRule = true) : isVector i.form cx.h = false := by
  obtain ⟨hwf, hgo, hfirst⟩ := h
  obtain ⟨s', -, -, -, h6, -⟩ := gate_go_ranks hgo (Cx.first_wait hfirst).1
  have hkinds := rank6_kinds h6
  rw [hw] at hkinds
  simp only [List.forall_mem_cons] at hkinds
  obtain ⟨kd, ka, kb, kc, -⟩ := hkinds
  simp only [WellFormed, gate_head hgo, wordOk, Bool.and_eq_true] at hwf
  obtain ⟨⟨⟨⟨⟨⟨⟨⟨⟨⟨⟨-, ud⟩, ua⟩, ub⟩, uc⟩, hguard⟩, -⟩, -⟩, -⟩, -⟩, -⟩, -⟩ := hwf
  simp only [List.all_eq_true, List.forall_mem_cons] at hr
  obtain ⟨rd, ra, rb, rc, -⟩ := hr
  simp [isVector, hp, perLane_of_guardOk_q hq hguard, isVec_of_uniformRule rd ud kd, isVec_of_uniformRule ra ua ka,
    isVec_of_uniformRule rb ub kb, isVec_of_uniformRule rc uc kc]

/-! ### A meaning that moves the PC itself -/

/-- Checks of ranks 8 to 10 that find nothing in any execution leave no condition when no source word is poisoned (R426, R456). -/
theorem Body.first_eq_none {i : Instr} {cx : Cx} {s : State} (b : Body) (hp : cx.poison (b.words i (isVector i.form cx.h) cx) = none)
    (h1 : ∀ a ∈ b.arms cx (isVector i.form cx.h), b.check cx a s = none) (h2 : ∀ a ∈ b.arms cx (isVector i.form cx.h), b.check2 cx a s = none) :
    b.first i (isVector i.form cx.h) cx s = none := by
  unfold Body.first
  split
  · rfl
  · simp only [List.filterMap_eq_nil_iff.mpr h1, List.filterMap_eq_nil_iff.mpr h2, hp, firstBad, Option.or_none]

/-- A branch, whose one check finds nothing, leaves the state of its effect (R45, R219). -/
theorem issue_jumps {i : Instr} {s : State} {cx : Cx} (check : Cx → Nat → State → Option Bad) (run : Cx → Nat → State → State)
    (h : Passes i s cx) (hc : cx.clean i) (hf : i.form.cap = false) (hk : ∀ a ∈ cx.arms (isVector i.form cx.h), check cx a s = none) :
    issue i s { check := check, own := true, run := run } = .next (cx.leaves i run (cx.begun i s)) := by
  obtain ⟨-, hgo, hfirst⟩ := id h
  have hb : Body.first { check := check, own := true, run := run } i (isVector i.form cx.h) cx s = none :=
    Body.first_eq_none _ hc hk (fun _ _ => rfl)
  exact issue_leaves i s _ cx hgo hfirst rfl rfl hb (released_none cx s) (fun _ => rfl) (h.cap_none hf)

/-! ### Targets -/

/-- The signed reading of n bits is the library's. -/
theorem sgn_toNat {n : Nat} (x : BitVec (n + 1)) : sgn (n + 1) x.toNat = x.toInt := by
  have hx : x.toNat < 2 ^ (n + 1) := x.isLt
  rw [sgn, BitVec.toInt_eq_toNat_cond, Nat.mod_eq_of_lt hx, Nat.add_sub_cancel]
  have h2 : 2 ^ (n + 1) = 2 * 2 ^ n := Nat.pow_succ'
  by_cases hlt : x.toNat < 2 ^ n
  · rw [if_pos hlt, if_pos (by omega)]
  · rw [if_neg hlt, if_neg (by omega)]
    push_cast
    rfl

/-- The model's targets are those of R178. -/
theorem target_eq_rules : Rules.target = target :=
  funext fun _ => funext fun imm => by rw [Rules.target, target, wrapN, show sgn 32 imm.toNat = imm.toInt from sgn_toNat imm]

/-! ### NOP, BRA, CALL, RET and JMPI (R218, R219, R222, R223) -/

theorem exec_nop (w : Word) (s : State) : exec (.nop w) s = execNop w s := rfl
theorem exec_bra (w : WordI) (s : State) : exec (.bra w) s = execBra w s := rfl
theorem exec_call (w : WordI) (s : State) : exec (.call w) s = execCall w s := rfl
theorem exec_ret (w : Word) (s : State) : exec (.ret w) s = execRet w s := rfl
theorem exec_jmpi (w : Word) (s : State) : exec (.jmpi w) s = execJmpi w s := rfl

/-- RET names no vector operand. -/
theorem ret_uniform {w : Word} {s : State} {cx : Cx} (h : Passes (.ret w) s cx) : isVector (Instr.ret w).form cx.h = false :=
  h.uniform rfl rfl rfl rfl

/-- JMPI names no vector operand. -/
theorem jmpi_uniform {w : Word} {s : State} {cx : Cx} (h : Passes (.jmpi w) s cx) : isVector (Instr.jmpi w).form cx.h = false :=
  h.uniform rfl rfl rfl rfl

/-- Settles O11: NOP has no effect, and each branch leaves the state of its jump once its one check finds nothing: for BRA because its guard agrees in every lane, for RET and JMPI because they run as uniform instructions, whose every arm holds a bundle address. -/
theorem branchesComplete : Obligations.BranchesComplete := by
  unfold Obligations.BranchesComplete
  rw [target_eq_rules]
  refine ⟨fun w s cx h hc => ?nop, fun w s cx h hc hagree => ?bra, fun w s cx h hc => ?call, fun w s cx h hc ht => ?ret, fun w s cx h hc ht => ?jmpi⟩
  case nop =>
    exact (exec_nop w s).trans (issue_uniform (.nop w) s _ _ cx (headR w) rfl h hc rfl (fun _ _ _ _ hs => hs) (fun _ _ _ _ => rfl))
  case bra =>
    refine (exec_bra w s).trans (issue_jumps _ _ h hc rfl fun _ _ => if_neg ?_)
    cases hp : w.guard.perLane
    · simp
    · rcases hagree hp with hg | ha
      · simp [hg]
      · simp [ha]
  case call =>
    exact (exec_call w s).trans (issue_jumps _ _ h hc rfl fun _ _ => rfl)
  case ret =>
    exact (exec_ret w s).trans (issue_jumps _ _ h hc rfl fun a ha => ht a (ret_uniform h ▸ ha))
  case jmpi =>
    exact (exec_jmpi w s).trans (issue_jumps _ _ h hc rfl fun a ha => ht a (jmpi_uniform h ▸ ha))

end Sys2Proof.Machine

namespace Sys2Proof.Machine

/-! ### Instructions and events -/

/-- The meaning of every instruction word is a body under the shared conditions of a slot; only an event's is not. -/
theorem exec_word_issues {i : Instr} (h : i.isWord = true) (s : State) : ∃ b : Body, exec i s = issue i s b := by
  cases i
  case teamRetire | hcallRingPush | growGrant | matrixEnginePerform | asyncWriteLands | homeSliceRequest | mergedReadReply
      | homeSliceAtomic | writebackAck | engineOpComplete | copyRecordLanded | streamRowPerformed | tierPromotePage
      | attnTileComplete | compactionStart | backfillPublish | tableWriteAfterMove | clockVisit | demotionCopyComplete
      | remoteWriteLanding | tokenRowLanding | taggedMessageLanding | launchPop | dispatchTeam | launchComplete
      | poolBoundaryApply | teamPreemption | impreciseFaultArrival | handlerEntry | contextDue | cmdPreempt | cmdResume
      | teamUnplace | teamResume | hostHalt | watchdog | hostRequest | hostAtomic | hostCallReply | msimaskWrite
      | controlSpaceWrite | thermalTrip | norvanPortDown | norvanPortUp | taggedLaunchMessage | uncorrectableError
      | correctedError | frontEjection | waitTimeout | attestationSign | powerReq36Ghz | powerReq24Ghz | powerReq12Ghz
      | powerReqStop | powerTransition | powerStopped | eweovLinkDown | eweovLinkUp | coldReset | warmReset
      | sensorBackBelowLimit | attnRecompute | backfillTaskStart | continuationResume | fabricSend | fabricSendComplete
      | oldBlockFreePush => nomatch h
  all_goals exact ⟨_, rfl⟩

/-- A slot whose shared conditions raise a trap takes it, whatever its instruction means. -/
theorem exec_trap {i : Instr} {s : State} {cx : Cx} {b : Bad} (hi : i.isWord = true) (h : gate i s = .trap cx b) : exec i s = .next (cx.trap b s) := by
  obtain ⟨body, hb⟩ := exec_word_issues hi s
  exact hb.trans (issue_trap i s body cx b h)

/-- A slot whose guard excludes the whole instruction is passed over, whatever its instruction means. -/
theorem exec_skip {i : Instr} {s : State} {cx : Cx} (hi : i.isWord = true) (h : gate i s = .skip cx) : exec i s = .next (cx.advance (cx.passed i s)) := by
  obtain ⟨body, hb⟩ := exec_word_issues hi s
  exact hb.trans (issue_skip i s body cx h)

/-! ### The hash masks under a trap -/

theorem withLog_hashm (s : State) (x : Sparse 8) (y : Sparse 64) : ({ s with ctl := x, bbSeq := y } : State).hashm = s.hashm := rfl
@[simp] theorem bb_hashm (s : State) (a b c d : Nat) (x : W64) (e : Nat) : (s.bb a b c d x e).hashm = s.hashm := withLog_hashm s _ _
@[simp] theorem updGroup_hashm (s : State) (t k : Nat) (f) : (s.updGroup t k f).hashm = s.hashm := rfl
@[simp] theorem updArm_hashm (s : State) (c : CtxId) (f) : (s.updArm c f).hashm = s.hashm := rfl
@[simp] theorem updTeam_hashm (s : State) (t : Nat) (f) : (s.updTeam t f).hashm = s.hashm := rfl
@[simp] theorem updTenant_hashm (s : State) (t : Nat) (f) : (s.updTenant t f).hashm = s.hashm := rfl

@[simp] theorem wake_hashm (s : State) (c : CtxId) (v : W32) : (s.wake c v).hashm = s.hashm := rfl

theorem foldl_hashm {α : Type} (f : State → α → State) (hf : ∀ s x, (f s x).hashm = s.hashm) (l : List α) (s : State) :
    (l.foldl f s).hashm = s.hashm := by
  induction l generalizing s with
  | nil => rfl
  | cons x t ih => exact (ih _).trans (hf s x)

@[simp] theorem note_hashm (s : State) (pa : Nat) : (s.note pa).hashm = s.hashm := by
  unfold State.note
  split <;> rfl

@[simp] theorem evalTl_hashm (s : State) (lo n : Nat) : (s.evalTl lo n).hashm = s.hashm := by
  unfold State.evalTl
  exact foldl_hashm _ (fun u (w : TlWaiter) => wake_hashm u w.c 1) _ _

@[simp] theorem pokeMask_hashm (s : State) (pa n mask v : Nat) : (s.pokeMask pa n mask v).hashm = s.hashm :=
  evalTl_hashm _ pa n

@[simp] theorem poke_hashm (s : State) (pa n v : Nat) : (s.poke pa n v).hashm = s.hashm :=
  (pokeMask_hashm ..).trans (note_hashm s pa)

@[simp] theorem signalTl_hashm (s : State) (pa v : Nat) : (s.signalTl pa v).hashm = s.hashm := by
  unfold State.signalTl
  extract_lets u
  have hu : u.hashm = s.hashm := by
    show (if _ then _ else if _ then _ else s).hashm = s.hashm
    split
    · exact poke_hashm ..
    · split
      · exact poke_hashm ..
      · rfl
  refine (foldl_hashm _ (fun x t => ?_) _ u).trans hu
  split <;> rfl

@[simp] theorem bfStamp_hashm (s : State) (pa k : Nat) : (s.bfStamp pa k).hashm = s.hashm := by
  unfold State.bfStamp
  dsimp only
  split
  · rfl
  · exact foldl_hashm _ (fun u t => updTenant_hashm u t _) _ s

@[simp] theorem qPush_hashm (s : State) (tr : Nat → Tr) (pa data : Nat) : (s.qPush tr pa data).1.hashm = s.hashm := by
  unfold State.qPush
  dsimp only
  split
  · rfl
  · split
    · rfl
    · split
      · split
        · rfl
        · simp only [bfStamp_hashm, poke_hashm]
      · rfl

@[simp] theorem agentPush_hashm (s : State) (unit tenant va data : Nat) : (s.agentPush unit tenant va data).1.hashm = s.hashm := by
  unfold State.agentPush
  split
  · rfl
  · exact (qPush_hashm ..).trans (note_hashm ..)

@[simp] theorem msi_hashm (s : State) (tenant v : Nat) : (s.msi tenant v).hashm = s.hashm := by
  unfold State.msi
  dsimp only
  split
  · rfl
  · split
    · exact poke_hashm ..
    · rfl

@[simp] theorem writeErr_hashm (s : State) (r : ErrRec) : (s.writeErr r).hashm = s.hashm := by
  unfold State.writeErr
  extract_lets t v
  split <;> (next h => simpa using (congrArg (fun p => p.1.hashm) h).symm)

@[simp] theorem pushErr_hashm (s : State) (r : ErrRec) : (s.pushErr r).hashm = s.hashm := by
  unfold State.pushErr
  dsimp only
  split
  · exact writeErr_hashm ..
  · rfl

@[simp] theorem freeze_hashm (s : State) (sup : Supplier) (t : Trap) (launchId team grp tenant : Nat) :
    (s.freeze sup t launchId team grp tenant).hashm = s.hashm := by
  unfold State.freeze
  split
  · rfl
  · extract_lets pa s1 h s2 v
    have hs2 : s2.hashm = s.hashm := (bb_hashm ..).trans ((poke_hashm ..).trans (note_hashm ..))
    split
    · exact (pushErr_hashm ..).trans hs2
    · split
      · exact hs2
      · exact (signalTl_hashm ..).trans ((poke_hashm ..).trans hs2)

@[simp] theorem noteTrap_hashm (s : State) (tm : Team) (g : Group) (t : Trap) : (s.noteTrap tm g t).hashm = s.hashm := by
  unfold State.noteTrap
  dsimp only
  split
  · split <;> simp
  · simp

@[simp] theorem joinSquall_hashm (s : State) (q : Squall) (team grp : Nat) (t : Trap) : (s.joinSquall q team grp t).hashm = s.hashm := by
  unfold State.joinSquall
  split <;> rfl

@[simp] theorem raise_hashm (s : State) (team grp : Nat) (t : Trap) : (s.raise team grp t).hashm = s.hashm := by
  unfold State.raise
  split
  · dsimp only
    split
    · rw [joinSquall_hashm]
      split <;> simp
    · simp
  · rfl

@[simp] theorem advance_hashm (cx : Cx) (s : State) : (cx.advance s).hashm = s.hashm := rfl

/-- Taking an exception leaves the hash masks (R401, R402, R411). -/
theorem trap_hashm (cx : Cx) (b : Bad) (s : State) : (cx.trap b s).hashm = s.hashm := by
  unfold Cx.trap
  dsimp only
  split
  · exact raise_hashm ..
  · exact raise_hashm ..

/-! ### Handles read before the shared conditions (R108) -/

/-- Reading handles changes nothing but groups. -/
theorem readHandles_eq (cx : Cx) (l : List (Nat × Nat)) (s : State) : s.readHandles cx l = { s with groups := (s.readHandles cx l).groups } := by
  induction l generalizing s with
  | nil => rfl
  | cons x t ih => exact ih _

theorem Keeps.readHandle (key : Nat) (v : W32) : Keeps (fun g => g.readHandle key v) := by
  unfold Group.readHandle
  split
  · exact Keeps.sput 1 (key - 128) v
  · exact Keeps.sput 0 key v

@[simp] theorem sput_hmode (g : Group) (sel r : Nat) (x : W32) : (g.sput sel r x).hmode = g.hmode := by
  unfold Group.sput
  split <;> rfl

@[simp] theorem readHandle_hmode (g : Group) (key : Nat) (v : W32) : (g.readHandle key v).hmode = g.hmode := by
  unfold Group.readHandle
  split <;> exact sput_hmode ..

/-- The group of a slot that has read its handles still has its arms and its mode. -/
theorem group_readHandles (cx : Cx) (l : List (Nat × Nat)) {s : State} {g : Group} (h : s.group cx.c.team cx.c.grp = some g) :
    ∃ g', (s.readHandles cx l).group cx.c.team cx.c.grp = some g' ∧ g'.arm = g.arm ∧ g'.hmode = g.hmode := by
  induction l generalizing s g with
  | nil => exact ⟨g, h, rfl, rfl⟩
  | cons x t ih =>
    have hk := Keeps.readHandle x.1 (BitVec.ofNat 32 ((s.tenant cx.tenant).stateOf x.2 * 2 ^ 30 + x.2))
    have hx := group_updGroup s cx.c.team cx.c.grp _ (fun g => ⟨hk.team g, hk.idx g⟩)
    rw [h, Option.map_some] at hx
    obtain ⟨g', hg', harm, hmode⟩ := ih hx
    exact ⟨g', hg', harm.trans (funext (hk.arm g)), hmode.trans (readHandle_hmode ..)⟩

/-! ### Rank 4 (R430) -/

theorem walkFrom_groups (s : State) (gs : List Group) (tenant va n table : Nat) :
    walkFrom { s with groups := gs } tenant va n table = walkFrom s tenant va n table := by
  induction n generalizing table with
  | zero => rfl
  | succ n ih =>
    cases n with
    | zero =>
      simp only [walkFrom]
      rfl
    | succ n =>
      simp only [walkFrom, ih]
      rfl

theorem period_groups (s : State) (gs : List Group) (t : Nat) : ({ s with groups := gs } : State).period t = s.period t := by
  have hw (tenant va : Nat) : walk { s with groups := gs } tenant va = walk s tenant va := walkFrom_groups s gs tenant va 3 _
  have ht (va : Nat) (n : Need) : ({ s with groups := gs } : State).reachAgent unitTier t va n = s.reachAgent unitTier t va n := by
    simp only [State.reachAgent, State.trAgent, hw]
  simp only [State.period, ht]
  rfl

theorem maskQuiet_groups (s : State) (gs : List Group) (team : Nat) : ({ s with groups := gs } : State).maskQuiet team = s.maskQuiet team := by
  simp only [State.maskQuiet, period_groups]
  rfl

/-- Rank 4 reads nothing of the state's groups: the slot's own group is the context's. -/
theorem rank4_groups (i : Instr) (cx : Cx) (s : State) (gs : List Group) : rank4 i cx { s with groups := gs } = rank4 i cx s := by
  unfold rank4
  simp only [maskQuiet_groups]
  rfl

/-- An instruction with no case of its own in rank 4. -/
def plainRank4 (i : Instr) : Prop := ∀ w, i ≠ .rfh w ∧ i ≠ .contPark w ∧ i ≠ .sysw w

/-- Rank 4 of such an instruction looks at its form and its page alone. -/
theorem rank4_plain {i : Instr} (hi : plainRank4 i) (cx : Cx) (s : State) :
    rank4 i cx s = if i.form.priv && !cx.priv then some { cause := 0x07 } else none := by
  unfold rank4
  split
  next w => exact absurd rfl (hi w).1
  next w => exact absurd rfl (hi w).2.1
  next w => exact absurd rfl (hi w).2.2
  next => rfl

/-- A privileged form takes PRIVILEGE in a slot that is not privileged. -/
theorem rank4_unprivileged {i : Instr} (hi : plainRank4 i) (hf : i.form.priv = true) {cx : Cx} (hp : cx.priv = false) (s : State) :
    rank4 i cx s = some { cause := 0x07 } := by
  simp [rank4_plain hi, hf, hp]

theorem rank4_plain_none {i : Instr} (hi : plainRank4 i) (hf : i.form.priv = false) {cx : Cx} {s : State} : rank4 i cx s = none := by
  simp [rank4_plain hi, hf]

/-- Every case of R430 is PRIVILEGE. -/
theorem rank4_forbidden {i : Instr} {s : State} {cur : Cur} {g : Group} {cx : Cx} (h : Rules.forbidden i s cur g)
    (hc : cx.c = cur.c) (hp : cx.priv = cur.priv) (hm : cx.g.hmode = g.hmode) : rank4 i cx s = some { cause := 0x07 } := by
  rcases h with ⟨hpriv, w, rfl | rfl | rfl | rfl⟩ | ⟨hmode, w, rfl⟩ | ⟨htask, w, rfl⟩ | ⟨hquiet, w, rfl, hlo, hhi⟩
  case inl.inl | inl.inr.inr.inl | inl.inr.inr.inr => exact rank4_unprivileged (fun _ => ⟨Instr.noConfusion, Instr.noConfusion, Instr.noConfusion⟩) rfl (hp.trans hpriv) s
  case inl.inr.inl => simp [rank4, hp, hpriv]
  case inr.inl => simp [rank4, hm, hmode]
  case inr.inr.inl =>
    cases ht : s.team cur.c.team with
    | none => simp [rank4, hc, ht]
    | some t => simp [rank4, hc, ht, htask t ht]
  case inr.inr.inr => simp [rank4, hc, hquiet, hlo, hhi]

/-! ### The gate of a slot at its first issue -/

/-- The state in which the conditions of ranks 4 to 7 are tested: the handles that the slot names are read. -/
def settledState (i : Instr) (h : Head) (cur : Cur) (g : Group) (s : State) : State :=
  s.readHandles (Cx.make i h cur g s) ((Cx.make i h cur g s).handles i)

/-- The context whose conditions of ranks 4 to 7 are tested. -/
def settledCx (i : Instr) (h : Head) (cur : Cur) (g : Group) (s : State) : Cx :=
  { Cx.make i h cur g s with g := ((settledState i h cur g s).group cur.c.team cur.c.grp).getD g }

/-- A slot of the context `cur` in group `g`, with the common fields `h`, that can issue and is in no wait of its own. -/
structure FirstIssue (i : Instr) (s : State) (h : Head) (cur : Cur) (g : Group) : Prop where
  head : i.head = some h
  current : s.cur = some cur
  context : s.context cur.c = some g
  unheld : s.held i (isVector i.form h) (Cx.make i h cur g s) = false
  fresh : (g.arm cur.c.arm).wait.resumed = false

theorem FirstIssue.of_gate {i : Instr} {s : State} {h : Head} {cur : Cur} {g : Group} (hh : i.head = some h) (hc : s.cur = some cur)
    (hg : s.context cur.c = some g) (hn : gate i s ≠ .hold) (hw : (g.arm cur.c.arm).wait.resumed = false) : FirstIssue i s h cur g where
  head := hh
  current := hc
  context := hg
  unheld := Bool.eq_false_iff.mpr fun hheld => hn (by simp [gate, hc, hh, hg, hheld])
  fresh := hw

theorem group_of_context {s : State} {c : CtxId} {g : Group} (h : s.context c = some g) : s.group c.team c.grp = some g := by
  unfold State.context at h
  split at h
  next ht hg =>
    split at h
    · exact hg.trans h
    · cases h
  next => cases h

namespace FirstIssue

variable {i : Instr} {s : State} {h : Head} {cur : Cur} {g : Group}

/-- The group that the conditions are tested on has the arms and the mode of the slot's group. -/
theorem settled_group (hf : FirstIssue i s h cur g) :
    (settledCx i h cur g s).g.arm = g.arm ∧ (settledCx i h cur g s).g.hmode = g.hmode := by
  obtain ⟨g', hg', harm, hmode⟩ := group_readHandles (Cx.make i h cur g s) ((Cx.make i h cur g s).handles i) (group_of_context hf.context)
  have e : (settledCx i h cur g s).g = g' := congrArg (fun x => x.getD g) hg'
  exact e ▸ ⟨harm, hmode⟩

theorem settled_fresh (hf : FirstIssue i s h cur g) : ((settledCx i h cur g s).g.arm (settledCx i h cur g s).c.arm).wait.resumed = false :=
  hf.settled_group.1 ▸ hf.fresh

/-- Rank 4 is tested as in the state before the handles were read. -/
theorem settled_rank4 : rank4 i (settledCx i h cur g s) (settledState i h cur g s) = rank4 i (settledCx i h cur g s) s := by
  rw [settledState, readHandles_eq]
  exact rank4_groups ..

/-- A condition of rank 4 comes before those of later ranks (R426). -/
theorem gate_trap (hf : FirstIssue i s h cur g) {b : Bad} (h4 : rank4 i (settledCx i h cur g s) s = some b) : gate i s = .trap (settledCx i h cur g s) b := by
  have h4 := settled_rank4.trans h4
  have hw := hf.settled_fresh
  simp only [settledCx, settledState] at h4 hw ⊢
  simp only [gate, hf.current, hf.head, hf.context, hf.unheld]
  simp [hw, h4]

/-- A guard that excludes the whole instruction passes over a slot that meets no condition of rank 4 (R173, R427). -/
theorem gate_skip (hf : FirstIssue i s h cur g) (h4 : rank4 i (settledCx i h cur g s) s = none) (hn : (settledCx i h cur g s).noEffect = true) :
    gate i s = .skip (settledCx i h cur g s) := by
  have h4 := settled_rank4.trans h4
  have hw := hf.settled_fresh
  simp only [settledCx, settledState] at h4 hw hn ⊢
  simp only [gate, hf.current, hf.head, hf.context, hf.unheld]
  simp [hw, h4, hn]

end FirstIssue

/-! ### What R430 lists -/

theorem isWord_of_forbidden {i : Instr} {s : State} {cur : Cur} {g : Group} (h : Rules.forbidden i s cur g) : i.isWord = true := by
  rcases h with ⟨-, w, rfl | rfl | rfl | rfl⟩ | ⟨-, w, rfl⟩ | ⟨-, w, rfl⟩ | ⟨-, w, rfl, -⟩ <;> rfl

/-- R430: the listed slots trap at rank 4, and a trap leaves the hash masks. -/
theorem privileged : Rules.Privileged := by
  intro i s cur g hcur hctx hforb hgate hfresh
  have hword := isWord_of_forbidden hforb
  obtain ⟨h, hh⟩ := Option.isSome_iff_exists.mp hword
  have hf := FirstIssue.of_gate hh hcur hctx hgate hfresh
  have htrap := hf.gate_trap (rank4_forbidden (cx := settledCx i h cur g s) hforb rfl rfl hf.settled_group.2)
  exact ⟨_, _, htrap, rfl, rfl, exec_trap hword htrap, trap_hashm ..⟩

/-! ### A slot that is passed over -/

/-- The registers and predicates of a group. -/
def Group.regs (g : Group) : Sparse 32 × Sparse 32 × Sparse 32 × Sparse 64 × BitVec 7 × BitVec 3 := (g.v, g.s, g.sb1, g.p, g.q, g.q1)

@[simp] theorem updArm_regs (g : Group) (a : Nat) (f : Arm → Arm) : (g.updArm a f).regs = g.regs := by
  unfold Group.updArm
  split
  · rfl
  · split
    · rfl
    · split <;> rfl

theorem group_congr {s t : State} (h : s.groups = t.groups) (team grp : Nat) : s.group team grp = t.group team grp := by
  simp only [State.group, h]

/-- A change of groups that keeps their names and their registers keeps the registers of every group. -/
theorem group_regs_updGroup (s : State) (t k : Nat) (f : Group → Group) (hf : ∀ g, (f g).team = g.team ∧ (f g).idx = g.idx)
    (hr : ∀ g, (f g).regs = g.regs) (team grp : Nat) : ((s.updGroup t k f).group team grp).map Group.regs = (s.group team grp).map Group.regs := by
  by_cases h : team = t ∧ grp = k
  · obtain ⟨rfl, rfl⟩ := h
    rw [group_updGroup s team grp f hf, Option.map_map]
    exact congrArg (fun p => (s.group team grp).map p) (funext hr)
  · rw [group_updGroup_other s t k team grp f hf h]

theorem group_regs_updArm (s : State) (c : CtxId) (f : Arm → Arm) (team grp : Nat) :
    ((s.updArm c f).group team grp).map Group.regs = (s.group team grp).map Group.regs :=
  group_regs_updGroup s _ _ _ (fun g => ⟨updArm_team g _ _, updArm_idx g _ _⟩) (fun g => updArm_regs g _ _) team grp

theorem armOf_updArm (s : State) (c : CtxId) (f : Arm → Arm) : (s.updArm c f).armOf c = (s.armOf c).map f := by
  unfold State.armOf State.updArm
  rw [group_updGroup s c.team c.grp _ (fun g => ⟨updArm_team g _ _, updArm_idx g _ _⟩), Option.map_map, Option.map_map]
  exact congrArg (fun p => (s.group c.team c.grp).map p) (funext fun g => arm_updArm g c.arm f)

@[simp] theorem updPort_mem (s : State) (core : Nat) (b : Bool) (f : Port → Port) : (s.updPort core b f).mem = s.mem := rfl
@[simp] theorem updPort_groups (s : State) (core : Nat) (b : Bool) (f : Port → Port) : (s.updPort core b f).groups = s.groups := rfl
@[simp] theorem yieldPorts_mem (s : State) (c : CtxId) (core : Nat) : (s.yieldPorts c core).mem = s.mem := rfl
@[simp] theorem yieldPorts_groups (s : State) (c : CtxId) (core : Nat) : (s.yieldPorts c core).groups = s.groups := rfl

theorem deferred_mem (cx : Cx) (i : Instr) (vec : Bool) (used : List (Nat × Nat)) (s : State) : (cx.deferred i vec used s).mem = s.mem := by
  unfold Cx.deferred
  extract_lets u ks
  induction ks generalizing s with
  | nil => rfl
  | cons x t ih => exact (ih _).trans (bb_mem ..)

theorem capture_mem (cx : Cx) (d s : State) : (cx.capture d s).mem = s.mem := by
  unfold Cx.capture
  split <;> rfl

theorem capture_groups (cx : Cx) (d s : State) : (cx.capture d s).groups = s.groups := by
  unfold Cx.capture
  split <;> rfl

theorem issued_mem (cx : Cx) (vec : Bool) (s : State) : (cx.issued vec s).mem = s.mem := by
  unfold Cx.issued
  simp only [updGroup_mem, apply_ite State.mem, yieldPorts_mem, updPort_mem, ite_self]

/-- Issuing leaves every register: of its group it changes the time of issue and SLOTS. -/
theorem issued_regs (cx : Cx) (vec : Bool) (s : State) (team grp : Nat) : ((cx.issued vec s).group team grp).map Group.regs = (s.group team grp).map Group.regs := by
  unfold Cx.issued
  extract_lets s1 s2 skid
  have hs : s2.groups = s.groups := by
    simp only [s2, s1, apply_ite State.groups, yieldPorts_groups, updPort_groups, ite_self]
  rw [← group_congr hs]
  refine group_regs_updGroup s2 _ _ _ (fun g => ?_) (fun g => ?_) team grp
  · exact ⟨updArm_team g _ _, updArm_idx g _ _⟩
  · exact updArm_regs g cx.c.arm _

theorem passed_mem (cx : Cx) (i : Instr) (s : State) : (cx.passed i s).mem = s.mem := by
  unfold Cx.passed
  dsimp only
  split <;> simp only [capture_mem, issued_mem, deferred_mem]

theorem passed_regs (cx : Cx) (i : Instr) (s : State) (team grp : Nat) : ((cx.passed i s).group team grp).map Group.regs = (s.group team grp).map Group.regs := by
  unfold Cx.passed
  extract_lets vec s1
  have h1 : (s1.group team grp).map Group.regs = (s.group team grp).map Group.regs :=
    (issued_regs ..).trans (congrArg _ (group_congr (deferred_groups cx i vec [] s) team grp))
  split
  · exact h1
  · exact (congrArg _ (group_congr (capture_groups cx s1 s1) team grp)).trans h1

/-- The PC of a context that goes on is at its next slot (R181). -/
theorem advance_pc (cx : Cx) {s : State} (h : (s.group cx.c.team cx.c.grp).isSome) :
    ((cx.advance s).armOf cx.c).map (fun a => (a.pc, a.slot)) = some (pcAfter cx.bundle cx.slot cx.valid) := by
  obtain ⟨g, hg⟩ := Option.isSome_iff_exists.mp h
  unfold Cx.advance State.jump
  rw [armOf_updArm, State.armOf, hg]
  rfl

/-- R173: the always-false guard keeps every arm from taking effect, and what is passed over changes no register and no byte. -/
theorem falseGuardSkips : Rules.FalseGuardSkips := by
  intro i s h cur g hh hidx hneg _ hpriv hplain hcur hctx hgate hfresh
  have hf := FirstIssue.of_gate hh hcur hctx hgate hfresh
  have hnoEffect : (settledCx i h cur g s).noEffect = true :=
    show (if h.guard.idx == 7 then h.guard.neg else _) = true by rw [hidx]; exact hneg
  have hskip := hf.gate_skip (rank4_plain_none hplain hpriv) hnoEffect
  have hgroup : (((settledCx i h cur g s).passed i s).group cur.c.team cur.c.grp).isSome := by
    have hregs := passed_regs (settledCx i h cur g s) i s cur.c.team cur.c.grp
    rw [group_of_context hctx] at hregs
    simpa using congrArg Option.isSome hregs
  exact ⟨_, exec_skip (Option.isSome_iff_exists.mpr ⟨h, hh⟩) hskip, passed_mem .., fun team grp => (group_regs_updArm ..).trans (passed_regs ..),
    advance_pc (settledCx i h cur g s) hgroup⟩

/-- Settles O50: what R430 lists traps at rank 4, before every later rank, and the always-false guard passes over the slot. -/
theorem privilegeAndGuards : Obligations.PrivilegeAndGuards := ⟨privileged, falseGuardSkips⟩

end Sys2Proof.Machine

namespace Sys2Proof

/-! ### The fields of an instruction word (R167, R169, R174, R176) -/

/-- Every operand that keeps its code is read back from it. -/
theorem decodeOpd_encodeOpd {o : Opd} (h : opdOk o = true) : decodeOpd (encodeOpd o) = o := by
  cases o with
  | v i =>
    have e : (encodeOpd (.v i)).toNat = i.toNat := by simp [encodeOpd]; omega
    simp only [decodeOpd, e]
    rw [if_pos (by omega)]
    simp
  | s i =>
    have e : (encodeOpd (.s i)).toNat = 256 + i.toNat := by simp [encodeOpd]; omega
    simp only [decodeOpd, e]
    rw [if_neg (by omega), if_pos (by omega)]
    simp
  | y i =>
    have e : (encodeOpd (.y i)).toNat = 384 + i.val := by simp [encodeOpd]; omega
    simp only [decodeOpd, e]
    rw [if_neg (by omega), if_neg (by omega), if_pos (by omega)]
    simp
  | z => rfl
  | m i =>
    have e : (encodeOpd (.m i)).toNat = 416 + i.toNat := by simp [encodeOpd]; omega
    simp only [decodeOpd, e]
    rw [if_neg (by omega), if_neg (by omega), if_neg (by omega), if_neg (by omega), if_neg (by omega), if_pos (by omega)]
    simp
  | imm i =>
    have e : (encodeOpd (.imm i)).toNat = 480 + i.toNat := by simp [encodeOpd]; omega
    simp only [decodeOpd, e]
    rw [if_neg (by omega), if_neg (by omega), if_neg (by omega), if_neg (by omega), if_neg (by omega), if_neg (by omega), if_pos (by omega)]
    simp
  | rsv c =>
    simp only [opdOk, Bool.or_eq_true, Bool.and_eq_true, decide_eq_true_eq] at h
    change decodeOpd c = .rsv c
    unfold decodeOpd
    rcases h with ⟨hlo, hhi⟩ | h
    · rw [if_neg (by omega), if_neg (by omega), if_neg (by omega), if_pos hhi]
    · rw [if_neg (by omega), if_neg (by omega), if_neg (by omega), if_neg (by omega), if_neg (by omega), if_neg (by omega), if_neg (by omega)]

/-- No bit of an operand code is dropped. -/
theorem encodeOpd_decodeOpd (c : BitVec 10) : encodeOpd (decodeOpd c) = c := by
  apply BitVec.eq_of_toNat_eq
  unfold decodeOpd
  dsimp only
  repeat' split
  all_goals simp [encodeOpd, Fin.ofNat]
  all_goals omega

theorem decodePath_encodePath (p : Path) : decodePath (encodePath p) = some p := by cases p <;> rfl

theorem encodePath_of_decodePath {c : BitVec 2} {p : Path} (h : decodePath c = some p) : encodePath p = c := by
  revert h
  unfold decodePath
  split <;> rintro ⟨⟩ <;> (apply BitVec.eq_of_toNat_eq; simp_all [encodePath])

theorem decodeCap_encodeCap (k : Option (Fin 6)) : decodeCap (encodeCap k) = some k := by
  cases k with
  | none => rfl
  | some k => revert k; decide

theorem encodeCap_of_decodeCap {c : BitVec 3} {k : Option (Fin 6)} (h : decodeCap c = some k) : encodeCap k = c := by
  revert c k; decide

theorem decodeGuard_encodeGuard (g : Guard) : decodeGuard (encodeGuard g) = g := by
  obtain ⟨u, n, i⟩ := g
  cases u <;> cases n <;> (revert i; decide)

theorem encodeGuard_decodeGuard (c : BitVec 5) : encodeGuard (decodeGuard c) = c := by revert c; decide

theorem tyOf_encodeTy (t : Ty) : tyOf (encodeTy t).toNat = some t := by cases t <;> rfl

theorem encodeTy_of_tyOf {c : BitVec 4} {t : Ty} (h : tyOf c.toNat = some t) : encodeTy t = c := by
  revert c t; decide

/-! ### Words taken apart and put together (R167, R177, R262) -/

/-- One bit of a word as a field. -/
theorem ofBool_getLsbD {n : Nat} (x : BitVec n) (i : Nat) : BitVec.ofBool (x.getLsbD i) = x.extractLsb' i 1 := by
  ext j hj
  obtain rfl : j = 0 := by omega
  simp

/-- A bit above the last field of a word. -/
theorem getLsbD_append_high {v w : Nat} (x : BitVec v) (y : BitVec w) {i : Nat} (h : w ≤ i) : (x ++ y).getLsbD i = x.getLsbD (i - w) := by
  rw [BitVec.getLsbD_append, if_neg (by omega)]

/-- A one-bit field at the end of a word. -/
theorem getLsbD_append_zero {v : Nat} (x : BitVec v) (b : Bool) : (x ++ BitVec.ofBool b).getLsbD 0 = b := by
  rw [BitVec.getLsbD_append, if_pos (by omega)]
  simp

/-- A register-form word is read back field by field. -/
theorem unpackR_encR (major func : BitVec 8) (w : Word) (hd : opdOk w.dst = true) (ha : opdOk w.a = true) (hb : opdOk w.b = true) (hc : opdOk w.c = true) :
    unpackR (encR major func w) = some w := by
  have field : ∀ lo n, 8 ≤ lo → bitsAt (encR major func w) lo n = BitVec.extractLsb' (lo - 8) n _ := fun _ _ h => BitVec.extractLsb'_append_eq_of_le h
  have bit : ∀ i, 8 ≤ i → (encR major func w).getLsbD i = BitVec.getLsbD _ (i - 8) := fun _ h => getLsbD_append_high _ _ h
  have low : bitsAt (encR major func w) 0 8 = w.fspec := BitVec.extractLsb'_append_eq_right
  unfold unpackR
  simp (disch := decide) only [field, bit, low, BitVec.extractLsb'_append_eq_of_le, BitVec.extractLsb'_append_eq_of_add_le, getLsbD_append_high,
    getLsbD_append_zero, Nat.reduceSub, BitVec.extractLsb'_eq_self, decodePath_encodePath, decodeCap_encodeCap, tyOf_encodeTy, decodeGuard_encodeGuard, if_true]
  rw [decodeOpd_encodeOpd hd, decodeOpd_encodeOpd ha, decodeOpd_encodeOpd hb, decodeOpd_encodeOpd hc]

/-- An immediate-form word is read back field by field: its immediate stands in two parts. -/
theorem unpackI_encI (major func : BitVec 8) (w : WordI) (hd : opdOk w.dst = true) (ha : opdOk w.a = true) : unpackI (encI major func w) = some w := by
  have field : ∀ lo n, 12 ≤ lo → bitsAt (encI major func w) lo n = BitVec.extractLsb' (lo - 12) n _ := fun _ _ h => BitVec.extractLsb'_append_eq_of_le h
  have bit : ∀ i, 12 ≤ i → (encI major func w).getLsbD i = BitVec.getLsbD _ (i - 12) := fun _ h => getLsbD_append_high _ _ h
  have low : bitsAt (encI major func w) 0 12 = w.imm.extractLsb' 0 12 := BitVec.extractLsb'_append_eq_right
  have himm : w.imm.extractLsb' 12 20 ++ w.imm.extractLsb' 0 12 = w.imm := BitVec.extractLsb'_append_extractLsb'
  unfold unpackI
  simp (disch := decide) only [field, bit, low, BitVec.extractLsb'_append_eq_of_le, BitVec.extractLsb'_append_eq_of_add_le, getLsbD_append_high,
    getLsbD_append_zero, Nat.reduceSub, BitVec.extractLsb'_eq_self, decodePath_encodePath, decodeCap_encodeCap, tyOf_encodeTy, decodeGuard_encodeGuard, if_true]
  rw [decodeOpd_encodeOpd hd, decodeOpd_encodeOpd ha, himm]

/-- A PRD word is read back field by field. -/
theorem unpackP_encP (major func : BitVec 8) (w : WordP) (hd : opdOk w.dst = true) (ha : opdOk w.a = true) (hb : opdOk w.b = true) (hc : opdOk w.c = true) :
    unpackP (encP major func w) = some w := by
  have field : ∀ lo n, 4 ≤ lo → bitsAt (encP major func w) lo n = BitVec.extractLsb' (lo - 4) n _ := fun _ _ h => BitVec.extractLsb'_append_eq_of_le h
  have bit : ∀ i, 4 ≤ i → (encP major func w).getLsbD i = BitVec.getLsbD _ (i - 4) := fun _ h => getLsbD_append_high _ _ h
  have low : bitsAt (encP major func w) 0 4 = w.tt := BitVec.extractLsb'_append_eq_right
  unfold unpackP
  simp (disch := decide) only [field, bit, low, BitVec.extractLsb'_append_eq_of_le, BitVec.extractLsb'_append_eq_of_add_le, getLsbD_append_high,
    getLsbD_append_zero, Nat.reduceSub, BitVec.extractLsb'_eq_self, decodePath_encodePath, decodeCap_encodeCap, tyOf_encodeTy, decodeGuard_encodeGuard, and_self, if_true]
  rw [decodeOpd_encodeOpd hd, decodeOpd_encodeOpd ha, decodeOpd_encodeOpd hb, decodeOpd_encodeOpd hc]

/-- A word is its fields put together. -/
theorem encR_unpackR {x : W96} {w : Word} (h : unpackR x = some w) : encR (bitsAt x 88 8) (bitsAt x 80 8) w = x := by
  unfold unpackR at h
  split at h
  · next path cap ty hp hcap hty =>
    split at h
    · next hz =>
      cases h
      unfold encR
      simp only [encodeOpd_decodeOpd, encodeGuard_decodeGuard, encodePath_of_decodePath hp, encodeCap_of_decodeCap hcap, encodeTy_of_tyOf hty, ofBool_getLsbD]
      rw [← hz]
      simp (disch := decide) only [bitsAt, BitVec.extractLsb'_append_extractLsb'_eq_extractLsb']
      exact BitVec.extractLsb'_eq_self
    · cases h
  · cases h

theorem encI_unpackI {x : W96} {w : WordI} (h : unpackI x = some w) : encI (bitsAt x 88 8) (bitsAt x 80 8) w = x := by
  unfold unpackI at h
  split at h
  · next path cap ty hp hcap hty =>
    split at h
    · next hz =>
      cases h
      unfold encI
      simp only [encodeOpd_decodeOpd, encodeGuard_decodeGuard, encodePath_of_decodePath hp, encodeCap_of_decodeCap hcap, encodeTy_of_tyOf hty, ofBool_getLsbD,
        BitVec.extractLsb'_append_eq_left, BitVec.extractLsb'_append_eq_right]
      rw [← hz]
      simp (disch := decide) only [bitsAt, BitVec.extractLsb'_append_extractLsb'_eq_extractLsb']
      exact BitVec.extractLsb'_eq_self
    · cases h
  · cases h

/-- The fields of the layout P, put together again, are the word. -/
theorem fields_of_wordP (x : W96) :
    (bitsAt x 88 8 ++ bitsAt x 80 8 ++ bitsAt x 70 10 ++ BitVec.extractLsb' 69 1 x ++ bitsAt x 59 10 ++ bitsAt x 49 10 ++ bitsAt x 39 10
      ++ bitsAt x 34 5 ++ bitsAt x 32 2 ++ bitsAt x 29 3 ++ bitsAt x 25 4 ++ BitVec.extractLsb' 24 1 x ++ bitsAt x 20 4 ++ bitsAt x 16 4
      ++ bitsAt x 13 3 ++ bitsAt x 10 3 ++ bitsAt x 7 3 ++ bitsAt x 5 2 ++ BitVec.extractLsb' 4 1 x ++ bitsAt x 0 4 : W96) = x := by
  simp (disch := decide) only [bitsAt, BitVec.extractLsb'_append_extractLsb'_eq_extractLsb']
  exact BitVec.extractLsb'_eq_self

theorem encP_unpackP {x : W96} {w : WordP} (h : unpackP x = some w) : encP (bitsAt x 88 8) (bitsAt x 80 8) w = x := by
  unfold unpackP at h
  split at h
  · next path cap ty hp hcap hty =>
    split at h
    · next hz =>
      obtain ⟨h1, h2, h3⟩ := hz
      cases h
      unfold encP
      simp only [encodeOpd_decodeOpd, encodeGuard_decodeGuard, encodePath_of_decodePath hp, encodeCap_of_decodeCap hcap, encodeTy_of_tyOf hty, ofBool_getLsbD]
      have hx := fields_of_wordP x
      rw [h1, h2, h3] at hx
      exact hx
    · cases h
  · cases h

/-- MAJOR and FUNC stand at the top of every layout (R167). -/
theorem major_encR (major func : BitVec 8) (w : Word) : bitsAt (encR major func w) 88 8 = major ∧ bitsAt (encR major func w) 80 8 = func := by
  have field : ∀ lo n, 8 ≤ lo → bitsAt (encR major func w) lo n = BitVec.extractLsb' (lo - 8) n _ := fun _ _ h => BitVec.extractLsb'_append_eq_of_le h
  simp (disch := decide) only [field, BitVec.extractLsb'_append_eq_of_le, BitVec.extractLsb'_append_eq_of_add_le, Nat.reduceSub, BitVec.extractLsb'_eq_self, and_self]

theorem major_encI (major func : BitVec 8) (w : WordI) : bitsAt (encI major func w) 88 8 = major ∧ bitsAt (encI major func w) 80 8 = func := by
  have field : ∀ lo n, 12 ≤ lo → bitsAt (encI major func w) lo n = BitVec.extractLsb' (lo - 12) n _ := fun _ _ h => BitVec.extractLsb'_append_eq_of_le h
  simp (disch := decide) only [field, BitVec.extractLsb'_append_eq_of_le, BitVec.extractLsb'_append_eq_of_add_le, Nat.reduceSub, BitVec.extractLsb'_eq_self, and_self]

theorem major_encP (major func : BitVec 8) (w : WordP) : bitsAt (encP major func w) 88 8 = major ∧ bitsAt (encP major func w) 80 8 = func := by
  have field : ∀ lo n, 4 ≤ lo → bitsAt (encP major func w) lo n = BitVec.extractLsb' (lo - 4) n _ := fun _ _ h => BitVec.extractLsb'_append_eq_of_le h
  simp (disch := decide) only [field, BitVec.extractLsb'_append_eq_of_le, BitVec.extractLsb'_append_eq_of_add_le, Nat.reduceSub, BitVec.extractLsb'_eq_self, and_self]

/-! ### Instructions and their words (R191, R192) -/

/-- The operands of an instruction keep their codes. -/
def opdsOk (h : Head) : Prop := opdOk h.dst = true ∧ opdOk h.a = true ∧ opdOk h.b = true ∧ opdOk h.c = true

/-- A register-form word decodes by its MAJOR and FUNC. -/
theorem decode_encR {major func : BitVec 8} {w : Word} (hl : layoutOf major.toNat func.toNat = 0) (h : opdsOk (headR w)) :
    decode (encR major func w) = ctorR major.toNat func.toNat w := by
  obtain ⟨hd, ha, hb, hc⟩ := h
  obtain ⟨hm, hf⟩ := major_encR major func w
  simp only [decode, hm, hf, hl, unpackR_encR major func w hd ha hb hc, Option.bind_some]

theorem decode_encI {major func : BitVec 8} {w : WordI} (hl : layoutOf major.toNat func.toNat = 1) (h : opdsOk (headI w)) :
    decode (encI major func w) = ctorI major.toNat func.toNat w := by
  obtain ⟨hd, ha, -, -⟩ := h
  obtain ⟨hm, hf⟩ := major_encI major func w
  simp only [decode, hm, hf, hl, unpackI_encI major func w hd ha, Option.bind_some]

theorem decode_encP {major func : BitVec 8} {w : WordP} (hl : layoutOf major.toNat func.toNat = 2) (h : opdsOk (headP w)) :
    decode (encP major func w) = ctorP major.toNat func.toNat w := by
  obtain ⟨hd, ha, hb, hc⟩ := h
  obtain ⟨hm, hf⟩ := major_encP major func w
  simp only [decode, hm, hf, hl, unpackP_encP major func w hd ha hb hc, Option.bind_some]

/-- A number read from a byte names it. -/
theorem eq_ofNat_of_toNat {x : BitVec 8} {n : Nat} (h : x.toNat = n) : x = BitVec.ofNat 8 n := by
  rw [← h, BitVec.ofNat_toNat, BitVec.setWidth_eq]

/-- The register-form constructor that MAJOR and FUNC select is encoded with them. -/
theorem encode_of_ctorR {major func : BitVec 8} {w : Word} {i : Instr} (h : ctorR major.toNat func.toNat w = some i) :
    i.isWord = true ∧ encode i = encR major func w := by
  generalize hM : major.toNat = M at h
  generalize hF : func.toNat = F at h
  obtain rfl := eq_ofNat_of_toNat hM
  obtain rfl := eq_ofNat_of_toNat hF
  unfold ctorR at h
  split at h
  case h_17 => cases h
  all_goals
    split at h
    all_goals (try split at h)
    all_goals cases h
    all_goals exact ⟨rfl, rfl⟩

/-- The immediate-form constructor that MAJOR and FUNC select is encoded with them. -/
theorem encode_of_ctorI {major func : BitVec 8} {w : WordI} {i : Instr} (h : ctorI major.toNat func.toNat w = some i) :
    i.isWord = true ∧ encode i = encI major func w := by
  generalize hM : major.toNat = M at h
  generalize hF : func.toNat = F at h
  obtain rfl := eq_ofNat_of_toNat hM
  obtain rfl := eq_ofNat_of_toNat hF
  unfold ctorI at h
  split at h
  case h_6 => cases h
  all_goals
    split at h
    all_goals cases h
    all_goals exact ⟨rfl, rfl⟩

/-- The PRD constructor that MAJOR and FUNC select is encoded with them. -/
theorem encode_of_ctorP {major func : BitVec 8} {w : WordP} {i : Instr} (h : ctorP major.toNat func.toNat w = some i) :
    i.isWord = true ∧ encode i = encP major func w := by
  generalize hM : major.toNat = M at h
  generalize hF : func.toNat = F at h
  obtain rfl := eq_ofNat_of_toNat hM
  obtain rfl := eq_ofNat_of_toNat hF
  unfold ctorP at h
  split at h
  case h_2 => cases h
  all_goals
    split at h
    all_goals cases h
    all_goals exact ⟨rfl, rfl⟩

/-- A word that decodes to an instruction is that instruction's word. -/
theorem encode_of_decode {x : W96} {i : Instr} (h : decode x = some i) : i.isWord = true ∧ encode i = x := by
  unfold decode at h
  dsimp only at h
  split at h
  · obtain ⟨w, hw, hc⟩ := Option.bind_eq_some_iff.mp h
    exact (encode_of_ctorR hc).imp_right fun e => e.trans (encR_unpackR hw)
  · obtain ⟨w, hw, hc⟩ := Option.bind_eq_some_iff.mp h
    exact (encode_of_ctorI hc).imp_right fun e => e.trans (encI_unpackI hw)
  · obtain ⟨w, hw, hc⟩ := Option.bind_eq_some_iff.mp h
    exact (encode_of_ctorP hc).imp_right fun e => e.trans (encP_unpackP hw)

/-- What a well-formed instruction meets: the verdict on its modifier fields, and operands that keep their codes. -/
theorem WellFormed.mod_opds {i : Instr} {h : Head} (hw : WellFormed i = true) (hh : i.head = some h) : i.form.mod = true ∧ opdsOk h := by
  simp only [WellFormed, hh, wordOk, Bool.and_eq_true] at hw
  obtain ⟨⟨⟨⟨⟨⟨⟨⟨⟨⟨⟨hm, -⟩, -⟩, -⟩, -⟩, -⟩, -⟩, -⟩, hd⟩, ha⟩, hb⟩, hc⟩ := hw
  exact ⟨hm, hd, ha, hb, hc⟩

/-- The verdict on MOD holds only with that on FSPEC. -/
theorem modOk_fspec (w : Word) {ty round sat slot scope chint fspec : Bool} (h : modOk w ty round sat slot scope chint fspec = true) : fspec = true := by
  simp only [modOk, Bool.and_eq_true] at h
  exact h.2

/-- A bit of FSPEC by its value. -/
theorem getLsbD_eq_decide (f : BitVec 8) (k : Nat) : f.getLsbD k = decide (f.toNat / 2 ^ k % 2 = 1) := Nat.testBit_eq_decide_div_mod_eq

/-- A row that shares its function with another is told apart by a bit of FSPEC, which its form fixes (R191). -/
theorem decode_shared {major func : BitVec 8} {w : Word} {i j k : Instr} {b : Nat} (hl : layoutOf major.toNat func.toNat = 0) (ho : opdsOk (headR w))
    (hc : ctorR major.toNat func.toNat w = some (if w.fspec.getLsbD b then i else j))
    (hk : (w.fspec.toNat / 2 ^ b % 2 = 1 ∧ i = k) ∨ (w.fspec.toNat / 2 ^ b % 2 ≠ 1 ∧ j = k)) : decode (encR major func w) = some k := by
  rw [decode_encR hl ho, hc, getLsbD_eq_decide]
  rcases hk with ⟨h, rfl⟩ | ⟨h, rfl⟩ <;> simp [h]

/-- Decoding the word of a well-formed instruction gives it back (R167 to R177, R190 to R192). -/
theorem decode_encode {i : Instr} (hi : i.isWord = true) (hw : WellFormed i = true) : decode (encode i) = some i := by
  obtain ⟨h, hh⟩ := Option.isSome_iff_exists.mp hi
  obtain ⟨hm, ho⟩ := WellFormed.mod_opds hw hh
  cases i
  case teamRetire | hcallRingPush | growGrant | matrixEnginePerform | asyncWriteLands | homeSliceRequest | mergedReadReply
      | homeSliceAtomic | writebackAck | engineOpComplete | copyRecordLanded | streamRowPerformed | tierPromotePage
      | attnTileComplete | compactionStart | backfillPublish | tableWriteAfterMove | clockVisit | demotionCopyComplete
      | remoteWriteLanding | tokenRowLanding | taggedMessageLanding | launchPop | dispatchTeam | launchComplete
      | poolBoundaryApply | teamPreemption | impreciseFaultArrival | handlerEntry | contextDue | cmdPreempt | cmdResume
      | teamUnplace | teamResume | hostHalt | watchdog | hostRequest | hostAtomic | hostCallReply | msimaskWrite
      | controlSpaceWrite | thermalTrip | norvanPortDown | norvanPortUp | taggedLaunchMessage | uncorrectableError
      | correctedError | frontEjection | waitTimeout | attestationSign | powerReq36Ghz | powerReq24Ghz | powerReq12Ghz
      | powerReqStop | powerTransition | powerStopped | eweovLinkDown | eweovLinkUp | coldReset | warmReset
      | sensorBackBelowLimit | attnRecompute | backfillTaskStart | continuationResume | fabricSend | fabricSendComplete
      | oldBlockFreePush => nomatch hi
  all_goals cases hh
  case grow w =>
    have hf := modOk_fspec w hm
    simp only [Bool.and_eq_true, decide_eq_true_eq] at hf
    exact decode_shared (b := 7) rfl ho rfl (.inr ⟨by omega, rfl⟩)
  case growTry w =>
    have hf := modOk_fspec w hm
    simp only [Bool.and_eq_true, decide_eq_true_eq] at hf
    exact decode_shared (b := 7) rfl ho rfl (.inl ⟨by omega, rfl⟩)
  case ld w | st w =>
    have hf := modOk_fspec w hm
    simp only [Bool.and_eq_true, decide_eq_true_eq, beq_iff_eq] at hf
    obtain ⟨⟨⟨hf, -⟩, -⟩, -⟩ := hf
    exact decode_shared (b := 0) rfl ho rfl (.inr ⟨by omega, rfl⟩)
  case ldSrec w | stSrec w | attnScore w =>
    have hf := beq_iff_eq.mp (modOk_fspec w hm)
    exact decode_shared (b := 0) rfl ho rfl (.inl ⟨by simp [hf], rfl⟩)
  case attn w =>
    have hf := beq_iff_eq.mp (modOk_fspec w hm)
    exact decode_shared (b := 0) rfl ho rfl (.inr ⟨by simp [hf], rfl⟩)
  case mtokAcq w =>
    have hf := beq_iff_eq.mp (modOk_fspec w hm)
    exact decode_shared (b := 6) rfl ho rfl (.inr ⟨by simp [hf], rfl⟩)
  case mtokAcqTry w =>
    have hf := beq_iff_eq.mp (modOk_fspec w hm)
    exact decode_shared (b := 6) rfl ho rfl (.inl ⟨by simp [hf], rfl⟩)
  case accMovTov w =>
    have hf := decide_eq_true_eq.mp (modOk_fspec w hm)
    exact decode_shared (b := 7) rfl ho rfl (.inr ⟨by omega, rfl⟩)
  case accMovToa w =>
    have hf := modOk_fspec w hm
    simp only [Bool.and_eq_true, decide_eq_true_eq] at hf
    exact decode_shared (b := 7) rfl ho rfl (.inl ⟨by omega, rfl⟩)
  case bra | brd | call | yieldOn | sAddImm | sSubImm | sMulImm | sMulhImm | sDivImm | sRemImm | sAndImm | sOrImm | sXorImm | sShlImm | sShrImm | sSarImm
       | sMinImm | sMaxImm | sCmpImm | sMovi | sLeaImm | vAddImm | vSubImm | vMulImm | vAndImm | vOrImm | vXorImm | vShlImm | vShrImm | vSarImm | vMinImm
       | vMaxImm | vCmpImm | fAddImm | fSubImm | fMulImm | fMinImm | fMaxImm | fCmpImm | movImm =>
    exact decode_encI rfl ho
  case pLogic | qLogic | pAny | pAll | pBallot | pPopc => exact decode_encP rfl ho
  all_goals exact decode_encR rfl ho

/-- Settles O57: the layouts are read back field by field, MAJOR, FUNC and where two rows share a function a bit of FSPEC select the constructor; and a word is its fields put together. -/
theorem decodeInvertsEncode : Obligations.DecodeInvertsEncode := by
  unfold Obligations.DecodeInvertsEncode
  exact ⟨fun _ hi hw => decode_encode hi hw, fun _ _ h => encode_of_decode h⟩

end Sys2Proof

namespace Sys2Proof.Machine

/-! ### What the integer functions compute (R238, R243, R249) -/

/-- An integer function of the model writes the pattern of a row's Result. -/
def IOp.Computes (f : IOp) (r : Rules.IntFun) : Prop := ∀ t sat a b c d, f.value t sat a b c d = Rules.pattern t sat (r t a b c d)

theorem IOp.computes_of_exact {f : IOp} {r : Rules.IntFun} (h : ∀ t a b c d, f.exact t a b c d = r t a b c d) : f.Computes r := by
  intro t sat a b c d
  rw [IOp.value, h, Rules.pattern]

theorem bits_le_64 (t : Ty) : t.bits ≤ 64 := by cases t <;> decide

theorem un_lt (t : Ty) (x : W64) : un t x < 2 ^ t.bits := Nat.mod_lt _ (Nat.two_pow_pos _)

/-- A pattern read as signed lies between minus 2^n and 2^n. -/
theorem sgn_bounds (n x : Nat) : -(2 ^ n : Nat) ≤ sgn n x ∧ sgn n x < (2 ^ n : Nat) := by
  have hlt : x % 2 ^ n < 2 ^ n := Nat.mod_lt _ (Nat.two_pow_pos n)
  unfold sgn
  split
  · omega
  · push_cast
    have : ((2 : Int) ^ n) = ((2 ^ n : Nat) : Int) := by push_cast; rfl
    omega

/-- A shift count is cut at 128, which no type's width reaches. -/
theorem shCount_cases (t : Ty) (b : W64) : shCount t b = un t b ∨ (128 ≤ un t b ∧ shCount t b = 128) := by
  rcases Nat.le_total (un t b) 128 with h | h
  · exact .inl (Nat.min_eq_left h)
  · exact .inr ⟨h, Nat.min_eq_right h⟩

theorem two_pow_128_le {k : Nat} (h : 128 ≤ k) : (2 : Nat) ^ 128 ≤ 2 ^ k := Nat.pow_le_pow_right (by decide) h

theorem two_pow_bits_le (t : Ty) : (2 : Nat) ^ t.bits ≤ 2 ^ 64 := Nat.pow_le_pow_right (by decide) (bits_le_64 t)

/-- The cut of the count shows in no logical right shift. -/
theorem shiftRight_eq (t : Ty) (a b : W64) : un t a / 2 ^ shCount t b = un t a / 2 ^ un t b := by
  rcases shCount_cases t b with h | ⟨hb, h⟩
  · rw [h]
  · have ha : un t a < 2 ^ 128 := by
      have := un_lt t a
      have := two_pow_bits_le t
      omega
    rw [h, Nat.div_eq_of_lt ha, Nat.div_eq_of_lt (Nat.lt_of_lt_of_le ha (two_pow_128_le hb))]

/-- A number of less than the divisor's size divides to 0 or, when negative, to -1. -/
theorem ediv_of_small {y m : Int} (hlo : -m ≤ y) (hhi : y < m) : y / m = if y < 0 then -1 else 0 := by
  split
  · next h =>
    have hm : 0 < m := by omega
    exact ((Int.ediv_emod_unique hm (r := y + m) (q := -1)).mpr ⟨by omega, by omega, by omega⟩).1
  · next h => exact Int.ediv_eq_zero_of_lt (by omega) hhi

/-- Nor in an arithmetic one. -/
theorem shiftArith_eq (t : Ty) (a b : W64) : sgn t.bits a.toNat / (2 ^ shCount t b : Nat) = sgn t.bits a.toNat / (2 ^ un t b : Nat) := by
  rcases shCount_cases t b with h | ⟨hb, h⟩
  · rw [h]
  · obtain ⟨hlo, hhi⟩ := sgn_bounds t.bits a.toNat
    have hbits := two_pow_bits_le t
    have hk := two_pow_128_le hb
    rw [h, ediv_of_small (by omega) (by omega), ediv_of_small (by omega) (by omega)]

theorem minI_bounds (t : Ty) : -2 ^ 64 ≤ t.minI ∧ t.minI ≤ 0 := by cases t <;> decide

theorem maxI_bounds (t : Ty) : 0 ≤ t.maxI ∧ t.maxI ≤ 2 ^ 64 := by cases t <;> decide

/-- A pattern's integer is 0 or at least 1 in size; its product with 2^k for a k past every width wraps to 0, and saturates by its sign. -/
theorem pattern_shiftLeft (t : Ty) (sat : Bool) (x : Int) {k : Nat} (h : 128 ≤ k) :
    Rules.pattern t sat (x * (2 ^ k : Nat)) = if sat then t.wrap (if x < 0 then t.minI else if 0 < x then t.maxI else 0) else 0 := by
  have hk := two_pow_128_le h
  have hbits := two_pow_bits_le t
  unfold Rules.pattern
  split
  · unfold Ty.satI
    congr 1
    obtain ⟨hmin, hmin0⟩ := minI_bounds t
    obtain ⟨hmax0, hmax⟩ := maxI_bounds t
    generalize 2 ^ k = m at *
    unfold clampI
    rcases Int.lt_trichotomy x 0 with hneg | rfl | hpos
    · have : x * (m : Int) ≤ -1 * m := Int.mul_le_mul_of_nonneg_right (by omega) (by omega)
      rw [if_pos (by omega), if_pos hneg]
    · simp; omega
    · have : 1 * (m : Int) ≤ x * m := Int.mul_le_mul_of_nonneg_right (by omega) (by omega)
      rw [if_neg (by omega), if_pos (by omega), if_neg (by omega), if_pos hpos]
  · unfold Ty.wrap wrapN
    have hd : ((2 ^ t.bits : Nat) : Int) ∣ x * (2 ^ k : Nat) :=
      Int.dvd_mul_of_dvd_right (Int.natCast_dvd_natCast.mpr (Nat.pow_dvd_pow 2 (by have := bits_le_64 t; omega)))
    rw [Int.emod_eq_zero_of_dvd hd]
    rfl

/-- The cut of the count shows in no left shift, wrapped or saturated. -/
theorem shl_computes : IOp.shl.Computes Rules.shiftLeft := by
  intro t sat a b c d
  rcases shCount_cases t b with h | ⟨hb, h⟩
  · exact congrArg (fun k => Rules.pattern t sat (t.toInt a * (2 ^ k : Nat))) h
  · calc IOp.shl.value t sat a b c d = Rules.pattern t sat (t.toInt a * (2 ^ shCount t b : Nat)) := rfl
      _ = Rules.pattern t sat (t.toInt a * (2 ^ un t b : Nat)) := by rw [h, pattern_shiftLeft t sat _ (Nat.le_refl 128), pattern_shiftLeft t sat _ hb]

theorem shr_computes : IOp.shr.Computes Rules.shiftRight := IOp.computes_of_exact fun t a b _ _ => congrArg Int.ofNat (shiftRight_eq t a b)

theorem sar_computes : IOp.sar.Computes Rules.shiftArith := IOp.computes_of_exact fun t a b _ _ => shiftArith_eq t a b

theorem maxI_unsigned {t : Ty} (h : t.signed = false) : t.maxI = ((2 ^ t.bits : Nat) : Int) - 1 := by simp [Ty.maxI, h]

theorem div_computes : IOp.div.Computes Rules.quot := IOp.computes_of_exact fun t a b _ _ => by
  unfold IOp.exact Rules.quot
  dsimp only
  cases h : t.signed
  · simp [maxI_unsigned h]
  · simp

theorem rem_computes : IOp.rem.Computes Rules.remainder := IOp.computes_of_exact fun t a b _ _ => by
  unfold IOp.exact Rules.remainder
  dsimp only
  rw [Int.tmod_def]

theorem min_computes : IOp.min.Computes (fun t a b _ _ => min (t.toInt a) (t.toInt b)) := IOp.computes_of_exact fun t a b _ _ => by
  unfold IOp.exact
  dsimp only
  split <;> omega

theorem max_computes : IOp.max.Computes (fun t a b _ _ => max (t.toInt a) (t.toInt b)) := IOp.computes_of_exact fun t a b _ _ => by
  unfold IOp.exact
  dsimp only
  split <;> omega

theorem abs_computes : IOp.abs.Computes (fun t a _ _ _ => ((t.toInt a).natAbs : Int)) := IOp.computes_of_exact fun t a _ _ _ => by
  unfold IOp.exact
  dsimp only
  split <;> omega

/-- A function whose exact value is the row's expression itself. -/
theorem IOp.Computes.exact (f : IOp) : f.Computes (fun t a b c d => f.exact t a b c d) := IOp.computes_of_exact fun _ _ _ _ _ => rfl

/-! ### Major S (R237 to R243) -/

theorem uniInt_settles (f : IOp) (t : Ty) (sat : Bool) (c : CtxId) : Body.Settles (uniInt f t sat) c :=
  fun _ _ _ _ h => (writeU_stays ..).trans h

/-- A register-form row of R238. -/
theorem scalar_row {i : Word → Instr} {f : IOp} {sat : Bool} {r : Rules.IntFun} (hr : f.Computes r)
    (he : ∀ w s, exec (i w) s = issue (i w) s (uniInt f w.ty (sat && w.sat)) := by intros; rfl) (hh : ∀ w, (i w).head = some (headR w) := by intros; rfl)
    (hf : ∀ w, (i w).form.cap = false := by intros; rfl)
    (w : Word) (s : State) (cx : Cx) (h : Passes (i w) s cx) (hc : cx.clean (i w)) :
    exec (i w) s = .next (cx.ends (i w) (Rules.uniform w.ty (sat && w.sat) r
      (fun cx k => cx.srcU k w.a w.ty) (fun cx k => cx.srcU k w.b w.ty) (fun cx k => cx.srcU k w.c w.ty) (fun cx k => cx.srcU k w.dst w.ty)) (cx.begun (i w) s)) := by
  refine (he w s).trans (issue_uniform (i w) s _ _ cx (headR w) (hh w) h hc (hf w) (uniInt_settles f w.ty _ cx.c) fun cx' a s hcx => ?_)
  simp only [hr w.ty, Cx.srcUB, hcx, headR, Rules.uniform]

/-- An immediate-form row of R238. -/
theorem scalarImm_row {i : WordI → Instr} {f : IOp} {sat : Bool} {r : Rules.IntFun} (hr : f.Computes r)
    (he : ∀ w s, exec (i w) s = issue (i w) s (uniInt f w.ty (sat && w.sat)) := by intros; rfl) (hh : ∀ w, (i w).head = some (headI w) := by intros; rfl)
    (hf : ∀ w, (i w).form.cap = false := by intros; rfl)
    (w : WordI) (s : State) (cx : Cx) (h : Passes (i w) s cx) (hc : cx.clean (i w)) :
    exec (i w) s = .next (cx.ends (i w) (Rules.uniform w.ty (sat && w.sat) r
      (fun cx k => cx.srcU k w.a w.ty) (fun _ _ => immI w.ty w.imm) (fun _ _ => 0) (fun cx k => cx.srcU k w.dst w.ty)) (cx.begun (i w) s)) := by
  refine (he w s).trans (issue_uniform (i w) s _ _ cx (headI w) (hh w) h hc (hf w) (uniInt_settles f w.ty _ cx.c) fun cx' a s hcx => ?_)
  simp only [hr w.ty, Cx.srcUB, hcx, headI, Rules.uniform, Cx.srcU]

/-- R237, R238, R243: each row runs its function's body, which computes the row's Result. -/
theorem scalarFunctionsComplete : Rules.ScalarFunctionsComplete := by
  unfold Rules.ScalarFunctionsComplete Rules.scalarRows Rules.scalarImmRows
  simp only [List.forall_mem_cons]
  refine ⟨?reg, ?imm⟩
  case reg => exact ⟨
    scalar_row (.exact .add), scalar_row (.exact .sub), scalar_row (.exact .mul), scalar_row (.exact .mulh),
    scalar_row div_computes, scalar_row rem_computes, scalar_row (.exact .and), scalar_row (.exact .or), scalar_row (.exact .xor),
    scalar_row shl_computes, scalar_row shr_computes, scalar_row sar_computes, scalar_row min_computes, scalar_row max_computes,
    scalar_row (.exact .clz), scalar_row (.exact .popc), scalar_row (.exact .bfx),
    scalar_row (.exact .bfi), List.forall_mem_nil _⟩
  case imm => exact ⟨
    scalarImm_row (.exact .add), scalarImm_row (.exact .sub), scalarImm_row (.exact .mul), scalarImm_row (.exact .mulh),
    scalarImm_row div_computes, scalarImm_row rem_computes, scalarImm_row (.exact .and), scalarImm_row (.exact .or),
    scalarImm_row (.exact .xor), scalarImm_row shl_computes, scalarImm_row shr_computes, scalarImm_row sar_computes, scalarImm_row min_computes,
    scalarImm_row max_computes, List.forall_mem_nil _⟩

theorem uniCmp_settles (cc : Nat) (t : Ty) (q : Nat) (c : CtxId) : Body.Settles (uniCmp cc t q) c :=
  fun _ _ _ _ h => (writeQ_stays ..).trans ((writeU_stays ..).trans h)

theorem uniLea_settles (t : Ty) (k : Nat) (c : CtxId) : Body.Settles (uniLea t k) c :=
  fun _ _ _ _ h => (writeU_stays ..).trans h

/-- MOD bit 12 is the top bit of SCOPE. -/
theorem scope_bit (x : BitVec 3) : (x.toNat / 4 % 2 == 1) = x.getLsbD 2 := by revert x; decide

/-- The number of 64 bits congruent to an integer. -/
theorem ofNat_wrapN (x : Int) : BitVec.ofNat 64 (wrapN 64 x) = BitVec.ofInt 64 x := by
  apply BitVec.eq_of_toNat_eq
  simp [wrapN]
  omega

/-- R239 to R242: one effect each. -/
theorem scalarSelectCompareComplete : Rules.ScalarSelectCompareComplete := by
  refine ⟨fun w s cx h hc => ?sel, fun w s cx h hc => ?cmp, fun w s cx h hc => ?cmpImm, fun w s cx h hc => ?movi, fun w s cx h hc => ?lea, fun w s cx h hc => ?leaImm⟩
  case sel =>
    refine issue_uniform (.sSel w) s _ _ cx (headR w) rfl h hc rfl (fun _ _ _ _ hs => (writeU_stays ..).trans hs) fun cx' a s hcx => ?_
    simp only [scope_bit]
  case cmp =>
    refine issue_uniform (.sCmp w) s _ _ cx (headR w) rfl h hc rfl (uniCmp_settles _ _ _ _) fun cx' a s hcx => ?_
    simp only [Cx.srcUB, hcx, headR, boolW]
  case cmpImm =>
    refine issue_uniform (.sCmpImm w) s _ _ cx (headI w) rfl h hc rfl (uniCmp_settles _ _ _ _) fun cx' a s hcx => ?_
    simp only [Cx.srcUB, hcx, headI, boolW]
  case movi =>
    exact issue_uniform (.sMovi w) s _ _ cx (headI w) rfl h hc rfl (fun _ _ _ _ hs => (writeU_stays ..).trans hs) fun _ _ _ _ => rfl
  case lea =>
    refine issue_uniform (.sLea w) s _ _ cx (headR w) rfl h hc rfl (uniLea_settles _ _ _) fun cx' a s hcx => ?_
    simp only [Cx.srcUB, hcx, headR, ofNat_wrapN, leaOff]
  case leaImm =>
    refine issue_uniform (.sLeaImm w) s _ _ cx (headI w) rfl h hc rfl (uniLea_settles _ _ _) fun cx' a s hcx => ?_
    simp only [Cx.srcUB, hcx, headI, ofNat_wrapN, leaOff]

/-- Settles O1: every instruction of major S has a body with no checks of its own, which ends with its effect in each arm. -/
theorem scalarInstructionsComplete : Obligations.ScalarInstructionsComplete := ⟨scalarFunctionsComplete, scalarSelectCompareComplete⟩

/-! ### Majors V and F (R244 to R255) -/

theorem laneWise_settles (t : Ty) (f : Cx → Nat → W64) (c : CtxId) : Body.Settles (laneWise t f) c :=
  fun _ _ _ _ h => (writeV_stays ..).trans h

/-- A register-form row of R247: its instruction runs a function that computes the row's Result in each lane. -/
def RunsVector (r : (Word → Instr) × Bool × Rules.IntFun) : Prop :=
  ∃ f : IOp, f.Computes r.2.2 ∧ ∀ w, (r.1 w).head = some (headR w) ∧ ∀ s, exec (r.1 w) s = issue (r.1 w) s (vecInt f w.ty (r.2.1 && w.sat))

/-- An immediate-form row of R248, in the same way. -/
def RunsVectorImm (r : (WordI → Instr) × Bool × Rules.IntFun) : Prop :=
  ∃ f : IOp, f.Computes r.2.2 ∧ ∀ w, (r.1 w).head = some (headI w) ∧ ∀ s, exec (r.1 w) s = issue (r.1 w) s (vecInt f w.ty (r.2.1 && w.sat))

theorem vector_row {i : Word → Instr} {f : IOp} {sat : Bool} {r : Rules.IntFun} (hr : f.Computes r) (hh : ∀ w, (i w).head = some (headR w) := by intros; rfl)
    (he : ∀ w s, exec (i w) s = issue (i w) s (vecInt f w.ty (sat && w.sat)) := by intros; rfl) : RunsVector (i, sat, r) :=
  ⟨f, hr, fun w => ⟨hh w, he w⟩⟩

theorem vectorImm_row {i : WordI → Instr} {f : IOp} {sat : Bool} {r : Rules.IntFun} (hr : f.Computes r) (hh : ∀ w, (i w).head = some (headI w) := by intros; rfl)
    (he : ∀ w s, exec (i w) s = issue (i w) s (vecInt f w.ty (sat && w.sat)) := by intros; rfl) : RunsVectorImm (i, sat, r) :=
  ⟨f, hr, fun w => ⟨hh w, he w⟩⟩

theorem vectorRows_run : ∀ r ∈ Rules.vectorRows, RunsVector r := by
  simp only [Rules.vectorRows, List.forall_mem_cons]
  exact ⟨
    vector_row (.exact .add), vector_row (.exact .sub), vector_row (.exact .mul), vector_row (.exact .mulh), vector_row div_computes,
    vector_row rem_computes, vector_row (.exact .and), vector_row (.exact .or), vector_row (.exact .xor), vector_row shl_computes, vector_row shr_computes,
    vector_row sar_computes, vector_row min_computes, vector_row max_computes, vector_row (.exact .bfx), vector_row (.exact .bfi), vector_row (.exact .popc),
    vector_row (.exact .clz), vector_row (.exact .mad), vector_row abs_computes, List.forall_mem_nil _⟩

theorem vectorImmRows_run : ∀ r ∈ Rules.vectorImmRows, RunsVectorImm r := by
  simp only [Rules.vectorImmRows, List.forall_mem_cons]
  exact ⟨
    vectorImm_row (.exact .add), vectorImm_row (.exact .sub), vectorImm_row (.exact .mul), vectorImm_row (.exact .and), vectorImm_row (.exact .or),
    vectorImm_row (.exact .xor), vectorImm_row shl_computes, vectorImm_row shr_computes, vectorImm_row sar_computes, vectorImm_row min_computes,
    vectorImm_row max_computes, List.forall_mem_nil _⟩

/-- R246 to R249: each row runs its function's body in the lanes of Active(). -/
theorem vectorFunctionsComplete : Rules.VectorFunctionsComplete := by
  refine ⟨fun r hr w s cx h hc => ?reg, fun r hr w s cx h hc => ?imm⟩
  case reg =>
    obtain ⟨f, hf, hw⟩ := vectorRows_run r hr
    refine ((hw w).2 s).trans (issue_vector (r.1 w) s _ _ cx (headR w) (hw w).1 h hc (laneWise_settles _ _ _) fun cx' a s hcx => ?_)
    simp only [hf w.ty, Cx.srcB, hcx, headR, Rules.lanes]
  case imm =>
    obtain ⟨f, hf, hw⟩ := vectorImmRows_run r hr
    refine ((hw w).2 s).trans (issue_vector (r.1 w) s _ _ cx (headI w) (hw w).1 h hc (laneWise_settles _ _ _) fun cx' a s hcx => ?_)
    simp only [hf w.ty, Cx.srcB, hcx, headI, Rules.lanes, Cx.src]

theorem laneCmp_settles (p : Nat) (f : Cx → Nat → Bool) (c : CtxId) : Body.Settles (laneCmp p f) c :=
  fun _ _ _ _ h => (writeP_stays ..).trans ((writeV_stays ..).trans h)

/-- A compare completes with the truth values of its lanes, in its destination and its predicate. -/
theorem issue_laneCmp (i : Instr) (s : State) (p : Nat) (f g : Cx → Nat → Bool) (cx : Cx) (hd : Head) (hi : i.head = some hd) (h : Passes i s cx) (hc : cx.clean i)
    (hg : ∀ cx' L, cx'.h = hd → f cx' L = g cx' L) :
    issue i s (laneCmp p f) = .next (cx.completes i (fun cx _ s =>
      cx.writeP p (cx.act.map (fun L => (L, g cx L))) (cx.writeV .u32 (cx.act.map (fun L => (L, if g cx L then 1 else 0))) s)) (cx.begun i s)) := by
  refine issue_vector i s _ _ cx hd hi h hc (laneCmp_settles p f cx.c) fun cx' a s hcx => ?_
  simp only [hg cx' _ hcx, List.map_map]
  rfl

/-- R249: one effect each. -/
theorem vectorCarryCompareSelectComplete : Rules.VectorCarryCompareSelectComplete := by
  refine ⟨fun w s cx h hc => ?addc, fun w s cx h hc => ?cmp, fun w s cx h hc => ?cmpImm, fun w s cx h hc => ?sel⟩
  case addc =>
    refine issue_vector (.vAddc w) s _ _ cx (headR w) rfl h hc (fun _ _ _ _ hs => (writeP_stays ..).trans ((writeV_stays ..).trans hs)) fun cx' a s hcx => ?_
    simp only [addCarry, List.map_map, b2n]
    rfl
  case cmp =>
    exact issue_laneCmp (.vCmp w) s _ _ _ cx (headR w) rfl h hc fun cx' L hcx => by simp only [Cx.srcB, hcx, headR]
  case cmpImm =>
    exact issue_laneCmp (.vCmpImm w) s _ _ _ cx (headI w) rfl h hc fun cx' L hcx => by simp only [Cx.srcB, hcx, headI]
  case sel =>
    refine issue_vector (.vSel w) s _ _ cx (headR w) rfl h hc (laneWise_settles _ _ _) fun cx' a s hcx => ?_
    simp only [scope_bit, Rules.lanes]

/-- Settles O2: every instruction of major V has a body with no checks of its own, which writes the lanes of Active(). -/
theorem vectorInstructionsComplete : Obligations.VectorInstructionsComplete := ⟨vectorFunctionsComplete, vectorCarryCompareSelectComplete⟩

/-- A row of R250, R252 and R253: its instruction runs a function whose value is the row's. -/
def RunsFloat (r : (Word → Instr) × (Ty → Nat → W64 → W64 → W64 → W64)) : Prop :=
  ∃ f : FOp, f.value = r.2 ∧ ∀ w, (r.1 w).head = some (headR w) ∧ ∀ s, exec (r.1 w) s = issue (r.1 w) s (vecFloat f w.ty w.round.toNat)

/-- An I-form of R250, in the same way. -/
def RunsFloatImm (r : (WordI → Instr) × (Ty → Nat → W64 → W64 → W64 → W64)) : Prop :=
  ∃ f : FOp, f.value = r.2 ∧ ∀ w, (r.1 w).head = some (headI w) ∧ ∀ s, exec (r.1 w) s = issue (r.1 w) s (vecFloat f w.ty w.round.toNat)

theorem float_row {i : Word → Instr} {v : Ty → Nat → W64 → W64 → W64 → W64} (f : FOp) (hv : f.value = v := by rfl) (hh : ∀ w, (i w).head = some (headR w) := by intros; rfl)
    (he : ∀ w s, exec (i w) s = issue (i w) s (vecFloat f w.ty w.round.toNat) := by intros; rfl) : RunsFloat (i, v) :=
  ⟨f, hv, fun w => ⟨hh w, he w⟩⟩

theorem floatImm_row {i : WordI → Instr} {v : Ty → Nat → W64 → W64 → W64 → W64} (f : FOp) (hv : f.value = v := by rfl) (hh : ∀ w, (i w).head = some (headI w) := by intros; rfl)
    (he : ∀ w s, exec (i w) s = issue (i w) s (vecFloat f w.ty w.round.toNat) := by intros; rfl) : RunsFloatImm (i, v) :=
  ⟨f, hv, fun w => ⟨hh w, he w⟩⟩

theorem floatRows_run : ∀ r ∈ Rules.floatRows, RunsFloat r := by
  simp only [Rules.floatRows, List.forall_mem_cons]
  exact ⟨
    float_row .add, float_row .sub, float_row .mul, float_row .fma, float_row .min, float_row .max, float_row .div, float_row .sqrt, float_row .rcp,
    float_row .rsq, float_row .exp2, float_row .log2, float_row .sin, float_row .cos, float_row .tanh, float_row .round, List.forall_mem_nil _⟩

theorem floatImmRows_run : ∀ r ∈ Rules.floatImmRows, RunsFloatImm r := by
  simp only [Rules.floatImmRows, List.forall_mem_cons]
  exact ⟨floatImm_row .add, floatImm_row .sub, floatImm_row .mul, floatImm_row .min, floatImm_row .max, List.forall_mem_nil _⟩

/-- R246, R250, R252, R253: each row runs its function's body in the lanes of Active(). -/
theorem floatFunctionsComplete : Rules.FloatFunctionsComplete := by
  refine ⟨fun r hr w s cx h hc => ?reg, fun r hr w s cx h hc => ?imm⟩
  case reg =>
    obtain ⟨f, hf, hw⟩ := floatRows_run r hr
    refine ((hw w).2 s).trans (issue_vector (r.1 w) s _ _ cx (headR w) (hw w).1 h hc (laneWise_settles _ _ _) fun cx' a s hcx => ?_)
    simp only [← hf, Cx.srcB, hcx, headR, Rules.lanes]
  case imm =>
    obtain ⟨f, hf, hw⟩ := floatImmRows_run r hr
    refine ((hw w).2 s).trans (issue_vector (r.1 w) s _ _ cx (headI w) (hw w).1 h hc (laneWise_settles _ _ _) fun cx' a s hcx => ?_)
    simp only [← hf, Cx.srcB, hcx, headI, Rules.lanes, Cx.src]

/-- R254, R255: one effect each. -/
theorem floatCompareClassComplete : Rules.FloatCompareClassComplete := by
  refine ⟨fun w s cx h hc => ?cmp, fun w s cx h hc => ?cmpImm, fun w s cx h hc => ?cls⟩
  case cmp =>
    exact issue_laneCmp (.fCmp w) s _ _ _ cx (headR w) rfl h hc fun cx' L hcx => by simp only [Cx.srcB, hcx, headR]
  case cmpImm =>
    exact issue_laneCmp (.fCmpImm w) s _ _ _ cx (headI w) rfl h hc fun cx' L hcx => by simp only [Cx.srcB, hcx, headI]
  case cls =>
    exact issue_vector (.fClass w) s _ _ cx (headR w) rfl h hc (laneWise_settles .u32 (fun cx L => classF w.ty (cx.src w.a w.ty L)) _) fun _ _ _ _ => rfl

/-- Settles O4: every instruction of major F has a body with no checks of its own, which writes the lanes of Active(). -/
theorem floatInstructionsComplete : Obligations.FloatInstructionsComplete := ⟨floatFunctionsComplete, floatCompareClassComplete⟩

end Sys2Proof.Machine

namespace Sys2Proof.Machine

/-! ### Slots with checks of their own (R426, R456) -/

/-- A slot with checks, a hold and words of its own completes when they find nothing; it makes no release and writes no line back. -/
theorem issue_checked {i : Instr} {s : State} {cx : Cx} (b : Body) (h : Passes i s cx) (hown : b.own = false) (honce : b.once = false)
    (hhold : b.hold cx s = false) (hp : cx.poison (b.words i (isVector i.form cx.h) cx) = none)
    (h1 : ∀ a ∈ cx.arms (isVector i.form cx.h), b.check cx a s = none) (h2 : ∀ a ∈ cx.arms (isVector i.form cx.h), b.check2 cx a s = none)
    (hrel : b.rel cx = none) (hf : ∀ s, b.flush cx s = []) (hs : b.Settles cx.c) :
    issue i s b = .next (cx.completes i b.run (cx.begun i s (b.words i (isVector i.form cx.h) cx))) := by
  obtain ⟨-, hgo, hfirst⟩ := id h
  have ha : b.arms cx (isVector i.form cx.h) = cx.arms (isVector i.form cx.h) := by simp [Body.arms, honce]
  have hb := b.first_eq_none (i := i) (s := s) hp (ha.symm ▸ h1) (ha.symm ▸ h2)
  have hr : cx.released (b.rel cx) s := hrel ▸ released_none cx s
  have e := issue_completes i s b cx hgo hfirst hown hhold hb hr hf honce hs
  rwa [hrel] at e

/-- The poisoned words kept as events depend only on which poisoned words are used. -/
theorem deferred_congr (cx : Cx) (i : Instr) (vec : Bool) {u v : List (Nat × Nat)} (s : State)
    (h : ∀ k, cx.g.badWord k = true → (k ∈ u.map (fun w => w.2) ↔ k ∈ v.map (fun w => w.2))) : cx.deferred i vec u s = cx.deferred i vec v s := by
  unfold Cx.deferred
  dsimp only
  congr 1
  split
  · rfl
  · refine List.filter_congr fun k _ => ?_
    cases hb : cx.g.badWord k
    · rfl
    · have hk : (u.map (fun w => w.2)).contains k = (v.map (fun w => w.2)).contains k :=
        Bool.eq_iff_iff.mpr (by simpa only [List.contains_iff_mem] using h k hb)
      rw [hk]

/-- A group without poisoned words has none. -/
theorem Cx.pure.badWord {cx : Cx} (h : cx.pure) (k : Nat) : cx.g.badWord k = false := by
  obtain ⟨hv, hs⟩ := h
  simp [Group.badWord, hv, hs]

theorem Cx.pure.poison {cx : Cx} (h : cx.pure) (ws : List (Nat × Nat)) : cx.poison ws = none := by
  simp [Cx.poison, h.badWord]

theorem Cx.pure.clean {cx : Cx} (h : cx.pure) (i : Instr) : cx.clean i := h.poison _

theorem Cx.pure.deferred {cx : Cx} (h : cx.pure) (i : Instr) (vec : Bool) (u v : List (Nat × Nat)) (s : State) : cx.deferred i vec u s = cx.deferred i vec v s :=
  deferred_congr cx i vec s fun k hk => absurd hk (by simp [h.badWord k])

/-- Without poisoned words it shows nowhere which words a slot uses. -/
theorem Cx.pure.starts {cx : Cx} (h : cx.pure) (i : Instr) (scope : Option Nat) (s : State) (ws : List (Nat × Nat)) : cx.starts i scope s ws = cx.starts i scope s := by
  simp only [Cx.starts, h.deferred i _ ws (cx.formWords i)]

theorem Cx.pure.begun {cx : Cx} (h : cx.pure) (i : Instr) (s : State) (ws : List (Nat × Nat)) : cx.begun i s ws = cx.begun i s := h.starts i none s ws

/-! ### The group that an effect finds -/

/-- A change of an arm that only its timing and its wait show, which may end. -/
structure Arm.Timing (f : Arm → Arm) : Prop where
  live : ∀ a, (f a).live = a.live
  mask : ∀ a, (f a).mask = a.mask
  depth : ∀ a, (f a).depth = a.depth
  halted : ∀ a, (f a).halted = a.halted
  wait : ∀ a, (f a).wait = a.wait ∨ (f a).wait = {}

/-- What an effect finds of its group: the group of the slot, but for the timing of its arm and SLOTS. -/
def Cx.Finds (cx : Cx) (g : Group) : Prop :=
  ∃ f k, Arm.Timing f ∧ g = { cx.g.updArm cx.c.arm f with skidSlots := k }

theorem updArm_updArm (g : Group) (a : Nat) (f f' : Arm → Arm) : (g.updArm a f).updArm a f' = g.updArm a (fun x => f' (f x)) := by
  unfold Group.updArm
  by_cases h0 : a = 0
  · simp only [h0, if_true]
  · by_cases h1 : a = 1
    · simp only [h1, if_true]; rfl
    · by_cases h2 : a = 2
      · simp only [h2]; rfl
      · simp only [h0, h1, h2, if_false]

theorem updArm_id (g : Group) (a : Nat) : g.updArm a (fun x => x) = g := by
  unfold Group.updArm
  split
  · rfl
  · split
    · rfl
    · split <;> rfl

theorem endYield_timing (g : Group) (k clock : Nat) :
    ∃ f, Arm.Timing f ∧ (g.endYield k).updArm k (fun a => { a with since := clock, due := false }) = g.updArm k f := by
  refine ⟨_, ?_, updArm_updArm g k _ _⟩
  constructor <;> intro a <;> dsimp only
  case wait => split <;> simp
  all_goals split <;> rfl

/-- The group of a slot that begins is the slot's, but for its timing. -/
theorem finds_starts (cx : Cx) (i : Instr) (scope : Option Nat) (s : State) (ws : List (Nat × Nat)) : cx.Finds (cx.refresh (cx.starts i scope s ws)).g := by
  unfold Cx.refresh
  dsimp only
  cases hx : (cx.starts i scope s ws).group cx.c.team cx.c.grp with
  | none => exact ⟨fun a => a, cx.g.skidSlots, ⟨fun _ => rfl, fun _ => rfl, fun _ => rfl, fun _ => rfl, fun _ => .inl rfl⟩, by rw [updArm_id]; rfl⟩
  | some x =>
    unfold Cx.starts Cx.issued at hx
    extract_lets s1 s2 skid at hx
    have hs2 : s2.groups = (cx.opened s).groups := by
      simp only [s2, s1, apply_ite State.groups, yieldPorts_groups, updPort_groups, ite_self, deferred_groups, release_groups]
    rw [group_updGroup, group_congr hs2, Option.map_eq_some_iff] at hx
    case hf => exact fun g => ⟨updArm_team g cx.c.arm _, updArm_idx g cx.c.arm _⟩
    obtain ⟨y, hy, rfl⟩ := hx
    obtain rfl := find_updWhere_const _ _ _ _ hy
    obtain ⟨f, hf, he⟩ := endYield_timing cx.g cx.c.arm s2.clock
    exact ⟨f, _, hf, by rw [Option.getD_some, he]⟩

/-! ### Meanings that move the PC themselves, and captures (R45, R188) -/

@[simp] theorem vget_updArm (g : Group) (a : Nat) (f : Arm → Arm) (r L : Nat) : (g.updArm a f).vget r L = g.vget r L := by
  have h := updArm_regs g a f
  simp only [Group.regs, Prod.mk.injEq] at h
  simp only [Group.vget, h.1]

/-- A context that goes on is in no wait. -/
theorem advance_stays (cx : Cx) (s : State) : (cx.advance s).stays cx.c = false := by
  simp only [State.stays, Cx.advance, State.jump, armOf_updArm]
  cases s.armOf cx.c <;> rfl

theorem group_advance (cx : Cx) (s : State) : (cx.advance s).group cx.c.team cx.c.grp =
    (s.group cx.c.team cx.c.grp).map (fun g => g.updArm cx.c.arm (fun a =>
      { a with pc := (pcAfter cx.bundle cx.slot cx.valid).1, slot := (pcAfter cx.bundle cx.slot cx.valid).2, wait := {}, left := none })) :=
  group_updGroup s _ _ _ (fun g => ⟨updArm_team g _ _, updArm_idx g _ _⟩)

/-- A capture reads registers and writes a port: it commutes with the PC going on. -/
theorem capture_advance (cx : Cx) (d s : State) : cx.capture (cx.advance d) (cx.advance s) = cx.advance (cx.capture d s) := by
  unfold Cx.capture
  rw [group_advance]
  cases cx.h.cap with
  | none => rfl
  | some k =>
    cases d.group cx.c.team cx.c.grp with
    | none => rfl
    | some g =>
      simp only [Option.map_some, vget_updArm]
      rfl

/-- A vector slot executes once, for its own arm. -/
theorem arms_of_vector (cx : Cx) {vec : Bool} (h : vec = true) : cx.arms vec = [armSel cx.c] := by
  subst h
  rfl

/-- A vector slot whose meaning moves the PC itself, after the effect `f`, completes with it (R44, R45, R188). -/
theorem issue_moves {i : Instr} {s : State} {cx : Cx} (b : Body) (f : Cx → Nat → State → State) (h : Passes i s cx) (hv : isVector i.form cx.h = true)
    (hown : b.own = true) (honce : b.once = false) (hhold : b.hold cx s = false) (hp : cx.poison (b.words i (isVector i.form cx.h) cx) = none)
    (h1 : ∀ a ∈ cx.arms (isVector i.form cx.h), b.check cx a s = none) (h2 : ∀ a ∈ cx.arms (isVector i.form cx.h), b.check2 cx a s = none)
    (hrel : b.rel cx = none) (hf : ∀ s, b.flush cx s = [])
    (hrun : ∀ cx', cx' = cx ∨ cx' = { cx with wb := true } →
      let s0 := cx.begun i s (b.words i (isVector i.form cx.h) cx)
      b.run (cx'.refresh s0) (armSel cx.c) s0 = cx.advance (f (cx'.refresh s0) (armSel cx.c) s0)) :
    issue i s b = .next (cx.completes i f (cx.begun i s (b.words i (isVector i.form cx.h) cx))) := by
  obtain ⟨-, hgo, hfirst⟩ := id h
  have ha : b.arms cx (isVector i.form cx.h) = cx.arms (isVector i.form cx.h) := by simp [Body.arms, honce]
  have ha' : ∀ cx', cx' = cx ∨ cx' = { cx with wb := true } → b.arms cx' (isVector i.form cx.h) = [armSel cx.c] := by
    rintro cx' (rfl | rfl) <;> simp [Body.arms, honce, hv, Cx.arms]
  have hb := b.first_eq_none (i := i) (s := s) hp (ha.symm ▸ h1) (ha.symm ▸ h2)
  have hr : cx.released (b.rel cx) s := hrel ▸ released_none cx s
  rw [issue_effect i s b cx hgo hhold hb, Body.effect_now b i _ cx _ hfirst hr hf, hrel]
  have hk := (Cx.first_wait hfirst).2.2
  have hgo' : ∀ cx', cx' = cx ∨ cx' = { cx with wb := true } → ∀ all k,
      b.runArms cx' all k [armSel cx.c] (cx.begun i s (b.words i (isVector i.form cx.h) cx)) =
        cx.advance (cx'.leaves i f (cx.begun i s (b.words i (isVector i.form cx.h) cx))) := by
    intro cx' hcx all k
    have e : cx'.arms (isVector i.form cx'.h) = [armSel cx.c] := by
      rcases hcx with rfl | rfl <;> exact arms_of_vector _ hv
    simp only [Body.runArms, hown, Bool.not_true, Bool.false_and, Bool.false_eq_true, if_false, Cx.leaves, Cx.each, e]
    exact hrun cx' hcx
  unfold Body.perform
  have hs0 : cx.issued (isVector i.form cx.h) (cx.deferred i (isVector i.form cx.h) (b.words i (isVector i.form cx.h) cx) (cx.release none (cx.opened s)).1)
      = cx.begun i s (b.words i (isVector i.form cx.h) cx) := rfl
  simp only [hk, List.drop_zero, hs0, ha' cx (.inl rfl), ha' _ (.inr rfl), hgo' cx (.inl rfl), hgo' _ (.inr rfl), advance_stays, hown, Bool.true_or, if_true, Bool.not_false, Bool.and_true]
  unfold Cx.completes
  cases cx.h.cap.isSome
  · rfl
  · cases cx.wb
    · exact congrArg _ (capture_advance ..)
    · exact congrArg _ (capture_advance ..)

end Sys2Proof.Machine

namespace Sys2Proof.Machine

/-! ### The manual's words, and cold reset -/

/-- Settles O58: each word is decoded by evaluation. -/
theorem manualWordsDecode : Obligations.ManualWordsDecode := by
  unfold Obligations.ManualWordsDecode
  refine ⟨?_, ?_, ?_, ?_, ?_, ?_, ?_, ?_, ?_, ?_, ?_, ?_, ?_, ?_⟩ <;> decide +kernel

/-- Settles O59: the fields of the reset state are written in its definition. -/
theorem resetState : Obligations.ResetState := by
  unfold Obligations.ResetState
  exact ⟨rfl, reset_wf, rfl, rfl, rfl, rfl, rfl, rfl, rfl, rfl, rfl, fun n => ⟨rfl, rfl, rfl⟩⟩

/-- A slot whose bundle and instruction meet no condition is run, its registers read back first (R62, R179, R180). -/
theorem slotTurn_run {s s2 : State} {c : CtxId} {b : Bool} {g : Group} {e : TlbEntry} {x k : Nat} {i : Instr} (hctrl : ctrlBad x = false)
    (hk : (List.range 4).find? (fun j => decide ((g.arm c.arm).slot ≤ j) && (BitVec.ofNat 4 x).getLsbD j) = some k)
    (hdrain : drainOf x k = true → ∀ m ∈ s.marksOf c.team c.grp, m = {}) (hdec : decode (slotWord x k) = some i)
    (hrank : rank3 i g.width k (BitVec.ofNat 4 x) = true)
    (huse : s.firstUse g i ⟨c, (g.arm c.arm).pc, k, BitVec.ofNat 4 x, e.priv, s.portFor g c b⟩ = .ok s2) :
    s.slotTurn c b g e x = .run i { s2.updArm c (fun a => { a with slot := k }) with
      cur := some ⟨c, (g.arm c.arm).pc, k, BitVec.ofNat 4 x, e.priv, s.portFor g c b⟩ } := by
  have hd : (drainOf x k && (s.marksOf c.team c.grp).any (fun m => m != {})) = false := by
    cases h : drainOf x k
    · rfl
    · simpa using hdrain h
  unfold State.slotTurn
  simp only [hctrl, hk, hd, hdec, hrank, huse, Bool.false_eq_true, if_false, if_true]

/-- A bundle that a ready context reaches at an address without poison is the one its slot is taken from (R183, R363). -/
theorem turn_eq_slotTurn {s : State} {c : CtxId} {b : Bool} {g : Group} {tm : Team} {e : TlbEntry} (hctx : s.context c = some g) (htm : s.team c.team = some tm)
    (hstop : s.stopped = false) (hmay : s.mayRun c.team tm (g.arm c.arm).wait = true) (hwait : s.waiting g (g.arm c.arm).wait = false)
    (hreach : s.reach g.core (s.tenantOf c.team) (g.arm c.arm).pc { x := true, priv := true } = .ok e)
    (hclean : ((s.fillCore g.core e).note (e.at (g.arm c.arm).pc)).poisonAt (e.at (g.arm c.arm).pc) = false) :
    s.turn c b = ((s.fillCore g.core e).note (e.at (g.arm c.arm).pc)).slotTurn c b g e
      (((s.fillCore g.core e).note (e.at (g.arm c.arm).pc)).peek (e.at (g.arm c.arm).pc) 64) := by
  unfold State.turn
  simp only [hctx, htm, hstop, hmay, hwait, Bool.not_true, Bool.or_self, Bool.false_eq_true, if_false]
  unfold State.fetchTurn
  simp only [hreach, hclean, Bool.false_eq_true, if_false]

/-- A port that issues a slot from a context runs it (R364, R365). -/
theorem runTurn_portTurn {s u : State} {c : CtxId} {b : Bool} {i : Instr} (h : s.turn c b = .run i u)
    (hgrant : ∀ x, (Turn.run i u).asks = some x → s.grants s.contexts x.1 x.2.1 x.2.2 = true) : runTurn (s.portTurn c b) = settled (exec i u) := by
  unfold State.portTurn
  rw [h]
  dsimp only
  split
  next d core p hx =>
    rw [if_pos (hgrant _ hx)]
    rfl
  next => rfl

/-- Settles O56: the step's choice is the context's turn, whose slot is found, decoded and granted. -/
theorem stepsRunDecoded : Obligations.StepsRunDecoded := by
  unfold Obligations.StepsRunDecoded
  intro s c b l g tm e k i s2 hscript s0 a hctx htm hstop hmay hwait hreach s1 hclean x hctrl hk hdrain hdec hrank cur huse u hgrant
  have hturn : s0.turn c b = .run i u := (turn_eq_slotTurn hctx htm hstop hmay hwait hreach hclean).trans (slotTurn_run hctrl hk hdrain hdec hrank huse)
  unfold step
  rw [hscript]
  exact runTurn_portTurn hturn hgrant

end Sys2Proof.Machine

namespace Sys2Proof.Machine

/-! ### What leaves every context in the wait, or none, that it was in -/

/-- A fold of changes that leave a context's wait leaves it. -/
theorem foldl_stays {α : Type} (f : State → α → State) (c : CtxId) (hf : ∀ s x, (f s x).stays c = s.stays c) (l : List α) (s : State) :
    (l.foldl f s).stays c = s.stays c := by
  induction l generalizing s with
  | nil => rfl
  | cons x t ih => exact (ih _).trans (hf s x)

/-- A property of an arm that a change keeps is kept of every arm. -/
theorem arm_updArm_keeps {β : Type} (p : Arm → β) (f : Arm → Arm) (hf : ∀ a, p (f a) = p a) (g : Group) (a b : Nat) : p ((g.updArm a f).arm b) = p (g.arm b) := by
  unfold Group.updArm Group.arm
  repeat' split
  all_goals simp only [hf]

/-- A change of an arm that keeps its wait's kind leaves every context's wait. -/
theorem stays_updArm (s : State) (d : CtxId) (f : Arm → Arm) (hf : ∀ a, (f a).wait.kind = a.wait.kind) (c : CtxId) : (s.updArm d f).stays c = s.stays c := by
  have hg : ∀ g : Group, (g.updArm d.arm f).team = g.team ∧ (g.updArm d.arm f).idx = g.idx := fun g => ⟨updArm_team g _ _, updArm_idx g _ _⟩
  unfold State.stays State.armOf State.updArm
  by_cases h : c.team = d.team ∧ c.grp = d.grp
  · rw [h.1, h.2, group_updGroup s _ _ _ hg]
    cases s.group d.team d.grp with
    | none => rfl
    | some g => simp only [Option.map_some, arm_updArm_keeps (fun a => a.wait.kind != .idle) f (fun a => by rw [hf]) g d.arm c.arm]
  · rw [group_updGroup_other s _ _ _ _ _ hg h]

@[simp] theorem wake_stays (s : State) (d : CtxId) (v : W32) (c : CtxId) : (s.wake d v).stays c = s.stays c :=
  stays_updArm s d (fun a => { a with wait := { a.wait with status := some v } }) (fun _ => rfl) c

@[simp] theorem note_groups (s : State) (pa : Nat) : (s.note pa).groups = s.groups := by
  unfold State.note
  split <;> rfl

@[simp] theorem note_stays (s : State) (pa : Nat) (c : CtxId) : (s.note pa).stays c = s.stays c := stays_congr (note_groups ..) c

@[simp] theorem evalTl_stays (s : State) (lo n : Nat) (c : CtxId) : (s.evalTl lo n).stays c = s.stays c := by
  unfold State.evalTl
  exact foldl_stays _ c (fun s w => wake_stays ..) _ _

@[simp] theorem pokeMask_stays (s : State) (pa n mask v : Nat) (c : CtxId) : (s.pokeMask pa n mask v).stays c = s.stays c := evalTl_stays _ pa n c

@[simp] theorem poke_stays (s : State) (pa n v : Nat) (c : CtxId) : (s.poke pa n v).stays c = s.stays c := (pokeMask_stays ..).trans (note_stays ..)

@[simp] theorem noFill_groups (s : State) (core : Nat) (p) : (s.noFill core p).groups = s.groups := rfl
@[simp] theorem invalidate_groups (s : State) (core : Nat) (p) : (s.invalidate core p).groups = s.groups := rfl
@[simp] theorem dropClean_groups (s : State) (core : Nat) (l : List Nat) : (s.dropClean core l).groups = s.groups := rfl
@[simp] theorem updTenant_groups' (s : State) (t : Nat) (f) : (s.updTenant t f).groups = s.groups := rfl
@[simp] theorem imprecise_groups (s : State) (tag : Tag) (a b d : Nat) (i : W64) (e : Nat) : (s.imprecise tag a b d i e).groups = s.groups := rfl

@[simp] theorem send_groups (s : State) (r : Req) : (s.send r).groups = s.groups := note_groups _ _

@[simp] theorem writeBack_groups (s : State) (core ln : Nat) (l : List (Nat × Nat)) : (s.writeBack core ln l).groups = s.groups := by
  unfold State.writeBack
  split
  · rfl
  · dsimp only
    split
    · rfl
    · exact send_groups ..

@[simp] theorem evict_groups (s : State) (core ln : Nat) : (s.evict core ln).groups = s.groups := writeBack_groups ..

@[simp] theorem alloc_groups (s : State) (core ln : Nat) (next : Bool) (tag : Tag) : (s.alloc core ln next tag).groups = s.groups := by
  unfold State.alloc
  dsimp only
  split
  · rfl
  · rw [updCore_groups]
    split
    · rfl
    · split
      · exact evict_groups ..
      · split
        · exact evict_groups ..
        · rfl

@[simp] theorem store_groups (s : State) (core : Nat) (tag : Tag) (pa n v hint : Nat) : (s.store core tag pa n v hint).groups = s.groups := by
  unfold State.store
  rw [updCore_groups, alloc_groups, note_groups]

@[simp] theorem fillAgent_groups (s : State) (u : Nat) (e : TlbEntry) : (s.fillAgent u e).groups = s.groups := by
  unfold State.fillAgent
  split <;> rfl

@[simp] theorem keepAgent_groups (s : State) (u t va : Nat) : (s.keepAgent u t va).groups = s.groups := by
  unfold State.keepAgent
  split
  · exact fillAgent_groups ..
  · rfl

@[simp] theorem mixedAll_groups (s : State) (tag : Tag) (line : Nat) (l : List (Nat × Nat)) : (s.mixedAll tag line l).groups = s.groups := by
  unfold State.mixedAll
  split
  · rfl
  · dsimp only
    split <;> rfl

@[simp] theorem mixed_groups (s : State) (tag : Tag) (line off n : Nat) : (s.mixed tag line off n).groups = s.groups := mixedAll_groups ..

@[simp] theorem perfLine_groups (s : State) (t line : Nat) : (s.perfLine t line).groups = s.groups := by
  unfold State.perfLine
  split <;> rfl

theorem blur_stays (s : State) (line : Nat) (m : BitVec 128) (mem : Bool) (c : CtxId) : (s.blur line m mem).1.stays c = s.stays c := by
  unfold State.blur
  split
  · rfl
  · dsimp only [State.freeLine]
    split
    · exact pokeMask_stays ..
    · rfl

end Sys2Proof.Machine

namespace Sys2Proof.Machine

/-! ### A slot that has nothing to write back (R99) -/

/-- A line that the core neither holds nor has sent leaves nothing to wait for. -/
theorem flushLines_absent {s : State} {core : Nat} {l : List Nat} (h : ∀ ln ∈ l, (s.core core).line ln = none ∧ s.lineIds core ln = []) :
    s.flushLines core l = (s, []) := by
  unfold State.flushLines
  have hs : l.foldl (fun s ln => s.writeBack core ln) s = s := by
    induction l with
    | nil => rfl
    | cons x t ih =>
      have hx : s.writeBack core x = s := by unfold State.writeBack; simp only [(h x (List.mem_cons_self ..)).1]
      rw [List.foldl_cons, hx, ih fun ln hln => h ln (List.mem_cons_of_mem _ hln)]
  dsimp only
  rw [hs, List.flatMap_eq_nil_iff.mpr fun ln hln => (h ln hln).2]

/-- A slot with checks and words of its own, without a release, whose lines to write back are all absent completes. -/
theorem issue_unflushed {i : Instr} {s : State} {cx : Cx} (b : Body) (h : Passes i s cx) (hown : b.own = false) (honce : b.once = false)
    (hhold : b.hold cx s = false) (hp : cx.poison (b.words i (isVector i.form cx.h) cx) = none)
    (h1 : ∀ a ∈ cx.arms (isVector i.form cx.h), b.check cx a s = none) (h2 : ∀ a ∈ cx.arms (isVector i.form cx.h), b.check2 cx a s = none)
    (hrel : b.rel cx = none)
    (hf : ∀ ln ∈ b.flush cx (cx.opened s), ((cx.opened s).core cx.core).line ln = none ∧ (cx.opened s).lineIds cx.core ln = []) (hs : b.Settles cx.c) :
    issue i s b = .next (cx.completes i b.run (cx.begun i s (b.words i (isVector i.form cx.h) cx))) := by
  obtain ⟨-, hgo, hfirst⟩ := id h
  have ha : b.arms cx (isVector i.form cx.h) = cx.arms (isVector i.form cx.h) := by simp [Body.arms, honce]
  have hb := b.first_eq_none (i := i) (s := s) hp (ha.symm ▸ h1) (ha.symm ▸ h2)
  have hbef : b.before cx (cx.opened s) = (cx.opened s, { kind := .acks, rel := true, ids := [] }) := by
    simp only [Body.before, hrel, flushLines_absent hf, List.append_nil]
  have heff : b.effect i (isVector i.form cx.h) cx (cx.opened s) = ({ b with flush := fun _ _ => [] } : Body).effect i (isVector i.form cx.h) cx (cx.opened s) := by
    have hbef' : ({ b with flush := fun _ _ => [] } : Body).before cx (cx.opened s) = (cx.opened s, { kind := .acks, rel := true, ids := [] }) := by
      simp only [Body.before, hrel, flushLines_absent (l := []) (s := cx.opened s) (core := cx.core) (by simp), List.append_nil]
    have hperf : ∀ t, b.perform i (isVector i.form cx.h) cx t = ({ b with flush := fun _ _ => [] } : Body).perform i (isVector i.form cx.h) cx t := by
      intro t
      have hgo : ∀ cx' all k l t, b.runArms cx' all k l t = ({ b with flush := fun _ _ => [] } : Body).runArms cx' all k l t := by
        intro cx' all k l
        induction l generalizing k with
        | nil => intro t; rfl
        | cons a l ih => intro t; simp only [Body.runArms, ih]
      unfold Body.perform
      simp only [hgo]
      rfl
    unfold Body.effect
    simp only [hbef, hbef', hperf]
  rw [issue_effect i s b cx hgo hhold hb, heff, ← issue_effect i s { b with flush := fun _ _ => [] } cx hgo hhold hb]
  exact issue_checked (i := i) (s := s) (cx := cx) { b with flush := fun _ _ => [] } h hown honce hhold hp h1 h2 hrel (fun _ => rfl) hs

/-- A slot with checks of its own, without a release, whose lines to write back are all absent completes. -/
theorem issue_absent {i : Instr} {s : State} {cx : Cx} (b : Body) (h : Passes i s cx) (hc : cx.clean i) (hown : b.own = false) (honce : b.once = false)
    (hhold : b.hold cx s = false) (hused : b.used = none)
    (h1 : ∀ a ∈ cx.arms (isVector i.form cx.h), b.check cx a s = none) (h2 : ∀ a ∈ cx.arms (isVector i.form cx.h), b.check2 cx a s = none)
    (hrel : b.rel cx = none)
    (hf : ∀ ln ∈ b.flush cx (cx.opened s), ((cx.opened s).core cx.core).line ln = none ∧ (cx.opened s).lineIds cx.core ln = []) (hs : b.Settles cx.c) :
    issue i s b = .next (cx.completes i b.run (cx.begun i s)) := by
  have hw : b.words i (isVector i.form cx.h) cx = cx.formWords i := by simp [Body.words, hused, Body.arms, honce, Cx.formWords]
  rw [issue_unflushed b h hown honce hhold (hw ▸ hc) h1 h2 hrel hf hs, hw]

/-! ### Conversions (R256 to R259) -/

/-- R258: a valid format slot leaves CVT.W no condition. -/
theorem cvtW_completes (w : Word) (s : State) (cx : Cx) (h : Passes (.cvtW w) s cx) (hc : cx.clean (.cvtW w)) (hf : fmtBad (s.fmtSlot cx w.slot) false = none) :
    exec (.cvtW w) s = .next (cx.completes (.cvtW w) (fun cx _ s => cx.writeV w.ty (cx.act.map (fun L =>
      (L, roundF w.ty 0 (decodeElem (s.fmtSlot cx w.slot).ecode (cx.src w.a .u32 L).toNat)))) s) (cx.begun (.cvtW w) s)) :=
  issue_checked _ h rfl rfl rfl hc (fun _ _ => by simp only [hf, ite_self]) (fun _ _ => rfl) rfl (fun _ => rfl) (fun _ _ _ _ hs => (writeV_stays ..).trans hs)

/-- The words that PACK uses besides its sources: the old destination, when a field of it stays (R259). -/
def packDstWords (w : Word) (cx : Cx) (sel : Nat) : List (Nat × Nat) := if w.ty.bits = 8 then cx.act.flatMap (fun L => cx.opWords w.dst 1 sel L) else []

/-- R259: PACK's words are its sources and what it keeps of its destination; none is poisoned. -/
theorem pack_completes (w : Word) (s : State) (cx : Cx) (h : Passes (.pack w) s cx) (hc : cx.clean (.pack w))
    (hd : w.ty.bits = 8 → ∀ L ∈ cx.act, ∀ x ∈ cx.opWords w.dst 1 (armSel cx.c) L, cx.g.badWord x.2 = false) :
    exec (.pack w) s = .next (cx.completes (.pack w) (Rules.lanes .u32 (fun cx L =>
      let t : Ty := if w.ty.isFloat then .f32 else if w.ty.signed then .i32 else .u32
      packWord w.ty w.round.toNat w.sat w.fspec.toNat (cx.src w.a t L) (cx.src w.b t L) (cx.src w.dst .u32 L))) (cx.begun (.pack w) s)) := by
  have hkept : ∀ x ∈ packDstWords w cx (armSel cx.c), cx.g.badWord x.2 = false := by
    intro x hx
    unfold packDstWords at hx
    split at hx
    · next h8 =>
      obtain ⟨L, hL, hx⟩ := List.mem_flatMap.mp hx
      exact hd h8 L hL x hx
    · cases hx
  have hform : cx.formWords (.pack w) = cx.srcWords (.pack w) true (armSel cx.c) := List.append_nil _
  have hclean : (cx.srcWords (.pack w) true (armSel cx.c)).find? (fun x => cx.g.badWord x.2) = none := by
    have hc' : cx.poison (cx.formWords (.pack w)) = none := hc
    rw [hform] at hc'
    exact Option.map_eq_none_iff.mp hc'
  have hwords : ([armSel cx.c].flatMap fun sel => cx.srcWords (.pack w) true sel ++ packDstWords w cx sel) = cx.srcWords (.pack w) true (armSel cx.c) ++ packDstWords w cx (armSel cx.c) :=
    List.append_nil _
  have hp : cx.poison ([armSel cx.c].flatMap fun sel => cx.srcWords (.pack w) true sel ++ packDstWords w cx sel) = none := by
    rw [hwords, Cx.poison, List.find?_append, hclean, Option.none_or, Option.map_eq_none_iff, List.find?_eq_none]
    intro x hx
    simp [hkept x hx]
  have hbegun : cx.begun (.pack w) s ([armSel cx.c].flatMap fun sel => cx.srcWords (.pack w) true sel ++ packDstWords w cx sel) = cx.begun (.pack w) s := by
    unfold Cx.begun Cx.starts
    refine congrArg (cx.issued _) (deferred_congr cx _ _ _ fun k hk => ?_)
    rw [hwords, hform, List.map_append, List.mem_append]
    refine ⟨fun hm => hm.resolve_right fun hm => ?_, .inl⟩
    obtain ⟨x, hx, rfl⟩ := List.mem_map.mp hm
    simp [hkept x hx] at hk
  refine (issue_checked (i := .pack w) _ h rfl rfl rfl ?_ (fun _ _ => rfl) (fun _ _ => rfl) rfl (fun _ => rfl) (fun _ _ _ _ hs => (writeV_stays ..).trans hs)).trans
    (congrArg (fun t => Host.Outcome.next (cx.completes (.pack w) _ t)) hbegun)
  exact hp

/-- R256, R258, R259: one effect each. -/
theorem conversionsComplete : Rules.ConversionsComplete := by
  refine ⟨fun w s cx h hc => ?cvt, cvtW_completes, pack_completes, fun w s cx h hc => ?unpack⟩
  case cvt =>
    exact issue_vector (.cvt w) s _ _ cx (headR w) rfl h hc (laneWise_settles _ _ _) fun _ _ _ _ => rfl
  case unpack =>
    exact issue_vector (.unpack w) s _ _ cx (headR w) rfl h hc (fun _ _ _ _ hs => (writeV_stays ..).trans hs) fun _ _ _ _ => rfl

/-! ### CVT.N (R257) -/

theorem appendOutlier_stays (s : State) (core : Nat) (tag : Tag) (f : Slot) (slot idx : Nat) (v : W32) (bad : Bool) (c : CtxId) :
    (s.appendOutlier core tag f slot false idx v bad).1.stays c = s.stays c := by
  unfold State.appendOutlier
  dsimp only
  split
  · rfl
  · next e he =>
    have h1 : ∀ t : State, t.groups = s.groups → t.stays c = s.stays c := fun t ht => stays_congr ht c
    split
    · exact h1 _ (by simp)
    · split
      · exact h1 _ (by simp)
      · split
        · exact h1 _ (by simp)
        · simp only [Bool.false_and, Bool.false_eq_true, if_false]
          rw [stays_congr (store_groups ..), blur_stays, poke_stays]
          exact h1 _ (by simp)

theorem appendAll_stays (s : State) (core : Nat) (tag : Tag) (f : Slot) (slot : Nat) (l : List (Nat × W32)) (c : CtxId) :
    (s.appendAll core tag f slot false l).stays c = s.stays c := by
  unfold State.appendAll
  have h : ∀ (l : List (Nat × W32)) (acc : State × List Nat), (l.foldl (fun (acc : State × List Nat) r =>
      match acc.1.appendOutlier core tag f slot false r.1 r.2 false with
      | (s, none) => (s, acc.2)
      | (s, some (b, d)) => if acc.2.contains b.cause then (s, acc.2) else (s.imprecise tag b.cause b.lane b.detail b.info d, b.cause :: acc.2)) acc).1.stays c = acc.1.stays c := by
    intro l
    induction l with
    | nil => intro acc; rfl
    | cons r t ih =>
      intro acc
      rw [List.foldl_cons, ih]
      have hr := appendOutlier_stays acc.1 core tag f slot r.1 r.2 false c
      split
      · next heq => rw [heq] at hr; exact hr
      · next heq =>
        rw [heq] at hr
        split
        · exact hr
        · exact (stays_congr (imprecise_groups ..) c).trans hr
  exact h l (s, [])

theorem opened_lineIds (cx : Cx) (s : State) (core ln : Nat) : (cx.opened s).lineIds core ln = s.lineIds core ln := rfl

/-- R257: the slot completes when no lane is an outlier, or no copy of the count word's line is on the core or on its way. -/
theorem narrowingCompletes : Rules.NarrowingCompletes := by
  intro w s cx h hc hf habsent
  have hopen : (cx.opened s).fmtSlot cx w.slot = s.fmtSlot cx w.slot := rfl
  refine (issue_absent (i := .cvtN w) _ h hc rfl rfl rfl rfl (fun _ _ => by simp only [hf, ite_self]) (fun _ _ => rfl) rfl ?flush ?settles).trans ?run
  case flush =>
    intro ln hln
    simp only [hopen] at hln
    split at hln
    · next hany =>
      obtain ⟨L, hL, hout⟩ := List.any_eq_true.mp hany
      rcases habsent with hnone | hgone
      · rw [hnone L hL] at hout; cases hout
      · exact hgone ln (Option.mem_toList.mp hln)
    · cases hln
  case settles =>
    intro cx' a t hcx ht
    dsimp only
    split
    · rw [appendAll_stays, writeV_stays]; exact ht
    · rw [stays_congr (dropClean_groups ..), appendAll_stays, writeV_stays]; exact ht
  case run =>
    refine congrArg Host.Outcome.next (completes_congr cx (.cvtN w) _ _ (fun cx' a t _ => ?_) _)
    simp only [List.filter_map, List.map_map, Function.comp_def, Cx.narrow]

/-- Settles O5: each conversion completes once its format slot, its kept words and its count word's line are in order. -/
theorem conversionInstructionsComplete : Obligations.ConversionInstructionsComplete := ⟨conversionsComplete, narrowingCompletes⟩

end Sys2Proof.Machine

namespace Sys2Proof.Machine

/-! ### Predicate logic (R263) -/

/-- Bit 2a + b of a truth table. -/
theorem truthTable_eq (tt : BitVec 4) (a b : Bool) : truthTable tt a b = tt.getLsbD ((if a then 2 else 0) + (if b then 1 else 0)) := by
  cases a <;> cases b <;> rfl

/-- R263: one effect each. -/
theorem predicateLogicCompletes : Rules.PredicateLogicCompletes := by
  refine ⟨fun w s cx h hc => ?p, fun w s cx h hc => ?q⟩
  case p =>
    refine issue_vector (.pLogic w) s _ _ cx (headP w) rfl h hc (fun _ _ _ _ hs => (writeP_stays ..).trans hs) fun cx' a s hcx => ?_
    simp only [truthTable_eq]
  case q =>
    refine issue_uniform (.qLogic w) s _ _ cx (headP w) rfl h hc rfl (fun _ _ _ _ hs => (writeQ_stays ..).trans hs) fun cx' a s hcx => ?_
    simp only [truthTable_eq]

/-! ### What a slot finds of its masks and of the other arm (R49, R266) -/

theorem sget_congr {g g' : Group} (h : g'.regs = g.regs) (sel r : Nat) : g'.sget sel r = g.sget sel r := by
  simp only [Group.regs, Prod.mk.injEq] at h
  obtain ⟨-, hs, hsb, -⟩ := h
  simp only [Group.sget, hs, hsb]

theorem sval_congr {g g' : Group} (h : g'.regs = g.regs) (t : Ty) (sel r : Nat) : g'.sval t sel r = g.sval t sel r := by
  simp only [Group.sval, sget_congr h]

theorem updArm_split (g : Group) (a : Nat) (f : Arm → Arm) : (g.updArm a f).split = g.split := by
  unfold Group.updArm
  repeat' split
  all_goals rfl

theorem updArm_xmask (g : Group) (a : Nat) (f : Arm → Arm) : (g.updArm a f).xmask = g.xmask := by
  unfold Group.updArm
  repeat' split
  all_goals rfl

theorem updArm_width (g : Group) (a : Nat) (f : Arm → Arm) : (g.updArm a f).width = g.width := by
  unfold Group.updArm
  repeat' split
  all_goals rfl

/-- A change of its timing leaves the wait of an arm, or ends it. -/
theorem Arm.Timing.wait_arm {f : Arm → Arm} (hf : Arm.Timing f) (g : Group) (a b : Nat) : ((g.updArm a f).arm b).wait = (g.arm b).wait ∨ ((g.updArm a f).arm b).wait = {} := by
  unfold Group.updArm Group.arm
  repeat' split
  all_goals simp [hf.wait]

namespace Cx

variable {cx : Cx} {t : State}

theorem Finds.regs (h : cx.Finds (cx.refresh t).g) : (cx.refresh t).g.regs = cx.g.regs := by
  obtain ⟨f, k, -, he⟩ := h
  rw [he]
  exact updArm_regs cx.g cx.c.arm f

theorem Finds.curMask (h : cx.Finds (cx.refresh t).g) (a : Nat) : (cx.refresh t).g.curMask a = cx.g.curMask a := by
  obtain ⟨f, k, hf, he⟩ := h
  have hm : ((cx.refresh t).g.arm a).mask = (cx.g.arm a).mask := by
    rw [he]
    exact arm_updArm_keeps (fun a => a.mask) f hf.mask cx.g cx.c.arm a
  have hx : (cx.refresh t).g.xmask = cx.g.xmask := by rw [he]; exact updArm_xmask ..
  have hw : (cx.refresh t).g.width = cx.g.width := by rw [he]; exact updArm_width ..
  simp only [Group.curMask, hm, hx, hw]

theorem Finds.split (h : cx.Finds (cx.refresh t).g) : (cx.refresh t).g.split = cx.g.split := by
  obtain ⟨f, k, -, he⟩ := h
  rw [he]
  exact updArm_split ..

/-- The masks that a member-mask operation reads are those of its slot. -/
theorem Finds.memberMask (h : cx.Finds (cx.refresh t).g) (sel : Nat) : (cx.refresh t).memberMask sel = cx.memberMask sel := by
  have hr := h.regs
  rw [show cx.refresh t = { cx with g := (cx.refresh t).g } from rfl]
  generalize (cx.refresh t).g = g at hr
  simp only [Cx.memberMask, sval_congr hr]

theorem Finds.blocked (h : cx.Finds (cx.refresh t).g) : (cx.refresh t).blocked = cx.blocked := by
  show ((cx.refresh t).g.split && ((cx.refresh t).memberMask _ &&& (cx.refresh t).g.curMask _) != 0) = _
  rw [h.split, h.memberMask, h.curMask]
  rfl

/-- No other arm waits at a slot that began with none waiting. -/
theorem Finds.peerWaits (h : cx.Finds (cx.refresh t).g) (hp : cx.peerWaits = false) : (cx.refresh t).peerWaits = false := by
  have hs := h.split
  obtain ⟨f, k, hf, he⟩ := h
  have hw : ((cx.refresh t).g.arm cx.peerId.arm).wait = (cx.g.arm cx.peerId.arm).wait ∨ ((cx.refresh t).g.arm cx.peerId.arm).wait = {} := by
    rw [he]
    exact hf.wait_arm cx.g cx.c.arm cx.peerId.arm
  have hpeer : (cx.refresh t).peerId = cx.peerId := rfl
  unfold Cx.peerWaits at hp ⊢
  rw [hs, hpeer]
  rcases hw with hw | hw
  · rw [hw]
    exact hp
  · rw [hw]
    exact Bool.and_false _

end Cx

/-! ### Votes, reductions, prefixes and matches (R264, R268, R269) -/

/-- A member-mask operation all of whose members are its own completes with its writes over its own contributions. -/
theorem issue_member {i : Instr} {s : State} {cx : Cx} (m : Member) (src : Cx → Nat → List (Nat × Nat)) (h : Passes i s cx) (ha : cx.Alone s) (hv : isVector i.form cx.h = true) :
    issue i s (Member.body m src (fun _ => none)) = .next (cx.completes i (fun cx _ s => m.put cx (m.own cx) s) (cx.begun i s)) := by
  obtain ⟨hmember, hpure, hmarked, hblocked, hpeer⟩ := ha
  have hhold : (Member.body m src (fun _ => none)).hold cx s = false := by
    simp only [Member.body, hblocked, Bool.and_false, Bool.false_and, Bool.or_false, Bool.and_eq_false_iff, beq_eq_false_iff_ne]
    by_cases hW : cx.W = 64
    · exact .inr (hmarked hW)
    · exact .inl hW
  refine (issue_moves _ _ h hv rfl rfl hhold (hpure.poison _) (fun _ _ => ?check) (fun _ _ => rfl) rfl (fun _ => rfl) ?run).trans (congrArg _ (congrArg _ (hpure.begun ..)))
  case check => simp only [Member.body, hmember, Option.or_none]
  case run =>
    intro cx' hcx s0
    have hfinds := finds_starts cx i none s ((Member.body m src (fun _ => none)).words i (isVector i.form cx.h) cx)
    have hb : (cx'.refresh s0).blocked = false := by rcases hcx with rfl | rfl <;> exact hfinds.blocked.trans hblocked
    have hp : (cx'.refresh s0).peerWaits = false := by rcases hcx with rfl | rfl <;> exact hfinds.peerWaits hpeer
    have hadv : ∀ t, (cx'.refresh s0).advance t = cx.advance t := by rcases hcx with rfl | rfl <;> exact fun _ => rfl
    simp only [Member.body, Member.run, hb, hp, hadv, Bool.false_and, Bool.false_eq_true, if_false]

/-- R49, R264: the writes of each vote. -/
theorem votesComplete : Rules.VotesComplete :=
  ⟨fun _ _ _ h ha => issue_member _ _ h ha rfl, fun _ _ _ h ha => issue_member _ _ h ha rfl,
    fun _ _ _ h ha => issue_member _ _ h ha rfl, fun _ _ _ h ha => issue_member _ _ h ha rfl⟩

/-- Settles O6: predicate logic by its truth table, votes by their own contributions. -/
theorem predicateInstructionsComplete : Obligations.PredicateInstructionsComplete := ⟨predicateLogicCompletes, votesComplete⟩

/-- The members up to a lane, itself left out with .excl. -/
theorem scan_members (excl : Bool) (L : Nat) (x : Nat × W64) :
    (if excl then decide (x.1 < L) else decide (x.1 ≤ L)) = (decide (x.1 < L) || (x.1 == L && !excl)) := by
  cases excl
  · simp only [Bool.false_eq_true, if_false, Bool.not_false, Bool.and_true]
    rw [Bool.eq_iff_iff]
    simp
    omega
  · simp

/-- R49, R268, R269: the writes of each operation. -/
theorem reductionsComplete : Rules.ReductionsComplete := by
  refine ⟨fun w s cx h ha hd => ?vec, fun w r s cx h ha hd => ?uni, fun w s cx h ha => ?scan, fun w s cx h ha => issue_member _ _ h ha rfl⟩
  case vec =>
    refine (issue_member _ _ h ha rfl).trans (congrArg _ (completes_congr cx _ _ _ (fun cx' a s hcx => ?_) _))
    cases hdst : w.dst <;> simp only [hdst, Opd.isVec, reduceCtorEq] at hd ⊢ <;> rfl
  case uni =>
    refine (issue_member _ _ h ha rfl).trans (congrArg _ (completes_congr cx _ _ _ (fun cx' a s hcx => ?_) _))
    simp only [hd]
    rfl
  case scan =>
    refine (issue_member _ _ h ha rfl).trans (congrArg _ (completes_congr cx _ _ _ (fun cx' a s hcx => ?_) _))
    simp only [scan_members]
    rfl

/-! ### Cross-lane reads (R47, R48, R267) -/

theorem setOor_stays (cx : Cx) (s : State) (c : CtxId) : (cx.setOor s).stays c = s.stays c :=
  stays_updGroup s _ _ (fun g => { g with oor := true }) ⟨fun _ => rfl, fun _ => rfl, fun _ _ => rfl⟩ c

theorem crossLane_settles (t : Ty) (src : Cx → Nat → Nat) (c : CtxId) : Body.Settles (crossLane t src) c := by
  intro cx a s hcx hs
  unfold crossLane
  dsimp only
  split
  · rw [setOor_stays, writeV_stays]; exact hs
  · rw [writeV_stays]; exact hs

/-- A cross-lane read of a group without poison completes with the elements of its source lanes. -/
theorem issue_crossLane {i : Instr} {w : Word} {s : State} {cx : Cx} (src : Cx → Nat → Nat) (hi : i.head = some (headR w)) (h : Passes i s cx) (hp : cx.pure) :
    issue i s (crossLane w.ty src) = .next (cx.completes i (Rules.crossing w src) (cx.begun i s)) := by
  have e : cx.h = headR w := Option.some.inj ((gate_head h.2.1).symm.trans hi)
  refine (issue_checked _ h rfl rfl rfl (hp.poison _) (fun _ _ => rfl) (fun _ _ => rfl) rfl (fun _ => rfl) (crossLane_settles _ _ _)).trans ?_
  rw [hp.begun]
  refine congrArg _ (completes_congr cx _ _ _ (fun cx' a s hcx => ?_) _)
  simp only [crossLane, Rules.crossing, hcx, e, headR, Cx.setOor]

/-- The mode of X.SHFL, two bits of FSPEC (R267). -/
theorem shflLane_eq (m L : Nat) (x : W64) : shflLane m L x =
    (let u := x.toNat % 2 ^ 32
     match m with
     | 0 => u
     | 1 => L ^^^ u
     | 2 => (L + 2 ^ 32 - u) % 2 ^ 32
     | _ => (L + u) % 2 ^ 32) := by
  unfold shflLane
  match m with
  | 0 => rfl
  | 1 => rfl
  | 2 => rfl
  | n + 3 => rfl

/-- R47, R48, R267: the source lane of each. -/
theorem shufflesComplete : Rules.ShufflesComplete := by
  refine ⟨fun w s cx h hp => ?shfl, fun w s cx h hp => issue_crossLane (w := w) _ rfl h hp, fun w s cx h hp => issue_crossLane (w := w) _ rfl h hp⟩
  case shfl =>
    refine (issue_crossLane (w := w) _ rfl h hp).trans (congrArg (fun f => Host.Outcome.next (cx.completes (.xShfl w) (Rules.crossing w f) (cx.begun (.xShfl w) s))) ?_)
    exact funext fun cx' => funext fun L => shflLane_eq (w.fspec.toNat / 16) L (cx'.src w.b .u32 L)

/-- Settles O8: reductions over their own members, cross-lane reads by their source lanes. -/
theorem crossLaneComplete : Obligations.CrossLaneComplete := ⟨reductionsComplete, shufflesComplete⟩

end Sys2Proof.Machine

namespace Sys2Proof.Machine

/-! ### A context whose arm number is above 3

The handler's arms are numbered 2 and 3; the model reads every higher number as arm 3. -/

/-- A guard that is always true (R173). -/
def alwaysGuard : Guard := ⟨false, false, 7⟩

/-- The machine after reset with one group of 16 lanes whose handler runs in its second arm, at slot 0 of a bundle at address 0, its context named by arm number 4. -/
def handlerArm4 : State :=
  { (State.reset.place 0).updGroup 0 0 (fun g => { g with hmode := true, armH1 := { live := true, mask := 0xFFFF } }) with
    script := [], cur := some { c := ⟨0, 0, 4⟩, bundle := 0, slot := 0, valid := 15, priv := true, portB := false } }

/-- The same group split, its arm waiting at this slot for the other arm. -/
def handlerArm4Waits : State :=
  handlerArm4.updGroup 0 0 (fun g => { g with split := true, armH1 := { g.armH1 with wait := { kind := .member 0 0 } } })

/-- A word that names no operand. -/
def emptyWord : Word := Rules.plainWord .z .z .z .z .i8

/-- A vote of all lanes on predicate 1, into uniform predicate 4. -/
def anyWord : WordP :=
  { dst := .z, wbs := false, a := .z, b := .imm 15, c := .z, guard := alwaysGuard, path := .both, cap := none, yield := false, ty := .i8, pd := 4, pa := 1, pb := 0, neg := false, tt := 0 }

/-- The context that a slot's conditions let through. -/
def Gate.cx? : Gate → Option Cx
  | .go cx => some cx
  | _ => none

theorem Gate.of_cx? {g : Gate} {cx : Cx} (h : g.cx? = some cx) : g = .go cx := by
  cases g <;> simp_all [Gate.cx?]

/-- The context of `handlerArm4`, for a word. -/
def handlerCx (i : Instr) (h : Head) (s : State) : Cx :=
  Cx.make i h { c := ⟨0, 0, 4⟩, bundle := 0, slot := 0, valid := 15, priv := true, portB := false } ((s.group 0 0).getD { team := 0, idx := 0, core := 0 }) s

theorem nop_passes : Passes (.nop emptyWord) handlerArm4 (handlerCx (.nop emptyWord) (headR emptyWord) handlerArm4) :=
  ⟨by decide +kernel, Gate.of_cx? (by decide +kernel), by decide +kernel⟩

theorem any_passes : Passes (.pAny anyWord) handlerArm4Waits (handlerCx (.pAny anyWord) (headP anyWord) handlerArm4Waits) :=
  ⟨by decide +kernel, Gate.of_cx? (by decide +kernel), by decide +kernel⟩

/-- The slot that a context stands at after a run. -/
def armSlotAfter (o : Host.Outcome State Fault Refusal) (c : CtxId) : Option Nat :=
  match o with
  | .next t => (t.armOf c).map (fun a => a.slot)
  | _ => none

/-- Refutes O53: a NOP of the context named by arm number 4 moves the PC of arm 3, which is that arm. -/
theorem not_registerFrames : ¬ Obligations.RegisterFrames := by
  unfold Obligations.RegisterFrames
  intro h
  have hmoved : armSlotAfter (exec (.nop emptyWord) handlerArm4) ⟨0, 0, 3⟩ = some 1 := by decide +kernel
  cases he : exec (.nop emptyWord) handlerArm4 with
  | next t =>
    rw [he] at hmoved
    have honly : Rules.registerOnly (.nop emptyWord) := .inr (.inr (.inr (.inr (.inr (.inr (.inl ⟨.nop, by simp, emptyWord, rfl⟩))))))
    obtain ⟨-, -, -, g, hg, -, -, -, -, harms, -⟩ := h _ _ t _ (.inl honly) nop_passes (Cx.pure.clean ⟨by decide +kernel, by decide +kernel⟩ _) he
    have hg' : t.group 0 0 = some g := hg
    have h3 : g.arm 3 = (handlerCx (.nop emptyWord) (headR emptyWord) handlerArm4).g.arm 3 := harms 3 (by decide) (by decide)
    simp only [armSlotAfter, State.armOf, hg', h3, Option.map_some] at hmoved
    exact absurd hmoved (by decide +kernel)
  | fault f => simp [he, armSlotAfter] at hmoved
  | refused r => simp [he, armSlotAfter] at hmoved

/-- Refutes O7: the other arm of the context named by arm number 4 is the context's own. It waits at the slot, so that the statement has both complete; but the slot ends that wait first, finds no other arm waiting, and parks. -/
theorem not_memberMaskWaits : ¬ Obligations.MemberMaskWaits := by
  unfold Obligations.MemberMaskWaits
  intro h
  obtain ⟨-, hpeer⟩ := h _ _ _ rfl any_passes (by decide +kernel) ⟨by decide +kernel, by decide +kernel⟩ (fun hW => absurd hW (by decide +kernel))
  obtain ⟨hjoint, -⟩ := hpeer (by decide +kernel)
  obtain ⟨-, u, hu, hgroups, -⟩ := hjoint (by decide +kernel)
  have hparked : armSlotAfter (exec (.pAny anyWord) handlerArm4Waits) ⟨0, 0, 4⟩ = some 0 := by decide +kernel
  rw [hu] at hparked
  simp only [armSlotAfter, State.armOf, group_congr hgroups] at hparked
  exact absurd hparked (by decide +kernel)

end Sys2Proof.Machine

namespace Sys2Proof.Machine

/-! ### States that differ in groups, ports and the black box alone -/

/-- `t` is `s` but for the groups, the ports of the cores and the black box: what issuing and register writes leave of a state. -/
structure Beside (s t : State) : Prop where
  eq : t = { s with groups := t.groups, cores := t.cores, ctl := t.ctl, bbSeq := t.bbSeq }
  core : ∀ n, t.core n = { s.core n with portA := (t.core n).portA, portB := (t.core n).portB }

namespace Beside

theorem refl (s : State) : Beside s s := ⟨rfl, fun _ => rfl⟩

theorem trans {s t u : State} (h : Beside s t) (h' : Beside t u) : Beside s u where
  eq := by
    have e := h'.eq
    rw [h.eq] at e
    exact e
  core n := by
    have e := h'.core n
    rw [h.core n] at e
    exact e

theorem of_groups {s : State} (gs : List Group) : Beside s { s with groups := gs } := ⟨rfl, fun _ => rfl⟩
theorem updGroup (s : State) (t k : Nat) (f) : Beside s (s.updGroup t k f) := of_groups _
theorem updArm (s : State) (c : CtxId) (f) : Beside s (s.updArm c f) := of_groups _
theorem of_log (s : State) (x : Sparse 8) (y : Sparse 64) : Beside s { s with ctl := x, bbSeq := y } := ⟨rfl, fun _ => rfl⟩
theorem bb (s : State) (a b c d : Nat) (x : W64) (e : Nat) : Beside s (s.bb a b c d x e) := of_log s _ _

end Beside

/-- A core found after one of the list is put in its place, or added. -/
theorem find_putCore (l : List Core) (c : Core) (n : Nat) :
    (putCore l c).find? (fun x => x.num == n) = if c.num = n then some c else l.find? (fun x => x.num == n) := by
  induction l with
  | nil => by_cases h : c.num = n <;> simp [putCore, h]
  | cons x t ih =>
    unfold putCore
    by_cases hx : x.num = c.num
    · by_cases h : c.num = n
      · simp [hx, h]
      · simp [hx, h]
    · rw [if_neg hx, List.find?_cons, List.find?_cons, ih]
      by_cases h : c.num = n
      · have hxn : (x.num == n) = false := by simpa using fun hn => hx (hn.trans h.symm)
        simp [hxn, h]
      · simp only [h, if_false]

/-- A core after one has changed. -/
theorem core_updCore (s : State) (n m : Nat) (f : Core → Core) : (s.updCore n f).core m = if n = m then { f (s.core n) with num := n } else s.core m := by
  unfold State.updCore State.core
  dsimp only
  rw [find_putCore]
  split <;> rfl

theorem core_num (s : State) (n : Nat) : (s.core n).num = n := by
  unfold State.core
  cases h : s.cores.find? (fun c => c.num == n) with
  | none => rfl
  | some c => simpa using List.find?_some h

namespace Beside

theorem updPort (s : State) (core : Nat) (b : Bool) (f : Port → Port) : Beside s (s.updPort core b f) where
  eq := rfl
  core n := by
    unfold State.updPort
    rw [core_updCore]
    split
    · next h =>
      subst h
      have hn := core_num s core
      generalize s.core core = x at hn ⊢
      subst hn
      cases b <;> rfl
    · rfl

theorem yieldPorts (s : State) (c : CtxId) (core : Nat) : Beside s (s.yieldPorts c core) where
  eq := rfl
  core n := by
    unfold State.yieldPorts
    rw [core_updCore]
    split
    · next h =>
      subst h
      have hn := core_num s core
      generalize s.core core = x at hn ⊢
      subst hn
      rfl
    · rfl

theorem foldl {α : Type} (f : State → α → State) (hf : ∀ s x, Beside s (f s x)) (l : List α) (s : State) : Beside s (l.foldl f s) := by
  induction l generalizing s with
  | nil => exact refl s
  | cons x t ih => exact (hf s x).trans (ih _)

theorem deferred (cx : Cx) (i : Instr) (vec : Bool) (ws : List (Nat × Nat)) (s : State) : Beside s (cx.deferred i vec ws s) :=
  foldl _ (fun _ _ => bb ..) _ _

theorem issued (cx : Cx) (vec : Bool) (s : State) : Beside s (cx.issued vec s) := by
  unfold Cx.issued
  extract_lets s1 s2 skid
  have h1 : Beside s s1 := by
    show Beside s (if vec then _ else s)
    split
    · exact updPort ..
    · exact refl s
  have h2 : Beside s1 s2 := by
    show Beside s1 (if cx.h.yield then _ else s1)
    split
    · exact yieldPorts ..
    · exact refl s1
  exact (h1.trans h2).trans (updGroup s2 _ _ _)

theorem opened (cx : Cx) (s : State) : Beside s (cx.opened s) := updGroup ..

theorem begun (cx : Cx) (i : Instr) (s : State) (ws : List (Nat × Nat)) : Beside s (cx.begun i s ws) :=
  ((opened cx s).trans (deferred cx i _ ws _)).trans (issued cx _ _)

theorem writeU (cx : Cx) (k : Nat) (t : Ty) (x : W64) (s : State) : Beside s (cx.writeU k t x s) := by
  unfold Cx.writeU
  split
  · split
    · exact updGroup ..
    · exact refl s
  · exact refl s

theorem writeV (cx : Cx) (t : Ty) (l : List (Nat × W64)) (s : State) : Beside s (cx.writeV t l s) := by
  unfold Cx.writeV
  split
  · exact updGroup ..
  · exact refl s

/-! ### What such states have in common -/

variable {s t : State}

theorem team (h : Beside s t) (k : Nat) : t.team k = s.team k := by rw [h.eq]; rfl
theorem launch (h : Beside s t) (k : Nat) : t.launch k = s.launch k := by rw [h.eq]; rfl
theorem tenant (h : Beside s t) (k : Nat) : t.tenant k = s.tenant k := by rw [h.eq]; rfl
theorem tenantOf (h : Beside s t) (k : Nat) : t.tenantOf k = s.tenantOf k := by rw [h.eq]; rfl
theorem mem (h : Beside s t) : t.mem = s.mem := by rw [h.eq]
theorem clock (h : Beside s t) : t.clock = s.clock := by rw [h.eq]
theorem frontAt (h : Beside s t) (pa : Nat) : t.frontAt pa = s.frontAt pa := by rw [h.eq]; rfl
theorem tlb (h : Beside s t) (n : Nat) : (t.core n).tlb = (s.core n).tlb := by rw [h.core n]
theorem line (h : Beside s t) (n ln : Nat) : (t.core n).line ln = (s.core n).line ln := by rw [h.core n]; rfl

theorem walkFrom (h : Beside s t) (tenant va n table : Nat) : Machine.walkFrom t tenant va n table = Machine.walkFrom s tenant va n table := by
  rw [h.eq]
  generalize t.groups = gs
  generalize t.cores = cs
  induction n generalizing table with
  | zero =>
    simp only [Machine.walkFrom]
    rfl
  | succ n ih =>
    cases n with
    | zero =>
      simp only [Machine.walkFrom]
      rfl
    | succ n =>
      simp only [Machine.walkFrom, ih]
      rfl

theorem walk (h : Beside s t) (tenant va : Nat) : Machine.walk t tenant va = Machine.walk s tenant va := by
  unfold Machine.walk
  rw [h.walkFrom, h.tenant]

theorem reach (h : Beside s t) (core tenant va : Nat) (n : Need) : t.reach core tenant va n = s.reach core tenant va n := by
  simp only [State.reach, State.trCore, h.tlb, h.walk]

theorem reachAgent (h : Beside s t) (unit tenant va : Nat) (n : Need) : t.reachAgent unit tenant va n = s.reachAgent unit tenant va n := by
  have ha : t.agentTlb = s.agentTlb := by rw [h.eq]
  simp only [State.reachAgent, State.trAgent, ha, h.walk]

theorem coreByte (h : Beside s t) (core pa : Nat) : t.coreByte core pa = s.coreByte core pa := by
  have hr : t.reqs = s.reqs := by rw [h.eq]
  have ha : t.acks = s.acks := by rw [h.eq]
  simp only [State.coreByte, h.line, hr, ha, h.mem]

theorem coreRead (h : Beside s t) (core pa n : Nat) : t.coreRead core pa n = s.coreRead core pa n := by
  induction n generalizing pa with
  | zero => rfl
  | succ n ih => simp only [State.coreRead, h.coreByte, ih]

theorem corePoison (h : Beside s t) (core pa n : Nat) : t.corePoison core pa n = s.corePoison core pa n := by
  have hp : ∀ pa, t.poisonAt pa = s.poisonAt pa := fun pa => by rw [h.eq]; rfl
  simp only [State.corePoison, h.line, hp]

theorem ctrlFront (h : Beside s t) (g : Group) : t.ctrlFront g = s.ctrlFront g := by
  unfold State.ctrlFront
  rw [h.tenantOf, h.reach]
  split
  · rfl
  · exact h.coreRead ..

theorem recordAt (h : Beside s t) (core : Nat) (g : Group) (va k : Nat) : t.recordAt core g va k = s.recordAt core g va k := by
  unfold State.recordAt
  rw [h.tenantOf, h.reach]

theorem frontOf (h : Beside s t) (g : Group) : t.frontOf g = s.frontOf g := by
  unfold State.frontOf State.frontField
  dsimp only
  rw [h.ctrlFront, h.recordAt]

theorem special (h : Beside s t) (cx : Cx) (n L : Nat) : t.special cx n L = s.special cx n L := by
  unfold State.special
  rw [h.team, show t.launch = s.launch from funext h.launch, h.clock, h.frontOf, show t.frontAt = s.frontAt from funext h.frontAt]

end Beside

end Sys2Proof.Machine

namespace Sys2Proof.Machine

/-! ### Effects that agree on the states that a slot reaches -/

/-- Effects that agree wherever a property holds that they keep run alike from a state with it. -/
theorem each_congr_of (cx : Cx) (f g : Cx → Nat → State → State) (P : State → Prop) (hP : ∀ a s, P s → P (f (cx.refresh s) a s))
    (h : ∀ a s, P s → f (cx.refresh s) a s = g (cx.refresh s) a s) (l : List Nat) (s : State) (hs : P s) : cx.each f l s = cx.each g l s := by
  induction l generalizing s with
  | nil => rfl
  | cons a t ih =>
    simp only [Cx.each]
    rw [← h a s hs]
    exact ih _ (hP a s hs)

theorem completes_congr_of (cx : Cx) (i : Instr) (f g : Cx → Nat → State → State) (P : State → Prop) (hP : ∀ cx' a s, cx'.h = cx.h → P s → P (f cx' a s))
    (h : ∀ cx' a s, cx'.h = cx.h → P s → f cx' a s = g cx' a s) (s : State) (hs : P s) : cx.completes i f s = cx.completes i g s := by
  simp only [Cx.completes, Cx.leaves, each_congr_of cx f g P (fun a s => hP _ a s rfl) (fun a s => h _ a s rfl) _ s hs,
    each_congr_of { cx with wb := true } f g P (fun a s => hP _ a s rfl) (fun a s => h _ a s rfl) _ s hs]

/-- A uniform slot captures nothing (R188). -/
theorem Passes.cap_none_of_uniform {i : Instr} {s : State} {cx : Cx} (h : Passes i s cx) (hv : isVector i.form cx.h = false) : cx.h.cap = none := by
  have hw := h.1
  simp only [WellFormed, gate_head h.2.1, wordOk, hv, Bool.and_false, Bool.false_and, Bool.or_false, Bool.and_eq_true, beq_iff_eq] at hw
  obtain ⟨⟨⟨⟨⟨-, hcap⟩, -⟩, -⟩, -⟩, -⟩ := hw
  exact hcap

/-! ### The moves (R46, R47, R50, R271, R272) -/

theorem anyDst_settles (t : Ty) (vec : Bool) (f fu : Cx → Nat → W64) (c : CtxId) : Body.Settles (anyDst t vec f fu) c := by
  intro cx a s hcx hs
  unfold anyDst
  dsimp only
  split
  · rw [writeV_stays]; exact hs
  · rw [writeU_stays]; exact hs

/-- A move without checks of its own completes with its body's effect. -/
theorem issue_anyDst {i : Instr} {s : State} {cx : Cx} (t : Ty) (vec : Bool) (f fu : Cx → Nat → W64) (h : Passes i s cx) (hc : cx.clean i) :
    issue i s (anyDst t vec f fu) = .next (cx.completes i (anyDst t vec f fu).run (cx.begun i s)) :=
  issue_plain i s _ cx h hc (anyDst_settles t vec f fu cx.c)

/-- A move keeps everything but its group. -/
theorem anyDst_beside (t : Ty) (vec : Bool) (f fu : Cx → Nat → W64) (cx : Cx) (a : Nat) (s : State) : Beside s ((anyDst t vec f fu).run cx a s) := by
  unfold anyDst
  dsimp only
  split
  · exact Beside.writeV ..
  · exact Beside.writeU ..

theorem foldl_writeU_stays {α : Type} (f : State → α → State) (c : CtxId) (hf : ∀ s x, (f s x).stays c = s.stays c) (l : List α) (s : State)
    (hs : s.stays c = false) : (l.foldl f s).stays c = false := (foldl_stays f c hf l s).trans hs

theorem readlane_step_stays (cx : Cx) (w : Word) (s : State) (p : Nat × Nat) (c : CtxId) :
    (if (cx.srcU p.2 w.b .u32).toNat % 2 ^ 32 < cx.W then cx.writeU p.1 w.ty (cx.src w.a w.ty ((cx.srcU p.2 w.b .u32).toNat % 2 ^ 32)) s
      else cx.markOor (cx.writeU p.1 w.ty (cx.srcU p.2 w.c w.ty) s)).stays c = s.stays c := by
  split
  · exact writeU_stays ..
  · exact (setOor_stays cx _ c).trans (writeU_stays ..)

theorem first_step_stays (cx : Cx) (w : Word) (s : State) (p : Nat × (Nat → Bool)) (c : CtxId) :
    (match cx.act.find? p.2 with | some L => cx.writeU p.1 w.ty (cx.src w.a w.ty L) s | none => s).stays c = s.stays c := by
  split
  · exact writeU_stays ..
  · rfl

/-- A slot of a group without poison that names its words itself ends with its effect in each arm. -/
theorem issue_pure {i : Instr} {s : State} {cx : Cx} (b : Body) (h : Passes i s cx) (hp : cx.pure) (hf : i.form.cap = false) (hown : b.own = false) (honce : b.once = false)
    (hhold : b.hold cx s = false) (h1 : ∀ a ∈ cx.arms (isVector i.form cx.h), b.check cx a s = none) (h2 : ∀ a ∈ cx.arms (isVector i.form cx.h), b.check2 cx a s = none)
    (hrel : b.rel cx = none) (hflush : ∀ s, b.flush cx s = []) (hs : b.Settles cx.c) :
    issue i s b = .next (cx.ends i b.run (cx.begun i s)) := by
  rw [issue_checked b h hown honce hhold (hp.poison _) h1 h2 hrel hflush hs, hp.begun, completes_eq_ends cx i _ _ (h.cap_none hf)]

/-- R46, R47, R50, R271, R272: one effect each. GETSR reads the state in which the slot issues, which differs in nothing that a special register shows. -/
theorem movesComplete : Rules.MovesComplete := by
  refine ⟨fun w s cx h hc hv => ?movV, fun w s cx h hc hv => ?movU, fun w s cx h hc => ?movImm, fun w s cx h hp => ?readlane, fun w s cx h hp => ?first,
    fun w s cx h hc => ?getsr, fun w s cx h hc => ?setsr⟩
  case movV =>
    refine (issue_anyDst _ _ _ _ h hc).trans (congrArg _ (completes_congr cx _ _ _ (fun cx' a s hcx => ?_) _))
    simp only [anyDst, hv, if_true, Rules.lanes]
  case movU =>
    have e : cx.h = headR w := Option.some.inj ((gate_head h.2.1).symm.trans rfl)
    refine (issue_anyDst _ _ _ _ h hc).trans (congrArg _ ((completes_eq_ends cx _ _ _ (h.cap_none_of_uniform (e ▸ hv))).trans (ends_congr cx _ _ _ (fun cx' a s hcx => ?_) _)))
    simp only [anyDst, hv, Bool.false_eq_true, if_false]
  case movImm =>
    exact issue_anyDst _ _ _ _ h hc
  case readlane =>
    exact issue_pure _ h hp rfl rfl rfl rfl (fun _ _ => rfl) (fun _ _ => rfl) rfl (fun _ => rfl)
      fun cx' a s hcx hs => foldl_writeU_stays _ _ (fun s p => readlane_step_stays cx' w s p _) _ _ hs
  case first =>
    exact issue_pure _ h hp rfl rfl rfl rfl (fun _ _ => rfl) (fun _ _ => rfl) rfl (fun _ => rfl)
      fun cx' a s hcx hs => foldl_writeU_stays _ _ (fun s p => first_step_stays cx' w s p _) _ _ hs
  case getsr =>
    refine (issue_anyDst _ _ _ _ h hc).trans (congrArg _ (completes_congr_of cx _ _ _ (fun u => Beside s u) ?keeps ?agree _ (Beside.begun ..)))
    case keeps => exact fun cx' a u _ hu => hu.trans (anyDst_beside ..)
    case agree =>
      intro cx' a u _ hu
      simp only [anyDst, hu.special]
  case setsr =>
    refine issue_uniform (.setsr w) s _ _ cx (headR w) rfl h hc rfl (fun cx' a s hcx hs => ?_) fun _ _ _ _ => rfl
    dsimp only
    split
    · exact hs
    · split
      · exact (stays_updGroup s _ _ (fun g => { g with oor := false }) ⟨fun _ => rfl, fun _ => rfl, fun _ _ => rfl⟩ _).trans hs
      · exact hs

/-- R50, R77, R272: the table of the special registers. -/
theorem specialRegistersRead : Rules.SpecialRegistersRead := by
  intro s cx t L ht l gx gy
  refine ⟨?_, ?_, ?_, ?_, ?_, ?_, ?_, ?_, ?_, ?_, ?_, ?_, ?_, ?_, ?_, ?_, ?_, fun pa k e hf he => ?bound, fun hf => ?unbound, ?_, ?status⟩
  all_goals unfold State.special; rw [ht]
  case bound =>
    rw [hf]
    dsimp only
    rw [he]
    exact ⟨rfl, rfl⟩
  case unbound =>
    rw [hf]
    exact ⟨rfl, rfl⟩
  case status =>
    show cx.status = _
    unfold Cx.status b2n
    repeat' split
    all_goals rfl
  all_goals rfl

/-- Settles O9: each move has one effect, and each special register is read as its row says. -/
theorem movesAndSpecialRegistersComplete : Obligations.MovesAndSpecialRegistersComplete := ⟨movesComplete, specialRegistersRead⟩

/-! ### The register allocation (R51 to R55) -/

/-- The waits of a context's arm in a state. -/
def NoStatus (c : CtxId) (s : State) : Prop := ∀ a, s.armOf c = some a → a.wait.status = none

theorem noStatus_updArm {c : CtxId} {s : State} (f : Arm → Arm) (hf : ∀ a, (f a).wait.status = none) : NoStatus c (s.updArm c f) := by
  intro a ha
  rw [armOf_updArm, Option.map_eq_some_iff] at ha
  obtain ⟨a', -, rfl⟩ := ha
  exact hf a'

/-- The group of a slot that begins without a status has none. -/
theorem noStatus_begun (cx : Cx) (i : Instr) (s : State) (ws : List (Nat × Nat)) (h : (cx.g.arm cx.c.arm).wait.status = none) : NoStatus cx.c (cx.begun i s ws) := by
  intro a ha
  obtain ⟨g, hg, rfl⟩ := Option.map_eq_some_iff.mp ha
  obtain ⟨f, k, hf, he⟩ := finds_starts cx i none s ws
  have hgr : (cx.refresh (cx.starts i none s ws)).g = g := by
    show ((cx.begun i s ws).group _ _).getD cx.g = g
    rw [hg]
    rfl
  rw [hgr] at he
  have hw : (g.arm cx.c.arm) = f (cx.g.arm cx.c.arm) := by rw [he]; exact arm_updArm cx.g cx.c.arm f
  rw [hw]
  rcases hf.wait (cx.g.arm cx.c.arm) with hw | hw
  · rw [hw]; exact h
  · rw [hw]

/-- R53: GROW's executions, none of which goes on after a wait. -/
theorem growCompletes (w : Word) (s : State) (cx : Cx) (h : Passes (.grow w) s cx) (hc : cx.clean (.grow w)) (hn : cx.g.count + 8 * w.fspec.toNat ≤ 256)
    (hpool : 8 * w.fspec.toNat * cx.W * 4 ≤ (s.core cx.core).pbReg * 65536) (hstatus : (cx.g.arm cx.c.arm).wait.status = none) :
    exec (.grow w) s = .next (cx.leaves (.grow w) (fun cx _ s =>
      if (s.growWaits cx.core).isEmpty && s.grantable cx.g w.fspec.toNat then
        cx.advance (s.updGroup cx.c.team cx.c.grp (fun g => g.setCount (g.count + 8 * w.fspec.toNat)))
      else cx.stay { kind := .grow w.fspec.toNat s.nextId } { s with nextId := s.nextId + 1 }) (cx.begun (.grow w) s)) := by
  refine (issue_jumps _ _ h hc rfl fun _ _ => if_neg (by simp; omega)).trans (congrArg _ (each_congr_of cx _ _ (NoStatus cx.c) ?keeps ?agree _ _ (noStatus_begun cx _ s _ hstatus)))
  case agree =>
    intro a u hu
    have hnone : ((cx.refresh u).g.arm cx.c.arm).wait.status = none := by
      cases hg : u.group cx.c.team cx.c.grp with
      | none => simpa only [Cx.refresh, hg, Option.getD_none] using hstatus
      | some g => simpa only [Cx.refresh, hg, Option.getD_some] using hu (g.arm cx.c.arm) (by rw [State.armOf, hg]; rfl)
    have hsome : ((cx.refresh u).g.arm (cx.refresh u).c.arm).wait.status.isSome = false := by
      show ((cx.refresh u).g.arm cx.c.arm).wait.status.isSome = false
      rw [hnone]
      rfl
    simp only [hsome, Bool.false_eq_true, if_false]
    rfl
  case keeps =>
    intro a u hu
    split
    · exact noStatus_updArm _ fun _ => rfl
    · split
      · exact noStatus_updArm _ fun _ => rfl
      · exact noStatus_updArm _ fun _ => rfl

theorem setCount_keeps (f : Group → Nat) : Keeps (fun g => g.setCount (f g)) := ⟨fun _ => rfl, fun _ => rfl, fun _ _ => rfl⟩

theorem grant_stays (s : State) (team grp n : Nat) (c : CtxId) : (s.grant team grp n).stays c = s.stays c :=
  stays_updGroup s team grp _ (setCount_keeps fun g => g.count + 8 * n) c

/-- Settles O10: GROW by its executions, GROW.TRY, SHRINK and GROW_GRANT by their one effect. -/
theorem registerAllocationCompletes : Obligations.RegisterAllocationCompletes := by
  unfold Obligations.RegisterAllocationCompletes
  refine ⟨growCompletes, fun w s cx h hc => ?try_, fun w s cx h hc hcount htrap hmarks => ?shrink, fun core c n k g s hold hg hstop hgrant => ?grant⟩
  case try_ =>
    refine issue_uniform (.growTry w) s _ _ cx (headR w) rfl h hc rfl (fun cx' a s hcx hs => ?_) fun cx' a s hcx => ?_
    · dsimp only
      rw [writeU_stays]
      split
      · rw [grant_stays]; exact hs
      · exact hs
    · dsimp only
      split <;> rfl
  case shrink =>
    have hhold : (s.marksOf cx.c.team cx.c.grp).any (fun m => m.v.any (fun r => decide (cx.g.count - 8 * w.fspec.toNat ≤ r))) = false := by
      simp only [List.any_eq_false, List.any_eq_true, decide_eq_true_eq, not_exists, not_and, Nat.not_le]
      exact hmarks
    have hcheck : (decide (cx.g.count < 8 * w.fspec.toNat + 8) || cx.g.trapVec.getLsbD 0 && decide (cx.g.count - 8 * w.fspec.toNat < 8 * cx.g.hVregs)) = false := by
      simp only [Bool.or_eq_false_iff, Bool.and_eq_false_iff, decide_eq_false_iff_not, Nat.not_lt]
      refine ⟨hcount, ?_⟩
      cases ht : cx.g.trapVec.getLsbD 0
      · exact .inl rfl
      · exact .inr (htrap ht)
    refine (issue_checked _ h rfl rfl hhold ?words (fun _ _ => ?check) (fun _ _ => rfl) rfl (fun _ => rfl) ?settles).trans (congrArg _ (completes_eq_ends cx _ _ _ (h.cap_none rfl)))
    case words => exact hc
    case check =>
      dsimp only
      rw [hcheck]
      rfl
    case settles => exact fun cx' a u _ hu => (stays_updGroup u _ _ _ (setCount_keeps _) _).trans hu
  case grant =>
    show execGrowGrant core s = _
    unfold execGrowGrant
    simp only [hold, hg, hstop, hgrant, Bool.not_false, Bool.and_self, if_true]
    rfl

end Sys2Proof.Machine

namespace Sys2Proof.Machine

/-! ### The slot that the shared conditions let through -/

/-- A slot that is let through is the context of its word, its group with the handles read. -/
theorem gate_go_settled {i : Instr} {s : State} {cx : Cx} (h : gate i s = .go cx) :
    ∃ hd cur g, i.head = some hd ∧ s.cur = some cur ∧ s.context cur.c = some g ∧ s.held i (isVector i.form hd) (Cx.make i hd cur g s) = false ∧ cx = settledCx i hd cur g s := by
  unfold gate at h
  split at h
  · next cur hd hc hh =>
    split at h
    · cases h
    · next g hg =>
      dsimp only at h
      split at h
      · cases h
      · next hheld =>
        refine ⟨hd, cur, g, hh, hc, hg, by simpa using hheld, ?_⟩
        split at h
        · split at h
          · cases h
          · cases h; rfl
        · split at h
          · cases h
          · split at h
            · cases h
            · split at h
              · cases h
              · cases h; rfl
  · cases h

/-- The group of a slot that is let through stands in the state. -/
theorem gate_go_group {i : Instr} {s : State} {cx : Cx} (h : gate i s = .go cx) : ∃ g, s.group cx.c.team cx.c.grp = some g := by
  obtain ⟨hd, cur, g, -, -, hctx, -, rfl⟩ := gate_go_settled h
  exact ⟨g, group_of_context hctx⟩

/-- The group found under a name bears it. -/
theorem group_names {s : State} {t k : Nat} {g : Group} (h : s.group t k = some g) : g.team = t ∧ g.idx = k := by
  simpa using List.find?_some h

/-- The slot's group once its handles are read. -/
theorem settled_group_eq {i : Instr} {s : State} {hd : Head} {cur : Cur} {g : Group} (hctx : s.context cur.c = some g) :
    (settledState i hd cur g s).group cur.c.team cur.c.grp = some (settledCx i hd cur g s).g := by
  obtain ⟨g', hg', -, -⟩ := group_readHandles (Cx.make i hd cur g s) ((Cx.make i hd cur g s).handles i) (group_of_context hctx)
  have hs : (settledState i hd cur g s).group cur.c.team cur.c.grp = some g' := hg'
  rw [hs, settledCx, hs]
  rfl

theorem gate_go_names {i : Instr} {s : State} {cx : Cx} (h : gate i s = .go cx) : cx.g.team = cx.c.team ∧ cx.g.idx = cx.c.grp := by
  obtain ⟨hd, cur, g, -, -, hctx, -, rfl⟩ := gate_go_settled h
  exact group_names (settled_group_eq hctx)

/-- A slot that names no handle finds its group as it stands. -/
theorem gate_go_group_eq {i : Instr} {s : State} {cx : Cx} (h : gate i s = .go cx) (hn : ∀ cx : Cx, some cx.h = i.head → cx.handles i = []) : s.group cx.c.team cx.c.grp = some cx.g := by
  obtain ⟨hd, cur, g, hh, -, hctx, -, rfl⟩ := gate_go_settled h
  have hg := group_of_context hctx
  have he : settledState i hd cur g s = s := by
    unfold settledState
    rw [hn _ hh.symm]
    rfl
  show s.group cur.c.team cur.c.grp = some (((settledState i hd cur g s).group cur.c.team cur.c.grp).getD g)
  rw [he, hg]
  rfl

/-- A group replaced by one of the same name. -/
theorem group_updGroup_named (s : State) (t k : Nat) (y : Group) (hy : y.team = t ∧ y.idx = k) :
    (s.updGroup t k (fun _ => y)).group t k = (s.group t k).map (fun _ => y) := by
  unfold State.updGroup State.group updWhere
  dsimp only
  induction s.groups with
  | nil => rfl
  | cons x l ih =>
    by_cases hx : (x.team == t && x.idx == k) = true
    · have hy' : (y.team == t && y.idx == k) = true := by simp [hy.1, hy.2]
      simp only [List.map_cons, hx, if_true, List.find?_cons, hy', Option.map_some]
    · simp only [Bool.not_eq_true] at hx
      simp only [List.map_cons, hx, Bool.false_eq_true, if_false, List.find?_cons, ih]

/-- The group that an effect finds is that of the state in which it begins. -/
theorem group_starts {i : Instr} {s : State} {cx : Cx} (h : gate i s = .go cx) (scope : Option Nat) (ws : List (Nat × Nat)) :
    (cx.starts i scope s ws).group cx.c.team cx.c.grp = some (cx.refresh (cx.starts i scope s ws)).g := by
  obtain ⟨g, hg⟩ := gate_go_group h
  have hsome : ((cx.starts i scope s ws).group cx.c.team cx.c.grp).isSome := by
    unfold Cx.starts Cx.issued
    extract_lets s1 s2 skid
    have hs2 : s2.groups = (cx.opened s).groups := by
      simp only [s2, s1, apply_ite State.groups, yieldPorts_groups, updPort_groups, ite_self, deferred_groups, release_groups]
    rw [group_updGroup, Option.isSome_map, group_congr hs2]
    case hf => exact fun g => ⟨updArm_team g cx.c.arm _, updArm_idx g cx.c.arm _⟩
    have hn := gate_go_names h
    rw [show (cx.opened s).group cx.c.team cx.c.grp = _ from
      group_updGroup_named s cx.c.team cx.c.grp _ ⟨(updArm_team ..).trans hn.1, (updArm_idx ..).trans hn.2⟩, hg]
    rfl
  obtain ⟨x, hx⟩ := Option.isSome_iff_exists.mp hsome
  simp only [Cx.refresh, hx, Option.getD_some]

/-! ### What an effect finds of its group -/

/-- The fields of a group that say where its areas are. -/
def Group.areas (g : Group) : W64 × W64 × W64 × Nat × W64 := (g.privBase, g.privLim, g.divLim, g.width, g.ctxBase)

theorem updArm_areas (g : Group) (a : Nat) (f : Arm → Arm) : (g.updArm a f).areas = g.areas := by
  unfold Group.updArm
  repeat' split
  all_goals rfl

namespace Cx

variable {cx : Cx} {t : State}

theorem Finds.areas (h : cx.Finds (cx.refresh t).g) : (cx.refresh t).g.areas = cx.g.areas := by
  obtain ⟨f, k, -, he⟩ := h
  rw [he]
  exact updArm_areas cx.g cx.c.arm f

theorem Finds.xmask (h : cx.Finds (cx.refresh t).g) : (cx.refresh t).g.xmask = cx.g.xmask := by
  obtain ⟨f, k, -, he⟩ := h
  rw [he]
  exact updArm_xmask ..

theorem Finds.depth (h : cx.Finds (cx.refresh t).g) (a : Nat) : ((cx.refresh t).g.arm a).depth = (cx.g.arm a).depth := by
  obtain ⟨f, k, hf, he⟩ := h
  rw [he]
  exact arm_updArm_keeps (fun a => a.depth) f hf.depth cx.g cx.c.arm a

theorem Finds.pget (h : cx.Finds (cx.refresh t).g) (i L : Nat) : (cx.refresh t).g.pget i L = cx.g.pget i L := by
  have hr := h.regs
  simp only [Group.regs, Prod.mk.injEq] at hr
  simp only [Group.pget, hr]

/-- A stack entry stands where the slot found it (R31). -/
theorem Finds.entryAt {s : State} (h : cx.Finds (cx.refresh t).g) (hb : Beside s t) (k : Nat) (n : Need) : t.entryAt (cx.refresh t) k n = s.entryAt cx k n := by
  have ha := h.areas
  simp only [Group.areas, Prod.mk.injEq] at ha
  obtain ⟨h1, h2, h3, h4, -⟩ := ha
  have hva : (cx.refresh t).g.entryVa (armSel cx.c) k = cx.g.entryVa (armSel cx.c) k := by simp only [Group.entryVa, h1, h2, h3, h4]
  calc t.entryAt (cx.refresh t) k n = s.entryAt (cx.refresh t) k n := by
        unfold State.entryAt
        dsimp only
        rw [hb.reach]
        simp only [hb.corePoison]
    _ = s.entryAt cx k n := by
        unfold State.entryAt
        dsimp only [Cx.refresh] at hva ⊢
        rw [hva]
        rfl

end Cx

end Sys2Proof.Machine

namespace Sys2Proof.Machine

/-! ### DIVSTACK with no active lane (R427, R435) -/

/-- The machine after reset with one group whose context has no lane left and a divergence stack of no entries. -/
def laneless : State :=
  { (State.reset.place 0).updGroup 0 0 (fun g => { g with arm0 := { g.arm0 with mask := 0 } }) with
    script := [], cur := some { c := ⟨0, 0, 0⟩, bundle := 0, slot := 0, valid := 1, priv := true, portB := false } }

/-- A divergent branch on predicate 0. -/
def brdWord : WordI :=
  { dst := .z, wbs := false, a := .z, imm := 0, guard := alwaysGuard, path := .both, cap := none, yield := false, ty := .i32, round := 0, sat := false, slot := 0, neg := false }

/-- The context of `laneless`, for a word. -/
def lanelessCx (i : Instr) (h : Head) : Cx :=
  Cx.make i h { c := ⟨0, 0, 0⟩, bundle := 0, slot := 0, valid := 1, priv := true, portB := false } ((laneless.group 0 0).getD { team := 0, idx := 0, core := 0 }) laneless

theorem brd_passes : Passes (.brd brdWord) laneless (lanelessCx (.brd brdWord) (headI brdWord)) :=
  ⟨by decide +kernel, Gate.of_cx? (by decide +kernel), by decide +kernel⟩

/-- Whether a context has halted after a run. -/
def haltedAfter (o : Host.Outcome State Fault Refusal) (c : CtxId) : Option Bool :=
  match o with
  | .next t => (t.armOf c).map (fun a => a.halted)
  | _ => none

/-- Refutes O12: a BRD with no lane in Active() meets no condition of its own (R427), so a full stack does not halt its context. -/
theorem not_controlTraps : ¬ Obligations.ControlTraps := by
  rintro ⟨-, hfull⟩
  have htrap := hfull brdWord laneless _ brd_passes (by decide +kernel) (by decide +kernel)
  have hgoes : haltedAfter (exec (.brd brdWord) laneless) ⟨0, 0, 0⟩ = some false := by decide +kernel
  rw [htrap] at hgoes
  exact absurd hgoes (by decide +kernel)

/-! ### BRD (R29 to R31, R220) -/

/-- A slot whose meaning moves the PC itself, with checks of its own, leaves the state of its effect. -/
theorem issue_leaves_checked {i : Instr} {s : State} {cx : Cx} (b : Body) (h : Passes i s cx) (hc : cx.clean i) (hf : i.form.cap = false) (hown : b.own = true)
    (honce : b.once = false) (hused : b.used = none) (hhold : b.hold cx s = false)
    (h1 : ∀ a ∈ cx.arms (isVector i.form cx.h), b.check cx a s = none) (h2 : ∀ a ∈ cx.arms (isVector i.form cx.h), b.check2 cx a s = none)
    (hrel : b.rel cx = none) (hflush : ∀ s, b.flush cx s = []) :
    issue i s b = .next (cx.leaves i b.run (cx.begun i s)) := by
  obtain ⟨-, hgo, hfirst⟩ := id h
  have ha : b.arms cx (isVector i.form cx.h) = cx.arms (isVector i.form cx.h) := by simp [Body.arms, honce]
  have hw : b.words i (isVector i.form cx.h) cx = cx.formWords i := by simp [Body.words, hused, ha, Cx.formWords]
  have hb := b.first_eq_none (i := i) (s := s) (hw ▸ hc) (ha.symm ▸ h1) (ha.symm ▸ h2)
  have hr : cx.released (b.rel cx) s := hrel ▸ released_none cx s
  rw [issue_leaves i s b cx hgo hfirst hown hhold hb hr hflush (h.cap_none hf), hrel, ha, hw]
  rfl

theorem finds_begun (cx : Cx) (i : Instr) (s : State) (ws : List (Nat × Nat)) : cx.Finds (cx.refresh (cx.begun i s ws)).g := finds_starts cx i none s ws

theorem group_begun {i : Instr} {s : State} {cx : Cx} (h : gate i s = .go cx) (ws : List (Nat × Nat)) :
    (cx.begun i s ws).group cx.c.team cx.c.grp = some (cx.refresh (cx.begun i s ws)).g := group_starts h none ws

theorem taken_refresh {cx : Cx} {t : State} (h : cx.Finds (cx.refresh t).g) (w : WordI) : Rules.taken (cx.refresh t) w = Rules.taken cx w := by
  unfold Rules.taken
  simp only [h.pget]
  rfl

theorem fall_refresh {cx : Cx} {t : State} (h : cx.Finds (cx.refresh t).g) (w : WordI) : Rules.fall (cx.refresh t) w = Rules.fall cx w := by
  unfold Rules.fall
  rw [taken_refresh h]
  rfl

/-- Whether a BRD splits its group is the same where its effect begins. -/
theorem splits_refresh {cx : Cx} {t : State} (h : cx.Finds (cx.refresh t).g) (a b : W64) : (cx.refresh t).splits a b = cx.splits a b := by
  unfold Cx.splits
  rw [h.split, show ((cx.refresh t).g.arm (cx.refresh t).c.arm).depth = _ from h.depth cx.c.arm]

theorem splits_iff (cx : Cx) (fall taken : W64) : cx.splits fall taken = true ↔ cx.g.split = false ∧ (cx.g.arm cx.c.arm).depth = 0 ∧ fall ≠ 0 ∧ taken ≠ 0 := by
  simp [Cx.splits, and_assoc]

/-- A vector slot's effect is made once. -/
theorem leaves_vector (cx : Cx) (i : Instr) (f : Cx → Nat → State → State) (s : State) (hv : isVector i.form cx.h = true) : cx.leaves i f s = f (cx.refresh s) (armSel cx.c) s := by
  unfold Cx.leaves
  rw [arms_of_vector cx hv]
  rfl

/-- What a BRD leaves that splits its group (R29). -/
def brdSplit (w : WordI) (cx : Cx) (s : State) : State :=
  s.updGroup cx.c.team cx.c.grp (fun g => g.splitArms cx.c (Rules.fall cx w) (Rules.taken cx w) cx.nextBundle (target cx.bundle w.imm) s.clock)

/-- What a BRD leaves that pushes an entry at an address (R30, R31). -/
def brdPush (w : WordI) (cx : Cx) (pa : Nat) (s : State) : State :=
  let d := (cx.g.arm cx.c.arm).depth
  let t := target cx.bundle w.imm
  let s := s.store cx.core cx.tag pa 16 ((maskOf (fun L => cx.act.contains L)).toNat * 2 ^ 64 + t / 64 * 2 ^ 14) 0
  if Rules.fall cx w = 0 then (s.setMask cx.c (Rules.taken cx w) (d + 1)).jump cx.c t 0 else (s.setMask cx.c (Rules.fall cx w) (d + 1)).jump cx.c cx.nextBundle 0

/-- BRD's effect (R29, R30, R220). -/
def brdRun (w : WordI) (cx : Cx) (s : State) : State :=
  if cx.splits (Rules.fall cx w) (Rules.taken cx w) then brdSplit w cx s
  else match s.entryAt cx (cx.g.arm cx.c.arm).depth (needW cx.priv) with | .error _ => s | .ok pa => brdPush w cx pa s

/-- A BRD that meets none of its conditions leaves its effect. -/
theorem brd_leaves {w : WordI} {s : State} {cx : Cx} (h : Passes (.brd w) s cx) (hc : cx.clean (.brd w))
    (hd : cx.splits (Rules.fall cx w) (Rules.taken cx w) = true
      ∨ (cx.g.arm cx.c.arm).depth < fld cx.g.divLim.toNat 7 0 ∧ ∃ pa, s.entryAt cx (cx.g.arm cx.c.arm).depth (needW cx.priv) = .ok pa) :
    exec (.brd w) s = .next (brdRun w (cx.refresh (cx.begun (.brd w) s)) (cx.begun (.brd w) s)) := by
  refine (issue_leaves_checked (i := .brd w) _ h hc rfl rfl rfl rfl rfl (fun _ _ => ?check) (fun _ _ => ?check2) rfl (fun _ => rfl)).trans
    (congrArg _ (leaves_vector cx _ _ _ rfl))
  case check =>
    show (if !cx.splits (Rules.fall cx w) (Rules.taken cx w) && decide (fld cx.g.divLim.toNat 7 0 ≤ (cx.g.arm cx.c.arm).depth) then some ({ cause := 0x08 } : Bad) else none) = none
    rcases hd with hs | ⟨hdepth, -⟩
    · rw [hs]; rfl
    · rw [decide_eq_false (by omega), Bool.and_false]; rfl
  case check2 =>
    show (if cx.splits (Rules.fall cx w) (Rules.taken cx w) then none
      else match s.entryAt cx (cx.g.arm cx.c.arm).depth (needW cx.priv) with | .error b => some b | .ok _ => none) = none
    rcases hd with hs | ⟨-, pa, hpa⟩
    · rw [hs]; rfl
    · rw [hpa, ite_self]

theorem brdPush_refresh {cx : Cx} {t : State} (h : cx.Finds (cx.refresh t).g) (w : WordI) (pa : Nat) (s : State) : brdPush w (cx.refresh t) pa s = brdPush w cx pa s := by
  unfold brdPush
  rw [taken_refresh h, fall_refresh h, show ((cx.refresh t).g.arm (cx.refresh t).c.arm).depth = _ from h.depth cx.c.arm]
  rfl

theorem divergentBranchCompletes : Rules.DivergentBranchCompletes := by
  unfold Rules.DivergentBranchCompletes
  rw [target_eq_rules]
  refine ⟨fun w s cx h hc hsplit hdepth hfall htaken => ?splits, fun w s cx pa h hc hnot hdepth hpa => ?pushes⟩
  case splits =>
    have hs : cx.splits (Rules.fall cx w) (Rules.taken cx w) = true := (splits_iff ..).mpr ⟨hsplit, hdepth, hfall, htaken⟩
    have hfinds := finds_begun cx (.brd w) s (cx.formWords (.brd w))
    rw [brd_leaves h hc (.inl hs), brdRun, taken_refresh hfinds, fall_refresh hfinds, splits_refresh hfinds, hs, if_pos rfl, brdSplit, taken_refresh hfinds, fall_refresh hfinds,
      (Beside.begun cx (.brd w) s _).clock]
    rfl
  case pushes =>
    have hs : cx.splits (Rules.fall cx w) (Rules.taken cx w) = false := Bool.eq_false_iff.mpr fun hs => hnot ((splits_iff ..).mp hs)
    have hfinds := finds_begun cx (.brd w) s (cx.formWords (.brd w))
    have hentry := hfinds.entryAt (Beside.begun cx (.brd w) s (cx.formWords (.brd w))) (cx.g.arm cx.c.arm).depth (needW cx.priv)
    rw [brd_leaves h hc (.inr ⟨hdepth, pa, hpa⟩), brdRun, taken_refresh hfinds, fall_refresh hfinds, splits_refresh hfinds, hs, if_neg Bool.false_ne_true,
      show ((cx.refresh (cx.begun (.brd w) s)).g.arm (cx.refresh (cx.begun (.brd w) s)).c.arm).depth = _ from hfinds.depth cx.c.arm,
      show (cx.begun (.brd w) s).entryAt (cx.refresh (cx.begun (.brd w) s)) _ (needW (cx.refresh (cx.begun (.brd w) s)).priv) = _ from hentry, hpa]
    exact congrArg _ (brdPush_refresh hfinds w pa _)

/-! ### JOIN (R33, R221) -/

/-- A word with no operands names no handle. -/
theorem handles_of_no_operands {i : Instr} {cx : Cx} (ha : cx.h.a = .z) (hb : cx.h.b = .z) (hc : cx.h.c = .z) (hr : i.readsDst = false) : cx.handles i = [] := by
  unfold Cx.handles
  simp [ha, hb, hc, hr, uwords]

/-- The fields that a well-formed word does not use hold z (R171). -/
theorem unused_operands {i : Instr} {h : Head} (hw : WellFormed i = true) (hh : i.head = some h) :
    unusedOk i.form.dst h.dst = true ∧ unusedOk i.form.a h.a = true ∧ unusedOk i.form.b h.b = true ∧ unusedOk i.form.c h.c = true := by
  simp only [WellFormed, hh, wordOk, Bool.and_eq_true] at hw
  obtain ⟨⟨⟨⟨⟨⟨⟨⟨⟨⟨⟨-, hd⟩, ha⟩, hb⟩, hc⟩, -⟩, -⟩, -⟩, -⟩, -⟩, -⟩, -⟩ := hw
  exact ⟨hd, ha, hb, hc⟩

theorem unused_z {r : OpRule} {o : Opd} (hr : r.used = false) (h : unusedOk r o = true) : o = .z := by
  simpa [unusedOk, hr] using h

/-- The group of a JOIN stands in the state as its slot finds it. -/
theorem join_group {w : Word} {s : State} {cx : Cx} (h : Passes (.join w) s cx) : s.group cx.c.team cx.c.grp = some cx.g := by
  refine gate_go_group_eq h.2.1 fun cx' hcx => ?_
  obtain ⟨-, ha, hb, hc⟩ := unused_operands h.1 hcx.symm
  exact handles_of_no_operands (unused_z rfl ha) (unused_z rfl hb) (unused_z rfl hc) rfl

/-- R33: the join steps of the state that JOIN finds, made where its effect begins. -/
theorem join_leaves {w : Word} {s s1 s2 : State} {cx : Cx} (h : Passes (.join w) s cx) (hc : cx.clean (.join w))
    (harms : cx.arms (isVector (Instr.join w).form cx.h) = [armSel cx.c]) (h1 : s.joinStep cx cx.bundle ((cx.g.arm cx.c.arm).depth + 1) = .ok s1)
    (h2 : (cx.begun (.join w) s).joinStep (cx.refresh (cx.begun (.join w) s)) cx.bundle ((cx.g.arm cx.c.arm).depth + 1) = .ok s2) :
    exec (.join w) s = .next s2 := by
  refine (issue_leaves_checked (i := .join w) _ h hc rfl rfl rfl rfl rfl (fun _ _ => rfl) (fun _ _ => ?check2) rfl (fun _ => rfl)).trans (congrArg _ ?run)
  case check2 =>
    dsimp only
    rw [h1]
  case run =>
    unfold Cx.leaves
    rw [harms]
    show (match (cx.begun (.join w) s).joinStep (cx.refresh (cx.begun (.join w) s)) cx.bundle (((cx.refresh (cx.begun (.join w) s)).g.arm cx.c.arm).depth + 1) with
      | .error _ => _ | .ok s => s) = s2
    rw [(finds_begun cx (.join w) s _).depth, h2]

/-- A join step with an empty stack (R33). -/
theorem joinStep_empty {t : State} {cx : Cx} {g : Group} {bundle n : Nat} (hg : t.group cx.c.team cx.c.grp = some g) (hd : (g.arm cx.c.arm).depth = 0) :
    t.joinStep cx bundle (n + 1) = .ok (if g.split then t.park cx.c bundle else t.jump cx.c bundle 1) := by
  simp only [State.joinStep, hg, hd, if_true]

/-- The entry that a join step finds, read as its set and its address. -/
def joinSaved (x : Nat) : W64 := BitVec.ofNat 64 (x / 2 ^ 64)

/-- A join step on the last entry, in PHASE 1 (R33). -/
theorem joinStep_pop {t : State} {cx : Cx} {g : Group} {bundle n pa x : Nat} (hg : t.group cx.c.team cx.c.grp = some g) (hd : (g.arm cx.c.arm).depth = 1)
    (hpa : t.entryAt cx 0 (needR cx.priv) = .ok pa) (hx : t.coreRead cx.core pa 16 = x) (hphase : x.testBit 0 = true) :
    t.joinStep cx bundle (n + 1) = .ok ((t.setMask cx.c (joinSaved x &&& ~~~g.xmask) 0).jump cx.c (fld x 63 14 * 64) 1) := by
  subst hx
  simp only [State.joinStep, hg, hd, Nat.sub_self, Nat.one_ne_zero, if_false, hpa, hphase, if_true, joinSaved]

/-- What a join step leaves of an entry in PHASE 0, in memory (R33). -/
def joinStored (cx : Cx) (bundle pa x : Nat) (t : State) : State := t.store cx.core cx.tag pa 16 ((joinSaved x).toNat * 2 ^ 64 + bundle / 64 * 2 ^ 14 + 1) 0

/-- A join step on an entry in PHASE 0: its pending set runs, or, with none left, the last entry is popped (R33). -/
theorem joinStep_phase0 {t : State} {cx : Cx} {g : Group} {bundle n d pa x : Nat} (hg : t.group cx.c.team cx.c.grp = some g) (hd : (g.arm cx.c.arm).depth = d + 1)
    (hpa : t.entryAt cx d (needR cx.priv) = .ok pa) (hx : t.coreRead cx.core pa 16 = x) (hphase : x.testBit 0 = false) (hw : t.entryAt cx d (needW cx.priv) = .ok pa) :
    (joinSaved x &&& ~~~(g.curMask cx.c.arm) &&& ~~~g.xmask ≠ 0 →
      t.joinStep cx bundle (n + 1) = .ok (((joinStored cx bundle pa x t).setMask cx.c (joinSaved x &&& ~~~(g.curMask cx.c.arm) &&& ~~~g.xmask) (d + 1)).jump cx.c (fld x 63 14 * 64) 0))
    ∧ (joinSaved x &&& ~~~(g.curMask cx.c.arm) &&& ~~~g.xmask = 0 → d = 0 →
      t.joinStep cx bundle (n + 1) = .ok (((joinStored cx bundle pa x t).setMask cx.c (joinSaved x &&& ~~~g.xmask) 0).jump cx.c bundle 1)) := by
  subst hx
  constructor
  · intro hp
    simp only [joinSaved] at hp
    simp only [State.joinStep, hg, hd, Nat.add_sub_cancel, Nat.succ_ne_zero, if_false, hpa, hw, hphase, Bool.false_eq_true, joinSaved, joinStored, ne_eq, hp, not_false_eq_true, if_true]
  · rintro hp rfl
    simp only [joinSaved] at hp
    simp only [State.joinStep, hg, hd, Nat.zero_add, Nat.sub_self, Nat.one_ne_zero, if_false, hpa, hw, hphase, Bool.false_eq_true, joinSaved, joinStored, ne_eq, hp, not_true_eq_false, if_true]

theorem coreRead_lt (s : State) (core pa n : Nat) : s.coreRead core pa n < 256 ^ n := by
  induction n generalizing pa with
  | zero => simp [State.coreRead]
  | succ n ih =>
    have hb := (s.coreByte core pa).isLt
    have := ih (pa + 1)
    simp only [State.coreRead, Nat.pow_succ]
    omega

/-- The set of an entry of 16 bytes is its upper half. -/
theorem joinSaved_toNat (s : State) (core pa : Nat) : (joinSaved (s.coreRead core pa 16)).toNat = s.coreRead core pa 16 / 2 ^ 64 := by
  have h := coreRead_lt s core pa 16
  rw [joinSaved, BitVec.toNat_ofNat, Nat.mod_eq_of_lt]
  omega

/-- R33, R221: the join steps, made in the state that JOIN finds and where its effect begins. -/
theorem joinCompletes : Rules.JoinCompletes := by
  refine ⟨fun w s cx h hc harms hd hsplit => ?empty, fun w s cx h hc harms hd hsplit => ?parks, fun w s cx d pa h hc harms hd hpa => ?entry,
    fun w s s1 s2 cx h hc harms h1 h2 => join_leaves h hc harms h1 h2⟩
  case empty =>
    have hfinds := finds_begun cx (.join w) s (cx.formWords (.join w))
    have h1 := joinStep_empty (bundle := cx.bundle) (n := (cx.g.arm cx.c.arm).depth) (join_group h) hd
    have h2 := joinStep_empty (cx := cx.refresh (cx.begun (.join w) s)) (bundle := cx.bundle) (n := (cx.g.arm cx.c.arm).depth)
      (group_begun h.2.1 (cx.formWords (.join w))) ((hfinds.depth _).trans hd)
    rw [hfinds.split, hsplit] at h2
    exact join_leaves h hc harms h1 h2
  case parks =>
    have hfinds := finds_begun cx (.join w) s (cx.formWords (.join w))
    have h1 := joinStep_empty (bundle := cx.bundle) (n := (cx.g.arm cx.c.arm).depth) (join_group h) hd
    have h2 := joinStep_empty (cx := cx.refresh (cx.begun (.join w) s)) (bundle := cx.bundle) (n := (cx.g.arm cx.c.arm).depth)
      (group_begun h.2.1 (cx.formWords (.join w))) ((hfinds.depth _).trans hd)
    rw [hfinds.split, hsplit] at h2
    exact join_leaves h hc harms h1 h2
  case entry =>
    intro x saved pend u
    have hfinds := finds_begun cx (.join w) s (cx.formWords (.join w))
    have hbeside := Beside.begun cx (.join w) s (cx.formWords (.join w))
    have hgroup := group_begun h.2.1 (cx.formWords (.join w))
    have hdepth := (hfinds.depth cx.c.arm).trans hd
    have hpa' := (hfinds.entryAt hbeside d (needR cx.priv)).trans hpa
    have hx' : (cx.begun (.join w) s).coreRead cx.core pa 16 = x := hbeside.coreRead ..
    have hmask : ∀ m : W64, joinSaved x &&& ~~~m &&& ~~~cx.g.xmask = joinSaved x &&& ~~~cx.g.xmask &&& ~~~m := fun m => by
      rw [BitVec.and_assoc, BitVec.and_comm (~~~m), ← BitVec.and_assoc]
    have hpend : joinSaved x &&& ~~~(cx.g.curMask cx.c.arm) &&& ~~~cx.g.xmask = pend := hmask _
    have hpend' : joinSaved x &&& ~~~((cx.refresh (cx.begun (.join w) s)).g.curMask cx.c.arm) &&& ~~~(cx.refresh (cx.begun (.join w) s)).g.xmask = pend := by
      rw [hfinds.curMask, hfinds.xmask]
      exact hpend
    have hsaved' : joinSaved x &&& ~~~(cx.refresh (cx.begun (.join w) s)).g.xmask = saved := by rw [hfinds.xmask]; rfl
    have hu : joinStored (cx.refresh (cx.begun (.join w) s)) cx.bundle pa x (cx.begun (.join w) s) = u := by
      rw [joinStored, joinSaved_toNat]
      rfl
    refine ⟨fun hphase hw => ?phase0, fun hphase hd0 => ?phase1⟩
    case phase0 =>
      have hw' := (hfinds.entryAt hbeside d (needW cx.priv)).trans hw
      obtain ⟨hrun, hpop⟩ := joinStep_phase0 (bundle := cx.bundle) (n := (cx.g.arm cx.c.arm).depth) (join_group h) hd hpa rfl hphase hw
      obtain ⟨hrun', hpop'⟩ := joinStep_phase0 (cx := cx.refresh (cx.begun (.join w) s)) (bundle := cx.bundle) (n := (cx.g.arm cx.c.arm).depth) hgroup hdepth hpa' hx' hphase hw'
      rw [hpend] at hrun hpop
      rw [show joinSaved x &&& ~~~((cx.refresh (cx.begun (.join w) s)).g.curMask (cx.refresh (cx.begun (.join w) s)).c.arm) &&& _ = pend from hpend', hu] at hrun' hpop'
      rw [hsaved'] at hpop'
      exact ⟨fun hp => join_leaves h hc harms (hrun hp) (hrun' hp), fun hp hd0 => join_leaves h hc harms (hpop hp hd0) (hpop' hp hd0)⟩
    case phase1 =>
      subst hd0
      have h1 := joinStep_pop (bundle := cx.bundle) (n := (cx.g.arm cx.c.arm).depth) (join_group h) hd hpa rfl hphase
      have h2 := joinStep_pop (cx := cx.refresh (cx.begun (.join w) s)) (bundle := cx.bundle) (n := (cx.g.arm cx.c.arm).depth) hgroup hdepth hpa' hx' hphase
      rw [hsaved'] at h2
      exact join_leaves h hc harms h1 h2

/-! ### MELD, MELD.MAP and MELD.END (R37, R39, R41, R224 to R227) -/

theorem bankCopy_keeps : Keeps Group.bankCopy := ⟨fun _ => rfl, fun _ => rfl, fun _ _ => rfl⟩

theorem bankKeep1_keeps : Keeps Group.bankKeep1 := ⟨fun _ => rfl, fun _ => rfl, fun _ _ => rfl⟩

theorem orderArms_groups (s : State) (core team grp : Nat) : (s.orderArms core team grp).groups = s.groups := by
  unfold State.orderArms
  dsimp only
  split <;> rfl

theorem mergeAsync_groups (s : State) (c : CtxId) (k : Bool) : (s.mergeAsync c k).groups = s.groups := rfl

/-- A change of the melded region of a group (R37, R41). -/
theorem meldFields_keeps (f : Group → Group) (hf : Keeps f) (m : Bool) (b : W64) (r0 r1 : Sparse 8) :
    Keeps (fun g => { f g with melded := m, armBits := b, ren0 := r0, ren1 := r1 }) := ⟨hf.team, hf.idx, hf.arm⟩

/-- MELD.MAP names table entries and no register of theirs (R225). -/
theorem meldMap_formWords {w : Word} {cx : Cx} (hh : cx.h = headR w) (hw : WellFormed (.meldMap w) = true) : cx.formWords (.meldMap w) = [] := by
  obtain ⟨-, -, hb, hc⟩ := unused_operands hw rfl
  have hb : w.b = .z := unused_z rfl hb
  have hc : w.c = .z := unused_z rfl hc
  have hrule : ∀ o arm L, cx.ruleWords ((Instr.meldMap w).formW cx.W).a o arm L = [] := by
    intro o arm L
    cases o <;> rfl
  have hz : ∀ r arm L, cx.ruleWords r .z arm L = [] := fun _ _ _ => rfl
  have hreads : (Instr.meldMap w).readsDst = false := rfl
  refine List.flatMap_eq_nil_iff.mpr fun sel _ => ?_
  simp only [Cx.srcWords, Cx.namedWords, hh, headR, hb, hc, hrule, hz, hreads, Bool.false_eq_true, if_false, List.append_nil, List.flatMap_cons, List.flatMap_nil]
  split <;> simp

theorem meldingCompletes : Rules.MeldingCompletes := by
  refine ⟨fun w s cx h hc => ?meld, fun w k j s cx h hd ha => ?map, fun w s cx h hc => ?end_⟩
  case meld =>
    refine issue_uniform (.meld w) s _ _ cx (headR w) rfl h hc rfl (fun cx' a u _ hu => ?_) fun cx' a u hcx => ?_
    · exact (stays_updGroup u _ _ _ (meldFields_keeps _ bankCopy_keeps _ _ _ _) _).trans hu
    · simp only [scope_bit]
      rfl
  case map =>
    have hh : cx.h = headR w := Option.some.inj ((gate_head h.2.1).symm.trans rfl)
    have hwords := meldMap_formWords hh h.1
    have hnone : ∀ l : List Nat, (l.flatMap fun _ => ([] : List (Nat × Nat))) = cx.formWords (.meldMap w) := fun l => by simp [hwords]
    refine (issue_checked (i := .meldMap w) _ h rfl rfl rfl ?poison (fun _ _ => rfl) (fun _ _ => rfl) rfl (fun _ => rfl) ?settles).trans ?run
    case poison =>
      show cx.poison (List.flatMap _ _) = none
      rw [hnone, hwords]
      rfl
    case settles =>
      intro cx' a u _ hu
      simp only [hd, ha]
      refine (stays_updGroup u _ _ _ ?_ _).trans hu
      exact ⟨fun _ => rfl, fun _ => rfl, fun _ _ => rfl⟩
    case run =>
      rw [completes_eq_ends cx _ _ _ (h.cap_none rfl)]
      refine congrArg _ ((congrArg (fun t => cx.ends (.meldMap w) _ (cx.begun (.meldMap w) s t)) (hnone _)).trans (ends_congr cx _ _ _ (fun cx' a u _ => ?_) _))
      simp only [hd, ha, beq_iff_eq]
  case end_ =>
    refine issue_uniform (.meldEnd w) s _ _ cx (headR w) rfl h hc rfl (fun cx' a u _ hu => ?_) fun cx' a u hcx => rfl
    dsimp only
    rw [stays_congr (orderArms_groups ..)]
    refine (stays_updGroup _ _ _ _ ?_ _).trans hu
    split
    · exact meldFields_keeps _ bankKeep1_keeps _ _ _ _
    · exact meldFields_keeps _ Keeps.id _ _ _ _

/-- Settles O13: BRD by its split or its push, JOIN by its join steps, melding by its one effect. -/
theorem divergenceCompletes : Obligations.DivergenceCompletes := ⟨divergentBranchCompletes, joinCompletes, meldingCompletes⟩

end Sys2Proof.Machine

namespace Sys2Proof.Machine

/-! ### Slots that make a release first, at their first issue or after it (R95) -/

/-- A slot that stands for its release has a wait of its own whose effect has not begun. -/
theorem unissued_of_release {w : Wait} (h : w.kind = .release ∨ w.kind = .acks) : w.resumed = true ∧ w.unissued = true := by
  rcases h with h | h <;> simp [Wait.resumed, Wait.unissued, h]

/-- No condition is looked for at a slot in the middle of its own wait. -/
theorem Body.first_of_resumed (b : Body) (i : Instr) (vec : Bool) (cx : Cx) (s : State) (h : (cx.g.arm cx.c.arm).wait.resumed = true) : b.first i vec cx s = none := by
  simp [Body.first, h]

/-- The context of a slot whose wait is over is in none where its effect begins. -/
theorem rebegun_stays (cx : Cx) (i : Instr) (s : State) : (cx.rebegun i s).stays cx.c = false := by
  unfold Cx.rebegun
  rw [issued_stays, stays_congr (deferred_groups ..) cx.c]
  simp only [State.stays, armOf_updArm]
  cases (cx.opened s).armOf cx.c <;> rfl

/-- The effect of a body that neither waits nor moves the PC, from a state in which its context is in no wait. -/
theorem Body.perform_completes (b : Body) {i : Instr} {cx : Cx} (u : State) (hown : b.own = false) (honce : b.once = false) (hexec : (cx.g.arm cx.c.arm).wait.exec = 0)
    (hu : u.stays cx.c = false) (hs : b.Settles cx.c) :
    b.perform i (isVector i.form cx.h) cx u =
      cx.completes i b.run (cx.issued (isVector i.form cx.h) (cx.deferred i (isVector i.form cx.h) (b.words i (isVector i.form cx.h) cx) u)) := by
  have ha : b.arms cx (isVector i.form cx.h) = cx.arms (isVector i.form cx.h) := by simp [Body.arms, honce]
  have ha' : b.arms { cx with wb := true } (isVector i.form cx.h) = cx.arms (isVector i.form cx.h) := by simp [Body.arms, honce, Cx.arms, Cx.again]
  have hst : (cx.issued (isVector i.form cx.h) (cx.deferred i (isVector i.form cx.h) (b.words i (isVector i.form cx.h) cx) u)).stays cx.c = false := by
    rw [issued_stays, stays_congr (deferred_groups ..) cx.c, hu]
  have e := b.runArms_each cx hs (cx.arms (isVector i.form cx.h)) (cx.arms (isVector i.form cx.h)) 0 _ hst
  have e' := b.runArms_each { cx with wb := true } hs (cx.arms (isVector i.form cx.h)) (cx.arms (isVector i.form cx.h)) 0 _ hst
  unfold Body.perform Cx.completes Cx.leaves
  simp only [hexec, ha, ha', List.drop_zero, e.1, e.2, hown, Bool.or_self, Bool.not_false, Bool.and_true, Bool.false_eq_true, if_false]
  cases cx.h.cap.isSome
  · rfl
  · cases hw : cx.wb
    · exact congrArg (fun x => cx.advance (cx.capture x _)) e'.1
    · rfl

/-- A slot that stood for its release goes on with its effect. -/
theorem issue_resumes {i : Instr} {s : State} {cx : Cx} (b : Body) (hgo : gate i s = .go cx)
    (hkind : (cx.g.arm cx.c.arm).wait.kind = .release ∨ (cx.g.arm cx.c.arm).wait.kind = .acks) (hexec : (cx.g.arm cx.c.arm).wait.exec = 0)
    (hown : b.own = false) (honce : b.once = false) (hhold : b.hold cx s = false)
    (hw : ∀ u, cx.deferred i (isVector i.form cx.h) (b.words i (isVector i.form cx.h) cx) u = cx.deferred i (isVector i.form cx.h) (cx.formWords i) u)
    (hs : b.Settles cx.c) : issue i s b = .next (cx.completes i b.run (cx.rebegun i s)) := by
  obtain ⟨hres, hun⟩ := unissued_of_release hkind
  rw [issue_effect i s b cx hgo hhold (b.first_of_resumed i _ cx s hres)]
  unfold Body.effect
  simp only [hun, if_true]
  rw [b.perform_completes _ hown honce hexec ?stays hs, hw]
  · rfl
  case stays =>
    simp only [State.stays, armOf_updArm]
    cases (cx.opened s).armOf cx.c <;> rfl

/-- The words that a body uses are those of its form when it names none itself. -/
theorem Body.words_eq (b : Body) (i : Instr) (cx : Cx) (honce : b.once = false) (hused : b.used = none) : b.words i (isVector i.form cx.h) cx = cx.formWords i := by
  simp [Body.words, hused, Body.arms, honce, Cx.formWords]

/-- A slot with a release completes from the state in which its effect begins, at once or after its wait (R95). -/
theorem issue_begins {i : Instr} {scope : Option Nat} {ok : Prop} {s s0 : State} {cx : Cx} (b : Body) (h : Begins i scope ok s cx s0)
    (hown : b.own = false) (honce : b.once = false) (hhold : b.hold cx s = false) (hp : cx.clean i → cx.poison (b.words i (isVector i.form cx.h) cx) = none)
    (hw : ∀ u, cx.deferred i (isVector i.form cx.h) (b.words i (isVector i.form cx.h) cx) u = cx.deferred i (isVector i.form cx.h) (cx.formWords i) u)
    (h1 : ok → ∀ a ∈ cx.arms (isVector i.form cx.h), b.check cx a s = none) (h2 : ok → ∀ a ∈ cx.arms (isVector i.form cx.h), b.check2 cx a s = none)
    (hrel : b.rel cx = scope) (hf : ∀ s, b.flush cx s = []) (hs : b.Settles cx.c) :
    issue i s b = .next (cx.completes i b.run s0) := by
  rcases h with ⟨⟨-, hgo, hfirst⟩, hclean, hok, hrels, rfl⟩ | ⟨-, hgo, hkind, hexec, rfl⟩
  · have ha : b.arms cx (isVector i.form cx.h) = cx.arms (isVector i.form cx.h) := by simp [Body.arms, honce]
    have hb := b.first_eq_none (i := i) (s := s) (hp hclean) (ha.symm ▸ h1 hok) (ha.symm ▸ h2 hok)
    have e := issue_completes i s b cx hgo hfirst hown hhold hb (hrel ▸ hrels) hf honce hs
    rw [e, hrel]
    simp only [Cx.starts, hw]
  · exact issue_resumes b hgo (.inl hkind) hexec hown honce hhold hw hs

/-- The slot of an effect that begins was let through. -/
theorem Begins.go {i : Instr} {scope : Option Nat} {ok : Prop} {s s0 : State} {cx : Cx} (h : Begins i scope ok s cx s0) : gate i s = .go cx := by
  rcases h with ⟨⟨-, hgo, -⟩, -⟩ | ⟨-, hgo, -⟩ <;> exact hgo

theorem Begins.form {i : Instr} {scope : Option Nat} {ok : Prop} {s s0 : State} {cx : Cx} (h : Begins i scope ok s cx s0) : WellFormed i = true := by
  rcases h with ⟨⟨hform, -⟩, -⟩ | ⟨hform, -⟩ <;> exact hform

/-- An instruction whose form allows no capture captures nothing. -/
theorem cap_none_of_form {i : Instr} {s : State} {cx : Cx} (hform : WellFormed i = true) (hgo : gate i s = .go cx) (hcap : i.form.cap = false) : cx.h.cap = none := by
  simp only [WellFormed, gate_head hgo, wordOk, hcap, Bool.false_and, Bool.or_false, Bool.and_eq_true, beq_iff_eq] at hform
  obtain ⟨⟨⟨⟨⟨-, hnone⟩, -⟩, -⟩, -⟩, -⟩ := hform
  exact hnone

theorem Begins.cap_none {i : Instr} {scope : Option Nat} {ok : Prop} {s s0 : State} {cx : Cx} (h : Begins i scope ok s cx s0) (hcap : i.form.cap = false) : cx.h.cap = none :=
  cap_none_of_form h.form h.go hcap

/-- A slot with a release, of a form that captures nothing, ends from the state in which its effect begins. -/
theorem issue_begins_ends {i : Instr} {scope : Option Nat} {ok : Prop} {s s0 : State} {cx : Cx} (b : Body) (h : Begins i scope ok s cx s0) (hcap : i.form.cap = false)
    (hown : b.own = false) (honce : b.once = false) (hused : b.used = none) (hhold : b.hold cx s = false)
    (h1 : ok → ∀ a ∈ cx.arms (isVector i.form cx.h), b.check cx a s = none) (h2 : ok → ∀ a ∈ cx.arms (isVector i.form cx.h), b.check2 cx a s = none)
    (hrel : b.rel cx = scope) (hf : ∀ s, b.flush cx s = []) (hs : b.Settles cx.c) :
    issue i s b = .next (cx.ends i b.run s0) := by
  have hw := b.words_eq i cx honce hused
  rw [issue_begins b h hown honce hhold (fun hc => hw.symm ▸ hc) (fun u => by rw [hw]) h1 h2 hrel hf hs, completes_eq_ends cx i _ _ (h.cap_none hcap)]

/-- A slot whose release has something to wait for stands at its slot. -/
theorem issue_waits_first {i : Instr} {scope : Option Nat} {s : State} {cx : Cx} (b : Body) (h : Passes i s cx) (hc : cx.clean i) (honce : b.once = false) (hused : b.used = none)
    (hhold : b.hold cx s = false) (h1 : ∀ a ∈ cx.arms (isVector i.form cx.h), b.check cx a s = none) (h2 : ∀ a ∈ cx.arms (isVector i.form cx.h), b.check2 cx a s = none)
    (hrel : b.rel cx = scope) (hr : ¬ cx.released scope s) (hf : ∀ s, b.flush cx s = []) :
    issue i s b = .next (cx.stay (cx.release scope (cx.opened s)).2 (cx.release scope (cx.opened s)).1) := by
  obtain ⟨-, hgo, hfirst⟩ := h
  have ha : b.arms cx (isVector i.form cx.h) = cx.arms (isVector i.form cx.h) := by simp [Body.arms, honce]
  have hb := b.first_eq_none (i := i) (s := s) ((b.words_eq i cx honce hused).symm ▸ hc) (ha.symm ▸ h1) (ha.symm ▸ h2)
  subst hrel
  exact issue_waits i s b cx hgo hfirst hhold hb hr hf

end Sys2Proof.Machine

namespace Sys2Proof.Machine

/-! ### What accesses leave of the groups (R65, R70, R83, R184) -/

@[simp] theorem fillCore_groups (s : State) (core : Nat) (e : TlbEntry) : (s.fillCore core e).groups = s.groups := by
  unfold State.fillCore
  dsimp only
  split
  · rfl
  · split <;> rfl

@[simp] theorem fills_groups (s : State) (core tenant : Nat) (l : List Acc) : (s.fills core tenant l).groups = s.groups := by
  unfold State.fills
  refine foldl_groups _ (fun s a => foldl_groups _ (fun s p => ?_) _ _) _ _
  split
  · exact fillCore_groups ..
  · rfl

@[simp] theorem freeLine_groups (s : State) : s.freeLine.1.groups = s.groups := rfl

@[simp] theorem blurPart_groups (s : State) (tag : Tag) (p : Part) : (s.blurPart tag p).1.groups = s.groups := by
  unfold State.blurPart
  dsimp only
  split <;> rfl

@[simp] theorem blurParts_groups (s : State) (tag : Tag) (l : List Part) : (s.blurParts tag l).1.groups = s.groups := by
  induction l generalizing s with
  | nil => rfl
  | cons p t ih => exact (ih _).trans (blurPart_groups ..)

@[simp] theorem loadParts_groups (s : State) (core : Nat) (tag : Tag) (id : Nat) (l : List Part) (hint : Nat) (strong : Bool) :
    (s.loadParts core tag id l hint strong).1.groups = s.groups := by
  unfold State.loadParts
  dsimp only
  refine (foldl_groups _ (fun s ln => send_groups ..) _ _).trans ((foldl_groups _ (fun s p => ?_) _ _).trans ?_)
  · split
    · rfl
    · exact note_groups ..
  · split
    · exact blurParts_groups ..
    · rfl

@[simp] theorem startLoad_groups (s : State) (x : Async) (hint : Nat) (strong : Bool) : (s.startLoad x hint strong).groups = s.groups := by
  unfold State.startLoad
  exact loadParts_groups ..

@[simp] theorem addAsync_groups (s : State) (x : Async) : (s.addAsync x).groups = s.groups := rfl

@[simp] theorem bypass_groups (s : State) (core : Nat) (tag : Tag) (l : List (Nat × Nat × Nat)) (strong : Bool) : (s.bypass core tag l strong).groups = s.groups := by
  unfold State.bypass
  refine foldl_groups _ (fun s ln => ?_) _ _
  exact send_groups ..

@[simp] theorem storeLines_groups (cx : Cx) (l : List (Nat × Nat × Nat)) (hint : Nat) (s : State) : (cx.storeLines l hint s).groups = s.groups := by
  unfold Cx.storeLines
  exact foldl_groups _ (fun s ln => foldl_groups _ (fun s p => store_groups ..) _ _) _ _

@[simp] theorem storeOut_groups (cx : Cx) (l : List (Nat × Nat)) (s : State) : (cx.storeOut l s).groups = s.groups := by
  unfold Cx.storeOut
  exact foldl_groups _ (fun s ln => writeBack_groups ..) _ _

@[simp] theorem storeKept_groups (cx : Cx) (l : List (Nat × Nat)) (s : State) : (cx.storeKept l s).groups = s.groups := by
  unfold Cx.storeKept
  refine foldl_groups _ (fun s p => ?_) _ _
  rfl

@[simp] theorem sendOps_groups (s : State) (x : Async) (l : List (Part × SliceOp × Nat)) : (s.sendOps x l).groups = s.groups := by
  unfold State.sendOps
  refine foldl_groups _ (fun s k => ?_) _ _
  split
  · rfl
  · exact (send_groups ..).trans (writeBack_groups ..)

theorem Keeps.ownBytes (o n v : Nat) : Keeps (fun g => g.ownBytes o n v) := by
  induction n generalizing o v with
  | zero => exact Keeps.id
  | succ n ih =>
    exact ⟨fun g => (ih (o + 1) (v / 256)).team _, fun g => (ih (o + 1) (v / 256)).idx _, fun g a => (ih (o + 1) (v / 256)).arm _ a⟩

theorem Keeps.ownWrite (o n v : Nat) : Keeps (fun g => g.ownWrite o n v) :=
  ⟨fun g => (Keeps.ownBytes o n v).team g, fun g => (Keeps.ownBytes o n v).idx g, fun g a => (Keeps.ownBytes o n v).arm g a⟩

@[simp] theorem storeMany_stays (cx : Cx) (l : List (Nat × Nat × Nat)) (hint : Nat) (strong : Bool) (s : State) (c : CtxId) :
    (cx.storeMany l hint strong s).stays c = s.stays c := by
  unfold Cx.storeMany
  extract_lets ps s' out
  have hs' : s'.stays c = s.stays c := by
    refine foldl_stays _ c (fun s p => ?_) ps s
    split
    · exact stays_updGroup _ _ _ _ (Keeps.ownWrite ..) c
    · rfl
  split
  · exact (stays_congr (bypass_groups ..) c).trans hs'
  · exact (stays_congr (storeLines_groups ..) c).trans hs'

/-! ### What scratchpad accesses leave of a context's wait (R109 to R113) -/

/-- Changes of some groups that keep names and the kinds of waits leave every context's wait. -/
theorem stays_updWhere (s : State) (p : Group → Bool) (f : Group → Group)
    (hf : ∀ g, (f g).team = g.team ∧ (f g).idx = g.idx ∧ ∀ a, ((f g).arm a).wait.kind = (g.arm a).wait.kind) (c : CtxId) :
    ({ s with groups := updWhere p f s.groups } : State).stays c = s.stays c := by
  have hk : ∀ (g : Group), (if p g then f g else g).team = g.team ∧ (if p g then f g else g).idx = g.idx ∧
      ∀ a, ((if p g then f g else g).arm a).wait.kind = (g.arm a).wait.kind := by
    intro g
    split
    · exact hf g
    · exact ⟨rfl, rfl, fun _ => rfl⟩
  have he : ((fun g => g.team == c.team && g.idx == c.grp) ∘ fun g => if p g then f g else g) = fun g : Group => g.team == c.team && g.idx == c.grp := by
    funext g
    simp only [Function.comp_apply, (hk g).1, (hk g).2.1]
  unfold State.stays State.armOf State.group updWhere
  dsimp only
  rw [List.find?_map, he]
  cases s.groups.find? (fun g => g.team == c.team && g.idx == c.grp) with
  | none => rfl
  | some g => simp only [Option.map_some, (hk g).2.2]

/-- A change of every arm that keeps the kinds of waits keeps those of every context. -/
theorem mapArms_kind (g : Group) (f : Arm → Arm) (hf : ∀ a, (f a).wait.kind = a.wait.kind) (a : Nat) : ((g.mapArms f).arm a).wait.kind = (g.arm a).wait.kind := by
  unfold Group.mapArms Group.arm
  repeat' split
  all_goals simp only [hf]

@[simp] theorem wakeBobj_stays (s : State) (team off : Nat) (f : Nat → Option W32) (c : CtxId) : (s.wakeBobj team off f).stays c = s.stays c := by
  unfold State.wakeBobj
  refine stays_updWhere s _ _ (fun g => ?_) c
  refine ⟨rfl, rfl, mapArms_kind g _ fun a => ?_⟩
  dsimp only
  split
  · split
    · split <;> rfl
    · rfl
  · rfl

@[simp] theorem checkBar_stays (s : State) (team b : Nat) (c : CtxId) : (s.checkBar team b).stays c = s.stays c := by
  unfold State.checkBar
  split
  · rfl
  · split
    · rfl
    · extract_lets n
      split
      · refine (stays_updWhere (s.updTeam ..) _ _ (fun g => ?_) c).trans rfl
        refine ⟨rfl, rfl, mapArms_kind g _ fun a => ?_⟩
        show (if _ then _ else a).wait.kind = a.wait.kind
        split <;> rfl
      · rfl

@[simp] theorem arriveBar_stays (s : State) (team grp b : Nat) (n : Option Nat) (c : CtxId) : (s.arriveBar team grp b n).stays c = s.stays c :=
  (checkBar_stays ..).trans rfl

/-- A write of virtual memory that finds its pages leaves every context's wait. -/
theorem vwrite_stays (s t : State) (tr : Nat → Tr) (va n v : Nat) (h : s.vwrite tr va n v = .ok t) (c : CtxId) : t.stays c = s.stays c := by
  unfold State.vwrite at h
  split at h
  · cases h
  · cases h
    refine foldl_stays _ c (fun s p => ?_) _ _
    split
    · exact poke_stays ..
    · rfl

@[simp] theorem scrWrite_stays (s : State) (team off n v : Nat) (c : CtxId) : (s.scrWrite team off n v).stays c = s.stays c := by
  unfold State.scrWrite
  split
  · rfl
  · split
    · dsimp only
      split
      · next h => exact vwrite_stays _ _ _ _ _ _ h c
      · rfl
    · rfl

@[simp] theorem evalBobj_stays (s : State) (team off : Nat) (c : CtxId) : (s.evalBobj team off).stays c = s.stays c := by
  unfold State.evalBobj
  split
  · rfl
  · dsimp only
    split
    · rw [wakeBobj_stays, scrWrite_stays, wakeBobj_stays]
    · exact wakeBobj_stays ..

@[simp] theorem arriveBobj_stays (s : State) (team off n : Nat) (c : CtxId) : (s.arriveBobj team off n).stays c = s.stays c :=
  (evalBobj_stays ..).trans (scrWrite_stays ..)

/-! ### Loads (R280, R281) -/

theorem loadBody_settles (w : Word) (vec : Bool) (c : CtxId) : (loadBody w vec).Settles c := by
  intro cx a s hcx hs
  rw [stays_congr (s' := s) (s := (loadBody w vec).run cx a s) ((startLoad_groups ..).trans (fills_groups ..)), hs]

/-- A load whose accesses meet no condition completes. -/
theorem issue_load {i : Instr} {w : Word} {vec : Bool} {s : State} {cx : Cx} (h : Passes i s cx) (hc : cx.clean i) (hcap : i.form.cap = false)
    (hv : isVector i.form cx.h = vec) (hr : Rules.reaches w vec s cx (needR cx.priv)) :
    issue i s (loadBody w vec) = .next (cx.ends i (Rules.loading w vec) (cx.begun i s)) := by
  obtain ⟨hmarks, hranks⟩ := hr
  have hw := (loadBody w vec).words_eq i cx rfl rfl
  rw [issue_checked (loadBody w vec) h rfl rfl hmarks (hw.symm ▸ hc) (fun a ha => (hranks a (hv ▸ ha)).1) (fun a ha => (hranks a (hv ▸ ha)).2) rfl (fun _ => rfl)
    (loadBody_settles w vec _), hw, completes_eq_ends cx _ _ _ (h.cap_none hcap)]
  refine congrArg _ (ends_congr cx i _ _ (fun cx' k u _ => ?_) _)
  show State.startLoad _ (Cx.loadRec ..) _ _ = _
  simp only [Rules.loading, Cx.loadRec, orderOf, beq_iff_eq]

/-- The word of a slot whose form follows its instruction's. -/
theorem head_of_gate {i : Instr} {s : State} {cx : Cx} {hd : Head} (h : gate i s = .go cx) (hi : i.head = some hd) : cx.h = hd :=
  Option.some.inj ((gate_head h).symm.trans hi)

/-- Settles O15: the body's hold and checks are what `Rules.reaches` excludes. -/
theorem loadsComplete : Obligations.LoadsComplete := by
  refine ⟨fun w s cx vec hvec h hc hr => ?_, fun w s cx h hc hv hr => issue_load h hc rfl hv hr⟩
  subst hvec
  exact issue_load h hc rfl (by rw [head_of_gate h.2.1 rfl]) hr

/-! ### Stores (R95, R280, R281) -/

theorem storeBody_rel (w : Word) (vec : Bool) (cx : Cx) : (storeBody w vec).rel cx = Rules.releaseOf w := by
  simp only [storeBody, Rules.releaseOf, orderOf, beq_iff_eq]

theorem storeBody_run (w : Word) (vec : Bool) : (storeBody w vec).run = Rules.storing w vec := by
  funext cx k s
  simp only [storeBody, Rules.storing, orderOf, Bool.or_eq_true, bne_iff_ne, beq_iff_eq]
  rfl

theorem storing_settles (w : Word) (vec : Bool) (c : CtxId) : (storeBody w vec).Settles c := by
  intro cx a s hcx hs
  rw [storeBody_run]
  unfold Rules.storing
  extract_lets l u wide
  have hu : u.stays c = false := by rw [storeMany_stays, stays_congr (fills_groups ..), hs]
  split
  · exact hu
  · split
    · rw [stays_congr (storeOut_groups ..), hu]
    · rw [stays_congr (storeKept_groups ..), hu]

/-- A store whose release is over completes. -/
theorem issue_store {i : Instr} {w : Word} {vec : Bool} {s s0 : State} {cx : Cx} (h : Begins i (Rules.releaseOf w) (Rules.reaches w vec s cx (needW cx.priv)) s cx s0)
    (hcap : i.form.cap = false) (hv : isVector i.form cx.h = vec) (hm : s.ownMarked cx ((cx.arms vec).flatMap (cx.memAccs w vec)) = false) :
    issue i s (storeBody w vec) = .next (cx.ends i (Rules.storing w vec) s0) := by
  rw [issue_begins_ends (storeBody w vec) h hcap rfl rfl rfl hm (fun hr a ha => (hr.2 a (hv ▸ ha)).1) (fun hr a ha => (hr.2 a (hv ▸ ha)).2) (storeBody_rel ..) (fun _ => rfl)
    (storing_settles w vec _), storeBody_run]

/-- Settles O16: the same effect at the first issue, and once the release has been waited for. -/
theorem storeInstructionsComplete : Obligations.StoreInstructionsComplete := by
  refine ⟨⟨fun w s s0 cx vec hvec hm h => ?_, fun w s s0 cx hv hm h => issue_store h rfl hv hm⟩, fun w s cx h hc hv hr hrel => ?waits, fun w s cx hform hgo hv hkind hexec hm => ?resumes⟩
  · subst hvec
    exact issue_store h rfl (by rw [head_of_gate h.go rfl]) hm
  case waits =>
    obtain ⟨hmarks, hranks⟩ := hr
    exact issue_waits_first (storeBody w false) h hc rfl rfl hmarks (fun a ha => (hranks a (hv ▸ ha)).1) (fun a ha => (hranks a (hv ▸ ha)).2) (storeBody_rel ..) hrel (fun _ => rfl)
  case resumes =>
    exact issue_store (.inr ⟨hform, hgo, hkind, hexec, rfl⟩) rfl hv hm

/-! ### The conditions of accesses (R434, R447) -/

/-- Refutes O17: the model marks every condition that `State.rank10` finds with rank 10, while the statement's conditions carry the rank that `Bad` has by default, 8. The access at 2^56 shows it. -/
theorem not_accessConditions : ¬ Obligations.AccessConditions := by
  rintro ⟨-, haddr⟩
  have h := (haddr State.reset (lanelessCx (.brd brdWord) (headI brdWord)) ⟨0, 2 ^ 56, 4⟩ 4).1 (Nat.le_refl _)
  have hrank : (State.reset.rank10 (lanelessCx (.brd brdWord) (headI brdWord)) [(⟨0, 2 ^ 56, 4⟩, 4)] [] true).map Bad.rank = some 10 := by decide +kernel
  rw [h] at hrank
  exact absurd hrank (by decide)

end Sys2Proof.Machine

namespace Sys2Proof.Machine

/-! ### Scratchpad accesses (R276, R282, R454) -/

/-- R276, R282: a scratchpad load takes its bytes at issue. -/
theorem sldCompletes (w : Word) (s : State) (cx : Cx) (vec : Bool) (hvec : vec = isVector (Instr.sld w).form (headR w)) (h : Passes (.sld w) s cx) (hc : cx.clean (.sld w))
    (hr : ∀ k ∈ cx.arms vec, s.rank10 cx [] (aligned (cx.scrAccs w vec k) (accBytes w)) false = none) :
    exec (.sld w) s = .next (cx.ends (.sld w) (fun cx k s => s.addAsync (cx.loadRec w vec k ((cx.scrAccs w vec k).map (fun x =>
      let rs := cx.dstRegs (vecRegs w) x.lane
      let b := x.n / rs.length
      { lane := x.lane, regs := rs, n := x.n, data := BitVec.ofNat 512 (s.scrRead cx.c.team x.va x.n), done := true, poison := s.scrBad cx.c.team x.va x.n,
        clean := ((List.range rs.length).filter (fun j => (List.range b).all (fun i => !s.scrBad cx.c.team (x.va + (b * j + i)) 1))).map (fun j => rs.getD j 0) })))) (cx.begun (.sld w) s)) := by
  have hv : isVector (Instr.sld w).form cx.h = vec := by rw [head_of_gate h.2.1 rfl, hvec]
  subst hvec
  refine (issue_checked _ h rfl rfl rfl ?words (fun a ha => hr a (hv ▸ ha)) (fun _ _ => rfl) rfl (fun _ => rfl) ?settles).trans ?ends
  case words => exact hc
  case settles => exact fun cx' a u _ hu => (stays_congr (addAsync_groups ..) _).trans hu
  case ends => exact congrArg _ (completes_eq_ends cx _ _ _ (h.cap_none rfl))

/-- A fold of changes that keep a context's wait keeps it out of one. -/
theorem foldl_settled {α : Type} (f : State → α → State) (c : CtxId) (hf : ∀ s x, (f s x).stays c = s.stays c) (l : List α) {s : State} (hs : s.stays c = false) :
    (l.foldl f s).stays c = false := (foldl_stays f c hf l s).trans hs

/-- R282, R454: a scratchpad store writes its lanes in order, then each armed object it touched is evaluated. -/
theorem sstCompletes (w : Word) (s s0 : State) (cx : Cx) (vec : Bool) (hvec : vec = isVector (Instr.sst w).form (headR w))
    (h : Begins (.sst w) (Rules.releaseOf w) (∀ k ∈ cx.arms vec, s.rank10 cx [] (aligned (cx.scrAccs w vec k) (accBytes w)) false = none) s cx s0)
    (hdebug : (s.tenant cx.tenant).debugCfg.getLsbD 1 = false) :
    exec (.sst w) s = .next (cx.ends (.sst w) (fun cx k s =>
      let l := cx.scrAccs w vec k
      (s.armedAll cx.c.team l).foldl (fun s g => s.evalBobj cx.c.team (16 * g))
        (l.foldl (fun s x => s.scrWrite cx.c.team x.va x.n (cx.data w vec k x.lane)) s)) s0) := by
  have hv : isVector (Instr.sst w).form cx.h = vec := by rw [head_of_gate h.go rfl, hvec]
  subst hvec
  refine issue_begins_ends _ h rfl rfl rfl rfl rfl (fun hr a ha => hr a (hv ▸ ha)) (fun _ _ _ => ?clobber) ?scope (fun _ => rfl) ?settles
  case clobber =>
    dsimp only
    rw [hdebug]
    rfl
  case scope => simp only [Rules.releaseOf, orderOf, beq_iff_eq]
  case settles => exact fun cx' a u _ hu => foldl_settled _ _ (fun _ _ => evalBobj_stays ..) _ (foldl_settled _ _ (fun _ _ => scrWrite_stays ..) _ hu)

/-- Settles O18: SLD by its one effect, SST by its effect at the first issue or after its release. -/
theorem scratchpadComplete : Obligations.ScratchpadComplete := ⟨sldCompletes, sstCompletes⟩

/-! ### Atomics (R99, R287 to R290) -/

/-- The effect of the body that the atomics share. -/
theorem atomBody_run (w : Word) (vec : Bool) (n dn : Nat) (t : Ty) (cas : Bool) (op : Cx → Nat → Nat → Nat → SliceOp) : (atomBody w vec n dn t cas op).run = Rules.atomic w vec n dn t op := by
  funext cx k s
  simp only [atomBody, Rules.atomic, orderOf, Bool.or_eq_true, beq_iff_eq]

theorem atomic_settles (w : Word) (vec : Bool) (n dn : Nat) (t : Ty) (cas : Bool) (op : Cx → Nat → Nat → Nat → SliceOp) (c : CtxId) : (atomBody w vec n dn t cas op).Settles c := by
  intro cx a u _ hu
  rw [atomBody_run]
  exact (stays_congr ((sendOps_groups ..).trans (fills_groups ..)) c).trans hu

/-- An atomic whose accesses meet no condition completes, its operations sent. -/
theorem issue_atom {i : Instr} {w : Word} {vec : Bool} {n : Nat} {s s0 : State} {cx : Cx} (dn : Nat) (t : Ty) (cas : Bool) (op : Cx → Nat → Nat → Nat → SliceOp)
    (hcap : i.form.cap = false) (hi : i.head = some (headR w)) (hvec : vec = isVector i.form (headR w)) (hp : cx.pure)
    (h : Begins i (Rules.atomicRelease w) (∀ k ∈ cx.arms vec, s.rank10 cx (aligned (cx.atomAccs w vec k n) n) [] true = none ∧ s.rank11 cx (cx.atomAccs w vec k n) (needRW cx.priv) = none) s cx s0) :
    issue i s (atomBody w vec n dn t cas op) = .next (cx.ends i (Rules.atomic w vec n dn t op) s0) := by
  have hv : isVector i.form cx.h = vec := by rw [head_of_gate h.go hi, hvec]
  rw [issue_begins _ h rfl rfl rfl (fun _ => hp.poison _) (fun _ => hp.deferred ..) (fun hr a ha => (hr a (hv ▸ ha)).1) (fun hr a ha => (hr a (hv ▸ ha)).2) ?scope (fun _ => rfl)
    (atomic_settles w vec n dn t cas op _), atomBody_run, completes_eq_ends cx _ _ _ (h.cap_none hcap)]
  case scope => simp only [atomBody, Rules.atomicRelease, orderOf, Bool.or_eq_true, beq_iff_eq]

/-- Settles O20: the five instructions share one body. -/
theorem atomicsComplete : Obligations.AtomicsComplete := by
  intro w s s0 cx vec r hr hvec hp h
  simp only [Rules.atomicRows, List.mem_cons, List.not_mem_nil, or_false] at hr
  rcases hr with rfl | rfl | rfl | rfl | rfl <;> dsimp only at hvec <;> subst hvec
  · exact issue_atom _ _ _ _ rfl rfl rfl hp h
  · exact issue_atom _ _ _ _ rfl rfl rfl hp h
  · exact issue_atom _ _ _ _ rfl rfl rfl hp h
  · exact issue_atom _ _ _ _ rfl rfl rfl hp h
  · exact issue_atom _ _ _ _ rfl rfl rfl hp h

end Sys2Proof.Machine

namespace Sys2Proof.Machine

/-! ### Atomics on integers (R288) -/

theorem un_ofNat (t : Ty) (n : Nat) : un t (BitVec.ofNat 64 n) = n % 2 ^ t.bits := by
  unfold un
  rw [BitVec.toNat_ofNat, Nat.mod_mod_of_dvd n (Nat.pow_dvd_pow 2 (bits_le_64 t))]

theorem un_ofNat_lt {t : Ty} {n : Nat} (h : n < 2 ^ t.bits) : un t (BitVec.ofNat 64 n) = n := by rw [un_ofNat, Nat.mod_eq_of_lt h]

/-- An integer and the pattern that it is read from are congruent. -/
theorem toInt_emod (t : Ty) (x : W64) : t.toInt x % (2 ^ t.bits : Nat) = (un t x : Int) := by
  have hlt := un_lt t x
  have hm : ((un t x : Nat) : Int) % (2 ^ t.bits : Nat) = un t x := Int.emod_eq_of_lt (by omega) (by omega)
  unfold Ty.toInt
  split
  · unfold sgn
    split
    · exact hm
    · rw [show (2 : Int) ^ t.bits = ((2 ^ t.bits : Nat) : Int) by push_cast; rfl, Int.sub_emod_right]
      exact hm
  · exact hm

theorem un_wrap (t : Ty) (x : Int) : (un t (t.wrap x) : Int) = x % (2 ^ t.bits : Nat) := by
  have hpos : (0 : Int) < (2 ^ t.bits : Nat) := by exact_mod_cast Nat.two_pow_pos _
  have h0 := Int.emod_nonneg x (Int.ne_of_gt hpos)
  have h1 := Int.emod_lt_of_pos x hpos
  unfold Ty.wrap wrapN
  rw [un_ofNat_lt (by omega), Int.toNat_of_nonneg h0]

/-- The pattern of a type alone decides the integer that a word is read as. -/
theorem toInt_ofNat_un (t : Ty) (x : W64) : t.toInt (BitVec.ofNat 64 (un t x)) = t.toInt x := by
  have h : (BitVec.ofNat 64 (un t x)).toNat % 2 ^ t.bits = x.toNat % 2 ^ t.bits := un_ofNat_lt (un_lt t x)
  simp only [Ty.toInt, sgn, h]

/-- Settles O21, operation by operation; the sums are congruences of the patterns. -/
theorem atomicFunctions : Obligations.AtomicFunctions := by
  intro t old v c hint o
  have ho : o < 2 ^ t.bits := un_lt t old
  have hv := un_lt t v
  have hadd : ∀ x y : W64, (t.toInt x + t.toInt y) % (2 ^ t.bits : Nat) = ((un t x : Int) + un t y) % (2 ^ t.bits : Nat) := fun x y => by
    rw [Int.add_emod, toInt_emod, toInt_emod]
  refine ⟨?add, ?sub, ?min_, ?max_, ?and_, ?or_, ?xor_, un_ofNat_lt hv, ?cas, ?inc, ?dec⟩
  case add =>
    have h : (un t (atomNew t 0 old v c) : Int) = ((o : Int) + un t v) % (2 ^ t.bits : Nat) := (un_wrap t _).trans (hadd old v)
    exact_mod_cast h
  case sub =>
    have h : (un t (atomNew t 1 old v c) : Int) = (t.toInt old - t.toInt v) % (2 ^ t.bits : Nat) := un_wrap t _
    have hs : ((un t (atomNew t 1 old v c) : Int) + un t v) % (2 ^ t.bits : Nat) = o := by
      rw [h, ← toInt_emod t v, ← Int.add_emod, Int.sub_add_cancel, toInt_emod]
    exact_mod_cast hs
  case min_ =>
    simp only [atomNew]
    split <;> rw [toInt_ofNat_un] <;> omega
  case max_ =>
    simp only [atomNew]
    split <;> rw [toInt_ofNat_un] <;> omega
  case and_ => exact un_ofNat_lt (Nat.and_lt_two_pow _ hv)
  case or_ => exact un_ofNat_lt (Nat.or_lt_two_pow ho hv)
  case xor_ => exact un_ofNat_lt (Nat.xor_lt_two_pow ho hv)
  case cas =>
    simp only [atomNew]
    split
    · exact un_ofNat_lt hv
    · exact un_ofNat_lt ho
  case inc =>
    simp only [atomNew]
    split
    · exact un_ofNat_lt (Nat.two_pow_pos _)
    · exact un_ofNat_lt (by omega)
  case dec =>
    simp only [atomNew]
    split
    · exact un_ofNat_lt hv
    · exact un_ofNat_lt (by omega)

/-! ### Bit fields (R243) -/

/-- Bit i of an integer in two's complement. -/
def intBit (x : Int) (i : Nat) : Bool := x / (2 ^ i : Nat) % 2 = 1

theorem intBit_natCast (n i : Nat) : intBit n i = n.testBit i := by
  unfold intBit
  rw [Nat.testBit_eq_decide_div_mod_eq]
  norm_cast

theorem emod_two_pow_succ (x : Int) (m : Nat) : x % (2 ^ (m + 1) : Nat) = x % (2 ^ m : Nat) + (2 ^ m : Nat) * (x / (2 ^ m : Nat) % 2) := by
  have hpos : (0 : Int) < (2 ^ m : Nat) := by exact_mod_cast Nat.two_pow_pos m
  have hq := Int.emod_add_mul_ediv x (2 ^ m : Nat)
  have hlo := Int.emod_nonneg x (Int.ne_of_gt hpos)
  have hhi := Int.emod_lt_of_pos x hpos
  have hb := Int.emod_add_mul_ediv (x / (2 ^ m : Nat)) 2
  have hpow : ((2 ^ (m + 1) : Nat) : Int) = 2 * (2 ^ m : Nat) := by rw [Nat.pow_succ', Int.natCast_mul]; rfl
  have hcase : x / (2 ^ m : Nat) % 2 = 0 ∨ x / (2 ^ m : Nat) % 2 = 1 := by omega
  rw [hpow]
  generalize ((2 ^ m : Nat) : Int) = P at *
  refine ((Int.ediv_emod_unique (q := x / P / 2) (by omega)).mpr ⟨?_, ?_, ?_⟩).2
  · calc x % P + P * (x / P % 2) + 2 * P * (x / P / 2) = x % P + P * (x / P % 2 + 2 * (x / P / 2)) := by
          rw [Int.mul_add, Int.add_assoc, ← Int.mul_assoc, Int.mul_comm P 2]
      _ = x := by rw [hb, hq]
  · rcases hcase with h | h <;> rw [h] <;> omega
  · rcases hcase with h | h <;> rw [h] <;> omega

/-- The bits of an integer from p on, as a number. -/
def bitsFrom (x : Int) (p m : Nat) : Nat := ((List.range m).map (fun i => if intBit x (p + i) then 2 ^ i else 0)).sum

theorem bitsFrom_succ (x : Int) (p m : Nat) : bitsFrom x p (m + 1) = bitsFrom x p m + if intBit x (p + m) then 2 ^ m else 0 := by
  simp [bitsFrom, List.range_succ]

/-- A field of an integer is the number of its bits. -/
theorem field_eq_bitsFrom (x : Int) (p m : Nat) : x / (2 ^ p : Nat) % (2 ^ m : Nat) = bitsFrom x p m := by
  induction m with
  | zero => simp [bitsFrom]
  | succ m ih =>
    have hd : x / (2 ^ p : Nat) / (2 ^ m : Nat) = x / (2 ^ (p + m) : Nat) := by
      rw [Int.ediv_ediv_of_nonneg (Int.natCast_nonneg _), ← Int.natCast_mul, ← Nat.pow_add]
    rw [emod_two_pow_succ, ih, hd, bitsFrom_succ]
    unfold intBit
    have hcase : x / (2 ^ (p + m) : Nat) % 2 = 0 ∨ x / (2 ^ (p + m) : Nat) % 2 = 1 := by omega
    rcases hcase with h | h <;> rw [h] <;> simp

theorem bitsFrom_lt (x : Int) (p m : Nat) : bitsFrom x p m < 2 ^ m := by
  have h := Int.emod_lt_of_pos (x / (2 ^ p : Nat)) (b := (2 ^ m : Nat)) (by exact_mod_cast Nat.two_pow_pos m)
  rw [field_eq_bitsFrom] at h
  exact_mod_cast h

/-- Bits of a pattern read as signed: its own, and its sign above its width. -/
theorem intBit_sgn {n : Nat} (hn : 0 < n) (x i : Nat) : intBit (sgn n x) i = if i < n then (x % 2 ^ n).testBit i else (x % 2 ^ n).testBit (n - 1) := by
  have hlt : x % 2 ^ n < 2 ^ n := Nat.mod_lt _ (Nat.two_pow_pos n)
  have hpow : 2 ^ n = 2 * 2 ^ (n - 1) := by rw [← Nat.pow_succ']; congr 1; omega
  unfold sgn
  generalize x % 2 ^ n = u at *
  split
  · next h =>
    rw [intBit_natCast]
    split
    · rfl
    · next hi => rw [Nat.testBit_lt_two_pow (Nat.lt_of_lt_of_le h (Nat.pow_le_pow_right (by decide) (by omega))), Nat.testBit_lt_two_pow h]
  · next h =>
    split
    · next hi =>
      have hp : (2 : Int) ^ n = (2 ^ (n - i) : Nat) * (2 ^ i : Nat) := by
        rw [← Int.natCast_mul, ← Nat.pow_add, Nat.sub_add_cancel (Nat.le_of_lt hi)]
        push_cast
        rfl
      have he : ((2 ^ (n - i) : Nat) : Int) % 2 = 0 := by
        obtain ⟨k, hk⟩ : ∃ k, n - i = k + 1 := ⟨n - i - 1, by omega⟩
        rw [hk, Nat.pow_succ]
        push_cast
        omega
      rw [← intBit_natCast]
      unfold intBit
      rw [hp, Int.sub_mul_ediv_right _ _ (Int.ne_of_gt (Int.natCast_pos.mpr (Nat.two_pow_pos i)))]
      exact decide_eq_decide.mpr (by omega)
    · next hi =>
      have hsign : u.testBit (n - 1) = true := by
        rw [Nat.testBit_eq_decide_div_mod_eq, decide_eq_true_eq]
        have : u / 2 ^ (n - 1) = 1 := Nat.div_eq_of_lt_le (by omega) (by omega)
        rw [this]
      have hneg : ((u : Int) - 2 ^ n) / (2 ^ i : Nat) = -1 := by
        have hpi : (2 : Nat) ^ n ≤ 2 ^ i := Nat.pow_le_pow_right (by decide) (by omega)
        have hc : (2 : Int) ^ n = ((2 ^ n : Nat) : Int) := by push_cast; rfl
        have hs := ediv_of_small (y := (u : Int) - 2 ^ n) (m := (2 ^ i : Nat)) (by omega) (by omega)
        rw [hs, if_pos (by omega)]
      rw [hsign]
      unfold intBit
      rw [hneg]
      rfl

/-- Bits of a word read in an integer type: the pattern's, and beyond its width its sign's (R243). -/
theorem intBit_toInt (t : Ty) (a : W64) (i : Nat) :
    intBit (t.toInt a) i = if i < t.bits then (un t a).testBit i else t.signed && (un t a).testBit (t.bits - 1) := by
  have hn : 0 < t.bits := by cases t <;> decide
  unfold Ty.toInt
  cases hs : t.signed
  · simp only [Bool.false_eq_true, if_false, Bool.false_and]
    rw [intBit_natCast]
    split
    · rfl
    · next hi => exact Nat.testBit_lt_two_pow (Nat.lt_of_lt_of_le (un_lt t a) (Nat.pow_le_pow_right (by decide) (by omega)))
  · simp only [if_true, Bool.true_and]
    exact intBit_sgn hn a.toNat i

/-- The cut of the position shows in no field. -/
theorem toInt_shift_eq (t : Ty) (a p : W64) : t.toInt a / (2 ^ shCount t p : Nat) = t.toInt a / (2 ^ un t p : Nat) := by
  unfold Ty.toInt
  split
  · exact shiftArith_eq t a p
  · exact_mod_cast shiftRight_eq t a p

/-- A number with a field replaced, bit by bit. -/
theorem testBit_setFld (x lo k v j : Nat) (hk : 0 < k) :
    (setFld x (lo + k - 1) lo v).testBit j = if lo ≤ j ∧ j < lo + k then v.testBit (j - lo) else x.testBit j := by
  have hw : lo + k - 1 + 1 - lo = k := by omega
  have hx : x = 2 ^ lo * (2 ^ k * (x / 2 ^ lo / 2 ^ k) + x / 2 ^ lo % 2 ^ k) + x % 2 ^ lo := by
    rw [Nat.div_add_mod, Nat.div_add_mod]
  have hs : setFld x (lo + k - 1) lo v = 2 ^ lo * (2 ^ k * (x / 2 ^ lo / 2 ^ k) + v % 2 ^ k) + x % 2 ^ lo := by
    unfold setFld fld
    rw [hw, Nat.shiftRight_eq_div_pow]
    conv => lhs; enter [1, 1]; rw [hx]
    rw [Nat.mul_add, Nat.mul_add, Nat.mul_comm (x / 2 ^ lo % 2 ^ k) (2 ^ lo), Nat.mul_comm (v % 2 ^ k) (2 ^ lo)]
    omega
  have hr : x % 2 ^ lo < 2 ^ lo := Nat.mod_lt _ (Nat.two_pow_pos lo)
  have hv : v % 2 ^ k < 2 ^ k := Nat.mod_lt _ (Nat.two_pow_pos k)
  have hf : x / 2 ^ lo % 2 ^ k < 2 ^ k := Nat.mod_lt _ (Nat.two_pow_pos k)
  rw [hs]
  conv => rhs; rw [hx]
  rw [Nat.testBit_two_pow_mul_add _ hr, Nat.testBit_two_pow_mul_add _ hr]
  by_cases h1 : j < lo
  · rw [if_pos h1, if_neg (by omega), if_pos h1]
  · rw [if_neg h1, if_neg h1, Nat.testBit_two_pow_mul_add _ hv, Nat.testBit_two_pow_mul_add _ hf]
    by_cases h2 : j < lo + k
    · rw [if_pos (by omega), if_pos (by omega), Nat.testBit_mod_two_pow]
      simp [show j - lo < k by omega]
    · rw [if_neg (by omega), if_neg (by omega), if_neg (by omega)]

theorem setFld_lt {x lo k v n : Nat} (hx : x < 2 ^ n) (hk : 0 < k) (hn : lo + k ≤ n) : setFld x (lo + k - 1) lo v < 2 ^ n := by
  refine Nat.lt_pow_two_of_testBit _ fun j hj => ?_
  rw [testBit_setFld _ _ _ _ _ hk, if_neg (by omega)]
  exact Nat.testBit_lt_two_pow (Nat.lt_of_lt_of_le hx (Nat.pow_le_pow_right (by decide) hj))

/-- R243: the extracted field, bit by bit. -/
theorem bitExtract_bits (t : Ty) (a p l : W64) :
    let m := min (un t l) t.bits
    bitExtract t a p l = if t.signed = true ∧ 0 < m ∧ intBit (t.toInt a) (un t p + m - 1) = true then (bitsFrom (t.toInt a) (un t p) m : Int) - (2 ^ m : Nat)
      else bitsFrom (t.toInt a) (un t p) m := by
  intro m
  have hf : t.toInt a / (2 ^ shCount t p : Nat) % (2 ^ m : Nat) = bitsFrom (t.toInt a) (un t p) m := by rw [toInt_shift_eq, field_eq_bitsFrom]
  unfold bitExtract
  dsimp only
  rw [show Nat.min (un t l) t.bits = m from rfl, hf]
  refine ite_congr (propext ?_) (fun _ => rfl) (fun _ => rfl)
  rcases Nat.eq_zero_or_pos m with h0 | hpos
  · simp [h0]
  · obtain ⟨k, hk⟩ : ∃ k, m = k + 1 := ⟨m - 1, by omega⟩
    have hlt := bitsFrom_lt (t.toInt a) (un t p) k
    rw [hk, bitsFrom_succ, show un t p + (k + 1) - 1 = un t p + k by omega]
    simp only [Nat.add_sub_cancel, Bool.and_eq_true, bne_iff_ne, decide_eq_true_eq, Int.ofNat_le]
    cases intBit (t.toInt a) (un t p + k)
    · simp [hlt]
    · simp

/-- R243: BFX and BFI, bit by bit. -/
theorem bitFieldsAreBitwise : Rules.BitFieldsAreBitwise := by
  intro t a p l d hint n m bit f
  have hbit : ∀ i, bit i = intBit (t.toInt a) i := fun i => (intBit_toInt t a i).symm
  have hd := un_lt t d
  refine ⟨?_, ?_⟩
  · have hf : f = bitsFrom (t.toInt a) (un t p) m := by simp only [f, bitsFrom, hbit]
    rw [hf, hbit]
    exact bitExtract_bits t a p l
  · unfold bitInsert
    rw [show Nat.min (un t l) t.bits = m from rfl]
    dsimp only
    rcases Nat.eq_zero_or_pos (Nat.min m (t.bits - un t p)) with h0 | hpos
    · rw [if_pos h0]
      refine ⟨by omega, by exact_mod_cast hd, fun j hj => ?_⟩
      rw [Int.toNat_natCast, if_neg]
      have : min m (t.bits - un t p) = 0 := h0
      omega
    · have hk : un t p + Nat.min m (t.bits - un t p) ≤ t.bits := by
        have : 0 < min m (t.bits - un t p) := hpos
        show un t p + min m (t.bits - un t p) ≤ t.bits
        omega
      rw [if_neg (by omega)]
      refine ⟨by omega, by exact_mod_cast setFld_lt hd hpos hk, fun j hj => ?_⟩
      rw [Int.toNat_natCast, testBit_setFld _ _ _ _ _ hpos]
      refine ite_congr (propext ?_) (fun _ => rfl) (fun _ => rfl)
      show un t p ≤ j ∧ j < un t p + min m (t.bits - un t p) ↔ _
      omega

end Sys2Proof.Machine

namespace Sys2Proof.Machine

/-! ### The order of the patterns of a float format (R254) -/

/-- The magnitude of a code without its sign, in units of the format's smallest step. -/
def floatUnits (f : Fmt) (c : Nat) : Nat := if c / 2 ^ f.mb = 0 then c else (c % 2 ^ f.mb + 2 ^ f.mb) * 2 ^ (c / 2 ^ f.mb - 1)

theorem floatUnits_of_parts (f : Fmt) {e r : Nat} (hr : r < 2 ^ f.mb) : floatUnits f (2 ^ f.mb * e + r) = if e = 0 then r else (r + 2 ^ f.mb) * 2 ^ (e - 1) := by
  have hd : (2 ^ f.mb * e + r) / 2 ^ f.mb = e := by rw [Nat.mul_add_div (Nat.two_pow_pos _), Nat.div_eq_of_lt hr, Nat.add_zero]
  have hm : (2 ^ f.mb * e + r) % 2 ^ f.mb = r := by rw [Nat.mul_add_mod, Nat.mod_eq_of_lt hr]
  unfold floatUnits
  rw [hd, hm]
  by_cases he : e = 0
  · simp [he]
  · simp [he]

/-- The next code has the greater magnitude, across the exponents too. -/
theorem floatUnits_lt_succ (f : Fmt) (c : Nat) : floatUnits f c < floatUnits f (c + 1) := by
  have hr := Nat.mod_lt c (Nat.two_pow_pos f.mb)
  rw [← Nat.div_add_mod c (2 ^ f.mb)]
  generalize c / 2 ^ f.mb = e at *
  generalize c % 2 ^ f.mb = r at *
  rw [floatUnits_of_parts f hr]
  by_cases hlast : r + 1 < 2 ^ f.mb
  · rw [Nat.add_assoc, floatUnits_of_parts f hlast]
    split
    · omega
    · exact Nat.mul_lt_mul_of_pos_right (by omega) (Nat.two_pow_pos _)
  · have hnext : 2 ^ f.mb * e + r + 1 = 2 ^ f.mb * (e + 1) + 0 := by rw [Nat.mul_add, Nat.mul_one]; omega
    rw [hnext, floatUnits_of_parts f (Nat.two_pow_pos _), if_neg (Nat.succ_ne_zero e), Nat.zero_add, Nat.add_sub_cancel]
    by_cases h : e = 0
    · subst h
      simpa using hr
    · rw [if_neg h]
      obtain ⟨k, rfl⟩ : ∃ k, e = k + 1 := ⟨e - 1, by omega⟩
      rw [Nat.add_sub_cancel, @Nat.pow_succ' 2 k, ← Nat.mul_assoc]
      exact Nat.mul_lt_mul_of_pos_right (by omega) (Nat.two_pow_pos _)

theorem floatUnits_lt (f : Fmt) {a b : Nat} (h : a < b) : floatUnits f a < floatUnits f b := by
  induction h with
  | refl => exact floatUnits_lt_succ f a
  | step _ ih => exact Nat.lt_trans ih (floatUnits_lt_succ f _)

theorem floatUnits_zero (f : Fmt) : floatUnits f 0 = 0 := by simp [floatUnits]

/-- The units of a signed code. -/
def signedUnits (f : Fmt) (k : Int) : Int := k.sign * floatUnits f k.natAbs

theorem signedUnits_natCast (f : Fmt) (c : Nat) : signedUnits f c = floatUnits f c := by
  rcases Nat.eq_zero_or_pos c with rfl | h
  · simp [signedUnits, floatUnits_zero]
  · simp [signedUnits, Int.sign_eq_one_of_pos (by exact_mod_cast h : (0 : Int) < c)]

theorem signedUnits_neg (f : Fmt) (k : Int) : signedUnits f (-k) = -signedUnits f k := by
  unfold signedUnits
  rw [Int.sign_neg, Int.natAbs_neg, Int.neg_mul]

theorem signedUnits_lt (f : Fmt) {a b : Int} (h : a < b) : signedUnits f a < signedUnits f b := by
  have hpos : ∀ {a b : Nat}, a < b → signedUnits f a < signedUnits f b := fun h => by
    rw [signedUnits_natCast, signedUnits_natCast]
    exact Int.ofNat_lt.mpr (floatUnits_lt f h)
  have hzero : signedUnits f 0 = 0 := by simp [signedUnits]
  have hnonneg : ∀ a : Nat, 0 ≤ signedUnits f a := fun a => by rw [signedUnits_natCast]; omega
  obtain ⟨m, rfl | rfl⟩ := a.eq_nat_or_neg <;> obtain ⟨n, rfl | rfl⟩ := b.eq_nat_or_neg
  · exact hpos (Int.ofNat_lt.mp h)
  · omega
  · rw [signedUnits_neg]
    rcases Nat.eq_zero_or_pos n with rfl | hn
    · have hm : signedUnits f (0 : Nat) < signedUnits f m := hpos (by omega)
      rw [Int.natCast_zero, hzero] at hm ⊢
      omega
    · have hn : signedUnits f (0 : Nat) < signedUnits f n := hpos hn
      have hm := hnonneg m
      rw [Int.natCast_zero, hzero] at hn
      omega
  · rw [signedUnits_neg, signedUnits_neg]
    have := hpos (a := n) (b := m) (by omega)
    omega

theorem signedUnits_lt_iff (f : Fmt) {a b : Int} : signedUnits f a < signedUnits f b ↔ a < b := by
  refine ⟨fun h => ?_, signedUnits_lt f⟩
  rcases Int.lt_trichotomy a b with hab | rfl | hba
  · exact hab
  · omega
  · have := signedUnits_lt f hba
    omega

theorem signedUnits_inj (f : Fmt) {a b : Int} (h : signedUnits f a = signedUnits f b) : a = b := by
  rcases Int.lt_trichotomy a b with hab | rfl | hba
  · have := signedUnits_lt f hab
    omega
  · rfl
  · have := signedUnits_lt f hba
    omega

/-! ### Values and keys -/

/-- The key of a pattern with its sign on top: the code, negative under a sign. -/
def signedCode (f : Fmt) (u : Nat) : Int := if u.testBit (f.bits - 1) then -(u % 2 ^ (f.bits - 1) : Nat) else (u % 2 ^ (f.bits - 1) : Nat)

theorem natAbs_signedCode (f : Fmt) (u : Nat) : (signedCode f u).natAbs = u % 2 ^ (f.bits - 1) := by
  unfold signedCode
  split
  · rw [Int.natAbs_neg, Int.natAbs_natCast]
  · rw [Int.natAbs_natCast]

/-- A pattern that is no NaN is finite, with its units as its value, or an infinity of its sign above every finite code. -/
theorem decode_ordered (f : Fmt) (hinf : f.hasInf = true) (hmin : 0 ≤ f.emin + 1074) (u : Nat) (h : (f.decode u).isNan = false) :
    (∃ n m e, f.decode u = .fin n m e ∧ (signedCode f u).natAbs ≤ f.top ∧ Rules.fixed n m e = signedUnits f (signedCode f u) * 2 ^ (f.emin + 1074).toNat)
    ∨ (∃ n, f.decode u = .inf n ∧ signedCode f u = if n then -((f.top + 1 : Nat) : Int) else ((f.top + 1 : Nat) : Int)) := by
  have hsigned : signedUnits f (signedCode f u) = (if u.testBit (f.bits - 1) then -1 else 1) * (floatUnits f (u % 2 ^ (f.bits - 1)) : Int) := by
    unfold signedCode
    split
    · rw [signedUnits_neg, signedUnits_natCast, Int.neg_one_mul]
    · rw [signedUnits_natCast, Int.one_mul]
  unfold Fmt.decode at h ⊢
  simp only [hinf, Bool.true_and, beq_iff_eq] at h ⊢
  rw [hsigned, natAbs_signedCode]
  generalize hc : u % 2 ^ (f.bits - 1) = c at *
  by_cases htop : f.top < c
  · right
    rw [if_pos htop] at h ⊢
    by_cases hi : c = f.top + 1
    · refine ⟨u.testBit (f.bits - 1), by rw [if_pos hi], ?_⟩
      unfold signedCode
      rw [hc, hi]
    · rw [if_neg hi] at h
      exact absurd h (by simp [FVal.isNan])
  · left
    rw [if_neg htop]
    by_cases he : c / 2 ^ f.mb = 0
    · refine ⟨u.testBit (f.bits - 1), c, f.emin, by rw [if_pos he], by omega, ?_⟩
      simp [Rules.fixed, floatUnits, he]
    · refine ⟨u.testBit (f.bits - 1), _, _, by rw [if_neg he], Nat.not_lt.mp htop, ?_⟩
      obtain ⟨k, hk⟩ : ∃ k, c / 2 ^ f.mb = k + 1 := Nat.exists_eq_succ_of_ne_zero he
      have hexp : (f.emin + ((c / 2 ^ f.mb : Nat) : Int) - 1 + 1074).toNat = k + (f.emin + 1074).toNat := by
        rw [hk]
        push_cast
        omega
      rw [Rules.fixed, hexp, floatUnits, if_neg he, hk, Int.pow_add, Nat.add_sub_cancel, Int.natCast_mul, Int.mul_assoc, Int.mul_assoc, Int.mul_assoc]
      rfl

/-- Equality and order of two values that are no NaN are those of their keys. -/
theorem ordered_iff_keys (f : Fmt) (hinf : f.hasInf = true) (hmin : 0 ≤ f.emin + 1074) {u v : Nat} (hu : (f.decode u).isNan = false) (hv : (f.decode v).isNan = false) :
    (Rules.same (f.decode u) (f.decode v) ↔ signedCode f u = signedCode f v) ∧ (Rules.less (f.decode u) (f.decode v) ↔ signedCode f u < signedCode f v) := by
  have hp : (0 : Int) < 2 ^ (f.emin + 1074).toNat := Int.pow_pos (by decide)
  rcases decode_ordered f hinf hmin u hu with ⟨n, m, e, he, hle, hval⟩ | ⟨n, he, hk⟩ <;>
    rcases decode_ordered f hinf hmin v hv with ⟨n', m', e', he', hle', hval'⟩ | ⟨n', he', hk'⟩ <;> rw [he, he']
  · simp only [Rules.same, Rules.less]
    rw [hval, hval']
    exact ⟨⟨fun h => signedUnits_inj f (Int.eq_of_mul_eq_mul_right (Int.ne_of_gt hp) h), fun h => by rw [h]⟩,
      ⟨fun h => (signedUnits_lt_iff f).mp (Int.lt_of_mul_lt_mul_right h (Int.le_of_lt hp)), fun h => Int.mul_lt_mul_of_pos_right (signedUnits_lt f h) hp⟩⟩
  · simp only [Rules.same, Rules.less]
    rw [hk']
    cases n' <;> simp <;> omega
  · simp only [Rules.same, Rules.less]
    rw [hk]
    cases n <;> simp <;> omega
  · simp only [Rules.same, Rules.less]
    rw [hk, hk']
    cases n <;> cases n' <;> simp <;> omega

/-- The formats of the float types have infinities and steps no smaller than 2^-1074, and their types' widths. -/
theorem fmt_of_float {t : Ty} (h : t.isFloat = true) : t.fmt.hasInf = true ∧ 0 ≤ t.fmt.emin + 1074 ∧ t.fmt.bits = t.bits := by
  revert h
  cases t <;> decide

/-- The key of a word is its pattern's code. -/
theorem keyF_eq {t : Ty} (h : t.isFloat = true) (x : W64) : keyF t false x = signedCode t.fmt (x.toNat % 2 ^ t.bits) := by
  obtain ⟨-, -, hbits⟩ := fmt_of_float h
  have hpos : 0 < t.bits := by cases t <;> decide
  unfold keyF signedCode
  rw [hbits, Nat.testBit_mod_two_pow, Nat.mod_mod_of_dvd _ (Nat.pow_dvd_pow 2 (by omega)), show decide (t.bits - 1 < t.bits) = true by simp; omega]
  simp

/-- R240, R254: the conditions, each by its own row. -/
theorem conditionsMeanTheirTables : Rules.ConditionsMeanTheirTables := by
  refine ⟨fun t a b => ?ints, fun t a b h cc hcc => ?nans, fun t a b hf ha hb => ?floats⟩
  case ints => simp only [intCond, decide_eq_true_eq, true_and, iff_self, and_self]
  case nans =>
    have huno : ((decodeF t a).isNan || (decodeF t b).isNan) = true := by simpa using h
    unfold floatCond
    rw [huno]
    obtain rfl | rfl | rfl | rfl | rfl | rfl | rfl | rfl : cc = 0 ∨ cc = 1 ∨ cc = 2 ∨ cc = 3 ∨ cc = 4 ∨ cc = 5 ∨ cc = 6 ∨ cc = 7 := by omega
    all_goals rfl
  case floats =>
    intro x y
    obtain ⟨hinf, hmin, -⟩ := fmt_of_float hf
    obtain ⟨hsame, hless⟩ := ordered_iff_keys t.fmt hinf hmin ha hb
    obtain ⟨-, hless'⟩ := ordered_iff_keys t.fmt hinf hmin hb ha
    rw [← keyF_eq hf, ← keyF_eq hf] at hsame hless hless'
    have hx : Rules.same x y ↔ keyF t false a = keyF t false b := hsame
    have hy : Rules.less x y ↔ keyF t false a < keyF t false b := hless
    have hz : Rules.less y x ↔ keyF t false b < keyF t false a := hless'
    rw [hx, hy, hz]
    simp only [floatCond, ha, hb, Bool.or_self, Bool.not_false, Bool.true_and, Bool.false_or, decide_eq_true_eq, true_and, iff_self, and_true]
    omega

/-- Settles O3: the fields by the bits of an integer, the float conditions by the order of codes. -/
theorem fieldsAndConditions : Obligations.FieldsAndConditions := ⟨bitFieldsAreBitwise, conditionsMeanTheirTables⟩

end Sys2Proof.Machine

namespace Sys2Proof.Machine

/-! ### States that differ in what is on its way (R70 to R74) -/

/-- `t` is `s` but for groups, cores, requests and results on their way: what accesses leave of a state at issue. -/
def Wires (s t : State) : Prop :=
  t = { s with groups := t.groups, cores := t.cores, reqs := t.reqs, merges := t.merges, asyncs := t.asyncs, hole := t.hole, nextId := t.nextId, fresh := t.fresh }

namespace Wires

theorem refl (s : State) : Wires s s := rfl

theorem trans {s t u : State} (h : Wires s t) (h' : Wires t u) : Wires s u := by
  unfold Wires at h h' ⊢
  rw [h] at h'
  exact h'

theorem foldl {α : Type} (f : State → α → State) (hf : ∀ s x, Wires s (f s x)) (l : List α) (s : State) : Wires s (l.foldl f s) := by
  induction l generalizing s with
  | nil => exact refl s
  | cons x t ih => exact (hf s x).trans (ih _)

theorem updCore (s : State) (n : Nat) (f) : Wires s (s.updCore n f) := rfl
theorem updGroup (s : State) (t k : Nat) (f) : Wires s (s.updGroup t k f) := rfl
theorem noFill (s : State) (core : Nat) (p) : Wires s (s.noFill core p) := rfl
theorem invalidate (s : State) (core : Nat) (p) : Wires s (s.invalidate core p) := rfl

theorem note (s : State) (pa : Nat) : Wires s (s.note pa) := by
  unfold State.note
  split
  · rfl
  · exact refl s

theorem send (s : State) (r : Req) : Wires s (s.send r) := (note s _).trans rfl

theorem writeBack (s : State) (core ln : Nat) (l : List (Nat × Nat)) : Wires s (s.writeBack core ln l) := by
  unfold State.writeBack
  split
  · exact refl s
  · dsimp only
    split
    · exact refl s
    · exact ((noFill s _ _).trans (send ..)).trans (updCore ..)

theorem evict (s : State) (core ln : Nat) : Wires s (s.evict core ln) := by
  unfold State.evict
  exact (writeBack ..).trans (updCore ..)

theorem alloc (s : State) (core ln : Nat) (next : Bool) (tag : Tag) : Wires s (s.alloc core ln next tag) := by
  unfold State.alloc
  dsimp only
  split
  · exact refl s
  · refine trans ?_ (updCore ..)
    split
    · exact refl s
    · split
      · exact evict ..
      · split
        · exact (evict ..).trans rfl
        · exact refl s

theorem store (s : State) (core : Nat) (tag : Tag) (pa n v hint : Nat) : Wires s (s.store core tag pa n v hint) := by
  unfold State.store
  exact ((note ..).trans (alloc ..)).trans (updCore ..)

theorem fillCore (s : State) (core : Nat) (e : TlbEntry) : Wires s (s.fillCore core e) := by
  unfold State.fillCore
  dsimp only
  split
  · exact refl s
  · split <;> rfl

theorem fills (s : State) (core tenant : Nat) (l : List Acc) : Wires s (s.fills core tenant l) := by
  unfold State.fills
  refine foldl _ (fun s a => foldl _ (fun s p => ?_) _ _) _ _
  split
  · exact fillCore ..
  · exact refl s

theorem blurParts (s : State) (tag : Tag) (l : List Part) : Wires s (s.blurParts tag l).1 := by
  induction l generalizing s with
  | nil => exact refl s
  | cons p t ih =>
    refine trans (t := (s.blurPart tag p).1) ?_ (ih _)
    unfold State.blurPart
    dsimp only
    split
    · exact refl s
    · rfl

theorem loadParts (s : State) (core : Nat) (tag : Tag) (id : Nat) (l : List Part) (hint : Nat) (strong : Bool) : Wires s (s.loadParts core tag id l hint strong).1 := by
  unfold State.loadParts
  dsimp only
  refine trans (trans ?_ (foldl _ (fun s p => ?_) _ _)) (foldl _ (fun s ln => send ..) _ _)
  · split
    · exact blurParts ..
    · exact refl s
  · split
    · exact refl s
    · exact note ..

theorem startLoad (s : State) (x : Async) (hint : Nat) (strong : Bool) : Wires s (s.startLoad x hint strong) := by
  unfold State.startLoad
  refine trans (t := { s with nextId := s.nextId + 1 }) rfl ?_
  exact (loadParts ..).trans rfl

theorem addAsync (s : State) (x : Async) : Wires s (s.addAsync x) := rfl

theorem storeLines (cx : Cx) (l : List (Nat × Nat × Nat)) (hint : Nat) (s : State) : Wires s (cx.storeLines l hint s) := by
  unfold Cx.storeLines
  exact foldl _ (fun s ln => foldl _ (fun s p => store ..) _ _) _ _

theorem bypass (s : State) (core : Nat) (tag : Tag) (l : List (Nat × Nat × Nat)) (strong : Bool) : Wires s (s.bypass core tag l strong) := by
  unfold State.bypass
  refine foldl _ (fun s ln => ?_) _ _
  exact ((noFill s _ _).trans (send ..)).trans (updCore ..)

theorem storeOut (cx : Cx) (l : List (Nat × Nat)) (s : State) : Wires s (cx.storeOut l s) := by
  unfold Cx.storeOut
  exact foldl _ (fun s ln => writeBack ..) _ _

theorem storeKept (cx : Cx) (l : List (Nat × Nat)) (s : State) : Wires s (cx.storeKept l s) := by
  unfold Cx.storeKept
  exact foldl _ (fun s p => updCore ..) _ _

theorem storeMany (cx : Cx) (l : List (Nat × Nat × Nat)) (hint : Nat) (strong : Bool) (s : State) : Wires s (cx.storeMany l hint strong s) := by
  unfold Cx.storeMany
  extract_lets ps s' out
  have hs' : Wires s s' := by
    refine foldl _ (fun s p => ?_) ps s
    split
    · exact updGroup ..
    · exact refl s
  split
  · exact hs'.trans (bypass ..)
  · exact hs'.trans (storeLines ..)

theorem sendOps (s : State) (x : Async) (l : List (Part × SliceOp × Nat)) : Wires s (s.sendOps x l) := by
  unfold State.sendOps
  refine trans (t := { s with nextId := s.nextId + 1 }) rfl (trans (foldl _ (fun s k => ?_) _ _) rfl)
  split
  · exact refl s
  · exact ((writeBack ..).trans (noFill ..)).trans (send ..)

theorem acquire (s : State) (core : Nat) (t : Team) (scope : Nat) : Wires s (s.acquire core t scope) := by
  unfold State.acquire
  split
  · exact invalidate ..
  · exact refl s

theorem startRelease (s : State) (core : Nat) (t : Team) (team grp scope : Nat) : Wires s (s.startRelease core t team grp scope).1 := by
  unfold State.startRelease
  dsimp only
  split
  · exact refl s
  · split
    · exact foldl _ (fun s l => writeBack ..) _ _
    · exact refl s

theorem release (cx : Cx) (scope : Option Nat) (s : State) : Wires s (cx.release scope s).1 := by
  unfold Cx.release
  split
  · exact startRelease ..
  · exact refl s

/-! ### What such states have in common -/

variable {s t : State}

theorem mem (h : Wires s t) : t.mem = s.mem := by rw [h]
theorem hashm (h : Wires s t) : t.hashm = s.hashm := by rw [h]
theorem ops (h : Wires s t) : t.ops = s.ops := by rw [h]
theorem launches (h : Wires s t) : t.launches = s.launches := by rw [h]
theorem teams (h : Wires s t) : t.teams = s.teams := by rw [h]
theorem acks (h : Wires s t) : t.acks = s.acks := by rw [h]
theorem tenants (h : Wires s t) : t.tenants = s.tenants := by rw [h]

end Wires

end Sys2Proof.Machine

namespace Sys2Proof.Machine

/-! ### Bytes of a cache line (R70, R71) -/

theorem testBit_spread (n m j : Nat) : (spread n m).testBit j = (decide (j < 8 * n) && m.testBit (j / 8)) := by
  induction n generalizing m j with
  | zero => simp [spread]
  | succ n ih =>
    have hlow : (if m % 2 = 1 then 255 else 0) < 2 ^ 8 := by split <;> decide
    rw [spread, show (if m % 2 = 1 then 255 else 0) + 256 * spread n (m / 2) = 2 ^ 8 * spread n (m / 2) + (if m % 2 = 1 then 255 else 0) by omega,
      Nat.testBit_two_pow_mul_add _ hlow]
    by_cases hj : j < 8
    · have h0 : j / 8 = 0 := by omega
      rw [if_pos hj, h0, Nat.testBit_zero, show decide (j < 8 * (n + 1)) = true by simp; omega, Bool.true_and]
      split
      · next h =>
        rw [show (255 : Nat) = 2 ^ 8 - 1 from rfl, Nat.testBit_two_pow_sub_one]
        simp [hj, h]
      · next h => simp [h]
    · have hd : j / 8 = (j - 8) / 8 + 1 := by omega
      rw [if_neg hj, ih, hd, Nat.testBit_succ]
      congr 1
      exact decide_eq_decide.mpr (by omega)

/-- Byte i of a line. -/
def lineByte (x : BitVec 1024) (i : Nat) : Byte := BitVec.ofNat 8 (x.toNat / 2 ^ (8 * i))

theorem getLsbD_lineByte (x : BitVec 1024) (i k : Nat) : (lineByte x i).getLsbD k = (decide (k < 8) && x.getLsbD (8 * i + k)) := by
  unfold lineByte
  rw [BitVec.getLsbD_ofNat, Nat.testBit_div_two_pow, Nat.add_comm]
  rfl

/-- A merged line takes the bytes of the mask from the new value. -/
theorem lineByte_mergeBytes (m : BitVec 128) (x y : BitVec 1024) {i : Nat} (hi : i < 128) :
    lineByte (mergeBytes m x y) i = if m.getLsbD i then lineByte y i else lineByte x i := by
  refine BitVec.eq_of_getLsbD_eq fun k hk => ?_
  have hb : (BitVec.ofNat 1024 (spread 128 m.toNat)).getLsbD (8 * i + k) = m.getLsbD i := by
    rw [BitVec.getLsbD_ofNat, testBit_spread, show (8 * i + k) / 8 = i by omega]
    have h1 : 8 * i + k < 1024 := by omega
    have h2 : 8 * i + k < 8 * 128 := by omega
    simp only [h1, h2, decide_true, Bool.true_and]
    rfl
  have hw : 8 * i + k < 1024 := by omega
  rw [apply_ite (fun z : Byte => z.getLsbD k), getLsbD_lineByte, getLsbD_lineByte, getLsbD_lineByte]
  unfold mergeBytes
  simp only [BitVec.getLsbD_or, BitVec.getLsbD_and, BitVec.getLsbD_not, hb, hw, decide_true, Bool.true_and]
  cases m.getLsbD i <;> simp

theorem getLsbD_byteMask {off n i : Nat} (hi : i < 128) : (byteMask off n).getLsbD i = decide (off ≤ i ∧ i < off + n) := by
  unfold byteMask
  rw [BitVec.getLsbD_ofNat, Nat.mul_comm, Nat.testBit_two_pow_mul, Nat.testBit_two_pow_sub_one]
  simp only [hi, decide_true, Bool.true_and]
  rw [← Bool.decide_and]
  exact decide_eq_decide.mpr (by omega)

theorem lineByte_placeBytes (off v : Nat) {i : Nat} (h : off ≤ i) (hi : i < 128) : lineByte (placeBytes off v) i = BitVec.ofNat 8 (v / 2 ^ (8 * (i - off))) := by
  refine BitVec.eq_of_getLsbD_eq fun k hk => ?_
  rw [getLsbD_lineByte]
  unfold placeBytes
  rw [BitVec.getLsbD_ofNat, BitVec.getLsbD_ofNat, Nat.mul_comm v, Nat.testBit_two_pow_mul, Nat.testBit_div_two_pow]
  have h1 : 8 * i + k < 1024 := by omega
  have h2 : 8 * i + k ≥ 8 * off := by omega
  have h3 : 8 * i + k - 8 * off = k + 8 * (i - off) := by omega
  simp only [h1, h2, h3, hk, decide_true, Bool.true_and]

/-! ### What a core's cache does not hold -/

/-- A byte that a core reads past its cache: of its own writes on their way, else of memory. -/
def State.wireByte (s : State) (core pa : Nat) : Byte :=
  match (s.reqs.reverse.find? (fun r => r.core == core && r.line == pa / 128 && (match r.kind with | .write _ m _ => m.getLsbD (pa % 128) | _ => false))) with
  | some r => (match r.kind with | .write d _ _ => BitVec.ofNat 8 (d.toNat / 2 ^ (8 * (pa % 128))) | _ => 0)
  | none =>
    match s.acks.find? (fun a => a.core == core && a.line == pa / 128 && a.mask.getLsbD (pa % 128)) with
    | some a => BitVec.ofNat 8 (a.data.toNat / 2 ^ (8 * (pa % 128)))
    | none => s.mem.get pa

theorem coreByte_of_absent {s : State} {core pa : Nat} (h : (s.core core).line (pa / 128) = none) : s.coreByte core pa = s.wireByte core pa := by
  unfold State.coreByte
  simp only [h]
  rfl

theorem coreByte_of_line {s : State} {core pa : Nat} {l : Line} (h : (s.core core).line (pa / 128) = some l) :
    s.coreByte core pa = if l.dirty.getLsbD (pa % 128) || l.filled then lineByte l.data (pa % 128) else s.wireByte core pa := by
  unfold State.coreByte
  simp only [h]
  split
  · next hc =>
    split at hc
    · next hd => rw [if_pos hd]; exact (Option.some.inj hc).symm
    · cases hc
  · next hc =>
    split at hc
    · cases hc
    · next hd => rw [if_neg hd]; rfl

/-- A request writes a byte that a core reads past its cache. -/
def Req.covers (r : Req) (core pa : Nat) : Bool :=
  r.core == core && r.line == pa / 128 && (match r.kind with | .write _ m _ => m.getLsbD (pa % 128) | _ => false)

theorem Req.covers_of_line {r : Req} {pa : Nat} (h : r.line ≠ pa / 128) (core : Nat) : r.covers core pa = false := by
  simp [Req.covers, h]

/-- Requests that change in nothing that their writes show, and others that do not write the byte, leave what a core reads past its cache. -/
theorem wireByte_congr {s t : State} {core pa : Nat} (f : Req → Req) (hf : ∀ r, (f r).core = r.core ∧ (f r).line = r.line ∧ (f r).kind = r.kind) (l : List Req)
    (hl : ∀ r ∈ l, r.covers core pa = false) (hreqs : t.reqs = s.reqs.map f ++ l) (hacks : t.acks = s.acks) (hmem : t.mem = s.mem) : t.wireByte core pa = s.wireByte core pa := by
  let writes (r : Req) : Bool := r.covers core pa
  have hnone : l.reverse.find? writes = none := by
    rw [List.find?_eq_none]
    intro r hr
    simp [writes, hl r (List.mem_reverse.mp hr)]
  have hw : writes ∘ f = writes := by
    funext r
    obtain ⟨h1, h2, h3⟩ := hf r
    simp only [writes, Req.covers, Function.comp_apply, h1, h2, h3]
  have hfind : t.reqs.reverse.find? writes = (s.reqs.reverse.find? writes).map f := by
    rw [hreqs, List.reverse_append, List.find?_append, hnone, Option.none_or, ← List.map_reverse, List.find?_map, hw]
  unfold State.wireByte
  show (match t.reqs.reverse.find? writes with | some r => _ | none => _) = _
  rw [hfind, hacks, hmem]
  show _ = (match s.reqs.reverse.find? writes with | some r => _ | none => _)
  cases s.reqs.reverse.find? writes with
  | none => rfl
  | some r => simp only [Option.map_some, (hf r).2.2]

theorem wireByte_of_reqs {s t : State} {core pa : Nat} (hreqs : t.reqs = s.reqs) (hacks : t.acks = s.acks) (hmem : t.mem = s.mem) : t.wireByte core pa = s.wireByte core pa := by
  unfold State.wireByte
  rw [hreqs, hacks, hmem]

theorem send_reqs (s : State) (r : Req) : (s.send r).reqs = s.reqs ++ [{ r with id := s.nextId }] := by
  unfold State.send State.note
  split <;> rfl

theorem updCore_wireByte (s : State) (n core pa : Nat) (f : Core → Core) : (s.updCore n f).wireByte core pa = s.wireByte core pa := rfl

/-- A write-back leaves what a core reads past its cache of a byte that the line does not hold dirty. -/
theorem wireByte_writeBack (s : State) (core k ln pa : Nat) (l : List (Nat × Nat))
    (h : ∀ x, (s.core k).line ln = some x → k = core → ln = pa / 128 → x.dirty.getLsbD (pa % 128) = false) : (s.writeBack k ln l).wireByte core pa = s.wireByte core pa := by
  have hw := Wires.writeBack s k ln l
  unfold State.writeBack at hw ⊢
  split at hw
  · rfl
  · next x hx =>
    dsimp only at hw ⊢
    split at hw
    · next hm => rw [if_pos hm]
    · next hm =>
      rw [if_neg hm]
      refine wireByte_congr (fun r => if r.core == k && r.kind == .read && (fun x => x == ln) r.line then { r with alloc := false } else r) (fun r => ?_) _ ?_
        (updCore_reqs _ _ _ |>.trans (send_reqs ..)) hw.acks hw.mem
      · dsimp only
        split <;> exact ⟨rfl, rfl, rfl⟩
      · have hdirty := h x hx
        simp only [List.mem_singleton, forall_eq, Req.covers, BitVec.getLsbD_and]
        by_cases hk : k = core
        · by_cases hln : ln = pa / 128
          · rw [hdirty hk hln]
            simp
          · simp [hln]
        · simp [hk]

theorem wireByte_writeBack_other (s : State) (core k ln pa : Nat) (l : List (Nat × Nat)) (h : ln ≠ pa / 128) : (s.writeBack k ln l).wireByte core pa = s.wireByte core pa :=
  wireByte_writeBack s core k ln pa l fun _ _ _ e => absurd e h

theorem wireByte_evict (s : State) (core k ln pa : Nat) (h : ln ≠ pa / 128) : (s.evict k ln).wireByte core pa = s.wireByte core pa :=
  (wireByte_of_reqs rfl rfl rfl).trans (wireByte_writeBack_other s core k ln pa [] h)

/-! ### A line in the cache -/

theorem line_updCore_self (s : State) (core : Nat) (f : Core → Core) : ((s.updCore core f).core core).line = (f (s.core core)).line := by
  rw [core_updCore, if_pos rfl]
  rfl

theorem line_updLine (c : Core) (ln : Nat) (f : Line → Line) (hf : ∀ l, (f l).addr = l.addr) : (c.updLine ln f).line ln = (c.line ln).map f :=
  find_updWhere _ f (fun l => by simp only [hf]) _

/-- The line that a store finds: the one that was there, or a new one that holds nothing. -/
theorem alloc_line (s : State) (core ln : Nat) (next : Bool) (tag : Tag) :
    ((s.alloc core ln next tag).core core).line ln = some (((s.core core).line ln).getD { addr := ln, next := next, tag := tag }) := by
  unfold State.alloc
  dsimp only
  cases h : (s.core core).line ln with
  | some l => simpa using h
  | none =>
    dsimp only
    rw [line_updCore_self]
    simp [Core.line]

/-- Allocating a line leaves what the core reads of it past its cache. -/
theorem alloc_wireByte (s : State) (core : Nat) (next : Bool) (tag : Tag) (pa : Nat) : (s.alloc core (pa / 128) next tag).wireByte core pa = s.wireByte core pa := by
  unfold State.alloc
  dsimp only
  cases h : (s.core core).line (pa / 128) with
  | some l => rfl
  | none =>
    have habsent : ∀ l ∈ (s.core core).lines, l.addr ≠ pa / 128 := fun l hl => by simpa using List.find?_eq_none.mp h l hl
    dsimp only
    refine (wireByte_of_reqs rfl rfl rfl).trans ?_
    split
    · rfl
    · split
      · next l hl => exact wireByte_evict _ _ _ _ _ (habsent l (List.mem_filter.mp (List.mem_of_find?_eq_some hl)).1)
      · split
        · next l hl => exact (wireByte_of_reqs rfl rfl rfl).trans (wireByte_evict _ _ _ _ _ (habsent l (List.mem_filter.mp (List.mem_of_getElem? hl)).1))
        · rfl

theorem note_cores (s : State) (pa : Nat) : (s.note pa).cores = s.cores := by
  unfold State.note
  split <;> rfl

theorem note_wireByte (s : State) (core pa q : Nat) : (s.note q).wireByte core pa = s.wireByte core pa := by
  unfold State.note
  split <;> rfl

/-- The line that a store leaves. -/
def storedLine (l : Line) (tag : Tag) (pa n v : Nat) : Line :=
  let m := byteMask (pa % 128) n
  { l with data := mergeBytes m l.data (placeBytes (pa % 128) v), dirty := l.dirty ||| m,
           poison := l.poison &&& ~~~(fullWords m), tag := tag, wb := l.wb.map (fun p => (p.1, p.2 &&& ~~~m)) }

/-- A store changes the line that it finds, and nothing that the core reads of it past its cache. -/
theorem store_line (s : State) (core : Nat) (tag : Tag) (pa n v hint : Nat) :
    ((s.store core tag pa n v hint).core core).line (pa / 128) = some (storedLine (((s.core core).line (pa / 128)).getD { addr := pa / 128, next := hint == 1, tag := tag }) tag pa n v) := by
  have hc : (s.note pa).core core = s.core core := by simp only [State.core, note_cores]
  unfold State.store
  dsimp only
  rw [line_updCore_self, line_updLine, alloc_line, hc]
  · rfl
  · exact fun _ => rfl

theorem store_wireByte (s : State) (core : Nat) (tag : Tag) (pa n v hint : Nat) {p : Nat} (hp : p / 128 = pa / 128) :
    (s.store core tag pa n v hint).wireByte core p = s.wireByte core p := by
  unfold State.store
  dsimp only
  rw [updCore_wireByte, ← hp, alloc_wireByte, note_wireByte]

/-- Settles O55: the line after the store, byte by byte, over the line before or a new one. -/
theorem coreStores : Obligations.CoreStores := by
  intro s core tag pa n v hint p hfit hline t
  have hw := Wires.store s core tag pa n v hint
  refine ⟨?_, hw.mem, store_groups .., hw.teams⟩
  have ht := store_line s core tag pa n v hint
  rw [← hline] at ht
  have hi : p % 128 < 128 := Nat.mod_lt _ (by decide)
  have hmask : (byteMask (pa % 128) n).getLsbD (p % 128) = decide (pa ≤ p ∧ p < pa + n) := by
    rw [getLsbD_byteMask hi]
    exact decide_eq_decide.mpr (by omega)
  rw [coreByte_of_line ht, store_wireByte _ _ _ _ _ _ _ hline]
  simp only [storedLine, BitVec.getLsbD_or, lineByte_mergeBytes _ _ _ hi, hmask]
  by_cases hin : pa ≤ p ∧ p < pa + n
  · have hoff : p % 128 - pa % 128 = p - pa := by omega
    simp only [hin, and_self, decide_true, Bool.or_true, Bool.true_or, if_true]
    rw [lineByte_placeBytes _ _ (by omega) hi, hoff]
  · simp only [hin, decide_false, Bool.or_false, Bool.false_eq_true, if_false]
    cases h : (s.core core).line (p / 128) with
    | some l => exact (coreByte_of_line h).symm
    | none =>
      rw [coreByte_of_absent h]
      simp

end Sys2Proof.Machine

namespace Sys2Proof.Machine

/-! ### Barriers (R294) -/

theorem getElem?_updAt {α : Type} (l : List α) (i : Nat) (f : α → α) : (updAt l i f)[i]? = l[i]?.map f := by
  induction l generalizing i with
  | nil => rfl
  | cons x t ih =>
    cases i with
    | zero => rfl
    | succ i => exact ih i

theorem team_updTeam (s : State) (k : Nat) (f : Team → Team) : (s.updTeam k f).team k = (s.team k).map f := getElem?_updAt ..

/-- A barrier once a group has arrived, before its phase is checked. -/
def arrivedBar (x : Bar) (grp live : Nat) (n : Option Nat) : Bar :=
  let bit : W64 := BitVec.ofNat 64 (2 ^ grp)
  let x := if x.arrived = 0 then { x with expect := n.getD live, everyone := n.isNone } else x
  { x with arrived := x.arrived + 1, lastph := if x.phase then x.lastph ||| bit else x.lastph &&& ~~~bit, ever := x.ever ||| bit }

theorem getLsbD_bit {grp : Nat} (h : grp < 64) : (BitVec.ofNat 64 (2 ^ grp)).getLsbD grp = true := by
  rw [BitVec.getLsbD_ofNat, Nat.testBit_two_pow_self, decide_eq_true h]
  rfl

theorem arrivedBar_marks (x : Bar) (live : Nat) (n : Option Nat) {grp : Nat} (h : grp < 64) :
    (arrivedBar x grp live n).lastph.getLsbD grp = x.phase ∧ (arrivedBar x grp live n).ever.getLsbD grp = true := by
  have hb := getLsbD_bit h
  unfold arrivedBar
  generalize BitVec.ofNat 64 (2 ^ grp) = bit at *
  have hl : (if x.phase then x.lastph ||| bit else x.lastph &&& ~~~bit).getLsbD grp = x.phase := by
    cases x.phase <;> simp only [Bool.false_eq_true, if_true, if_false, BitVec.getLsbD_or, BitVec.getLsbD_and, BitVec.getLsbD_not, hb, Bool.or_true, Bool.not_true, Bool.and_false]
  have he : (x.ever ||| bit).getLsbD grp = true := by simp only [BitVec.getLsbD_or, hb, Bool.or_true]
  split
  · exact ⟨hl, he⟩
  · exact ⟨hl, he⟩

theorem arrivedBar_counts (x : Bar) (grp live n : Nat) :
    (arrivedBar x grp live (some n)).phase = x.phase ∧ (arrivedBar x grp live (some n)).arrived = x.arrived + 1
      ∧ (arrivedBar x grp live (some n)).expect = (if x.arrived = 0 then n else x.expect) ∧ (arrivedBar x grp live (some n)).everyone = (if x.arrived = 0 then false else x.everyone) := by
  unfold arrivedBar
  split
  · exact ⟨rfl, rfl, rfl, rfl⟩
  · exact ⟨rfl, rfl, rfl, rfl⟩

/-- A barrier after its phase is checked against the arrivals that it waits for. -/
def checkedBar (x : Bar) (n : Nat) : Bar := if 0 < x.arrived ∧ n ≤ x.arrived then { x with phase := !x.phase, arrived := 0 } else x

theorem checkedBar_marks (x : Bar) (n : Nat) : (checkedBar x n).lastph = x.lastph ∧ (checkedBar x n).ever = x.ever := by
  unfold checkedBar
  split <;> exact ⟨rfl, rfl⟩

/-- Check(b): the phase of a barrier that is complete changes, and its arrivals start again. -/
theorem checkBar_bar {s : State} {team b : Nat} {t : Team} {x : Bar} (ht : s.team team = some t) (hb : t.bars[b]? = some x) :
    ∃ t', (s.checkBar team b).team team = some t' ∧ t'.bars[b]? = some (checkedBar x (if x.everyone then (s.liveGroups team).length else x.expect)) := by
  unfold State.checkBar checkedBar
  simp only [ht, hb, Bool.and_eq_true, decide_eq_true_eq]
  by_cases h : 0 < x.arrived ∧ (if x.everyone then (s.liveGroups team).length else x.expect) ≤ x.arrived
  · refine ⟨{ t with bars := updAt t.bars b (fun x => { x with phase := !x.phase, arrived := 0 }) }, ?_, ?_⟩
    · rw [if_pos h]
      exact (team_updTeam s team _).trans (by rw [ht]; rfl)
    · rw [if_pos h]
      exact (getElem?_updAt ..).trans (by rw [hb]; rfl)
  · rw [if_neg h, if_neg h]
    exact ⟨t, ht, hb⟩

/-- R294: what an arrival leaves of its barrier. -/
theorem barrierArrivals : Rules.BarrierArrivals := by
  intro s team grp b n t x ht hb hgrp hn e every
  let live := (s.liveGroups team).length
  let y := arrivedBar x grp live (some n)
  obtain ⟨hlast, hever⟩ := arrivedBar_marks x live (some n) hgrp
  obtain ⟨hphase, harr, hexp, hall⟩ := arrivedBar_counts x grp live n
  have ht' : (s.updTeam team (fun t => { t with bars := updAt t.bars b (fun x => arrivedBar x grp live (some n)) })).team team =
      some { t with bars := updAt t.bars b (fun x => arrivedBar x grp live (some n)) } := by rw [team_updTeam, ht]; rfl
  obtain ⟨t', hteam, hbar⟩ := checkBar_bar (x := y) ht' ((getElem?_updAt ..).trans (by rw [hb]; rfl))
  obtain ⟨hl, he⟩ := checkedBar_marks y (if y.everyone then _ else y.expect)
  refine ⟨t', _, hteam, hbar, ?_, ?_, fun h0 hlt => ?_, fun h0 hle => ?_⟩
  · rw [hl]; exact hlast
  · rw [he]; exact hever
  · rw [if_neg (by rw [show y.everyone = every from hall, h0]; decide)]
    unfold checkedBar
    rw [show y.arrived = x.arrived + 1 from harr, show y.expect = e from hexp, if_neg (by omega)]
    exact ⟨harr, hphase, hexp⟩
  · rw [if_neg (by rw [show y.everyone = every from hall, h0]; decide)]
    unfold checkedBar
    rw [show y.arrived = x.arrived + 1 from harr, show y.expect = e from hexp, if_pos (by omega)]
    exact ⟨rfl, congrArg (!·) hphase⟩

/-! ### Barrier objects (R111) -/

theorem scrRead_pool {s : State} {team : Nat} {t : Team} (ht : s.team team = some t) (hp : t.place ≠ .unplaced) (off n : Nat) : s.scrRead team off n = t.scr.read off n := by
  unfold State.scrRead
  simp only [ht, hp, if_false]

theorem scrWrite_pool {s : State} {team : Nat} {t : Team} (ht : s.team team = some t) (hp : t.place ≠ .unplaced) (off n v : Nat) :
    ∃ t', (s.scrWrite team off n v).team team = some t' ∧ t'.place = t.place ∧ t'.scr = t.scr.write off n v := by
  unfold State.scrWrite
  simp only [ht, hp, if_false, team_updTeam, Option.map_some]
  exact ⟨_, rfl, rfl, rfl⟩

theorem wakeBobj_team (s : State) (team off : Nat) (f : Nat → Option W32) (t : Nat) : (s.wakeBobj team off f).team t = s.team t := rfl

theorem testBit_fld (x hi lo j : Nat) : (fld x hi lo).testBit j = (decide (j < hi + 1 - lo) && x.testBit (lo + j)) := by
  unfold fld
  rw [Nat.testBit_mod_two_pow, Nat.testBit_shiftRight]

/-- A field of a number with a field replaced: the new one, or one apart from it. -/
theorem fld_setFld_self (x lo k v : Nat) (hk : 0 < k) : fld (setFld x (lo + k - 1) lo v) (lo + k - 1) lo = v % 2 ^ k := by
  refine Nat.eq_of_testBit_eq fun j => ?_
  rw [testBit_fld, testBit_setFld _ _ _ _ _ hk, Nat.testBit_mod_two_pow, show lo + k - 1 + 1 - lo = k by omega, Nat.add_sub_cancel_left]
  by_cases h : j < k
  · rw [if_pos (by omega)]
  · simp [h]

theorem fld_setFld_other (x lo k v hi' lo' : Nat) (hk : 0 < k) (h : hi' < lo ∨ lo + k ≤ lo') : fld (setFld x (lo + k - 1) lo v) hi' lo' = fld x hi' lo' := by
  refine Nat.eq_of_testBit_eq fun j => ?_
  rw [testBit_fld, testBit_fld, testBit_setFld _ _ _ _ _ hk]
  by_cases hj : j < hi' + 1 - lo'
  · rw [if_neg (by omega)]
  · simp [hj]

/-- The words of an object after its phase has gone on (R111). -/
def nextPhase (x : Nat) : Nat := setFld (setFld (setFld (setFld x 15 0 0) 47 32 ((fld x 47 32 + 1) % 65536)) 48 48 0) 127 96 (fld x 95 64)

theorem nextPhase_fields (x : Nat) :
    fld (nextPhase x) 15 0 = 0 ∧ fld (nextPhase x) 31 16 = fld x 31 16 ∧ fld (nextPhase x) 47 32 = (fld x 47 32 + 1) % 65536 ∧ (nextPhase x).testBit 48 = false
      ∧ fld (nextPhase x) 95 64 = fld x 95 64 ∧ fld (nextPhase x) 127 96 = fld x 95 64 := by
  have ha := fun y v hi lo h => fld_setFld_other y 0 16 v hi lo (by decide) h
  have hp := fun y v hi lo h => fld_setFld_other y 32 16 v hi lo (by decide) h
  have hf := fun y v hi lo h => fld_setFld_other y 48 1 v hi lo (by decide) h
  have hb := fun y v hi lo h => fld_setFld_other y 96 32 v hi lo (by decide) h
  simp only [Nat.reduceAdd, Nat.reduceSub] at ha hp hf hb
  unfold nextPhase
  refine ⟨?_, ?_, ?_, ?_, ?_, ?_⟩
  · rw [hb _ _ _ _ (by decide), hf _ _ _ _ (by decide), hp _ _ _ _ (by decide)]
    exact fld_setFld_self x 0 16 0 (by decide)
  · rw [hb _ _ _ _ (by decide), hf _ _ _ _ (by decide), hp _ _ _ _ (by decide), ha _ _ _ _ (by decide)]
  · rw [hb _ _ _ _ (by decide), hf _ _ _ _ (by decide)]
    exact (fld_setFld_self _ 32 16 _ (by decide)).trans (Nat.mod_mod _ _)
  · have h1 := testBit_setFld (setFld (setFld (setFld x 15 0 0) 47 32 ((fld x 47 32 + 1) % 65536)) 48 48 0) 96 32 (fld x 95 64) 48 (by decide)
    have h2 := testBit_setFld (setFld (setFld x 15 0 0) 47 32 ((fld x 47 32 + 1) % 65536)) 48 1 0 48 (by decide)
    simp only [Nat.reduceAdd, Nat.reduceSub] at h1 h2
    rw [h1, if_neg (by decide), h2, if_pos (by decide), Nat.zero_testBit]
  · rw [hb _ _ _ _ (by decide), hf _ _ _ _ (by decide), hp _ _ _ _ (by decide), ha _ _ _ _ (by decide)]
  · refine (fld_setFld_self _ 96 32 _ (by decide)).trans (Nat.mod_eq_of_lt ?_)
    exact Nat.mod_lt _ (by decide)

theorem read_lt (m : Sparse 8) (a n : Nat) : m.read a n < 256 ^ n := by
  induction n generalizing a with
  | zero => simp [Sparse.read]
  | succ n ih =>
    have h0 := (m.get a).isLt
    have h1 := ih (a + 1)
    rw [Sparse.read, Nat.pow_succ]
    omega

theorem nextPhase_lt {x : Nat} (h : x < 2 ^ 128) : nextPhase x < 2 ^ 128 := by
  have h1 := setFld_lt (lo := 0) (k := 16) (v := 0) h (by decide) (by decide)
  have h2 := setFld_lt (lo := 32) (k := 16) (v := (fld x 47 32 + 1) % 65536) h1 (by decide) (by decide)
  have h3 := setFld_lt (lo := 48) (k := 1) (v := 0) h2 (by decide) (by decide)
  exact setFld_lt (lo := 96) (k := 32) (v := fld x 95 64) h3 (by decide) (by decide)

/-- R111: what Evaluate leaves of its object. -/
theorem barrierObjectEvaluates : Rules.BarrierObjectEvaluates := by
  intro s team off t ht hp harm hbad x
  have hx : x < 2 ^ 128 := by
    rw [show x = t.scr.read off 16 from scrRead_pool ht hp off 16]
    exact Nat.lt_of_lt_of_eq (read_lt ..) (by decide)
  have hgo : ¬ (!s.isArmed team off || s.scrBad team off 16) = true := by rw [harm, hbad]; decide
  have hwoken : ∀ f, (s.wakeBobj team off f).team team = some t := fun f => ht
  unfold State.evalBobj
  rw [if_neg hgo]
  dsimp only
  refine ⟨fun hcount hbytes => ?_, fun hnot => ?_⟩
  · rw [if_pos (by simp only [Bool.and_eq_true, decide_eq_true_eq]; exact ⟨hcount, hbytes⟩)]
    obtain ⟨t', ht', hp', hscr⟩ := scrWrite_pool (hwoken (fun p => if p = fld x 47 32 then some (if x.testBit 48 then 1 else 0) else none)) hp off 16 (nextPhase x)
    have hy := scrRead_pool ((wakeBobj_team _ team off (fun p => if p = (fld x 47 32 + 1) % 65536 then none else some 0) _).trans ht') (hp'.symm ▸ hp) off 16
    rw [hscr, read_write, Nat.mod_eq_of_lt (Nat.lt_of_lt_of_eq (nextPhase_lt hx) (by decide))] at hy
    have hfields := nextPhase_fields x
    rw [← hy] at hfields
    exact hfields
  · rw [if_neg (by simp only [Bool.and_eq_true, decide_eq_true_eq]; exact hnot)]
    exact (scrRead_pool (hwoken _) hp off 16).trans (scrRead_pool ht hp off 16).symm

/-- Settles O23: an arrival by the barrier before its check, Evaluate by the words of the next phase. -/
theorem barrierArithmetic : Obligations.BarrierArithmetic := ⟨barrierArrivals, barrierObjectEvaluates⟩

/-! ### Acknowledged writes (R72, R451) -/

@[simp] theorem wake_faults (s : State) (c : CtxId) (v : W32) : (s.wake c v).faults = s.faults := rfl

theorem foldl_faults {α : Type} (f : State → α → State) (hf : ∀ s x, (f s x).faults = s.faults) (l : List α) (s : State) : (l.foldl f s).faults = s.faults := by
  induction l generalizing s with
  | nil => rfl
  | cons x t ih => exact (ih _).trans (hf s x)

@[simp] theorem pokeMask_faults (s : State) (pa n mask v : Nat) : (s.pokeMask pa n mask v).faults = s.faults := by
  unfold State.pokeMask State.evalTl
  exact foldl_faults _ (fun s w => wake_faults ..) _ _

theorem applyAck_faults (s : State) (a : Ack) : (s.applyAck a).faults = s.faults := by
  unfold State.applyAck
  dsimp only
  split
  · exact pokeMask_faults ..
  · exact pokeMask_faults ..

theorem applyAck_mem (s : State) (a : Ack) : (s.applyAck a).mem = Sparse.writeMask s.mem (a.line * 128) 128 a.mask.toNat a.data.toNat := by
  unfold State.applyAck
  dsimp only
  split
  · exact pokeMask_mem ..
  · exact pokeMask_mem ..

/-- Settles O41: the bytes of the mask by `get_writeMask`; a failure leaves memory and adds one fault. -/
theorem writesAcknowledged : Obligations.WritesAcknowledged := by
  intro id s a ha hstop
  have hid : a.id = id := by simpa using List.find?_some ha
  have hgone : ∀ u : State, ∀ b ∈ (u.clearAck a).acks, b.id ≠ id := by
    intro u b hb
    simpa [hid] using (List.mem_filter.mp hb).2
  refine ⟨fun hfail => ?performed, fun r hr => ?failed⟩
  case performed =>
    refine ⟨(s.applyAck a).clearAck a, ?_, hgone _, applyAck_faults s a, fun p => ?_⟩
    · show execWritebackAck id 0 s = _
      unfold execWritebackAck
      simp [ha, hstop, hfail]
    · show (s.applyAck a).mem.get p = _
      rw [applyAck_mem, get_writeMask]
      refine ite_congr rfl (fun _ => ?_) (fun _ => rfl)
      rw [show (256 : Nat) = 2 ^ 8 from rfl, ← Nat.pow_mul]
  case failed =>
    let k := if a.failed ≠ 0 then a.failed else r
    refine ⟨(s.imprecise a.tag 0x15 0 k (BitVec.ofNat 64 (a.line * 128 + 2 ^ 63)) 0).clearAck a, ?_, hgone _, rfl, _, rfl, rfl, rfl, rfl⟩
    show execWritebackAck id r s = _
    have hgo : (s.stopped || (a.failed == 0 && (decide (2 < r) || (r == 2 && !isHost (a.line * 128))))) = false := by
      rw [hstop]
      rcases hr with hr | rfl | ⟨rfl, hh⟩
      · simp [hr]
      · simp
      · simp [hh]
    have hk : k ≠ 0 := by
      show (if a.failed ≠ 0 then a.failed else r) ≠ 0
      split
      · assumption
      · next h =>
        rcases hr with hr | rfl | ⟨rfl, -⟩
        · exact absurd hr h
        · decide
        · decide
    unfold execWritebackAck
    simp only [ha, hgo, Bool.false_eq_true, if_false]
    rw [if_neg hk]

/-! ### Bitmaps and regrouping (R164, R166, R349) -/

theorem insertKey_perm (x : Nat × Nat) (l : List (Nat × Nat)) : (insertKey x l).Perm (x :: l) := by
  induction l with
  | nil => exact List.Perm.refl _
  | cons y t ih =>
    unfold insertKey
    split
    · exact (ih.cons y).trans (List.Perm.swap x y t)
    · exact List.Perm.refl _

theorem insertKey_sorted {x : Nat × Nat} {l : List (Nat × Nat)} (h : l.Pairwise (fun a b => a.1 ≤ b.1)) : (insertKey x l).Pairwise (fun a b => a.1 ≤ b.1) := by
  induction l with
  | nil => simp [insertKey]
  | cons y t ih =>
    obtain ⟨hy, ht⟩ := List.pairwise_cons.mp h
    unfold insertKey
    split
    · next hle =>
      refine List.pairwise_cons.mpr ⟨fun z hz => ?_, ih ht⟩
      rcases List.mem_cons.mp ((insertKey_perm x t).mem_iff.mp hz) with rfl | hz
      · exact hle
      · exact hy z hz
    · next hlt =>
      refine List.pairwise_cons.mpr ⟨fun z hz => ?_, h⟩
      rcases List.mem_cons.mp hz with rfl | hz
      · omega
      · have := hy z hz
        omega

/-- An element goes behind those of its key. -/
theorem filter_insertKey {x : Nat × Nat} {l : List (Nat × Nat)} (h : l.Pairwise (fun a b => a.1 ≤ b.1)) (k : Nat) :
    (insertKey x l).filter (fun p => p.1 == k) = l.filter (fun p => p.1 == k) ++ [x].filter (fun p => p.1 == k) := by
  induction l with
  | nil => rfl
  | cons y t ih =>
    obtain ⟨hy, ht⟩ := List.pairwise_cons.mp h
    unfold insertKey
    split
    · next hle =>
      rw [List.filter_cons, List.filter_cons, ih ht]
      split <;> rfl
    · next hlt =>
      by_cases hk : x.1 = k
      · have hnone : (y :: t).filter (fun p => p.1 == k) = [] := by
          rw [List.filter_eq_nil_iff]
          intro z hz
          rcases List.mem_cons.mp hz with rfl | hz
          · simp; omega
          · have := hy z hz
            simp; omega
        rw [List.filter_cons, hnone]
        simp [hk]
      · rw [List.filter_cons]
        simp [hk]

theorem regroupOrder : Rules.RegroupOrder := by
  have key : ∀ (l acc : List (Nat × Nat)), acc.Pairwise (fun a b => a.1 ≤ b.1) →
      (l.foldl (fun acc x => insertKey x acc) acc).Perm (acc ++ l) ∧ (l.foldl (fun acc x => insertKey x acc) acc).Pairwise (fun a b => a.1 ≤ b.1)
        ∧ ∀ k, (l.foldl (fun acc x => insertKey x acc) acc).filter (fun p => p.1 == k) = acc.filter (fun p => p.1 == k) ++ l.filter (fun p => p.1 == k) := by
    intro l
    induction l with
    | nil => exact fun acc h => ⟨by simp, h, by simp⟩
    | cons x t ih =>
      intro acc h
      obtain ⟨hp, hs, hf⟩ := ih (insertKey x acc) (insertKey_sorted h)
      refine ⟨hp.trans (((insertKey_perm x acc).append_right t).trans List.perm_middle.symm), hs, fun k => ?_⟩
      rw [List.foldl_cons, hf, filter_insertKey h, List.append_assoc, ← List.filter_append]
      rfl
  intro l r
  obtain ⟨hp, hs, hf⟩ := key l [] List.Pairwise.nil
  exact ⟨hp, hs, fun k => by simpa using hf k⟩

/-- The set bits of a bitmap counted, and the place of the one sought. -/
theorem seekBit_eq (bits data base want : Nat) :
    seekBit bits data base want = (((List.range bits).filter (fun i => data.testBit i)).length, (((List.range bits).filter (fun i => data.testBit i))[want]?).map (fun i => base + i)) := by
  unfold seekBit
  induction bits with
  | zero => rfl
  | succ n ih =>
    rw [List.range_succ, List.foldl_append, ih, List.filter_append]
    generalize (List.range n).filter (fun i => data.testBit i) = l
    simp only [List.foldl_cons, List.foldl_nil]
    by_cases hb : data.testBit n
    · simp only [hb, if_true, List.filter_cons, List.filter_nil, List.length_append, List.length_cons, List.length_nil]
      refine Prod.ext rfl ?_
      rcases Nat.lt_trichotomy want l.length with h | h | h
      · rw [List.getElem?_append_left h, List.getElem?_eq_getElem h]
        simp
      · subst h
        simp
      · rw [List.getElem?_eq_none (Nat.le_of_lt h), List.getElem?_eq_none (by simp; omega)]
        simp; omega
    · simp [hb]

/-- A number of less than 32 bits stands in a part's data. -/
theorem toNat_data {n : Nat} (h : n < 2 ^ 32) : (BitVec.ofNat 512 n).toNat = n := by
  rw [BitVec.toNat_ofNat, Nat.mod_eq_of_lt (Nat.lt_of_lt_of_le h (Nat.pow_le_pow_right (by decide) (by decide)))]

/-- R164, R349: the results for a lane whose bitmap came in one part. -/
theorem bitmapResults : Rules.BitmapResults := by
  intro x h p hparts hh hp hlane hbits set
  have hset : set.length ≤ p.bits := Nat.le_trans (List.length_filter_le ..) (by simp)
  have hheads : x.parts.filter (fun p => p.n == 0) = [h] := by simp [hparts, hh, hp]
  have hmaps : x.parts.filter (fun q => q.lane == h.lane && q.n != 0) = [p] := by simp [hparts, hh, hp, hlane]
  have hseek : seekParts h.arg [p] = (p.bits, set.length, set[h.arg]?) := by
    simp [seekParts, seekBit_eq, set]
  refine ⟨fun hg => ?_, fun hg => ?_⟩
  · unfold Async.results
    rw [hg, hheads]
    simp only [List.map_cons, List.map_nil, hmaps, hseek]
    rw [toNat_data (by omega)]
  · unfold Async.results
    rw [hg, hheads, List.getD_eq_getElem?_getD]
    simp only [List.map_cons, List.map_nil, hmaps, hseek]
    cases hsel : set[h.arg]? with
    | none => exact congrArg (fun v => [v]) (toNat_data (n := 0xFFFFFFFF) (by decide))
    | some i =>
      have hi : i < p.bits := List.mem_range.mp (List.mem_filter.mp (List.mem_of_getElem? hsel)).1
      exact congrArg (fun v => [v]) (toNat_data (n := i) (by omega))

/-- Settles O37. -/
theorem bitmapResultsAndOrder : Obligations.BitmapResultsAndOrder := ⟨bitmapResults, regroupOrder⟩

/-! ### Landed words (R457) -/

/-- A poisoned part of register 0 whose bytes of that register are clean. -/
def cleanPart : Part := { regs := [0], n := 4, done := true, poison := true, clean := [0] }

/-- A record of that part. -/
def cleanRecord : Async := { id := 0, core := 0, tag := {}, dest := .vec, ty := .i32, parts := [cleanPart] }

/-- Refutes O39: a register of a poisoned part that takes none of its poisoned bytes (`Part.clean`, R457) lands clean. -/
theorem not_resultsLand : ¬ Obligations.ResultsLand := by
  rintro ⟨-, hland⟩
  have h := (hland cleanRecord { team := 0, idx := 0, core := 0 } cleanPart 0 rfl rfl rfl rfl rfl rfl (by decide) (by decide)).2.1 rfl
  exact absurd h (by decide +kernel)

end Sys2Proof.Machine

namespace Sys2Proof.Machine

/-! ### Engine operations issued (R104, R108, R301) -/

/-- An operation takes a ticket: its slot writes a uniform register (R301). -/
def takesTicket (cx : Cx) : Bool := cx.wb && (match cx.h.dst with | .s _ => true | _ => false)

theorem takesTicket_iff (cx : Cx) : takesTicket cx = true ↔ cx.wb = true ∧ ∃ r, cx.h.dst = .s r := by
  unfold takesTicket
  cases cx.h.dst <;> simp

/-- The state in which an operation takes its name. -/
def ticketed (cx : Cx) (s : State) : State := if takesTicket cx then s.updTenant cx.tenant Tenant.newTicket else s

/-- An operation as it is issued. -/
def newOp (cx : Cx) (sel cls : Nat) (kind : OpKind) (bobj : Option Nat) (total : Nat) (s : State) : EngOp :=
  { id := s.nextId, cls := cls, tag := { cx.tag with arm := if cx.g.melded then 0 else sel }, core := cx.core,
    ticket := if takesTicket cx then some (s.tenant cx.tenant).ticket else none, bobj := bobj, kind := kind, total := total }

/-- The state in which an operation has been recorded and counted, before its handle is written. -/
def recorded (cx : Cx) (sel cls : Nat) (kind : OpKind) (bobj : Option Nat) (total : Nat) (s : State) : State :=
  let u := ticketed cx s
  ({ u with nextId := u.nextId + 1, ops := u.ops ++ [newOp cx sel cls kind bobj total u] } : State).bumpCnt cx.c.team cx.c.grp cls (· + 1)

/-- The handle of an operation written to its destination. -/
def handled (cx : Cx) (sel r k : Nat) (s : State) : State :=
  (cx.writeU sel .u32 (BitVec.ofNat 64 k) s).updGroup cx.c.team cx.c.grp (fun g => { g with futs := (ukey sel r, k) :: g.futs.filter (fun f => f.1 != ukey sel r) })

theorem issueOp_eq (cx : Cx) (sel cls : Nat) (kind : OpKind) (bobj : Option Nat) (total : Nat) (s : State) :
    cx.issueOp sel cls kind bobj total s = (match cx.h.dst with
      | .s r => if takesTicket cx then handled cx sel r.toNat ((ticketed cx s).tenant cx.tenant).ticket (recorded cx sel cls kind bobj total s) else recorded cx sel cls kind bobj total s
      | _ => recorded cx sel cls kind bobj total s) := rfl

theorem issueOp_dst (cx : Cx) (sel cls : Nat) (kind : OpKind) (bobj : Option Nat) (total : Nat) (s : State) {r : BitVec 7} (hwb : cx.wb = true) (hd : cx.h.dst = .s r) :
    cx.issueOp sel cls kind bobj total s = handled cx sel r.toNat ((ticketed cx s).tenant cx.tenant).ticket (recorded cx sel cls kind bobj total s) := by
  rw [issueOp_eq, (takesTicket_iff cx).mpr ⟨hwb, r, hd⟩, hd]
  rfl

theorem issueOp_plain (cx : Cx) (sel cls : Nat) (kind : OpKind) (bobj : Option Nat) (total : Nat) (s : State) (h : ¬ (cx.wb = true ∧ ∃ r, cx.h.dst = .s r)) :
    cx.issueOp sel cls kind bobj total s = recorded cx sel cls kind bobj total s := by
  rw [issueOp_eq, Bool.eq_false_iff.mpr (fun ht => h ((takesTicket_iff cx).mp ht))]
  split <;> rfl

theorem handled_stays (cx : Cx) (sel r k : Nat) (s : State) (c : CtxId) : (handled cx sel r k s).stays c = s.stays c := by
  unfold handled
  refine (stays_updGroup _ _ _ _ ?_ c).trans (writeU_stays ..)
  exact ⟨fun _ => rfl, fun _ => rfl, fun _ _ => rfl⟩

theorem recorded_stays (cx : Cx) (sel cls : Nat) (kind : OpKind) (bobj : Option Nat) (total : Nat) (s : State) (c : CtxId) : (recorded cx sel cls kind bobj total s).stays c = s.stays c := by
  unfold recorded State.bumpCnt
  refine (stays_updGroup _ _ _ _ ?_ c).trans (stays_congr ?_ c)
  · exact ⟨fun _ => rfl, fun _ => rfl, fun _ _ => rfl⟩
  · unfold ticketed
    split <;> rfl

theorem issueOp_stays (cx : Cx) (sel cls : Nat) (kind : OpKind) (bobj : Option Nat) (total : Nat) (s : State) (c : CtxId) :
    (cx.issueOp sel cls kind bobj total s).stays c = s.stays c := by
  by_cases h : cx.wb = true ∧ ∃ r, cx.h.dst = .s r
  · obtain ⟨hwb, r, hd⟩ := h
    rw [issueOp_dst cx sel cls kind bobj total s hwb hd, handled_stays, recorded_stays]
  · rw [issueOp_plain cx sel cls kind bobj total s h, recorded_stays]

theorem tenant_updTenant {s : State} {n : Nat} (h : n < s.tenants.length) (f : Tenant → Tenant) : (s.updTenant n f).tenant n = f (s.tenant n) := by
  unfold State.tenant State.updTenant
  dsimp only
  rw [getElem?_updAt, List.getElem?_eq_getElem h]
  rfl

/-- A new ticket is one above the last, and pending. -/
theorem newTicket_ticket (t : Tenant) : t.newTicket.ticket = (t.ticket + 1) % 2 ^ 24 := rfl

theorem newTicket_pending (t : Tenant) : t.newTicket.stateOf t.newTicket.ticket = 0 := by
  unfold Tenant.stateOf Tenant.newTicket
  dsimp only
  rw [List.find?_cons_of_pos (by simp)]

theorem sput_ecnt (g : Group) (sel r : Nat) (x : W32) : (g.sput sel r x).ecnt = g.ecnt := by
  unfold Group.sput
  split <;> rfl

theorem swrite_ecnt (g : Group) (t : Ty) (sel r : Nat) (x : W64) : (g.swrite t sel r x).ecnt = g.ecnt := by
  unfold Group.swrite
  split
  · rw [sput_ecnt, sput_ecnt]
  · exact sput_ecnt ..

theorem sget_sput_self (g : Group) (sel r : Nat) (x : W32) : (g.sput sel r x).sget sel r = x := by
  unfold Group.sput Group.sget
  split
  · exact (get_set ..).trans (if_pos rfl)
  · exact (get_set ..).trans (if_pos rfl)

theorem recorded_group (cx : Cx) (sel cls : Nat) (kind : OpKind) (bobj : Option Nat) (total : Nat) {s : State} {g : Group} (h : s.group cx.c.team cx.c.grp = some g) :
    (recorded cx sel cls kind bobj total s).group cx.c.team cx.c.grp = some { g with ecnt := updAt g.ecnt cls (· + 1) } := by
  have ht : (ticketed cx s).groups = s.groups := by
    unfold ticketed
    split <;> rfl
  unfold recorded State.bumpCnt
  refine (group_updGroup _ _ _ _ ?_).trans ?_
  · exact fun _ => ⟨rfl, rfl⟩
  · exact congrArg (Option.map _) ((group_congr (t := s) ht _ _).trans h)

/-- What writing the handle leaves of the group: the handle in its register, and the counters. -/
theorem handled_group (cx : Cx) (sel k : Nat) {s : State} {g : Group} {r : BitVec 7} (hwb : cx.wb = true) (hd : cx.h.dst = .s r) (h : s.group cx.c.team cx.c.grp = some g) :
    ∃ g', (handled cx sel r.toNat k s).group cx.c.team cx.c.grp = some g' ∧ g'.ecnt = g.ecnt ∧ g'.sget sel r.toNat = BitVec.ofNat 32 k := by
  have hw : cx.writeU sel .u32 (BitVec.ofNat 64 k) s = s.updGroup cx.c.team cx.c.grp (fun g => g.swrite .u32 sel r.toNat (BitVec.ofNat 64 k)) := by
    unfold Cx.writeU
    simp only [hd, hwb, if_true]
  have hk := Keeps.swrite .u32 sel r.toNat (BitVec.ofNat 64 k)
  unfold handled
  refine ⟨_, (group_updGroup _ _ _ _ ?_).trans (congrArg (Option.map _) ((hw ▸ group_updGroup _ _ _ _ (fun g => ⟨hk.team g, hk.idx g⟩)).trans (congrArg (Option.map _) h))), ?_, ?_⟩
  · exact fun _ => ⟨rfl, rfl⟩
  · show (g.swrite .u32 sel r.toNat (BitVec.ofNat 64 k)).ecnt = g.ecnt
    exact swrite_ecnt ..
  · show (g.sput sel r.toNat (loOf (Ty.u32.extend (BitVec.ofNat 64 k)))).sget sel r.toNat = _
    rw [sget_sput_self]
    refine BitVec.eq_of_toNat_eq ?_
    show ((BitVec.ofNat 64 k).toNat % 2 ^ 32 % 2 ^ 64) % 2 ^ 32 = k % 2 ^ 32
    rw [BitVec.toNat_ofNat]
    omega

/-- Settles O27: the operation recorded, then its handle written. -/
theorem operationsIssue : Obligations.OperationsIssue := by
  intro cx k cls kind b n s g r hg hcls hten t
  have hrec := recorded_group cx k cls kind b n hg
  have hcount : (updAt g.ecnt cls (· + 1)).getD cls 0 = g.ecnt.getD cls 0 + 1 := by
    rw [List.getD_eq_getElem?_getD, getElem?_updAt, List.getElem?_eq_getElem hcls, List.getD_eq_getElem?_getD, List.getElem?_eq_getElem hcls]
    rfl
  by_cases htake : cx.wb = true ∧ ∃ r, cx.h.dst = .s r
  · obtain ⟨hwb, r', hd⟩ := htake
    have ht : t = handled cx k r'.toNat ((ticketed cx s).tenant cx.tenant).ticket (recorded cx k cls kind b n s) := issueOp_dst cx k cls kind b n s hwb hd
    have htk : ticketed cx s = s.updTenant cx.tenant Tenant.newTicket := by
      unfold ticketed
      rw [(takesTicket_iff cx).mpr ⟨hwb, r', hd⟩]
      rfl
    have htenant : t.tenant cx.tenant = (s.tenant cx.tenant).newTicket := by
      rw [← tenant_updTenant hten Tenant.newTicket, ← htk, ht]
      unfold handled Cx.writeU
      simp only [hd, hwb, if_true]
      rfl
    obtain ⟨g', hg', hecnt, hsget⟩ := handled_group cx k ((ticketed cx s).tenant cx.tenant).ticket hwb hd hrec
    refine ⟨?_, ⟨newOp cx k cls kind b n (ticketed cx s), ?_, rfl, rfl, rfl, rfl, rfl, rfl⟩, fun _ hdr => ⟨?_, ?_, ?_⟩, fun hz => ?_⟩
    · rw [ht, hg', Option.map_some, hecnt, hcount]
    · rw [ht]
      unfold handled Cx.writeU
      simp only [hd, hwb, if_true]
      unfold recorded
      rw [htk]
      rfl
    · rw [htenant, newTicket_ticket]
    · rw [htenant, newTicket_pending]
    · obtain rfl : r' = r := by rw [hd] at hdr; exact Opd.s.inj hdr
      rw [htenant, ← tenant_updTenant hten Tenant.newTicket, ← htk, ht, hg', Option.map_some, hsget]
    · rw [hd] at hz
      cases hz
  · have ht : t = recorded cx k cls kind b n s := issueOp_plain cx k cls kind b n s htake
    have htk : ticketed cx s = s := by
      unfold ticketed
      rw [Bool.eq_false_iff.mpr (fun h => htake ((takesTicket_iff cx).mp h))]
      rfl
    refine ⟨?_, ⟨newOp cx k cls kind b n (ticketed cx s), ?_, rfl, rfl, rfl, rfl, rfl, rfl⟩, fun hwb hdr => absurd ⟨hwb, r, hdr⟩ htake, fun _ => ?_⟩
    · rw [ht, hrec, Option.map_some, hcount]
    · rw [ht]
      unfold recorded
      rw [htk]
      rfl
    · rw [ht]
      unfold recorded
      rw [htk]
      rfl

/-! ### Instructions that issue one operation (R284, R286, R307, R308) -/

/-- A uniform slot that issues one operation for each of its arms ends with them. -/
theorem issue_operation {i : Instr} {s : State} {cx : Cx} (b : Body) {cls : Nat} (kind : Cx → Nat → OpKind) (obj : Cx → Nat → Option Nat) (total : Cx → Nat → Nat)
    (h : Passes i s cx) (hc : cx.clean i) (hv : isVector i.form cx.h = false) (hown : b.own = false) (honce : b.once = false) (hused : b.used = none)
    (hhold : b.hold cx s = false) (h1 : ∀ k ∈ cx.arms false, b.check cx k s = none) (h2 : ∀ k ∈ cx.arms false, b.check2 cx k s = none)
    (hrel : b.rel cx = none) (hf : ∀ s, b.flush cx s = []) (hrun : b.run = fun cx k s => cx.issueOp k cls (kind cx k) (obj cx k) (total cx k) s) :
    issue i s b = .next (cx.ends i (fun cx k s => cx.issueOp k cls (kind cx k) (obj cx k) (total cx k) s) (cx.begun i s)) := by
  have hw := b.words_eq i cx honce hused
  have hs : b.Settles cx.c := by
    intro cx' a u _ hu
    rw [hrun, issueOp_stays, hu]
  rw [issue_checked b h hown honce hhold (hw.symm ▸ hc) (fun a ha => h1 a (hv ▸ ha)) (fun a ha => h2 a (hv ▸ ha)) hrel hf hs, hw, hrun,
    completes_eq_ends cx _ _ _ (h.cap_none_of_uniform hv)]

/-- Settles O26: KICK and CPY issue one operation. -/
theorem copiesComplete : Obligations.CopiesComplete := by
  refine ⟨fun w s cx h hc hv hheld hk => ?_, fun w s cx h hc hv hheld hk => ?_⟩
  · refine issue_operation _ (fun cx k => .kick (cx.srcU k w.a .u32).toNat (cx.srcU k w.b .u32).toNat) (fun _ _ => none) (fun _ _ => 0) h hc hv rfl rfl rfl hheld (fun k hm => ?_) (fun _ _ => rfl) rfl (fun _ => rfl) rfl
    obtain ⟨h1, h2, h3⟩ := hk k hm
    dsimp only
    rw [if_neg (by simp; omega), h3]
  · refine issue_operation _ (fun cx k => .cpy (cx.copyEnd k w.a (w.fspec.getLsbD 1)).addr (cx.copyEnd k w.b (w.fspec.getLsbD 0)).addr (cx.srcU k w.c .u32).toNat (w.fspec.toNat % 4)) (fun _ _ => none)
      (fun cx k => (cx.srcU k w.c .u32).toNat) h hc hv rfl rfl rfl hheld (fun k hm => ?_) (fun _ _ => rfl) rfl (fun _ => rfl) rfl
    obtain ⟨h1, h2⟩ := hk k hm
    dsimp only
    rw [if_neg (by simp; omega), h2]

end Sys2Proof.Machine

namespace Sys2Proof.Machine

/-! ### The cache and stream instructions (R284 to R286) -/

/-- R285: no line of the range stands in the core, so L1.WB has nothing to send. -/
theorem l1Wb_completes (w : Word) (s : State) (cx : Cx) (h : Passes (.l1Wb w) s cx) (hc : cx.clean (.l1Wb w)) (hcheck : ∀ k ∈ cx.arms false, cx.cacheCheck w k s = none)
    (hv : isVector (Instr.l1Wb w).form cx.h = false) (habsent : ∀ k ∈ cx.arms false, ∀ l ∈ (s.core cx.core).lines, (cx.opened s).inRange cx w k l.addr = false) :
    exec (.l1Wb w) s = .next (cx.ends (.l1Wb w) (fun _ _ s => s) (cx.begun (.l1Wb w) s)) := by
  refine (issue_absent (i := .l1Wb w) _ h hc rfl rfl rfl rfl (fun a ha => hcheck a (hv ▸ ha)) (fun _ _ => rfl) rfl ?flush (fun _ _ _ _ hs => hs)).trans
    (congrArg _ (completes_eq_ends cx _ _ _ (h.cap_none_of_uniform hv)))
  intro ln hln
  obtain ⟨a, ha, hln⟩ := List.mem_flatMap.mp hln
  obtain ⟨l, hl, -⟩ := List.mem_map.mp hln
  obtain ⟨hl, hin⟩ := List.mem_filter.mp hl
  rw [habsent a ha l hl] at hin
  cases hin

/-- R285: the write-backs that L1.WB waited for are acknowledged. -/
theorem l1Wb_resumed (w : Word) (s : State) (cx : Cx) (hform : WellFormed (.l1Wb w) = true) (hgo : gate (.l1Wb w) s = .go cx)
    (hkind : (cx.g.arm cx.c.arm).wait.kind = .acks) (hexec : (cx.g.arm cx.c.arm).wait.exec = 0) :
    exec (.l1Wb w) s = .next (cx.advance (cx.rebegun (.l1Wb w) s)) := by
  have heach : ∀ l u, cx.each (fun _ _ s => s) l u = u := by
    intro l
    induction l with
    | nil => exact fun _ => rfl
    | cons _ t ih => exact ih
  refine (issue_resumes (i := .l1Wb w) _ hgo (.inr hkind) hexec rfl rfl rfl (fun _ => by rw [Body.words_eq _ _ _ rfl rfl]) (fun _ _ _ _ hs => hs)).trans (congrArg _ ?_)
  rw [completes_eq_ends cx _ _ _ (cap_none_of_form hform hgo rfl)]
  exact congrArg cx.advance (heach _ _)

/-- R284: either stream instruction issues one STREAM operation. -/
theorem stream_completes {i : Instr} (w : Word) (load : Bool) {s : State} {cx : Cx} (hexec : exec i s = issue i s (streamBody w load)) (h : Passes i s cx) (hc : cx.clean i)
    (hv : isVector i.form cx.h = false) (hheld : cx.opHeld 2 s = false)
    (hrank : ∀ k ∈ cx.arms false, s.rank10 cx [(⟨0, (cx.srcU k w.a .u64).toNat, 32⟩, 32)] ((⟨0, (cx.srcU k w.b .u32).toNat, 0⟩, 4) :: cx.bobjAcc k) false = none) :
    exec i s = .next (cx.ends i (fun cx k s => cx.issueOp k 2 (.stream load (cx.srcU k w.a .u64).toNat (cx.srcU k w.b .u32).toNat) (cx.bobjC k) 0 s) (cx.begun i s)) :=
  hexec.trans (issue_operation (streamBody w load) (fun cx k => .stream load (cx.srcU k w.a .u64).toNat (cx.srcU k w.b .u32).toNat) (fun cx k => cx.bobjC k) (fun _ _ => 0)
    h hc hv rfl rfl rfl hheld hrank (fun _ _ => rfl) rfl (fun _ => rfl) rfl)

theorem cacheAndStreamComplete : Rules.CacheAndStreamComplete := by
  refine ⟨fun w s cx h hc hcheck hv hloads => ?inv, l1Wb_completes, fun w s cx hform hgo _ hkind hexec => l1Wb_resumed w s cx hform hgo hkind hexec,
    fun i load hi w s cx h hc hv hheld hrank => ?stream, fun w s cx h hc hv hheld hk => ?pref⟩
  case inv =>
    have hhold : s.asyncs.any (fun x => x.load && x.tag.team == cx.c.team && x.tag.grp == cx.c.grp) = false := by
      simp only [List.any_eq_false, Bool.and_eq_true, beq_iff_eq, and_assoc]
      exact hloads
    refine (issue_checked (i := .l1Inv w) _ h rfl rfl hhold ?clean (fun a ha => hcheck a (hv ▸ ha)) (fun _ _ => rfl) rfl (fun _ => rfl) ?settles).trans
      (congrArg _ (completes_eq_ends cx _ _ _ (h.cap_none_of_uniform hv)))
    case clean => exact hc
    case settles => exact fun _ _ _ _ hs => (stays_congr (invalidate_groups ..) _).trans hs
  case stream =>
    simp only [List.mem_cons, Prod.mk.injEq, List.not_mem_nil, or_false] at hi
    rcases hi with ⟨rfl, rfl⟩ | ⟨rfl, rfl⟩
    · exact stream_completes w true rfl h hc hv hheld hrank
    · exact stream_completes w false rfl h hc hv hheld hrank
  case pref =>
    refine issue_operation _ (fun cx k => .tier (cx.srcU k w.a .u64).toNat (cx.srcU k w.b .u32).toNat) (fun cx k => cx.bobjC k) (fun cx k => (cx.srcU k w.b .u32).toNat)
      h hc hv rfl rfl rfl hheld (fun k hm => ?_) (fun _ _ => rfl) rfl (fun _ => rfl) rfl
    obtain ⟨h1, h2, h3, h4⟩ := hk k hm
    dsimp only
    rw [if_neg (by simp [h1, h2, h3]), h4]

end Sys2Proof.Machine

namespace Sys2Proof.Machine

/-! ### What a slot finds where its effect begins -/

/-- A vector slot with no lane in Active() uses no words. -/
theorem formWords_idle {cx : Cx} {i : Instr} (hv : isVector i.form cx.h = true) (hact : cx.act = []) : cx.formWords i = [] := by
  unfold Cx.formWords Cx.srcWords Cx.namedWords
  simp [hv, hact]

/-- A vector slot of a form that captures nothing ends with its effect once. -/
theorem ends_vector (cx : Cx) (i : Instr) (f : Cx → Nat → State → State) (s : State) (hv : isVector i.form cx.h = true) :
    cx.ends i f s = cx.advance (f (cx.refresh s) (armSel cx.c) s) :=
  congrArg cx.advance (leaves_vector cx i f s hv)

theorem Cx.Finds.vget {cx : Cx} {t : State} (h : cx.Finds (cx.refresh t).g) (r L : Nat) : (cx.refresh t).g.vget r L = cx.g.vget r L := by
  have hr := h.regs
  simp only [Group.regs, Prod.mk.injEq] at hr
  simp only [Group.vget, hr]

theorem updArm_renOf (g : Group) (a : Nat) (f : Arm → Arm) (k x : Nat) : (g.updArm a f).renOf k x = g.renOf k x := by
  unfold Group.updArm
  repeat' split
  all_goals rfl

theorem updArm_melded (g : Group) (a : Nat) (f : Arm → Arm) : (g.updArm a f).melded = g.melded := by
  unfold Group.updArm
  repeat' split
  all_goals rfl

theorem laneArm_updArm (g : Group) (a : Nat) (f : Arm → Arm) (k L : Nat) : laneArm (g.updArm a f) k L = laneArm g k L := by
  unfold Group.updArm
  repeat' split
  all_goals rfl

theorem srcU_regs {cx : Cx} {g : Group} (h : g.regs = cx.g.regs) (k : Nat) (o : Opd) (t : Ty) : ({ cx with g := g } : Cx).srcU k o t = cx.srcU k o t := by
  unfold Cx.srcU
  cases o <;> simp only [sval_congr h]

theorem srcU_refresh {cx : Cx} {t : State} (h : cx.Finds (cx.refresh t).g) (k : Nat) (o : Opd) (ty : Ty) : (cx.refresh t).srcU k o ty = cx.srcU k o ty :=
  srcU_regs h.regs k o ty

theorem runReg_refresh {cx : Cx} {t : State} (h : cx.Finds (cx.refresh t).g) (o : Opd) (i L : Nat) : (cx.refresh t).runReg o i L = cx.runReg o i L := by
  obtain ⟨f, k, hf, he⟩ := h
  unfold Cx.runReg
  rw [he]
  cases o
  case m j =>
     show Group.renOf (cx.g.updArm cx.c.arm f) _ _ = _
     rw [updArm_renOf]
     exact congrArg (fun a => cx.g.renOf a _) (laneArm_updArm ..)
  all_goals rfl

theorem ruleReg_refresh {cx : Cx} {t : State} (h : cx.Finds (cx.refresh t).g) (r : OpRule) (o : Opd) (i L : Nat) : (cx.refresh t).ruleReg r o i L = cx.ruleReg r o i L := by
  simp only [Cx.ruleReg, runReg_refresh h]

theorem oneSel_refresh {cx : Cx} {t : State} (h : cx.Finds (cx.refresh t).g) : (cx.refresh t).oneSel = cx.oneSel := by
  obtain ⟨f, k, hf, he⟩ := h
  unfold Cx.oneSel
  rw [he, show ({ cx.g.updArm cx.c.arm f with skidSlots := k } : Group).melded = cx.g.melded from updArm_melded ..]
  rfl

/-- A vector slot whose meaning keeps it there waits in the state that its effect leaves. -/
theorem issue_stands {i : Instr} {s : State} {cx : Cx} (b : Body) (h : Passes i s cx) (hv : isVector i.form cx.h = true)
    (hown : b.own = true) (honce : b.once = false) (hhold : b.hold cx s = false) (hp : cx.poison (b.words i (isVector i.form cx.h) cx) = none)
    (h1 : b.check cx (armSel cx.c) s = none) (h2 : b.check2 cx (armSel cx.c) s = none) (hrel : b.rel cx = none) (hf : ∀ s, b.flush cx s = [])
    (hst : let s0 := cx.begun i s (b.words i (isVector i.form cx.h) cx)
      (b.run (cx.refresh s0) (armSel cx.c) s0).stays cx.c = true) :
    issue i s b = .next (let s0 := cx.begun i s (b.words i (isVector i.form cx.h) cx)
      b.run (cx.refresh s0) (armSel cx.c) s0) := by
  obtain ⟨-, hgo, hfirst⟩ := id h
  have ha : b.arms cx (isVector i.form cx.h) = [armSel cx.c] := by simp [Body.arms, honce, hv, Cx.arms]
  have hb := b.first_eq_none (i := i) (s := s) hp (by simp [ha, h1]) (by simp [ha, h2])
  have hr : cx.released (b.rel cx) s := hrel ▸ released_none cx s
  rw [issue_effect i s b cx hgo hhold hb, Body.effect_now b i _ cx _ hfirst hr hf, hrel]
  have hs0 : cx.issued (isVector i.form cx.h) (cx.deferred i (isVector i.form cx.h) (b.words i (isVector i.form cx.h) cx) (cx.release none (cx.opened s)).1)
      = cx.begun i s (b.words i (isVector i.form cx.h) cx) := rfl
  unfold Body.perform
  simp only [(Cx.first_wait hfirst).2.2, List.drop_zero, hs0, ha, Body.runArms, hown, Bool.not_true, Bool.false_and, Bool.false_eq_true, if_false, Bool.true_or, if_true]
  rw [hst]
  simp only [Bool.not_true, Bool.and_false, Bool.false_eq_true, if_false]

/-- A context whose group stands waits once it is told to. -/
theorem stay_stays {cx : Cx} {s : State} {g : Group} (hg : s.group cx.c.team cx.c.grp = some g) {w : Wait} (hw : w.kind ≠ .idle) : (cx.stay w s).stays cx.c = true := by
  have ha : s.armOf cx.c = some (g.arm cx.c.arm) := by
    unfold State.armOf
    rw [hg]
    rfl
  unfold Cx.stay State.stays
  rw [armOf_updArm, ha]
  simpa using hw

/-- Where a slot at its first issue begins, its context waits for no slice. -/
theorem begun_not_slice {cx : Cx} (h : cx.first = true) {t : State} (hf : cx.Finds (cx.refresh t).g) : ((cx.refresh t).g.arm cx.c.arm).wait.kind ≠ .slice := by
  obtain ⟨f, k, hf, he⟩ := hf
  have hw : ((cx.refresh t).g.arm cx.c.arm).wait = (cx.g.arm cx.c.arm).wait ∨ ((cx.refresh t).g.arm cx.c.arm).wait = {} := by
    rw [he]
    exact hf.wait_arm cx.g cx.c.arm cx.c.arm
  rcases hw with hw | hw
  · rw [hw]
    intro hk
    have hres := (Cx.first_wait h).1
    unfold Wait.resumed at hres
    rw [hk] at hres
    cases hres
  · rw [hw]
    exact fun hk => nomatch hk

/-! ### Slots whose own wait has ended (R363, R413) -/

/-- A slot that goes on after a wait of its own has been through its release. -/
theorem Resumes.again {i : Instr} {s : State} {cx : Cx} {a : Nat} (h : Resumes i s cx a) : cx.again = true ∧ (cx.g.arm cx.c.arm).wait.unissued = false := by
  have hun : (cx.g.arm cx.c.arm).wait.unissued = false := by
    obtain ⟨h1, h2⟩ := h.released
    simp [Wait.unissued, h1, h2]
  exact ⟨by simp [Cx.again, h.waits, hun], hun⟩

/-- The words a slot uses show nowhere once it goes on after its wait. -/
theorem begun_again {cx : Cx} (h : cx.again = true) (i : Instr) (s : State) (ws : List (Nat × Nat)) : cx.begun i s ws = cx.begun i s := by
  have hd : ∀ ws t, cx.deferred i (isVector i.form cx.h) ws t = t := by
    intro ws t
    unfold Cx.deferred
    rw [h]
    rfl
  unfold Cx.begun Cx.starts
  rw [hd, hd]

/-- A slot whose wait has ended makes its effect at once. -/
theorem issue_again {i : Instr} {s : State} {cx : Cx} {a : Nat} (b : Body) (h : Resumes i s cx a) (hhold : b.hold cx s = false) :
    issue i s b = .next (b.perform i (isVector i.form cx.h) cx (cx.opened s)) := by
  rw [issue_effect i s b cx h.go hhold (b.first_of_resumed i _ cx s h.waits)]
  unfold Body.effect
  simp only [h.again.2, h.rel, Bool.false_eq_true, if_false, if_true]

/-- A slot whose wait has ended, and whose meaning moves the PC itself after the effect `f`, completes with its last execution. -/
theorem issue_again_moves {i : Instr} {s : State} {cx : Cx} (b : Body) (f : Cx → Nat → State → State) (h : Resumes i s cx (armSel cx.c)) (hv : isVector i.form cx.h = true)
    (hown : b.own = true) (honce : b.once = false) (hhold : b.hold cx s = false)
    (hrun : ∀ cx', cx' = cx ∨ cx' = { cx with wb := true } →
      let s0 := cx.begun i s
      b.run (cx'.refresh s0) (armSel cx.c) s0 = cx.advance (f (cx'.refresh s0) (armSel cx.c) s0)) :
    issue i s b = .next (cx.completes i f (cx.begun i s)) := by
  have ha : ∀ cx', cx' = cx ∨ cx' = { cx with wb := true } → b.arms cx' (isVector i.form cx.h) = [armSel cx.c] := by
    rintro cx' (rfl | rfl) <;> simp [Body.arms, honce, hv, Cx.arms]
  have hdrop : [armSel cx.c].drop (cx.g.arm cx.c.arm).wait.exec = [armSel cx.c] := by
    have hl := h.last
    rwa [arms_of_vector cx hv] at hl
  have hs0 : cx.issued (isVector i.form cx.h) (cx.deferred i (isVector i.form cx.h) (b.words i (isVector i.form cx.h) cx) (cx.opened s)) = cx.begun i s := by
    rw [← begun_again h.again.1 i s (b.words i (isVector i.form cx.h) cx)]
    rfl
  have hgo : ∀ cx', cx' = cx ∨ cx' = { cx with wb := true } → ∀ all k,
      b.runArms cx' all k [armSel cx.c] (cx.begun i s) = cx.advance (cx'.leaves i f (cx.begun i s)) := by
    intro cx' hcx all k
    have e : cx'.arms (isVector i.form cx'.h) = [armSel cx.c] := by
      rcases hcx with rfl | rfl <;> exact arms_of_vector _ hv
    simp only [Body.runArms, hown, Bool.not_true, Bool.false_and, Bool.false_eq_true, if_false, Cx.leaves, Cx.each, e]
    exact hrun cx' hcx
  rw [issue_again b h hhold]
  unfold Body.perform
  simp only [hs0, ha cx (.inl rfl), ha _ (.inr rfl), hdrop, hgo cx (.inl rfl), hgo _ (.inr rfl), advance_stays, hown, Bool.true_or, if_true, Bool.not_false, Bool.and_true]
  unfold Cx.completes
  cases cx.h.cap.isSome
  · rfl
  · cases cx.wb <;> exact congrArg _ (capture_advance ..)

/-- The group that the effect of a slot finds: the slot's, its YIELD.ON over and its time of issue noted. -/
theorem begun_group {i : Instr} {s : State} {cx : Cx} (h : gate i s = .go cx) (ws : List (Nat × Nat)) :
    ∃ k, (cx.refresh (cx.begun i s ws)).g = { (cx.g.endYield cx.c.arm).updArm cx.c.arm (fun a => { a with since := s.clock, due := false }) with skidSlots := k } := by
  have hx := group_begun h ws
  unfold Cx.begun Cx.starts Cx.issued at hx
  extract_lets s1 s2 skid at hx
  have hb : Beside s s2 := by
    have h0 := (Beside.opened cx s).trans (Beside.deferred cx i (isVector i.form cx.h) ws (cx.opened s))
    have h1 : Beside s s1 := by
      show Beside s (if isVector i.form cx.h then _ else _)
      split
      · exact h0.trans (Beside.updPort ..)
      · exact h0
    show Beside s (if cx.h.yield then _ else s1)
    split
    · exact h1.trans (Beside.yieldPorts ..)
    · exact h1
  have hs2 : s2.groups = (cx.opened s).groups := by
    simp only [s2, s1, apply_ite State.groups, yieldPorts_groups, updPort_groups, ite_self, deferred_groups, release_groups]
  rw [group_updGroup, group_congr hs2, Option.map_eq_some_iff] at hx
  case hf => exact fun g => ⟨updArm_team g cx.c.arm _, updArm_idx g cx.c.arm _⟩
  obtain ⟨y, hy, he⟩ := hx
  obtain rfl := find_updWhere_const _ _ _ _ hy
  rw [← hb.clock]
  exact ⟨_, he.symm⟩

/-- The arm that the effect of a slot finds. -/
theorem begun_arm {i : Instr} {s : State} {cx : Cx} (h : gate i s = .go cx) (ws : List (Nat × Nat)) :
    (cx.refresh (cx.begun i s ws)).g.arm cx.c.arm = { ((cx.g.endYield cx.c.arm).arm cx.c.arm) with since := s.clock, due := false } := by
  obtain ⟨k, hk⟩ := begun_group h ws
  rw [hk]
  exact arm_updArm ..

/-- A wait of the slot itself stands where it goes on. -/
theorem Resumes.wait {i : Instr} {s : State} {cx : Cx} {a : Nat} (h : Resumes i s cx a) : ((cx.refresh (cx.begun i s)).g.arm cx.c.arm).wait = (cx.g.arm cx.c.arm).wait := by
  rw [begun_arm h.go]
  unfold Group.endYield
  rw [arm_updArm]
  have hres := h.waits
  unfold Wait.resumed at hres
  dsimp only
  split
  · next hk => rw [hk] at hres; cases hres
  · next hk => rw [hk] at hres; cases hres
  · rfl

end Sys2Proof.Machine

namespace Sys2Proof.Machine

/-! ### The block instructions (R260, R261) -/

theorem encBlocks_refresh {cx : Cx} {t : State} (h : cx.Finds (cx.refresh t).g) (w : Word) (f : Slot) : (cx.refresh t).encBlocks w f = cx.encBlocks w f := by
  have hW : (cx.refresh t).W = cx.W := rfl
  have hact : (cx.refresh t).act = cx.act := rfl
  unfold Cx.encBlocks
  simp only [oneSel_refresh h, srcU_refresh h, ruleReg_refresh h, h.vget, hW, hact]

theorem blkAcc_refresh {cx : Cx} {t : State} (h : cx.Finds (cx.refresh t).g) (f : Slot) (a : Opd) : (cx.refresh t).blkAcc f a = cx.blkAcc f a := by
  unfold Cx.blkAcc
  rw [oneSel_refresh h, srcU_refresh h]
  rfl

theorem Beside.fmtSlot {s t : State} (h : Beside s t) (cx : Cx) (k : BitVec 3) : t.fmtSlot cx k = s.fmtSlot cx k := by
  unfold State.fmtSlot
  rw [h.team]
  simp only [h.launch]

/-- The meaning of BLK.ENC (R260). -/
def blkEncBody (w : Word) : Body where
  hold := fun cx s => !cx.act.isEmpty && s.ownMarked cx [cx.blkAcc (s.fmtSlot cx w.slot) w.a]
  check := fun cx _ s => if cx.act.isEmpty then none else (fmtBad (s.fmtSlot cx w.slot) true).or (s.rank10 cx [(cx.blkAcc (s.fmtSlot cx w.slot) w.a, 2)] [] true)
  used := some (fun cx _ =>
    if cx.act.isEmpty then []
    else (uwords w.a 2 cx.oneSel ++ uwords w.c 1 cx.oneSel).map (fun k => (0, 2 ^ 20 + k))
      ++ cx.act.flatMap (fun L => cx.ruleWords ((Instr.blkEnc w).formW cx.W).b w.b cx.oneSel L))
  check2 := fun cx _ s => if cx.act.isEmpty then none else s.rank11 cx [cx.blkAcc (s.fmtSlot cx w.slot) w.a] (needW cx.priv)
  flush := fun cx s =>
    if !cx.act.isEmpty && (cx.encBlocks w (s.fmtSlot cx w.slot)).any (fun b => !b.2.isEmpty) then (s.countLine cx.tag (s.fmtSlot cx w.slot)).toList else []
  run := fun cx _ s => if cx.act.isEmpty then s else encStored cx w s
where
  /-- The blocks stored, and their outliers appended. -/
  encStored (cx : Cx) (w : Word) (s : State) : State :=
    let f := s.fmtSlot cx w.slot
    let acc := cx.blkAcc f w.a
    let l := cx.encBlocks w f
    let out := l.flatMap (fun b => b.2)
    let s := (s.fills cx.core cx.tenant [acc]).appendAll cx.core cx.tag f w.slot.toNat false out
    let s := if out.isEmpty then s else s.dropClean cx.core (s.countLine cx.tag f).toList
    cx.storeMany ((List.range l.length).map (fun b => (acc.va + b * blockBytes f.ecode, blockBytes f.ecode, (l.getD b (0, [])).1))) w.chint.toNat false s

theorem exec_blkEnc (w : Word) (s : State) : exec (.blkEnc w) s = issue (.blkEnc w) s (blkEncBody w) := rfl

theorem encStored_stays (cx : Cx) (w : Word) (s : State) (c : CtxId) : (blkEncBody.encStored cx w s).stays c = s.stays c := by
  unfold blkEncBody.encStored
  extract_lets f acc l out s1 s2
  have h1 : s1.stays c = s.stays c := (appendAll_stays ..).trans (stays_congr (fills_groups ..) c)
  have h2 : s2.stays c = s1.stays c := by
    show (if out.isEmpty then s1 else s1.dropClean _ _).stays c = _
    split
    · rfl
    · exact stays_congr (dropClean_groups ..) c
  rw [storeMany_stays, h2, h1]

theorem blkEnc_settles (w : Word) (c : CtxId) : (blkEncBody w).Settles c := by
  intro cx' a t _ ht
  show (if cx'.act.isEmpty then t else blkEncBody.encStored cx' w t).stays c = false
  split
  · exact ht
  · rw [encStored_stays]; exact ht

/-- R260, R427: BLK.ENC with no lane only goes on. -/
theorem blkEnc_idle (w : Word) (s : State) (cx : Cx) (h : Passes (.blkEnc w) s cx) (hact : cx.act = []) :
    exec (.blkEnc w) s = .next (cx.ends (.blkEnc w) (fun _ _ s => s) (cx.begun (.blkEnc w) s)) := by
  have hidle : cx.act.isEmpty = true := by rw [hact]; rfl
  have hw : (blkEncBody w).words (.blkEnc w) (isVector (Instr.blkEnc w).form cx.h) cx = cx.formWords (.blkEnc w) := by
    rw [formWords_idle rfl hact]
    show [armSel cx.c].flatMap (fun _ => if cx.act.isEmpty then _ else _) = []
    simp [hidle]
  rw [exec_blkEnc, issue_checked (blkEncBody w) h rfl rfl ?hold ?words (fun _ _ => if_pos hidle) (fun _ _ => if_pos hidle) rfl ?flush (blkEnc_settles w _), hw,
    completes_eq_ends cx _ _ _ (cap_none_of_form h.1 h.2.1 rfl), ends_vector cx _ _ _ rfl, ends_vector cx _ _ _ rfl]
  case hold =>
    show (!cx.act.isEmpty && _) = false
    rw [hidle]
    rfl
  case words =>
    rw [hw, formWords_idle rfl hact]
    rfl
  case flush =>
    intro s
    show (if (!cx.act.isEmpty && _) then _ else _) = _
    rw [hidle]
    rfl
  exact congrArg (fun t => Host.Outcome.next (cx.advance t)) (if_pos hidle)

/-- R260: BLK.ENC without outliers stores its blocks. -/
theorem blkEnc_completes (w : Word) (s : State) (cx : Cx) (h : Passes (.blkEnc w) s cx) (hp : cx.pure) (hact : cx.act ≠ []) :
    let f := s.fmtSlot cx w.slot
    s.ownMarked cx [cx.blkAcc f w.a] = false → fmtBad f true = none → s.rank10 cx [(cx.blkAcc f w.a, 2)] [] true = none →
    s.rank11 cx [cx.blkAcc f w.a] (needW cx.priv) = none → (∀ b ∈ cx.encBlocks w f, b.2 = []) →
    exec (.blkEnc w) s = .next (cx.ends (.blkEnc w) (fun cx _ s =>
      let l := cx.encBlocks w f
      cx.storeMany ((List.range l.length).map (fun b => ((cx.blkAcc f w.a).va + b * blockBytes f.ecode, blockBytes f.ecode, (l.getD b (0, [])).1))) w.chint.toNat false
        (s.fills cx.core cx.tenant [cx.blkAcc f w.a])) (cx.begun (.blkEnc w) s)) := by
  intro f hmark hfmt h10 h11 hout
  have hne : cx.act.isEmpty = false := by simpa using hact
  have hbusy : ¬ cx.act.isEmpty = true := by simp [hne]
  have hnone : (cx.encBlocks w f).flatMap (fun b => b.2) = [] := List.flatMap_eq_nil_iff.mpr hout
  rw [exec_blkEnc, issue_unflushed (blkEncBody w) h rfl rfl ?hold (hp.poison _) (fun _ _ => ?check) (fun _ _ => ?check2) rfl ?flush (blkEnc_settles w _), hp.begun,
    completes_eq_ends cx _ _ _ (cap_none_of_form h.1 h.2.1 rfl), ends_vector cx _ _ _ rfl, ends_vector cx _ _ _ rfl]
  case hold =>
    show (!cx.act.isEmpty && s.ownMarked cx [cx.blkAcc f w.a]) = false
    rw [hmark, Bool.and_false]
  case check =>
    refine (if_neg hbusy).trans ?_
    show (fmtBad f true).or (s.rank10 cx [(cx.blkAcc f w.a, 2)] [] true) = none
    rw [hfmt, h10]
    rfl
  case check2 => exact (if_neg hbusy).trans h11
  case flush =>
    intro ln hln
    have hany : (cx.encBlocks w ((cx.opened s).fmtSlot cx w.slot)).any (fun b => !b.2.isEmpty) = false := by
      rw [(Beside.opened cx s).fmtSlot, List.any_eq_false]
      intro b hm
      rw [hout b hm]
      decide
    change ln ∈ (if !cx.act.isEmpty && (cx.encBlocks w ((cx.opened s).fmtSlot cx w.slot)).any (fun b => !b.2.isEmpty) then _ else []) at hln
    rw [hany, Bool.and_false] at hln
    cases hln
  have hb := Beside.begun cx (.blkEnc w) s (cx.formWords (.blkEnc w))
  have hf := finds_begun cx (.blkEnc w) s (cx.formWords (.blkEnc w))
  generalize cx.begun (.blkEnc w) s = t at hb hf
  have hslot : t.fmtSlot (cx.refresh t) w.slot = f := hb.fmtSlot cx w.slot
  refine congrArg (fun t => Host.Outcome.next (cx.advance t)) ((if_neg hbusy).trans ?_)
  unfold blkEncBody.encStored
  simp only [hslot, encBlocks_refresh hf, hnone]
  rfl


/-- The meaning of BLK.DEC (R261). -/
def blkDecBody (w : Word) : Body where
  hold := fun cx s => !cx.act.isEmpty && s.ownMarked cx [cx.blkAcc (s.fmtSlot cx w.slot) w.a]
  check := fun cx _ s => if cx.act.isEmpty then none else (fmtBad (s.fmtSlot cx w.slot) true).or (s.rank10 cx [(cx.blkAcc (s.fmtSlot cx w.slot) w.a, 2)] [] true)
  used := some (fun cx _ => if cx.act.isEmpty then [] else (uwords w.a 2 cx.oneSel).map (fun k => (0, 2 ^ 20 + k)))
  check2 := fun cx _ s => if cx.act.isEmpty then none else s.rank11 cx [cx.blkAcc (s.fmtSlot cx w.slot) w.a] (needR cx.priv)
  own := true
  run := fun cx _ s =>
    if cx.act.isEmpty then cx.advance s
    else
      match (cx.g.arm cx.c.arm).wait.kind, s.asyncs.find? (fun x => (cx.g.arm cx.c.arm).wait.asy.contains x.id) with
      | .slice, some x => cx.advance (decoded cx w x s)
      | _, _ => requested cx w s
where
  /-- The elements written, and their record gone. -/
  decoded (cx : Cx) (w : Word) (x : Async) (s : State) : State :=
    let ks := (List.range (32 * nBlocks cx.W)).filter (fun k => cx.act.contains (elemAt cx.W k).2)
    let put (g : Group) (k : Nat) : Group :=
      let L := (elemAt cx.W k).2
      let r := cx.decReg w k
      let v := blkValue (x.blk.getD 5) x.parts w.ty k
      let g := g.vwrite w.ty r L v.1
      if v.2 then (if w.ty.is64 then (g.vpoison r L).vpoison (r + 1) L else g.vpoison r L) else g
    let s := if cx.wb then s.updGroup cx.c.team cx.c.grp (fun g => ks.foldl put g) else s
    { s with asyncs := s.asyncs.filter (fun y => y.id != x.id) }
  /-- The bytes of the blocks asked for, and the slot waiting for them. -/
  requested (cx : Cx) (w : Word) (s : State) : State :=
    let f := s.fmtSlot cx w.slot
    let acc := cx.blkAcc f w.a
    let ps := (wordsOf (acc.n + 1) acc.va acc.n).map (fun p => cx.part s 0 [] p.1 p.2)
    let u := s.fills cx.core cx.tenant [acc]
    cx.stay { kind := .slice, asy := [u.nextId], rel := true }
      (u.startLoad { id := 0, core := cx.core, tag := cx.tag, dest := .none, ty := w.ty, parts := ps, blk := some f.ecode } w.chint.toNat false)

theorem exec_blkDec (w : Word) (s : State) : exec (.blkDec w) s = issue (.blkDec w) s (blkDecBody w) := rfl

theorem blkDec_words_idle (w : Word) (cx : Cx) (hact : cx.act = []) : (blkDecBody w).words (.blkDec w) (isVector (Instr.blkDec w).form cx.h) cx = cx.formWords (.blkDec w) := by
  rw [formWords_idle rfl hact]
  show [armSel cx.c].flatMap (fun _ => if cx.act.isEmpty then _ else _) = []
  simp [hact]

/-- R261, R427: BLK.DEC with no lane only goes on. -/
theorem blkDec_idle (w : Word) (s : State) (cx : Cx) (h : Passes (.blkDec w) s cx) (hact : cx.act = []) :
    exec (.blkDec w) s = .next (cx.completes (.blkDec w) (fun _ _ s => s) (cx.begun (.blkDec w) s)) := by
  have hidle : cx.act.isEmpty = true := by rw [hact]; rfl
  have hw := blkDec_words_idle w cx hact
  rw [exec_blkDec, issue_moves (blkDecBody w) (fun _ _ s => s) h rfl rfl rfl ?hold ?words (fun _ _ => if_pos hidle) (fun _ _ => if_pos hidle) rfl (fun _ => rfl) ?run, hw]
  case hold =>
    show (!cx.act.isEmpty && _) = false
    rw [hidle]
    rfl
  case words =>
    rw [hw, formWords_idle rfl hact]
    rfl
  case run =>
    intro cx' hcx
    have hidle' : ∀ t, (cx'.refresh t).act.isEmpty = true := by
      rcases hcx with rfl | rfl <;> exact fun _ => hidle
    refine (if_pos (hidle' _)).trans ?_
    rcases hcx with rfl | rfl <;> rfl

theorem requested_stays {cx : Cx} {s : State} {g : Group} (w : Word) (hg : s.group cx.c.team cx.c.grp = some g) : (blkDecBody.requested cx w s).stays cx.c = true := by
  unfold blkDecBody.requested
  refine stay_stays (g := g) ?_ (fun hk => nomatch hk)
  rw [← hg]
  exact group_congr ((startLoad_groups ..).trans (fills_groups ..)) _ _

/-- R261: BLK.DEC asks for its bytes and waits. -/
theorem blkDec_requests (w : Word) (s : State) (cx : Cx) (h : Passes (.blkDec w) s cx) (hp : cx.pure) (hact : cx.act ≠ []) :
    let f := s.fmtSlot cx w.slot
    let acc := cx.blkAcc f w.a
    s.ownMarked cx [acc] = false → fmtBad f true = none → s.rank10 cx [(acc, 2)] [] true = none → s.rank11 cx [acc] (needR cx.priv) = none →
    exec (.blkDec w) s = .next (
      let s := cx.begun (.blkDec w) s
      let parts := (wordsOf (acc.n + 1) acc.va acc.n).map (fun p => (cx.refresh s).part s 0 [] p.1 p.2)
      let u := s.fills cx.core cx.tenant [acc]
      cx.stay { kind := .slice, asy := [u.nextId], rel := true }
        (u.startLoad { id := 0, core := cx.core, tag := cx.tag, dest := .none, ty := w.ty, parts := parts, blk := some f.ecode } w.chint.toNat false)) := by
  intro f acc hmark hfmt h10 h11
  have hbusy : ¬ cx.act.isEmpty = true := by simpa using hact
  have hb := Beside.begun cx (.blkDec w) s (cx.formWords (.blkDec w))
  have hf := finds_begun cx (.blkDec w) s (cx.formWords (.blkDec w))
  have hg := group_begun h.2.1 (cx.formWords (.blkDec w))
  have hrun : ∀ t, cx.Finds (cx.refresh t).g → (blkDecBody w).run (cx.refresh t) (armSel cx.c) t = blkDecBody.requested (cx.refresh t) w t := by
    intro t hf
    refine (if_neg hbusy).trans ?_
    split
    · next hk _ => exact absurd hk (begun_not_slice h.2.2 hf)
    · rfl
  rw [exec_blkDec, issue_stands (blkDecBody w) h rfl rfl rfl ?hold (hp.poison _) ?check ?check2 rfl (fun _ => rfl) ?stays, hp.begun]
  case hold =>
    show (!cx.act.isEmpty && s.ownMarked cx [acc]) = false
    rw [hmark, Bool.and_false]
  case check =>
    refine (if_neg hbusy).trans ?_
    show (fmtBad f true).or (s.rank10 cx [(acc, 2)] [] true) = none
    rw [hfmt, h10]
    rfl
  case check2 => exact (if_neg hbusy).trans h11
  case stays =>
    rw [hp.begun]
    dsimp only
    rw [hrun _ hf]
    exact requested_stays (cx := cx.refresh _) w hg
  dsimp only
  rw [hrun _ hf]
  generalize cx.begun (.blkDec w) s = t at hb hf
  have hslot : t.fmtSlot (cx.refresh t) w.slot = f := hb.fmtSlot cx w.slot
  unfold blkDecBody.requested
  simp only [hslot, blkAcc_refresh hf]
  rfl

/-- R261: BLK.DEC writes its elements once its bytes are there. -/
theorem blkDec_completes (w : Word) (s : State) (cx : Cx) (k : Nat) (x : Async) (h : Resumes (.blkDec w) s cx k) (hact : cx.act ≠ [])
    (hmark : s.ownMarked cx [cx.blkAcc (s.fmtSlot cx w.slot) w.a] = false)
    (hkind : (cx.g.arm cx.c.arm).wait.kind = .slice) (hx : s.asyncs.find? (fun x => (cx.g.arm cx.c.arm).wait.asy.contains x.id) = some x) :
    exec (.blkDec w) s = .next (cx.completes (.blkDec w) (fun cx _ s => blkDecBody.decoded cx w x s) (cx.begun (.blkDec w) s)) := by
  have hbusy : ¬ cx.act.isEmpty = true := by simpa using hact
  have hk : k = armSel cx.c := by
    have hl : [armSel cx.c].drop _ = [k] := h.last
    cases hn : (cx.g.arm cx.c.arm).wait.exec with
    | zero => rw [hn] at hl; exact (List.cons.inj hl).1.symm
    | succ n => rw [hn] at hl; simp at hl
  subst hk
  rw [exec_blkDec]
  refine issue_again_moves (blkDecBody w) _ h rfl rfl rfl ?hold ?run
  case hold =>
    show (!cx.act.isEmpty && s.ownMarked cx [cx.blkAcc (s.fmtSlot cx w.slot) w.a]) = false
    rw [hmark, Bool.and_false]
  case run =>
    intro cx' hcx
    have hw : ((cx'.refresh (cx.begun (.blkDec w) s)).g.arm cx'.c.arm).wait = (cx.g.arm cx.c.arm).wait := by
      rcases hcx with rfl | rfl <;> exact h.wait
    have hasy : (cx.begun (.blkDec w) s).asyncs = s.asyncs := by rw [(Beside.begun cx (.blkDec w) s (cx.formWords _)).eq]
    have hbusy' : ¬ (cx'.refresh (cx.begun (.blkDec w) s)).act.isEmpty = true := by
      rcases hcx with rfl | rfl <;> exact hbusy
    refine (if_neg hbusy').trans ?_
    have hkind' : ((cx'.refresh (cx.begun (.blkDec w) s)).g.arm (cx'.refresh (cx.begun (.blkDec w) s)).c.arm).wait.kind = .slice := by
      rw [show ((cx'.refresh (cx.begun (.blkDec w) s)).g.arm (cx'.refresh (cx.begun (.blkDec w) s)).c.arm).wait = _ from hw, hkind]
    have hx' : (cx.begun (.blkDec w) s).asyncs.find? (fun x => ((cx'.refresh (cx.begun (.blkDec w) s)).g.arm (cx'.refresh (cx.begun (.blkDec w) s)).c.arm).wait.asy.contains x.id) = some x := by
      rw [hasy, show ((cx'.refresh (cx.begun (.blkDec w) s)).g.arm (cx'.refresh (cx.begun (.blkDec w) s)).c.arm).wait = _ from hw, hx]
    rw [hkind', hx']
    rcases hcx with rfl | rfl <;> rfl

/-- Settles O19: the cache and stream instructions, and the block instructions at each of their issues. -/
theorem cacheInstructionsComplete : Obligations.CacheInstructionsComplete :=
  ⟨cacheAndStreamComplete, blkEnc_idle, blkEnc_completes, blkDec_idle, blkDec_requests, fun w s cx k x h hact hmark hkind hx => blkDec_completes w s cx k x h hact hmark hkind hx⟩

end Sys2Proof.Machine

namespace Sys2Proof.Machine

/-! ### Where an effect begins that may wait (R45, R95) -/

/-- What a slot finds where its effect begins: its group but for its timing, the cycles left of an earlier wait, and itself in no wait. -/
structure Cx.Opens (cx : Cx) (s s0 : State) : Prop where
  group : s0.group cx.c.team cx.c.grp = some (cx.refresh s0).g
  finds : cx.Finds (cx.refresh s0).g
  left : ((cx.refresh s0).g.arm cx.c.arm).left = (cx.g.arm cx.c.arm).left
  clock : s0.clock = s.clock
  teams : s0.teams = s.teams
  stays : s0.stays cx.c = false

/-- The parts of an effect's beginning keep the clock and the teams. -/
theorem issued_deferred_clock (cx : Cx) (i : Instr) (vec : Bool) (ws : List (Nat × Nat)) (u : State) :
    (cx.issued vec (cx.deferred i vec ws u)).clock = u.clock ∧ (cx.issued vec (cx.deferred i vec ws u)).teams = u.teams := by
  have hb := (Beside.deferred cx i vec ws u).trans (Beside.issued cx vec _)
  exact ⟨hb.clock, by rw [hb.eq]⟩

theorem release_clock (cx : Cx) (scope : Option Nat) (s : State) : (cx.release scope s).1.clock = s.clock ∧ (cx.release scope s).1.teams = s.teams := by
  have hw := Wires.release cx scope s
  exact ⟨by rw [hw], by rw [hw]⟩

/-- A group whose arm `a` has issued at a time. -/
def Group.stamped (g : Group) (a clock : Nat) : Group := g.updArm a (fun a => { a with since := clock, due := false })

/-- The group of a slot that issues. -/
theorem issued_group {cx : Cx} {i : Instr} {vec : Bool} {ws : List (Nat × Nat)} {u : State} {g : Group} (hg : u.group cx.c.team cx.c.grp = some g) :
    ∃ k, (cx.issued vec (cx.deferred i vec ws u)).group cx.c.team cx.c.grp = some { g.stamped cx.c.arm u.clock with skidSlots := k } := by
  unfold Cx.issued
  extract_lets s1 s2 skid
  have hb : Beside u s2 := by
    have h0 := Beside.deferred cx i vec ws u
    have h1 : Beside u s1 := by
      show Beside u (if vec then _ else _)
      split
      · exact h0.trans (Beside.updPort ..)
      · exact h0
    show Beside u (if cx.h.yield then _ else s1)
    split
    · exact h1.trans (Beside.yieldPorts ..)
    · exact h1
  have hs2 : s2.groups = u.groups := by
    simp only [s2, s1, apply_ite State.groups, yieldPorts_groups, updPort_groups, ite_self, deferred_groups]
  have hclock : s2.clock = u.clock := hb.clock
  refine ⟨if skid && !cx.again then Nat.min (g.skidSlots + 1) 255 else g.skidSlots, (group_updGroup _ _ _ _ ?_).trans ?_⟩
  · exact fun g => ⟨updArm_team g cx.c.arm _, updArm_idx g cx.c.arm _⟩
  · rw [group_congr hs2, hg]
    have e : g.stamped cx.c.arm s2.clock = g.stamped cx.c.arm u.clock := by rw [hclock]
    exact congrArg (fun x : Group => some { x with skidSlots := if skid && !cx.again then Nat.min (g.skidSlots + 1) 255 else g.skidSlots }) e

/-- A slot whose group stands so has it, but for its timing. -/
theorem Cx.Opens.of_group {cx : Cx} {s s0 : State} {f : Arm → Arm} {k : Nat} (hg : s0.group cx.c.team cx.c.grp = some { cx.g.updArm cx.c.arm f with skidSlots := k })
    (hf : Arm.Timing f) (hleft : ∀ a, (f a).left = a.left) (hc : s0.clock = s.clock) (ht : s0.teams = s.teams) (hst : s0.stays cx.c = false) : cx.Opens s s0 := by
  have he : (cx.refresh s0).g = { cx.g.updArm cx.c.arm f with skidSlots := k } := by
    show (s0.group _ _).getD cx.g = _
    rw [hg]
    rfl
  refine ⟨he ▸ hg, ⟨f, k, hf, he⟩, ?_, hc, ht, hst⟩
  rw [he]
  show ((cx.g.updArm cx.c.arm f).arm cx.c.arm).left = _
  rw [arm_updArm, hleft]

/-- The group of a slot as the slot finds it. -/
theorem opened_group {i : Instr} {s : State} {cx : Cx} (h : gate i s = .go cx) : (cx.opened s).group cx.c.team cx.c.grp = some (cx.g.endYield cx.c.arm) := by
  obtain ⟨g, hg⟩ := gate_go_group h
  have hn := gate_go_names h
  refine (group_updGroup_named s cx.c.team cx.c.grp _ ⟨(updArm_team ..).trans hn.1, (updArm_idx ..).trans hn.2⟩).trans ?_
  rw [hg]
  rfl

/-- The change that ending a YIELD.ON and issuing make to an arm. -/
def Arm.reissued (clock : Nat) (a : Arm) : Arm :=
  let a := match a.wait.kind with | .yieldOn _ _ | .member _ _ => { a with wait := {} } | _ => a
  { a with since := clock, due := false }

/-- The change that the end of a release and issuing make to an arm. -/
def Arm.rebegun (clock : Nat) (a : Arm) : Arm := { a with wait := {}, since := clock, due := false }

theorem reissued_timing (clock : Nat) : Arm.Timing (Arm.reissued clock) := by
  constructor <;> intro a <;> unfold Arm.reissued <;> dsimp only
  case wait => split <;> simp
  all_goals split <;> rfl

theorem rebegun_timing (clock : Nat) : Arm.Timing (Arm.rebegun clock) := ⟨fun _ => rfl, fun _ => rfl, fun _ => rfl, fun _ => rfl, fun _ => .inr rfl⟩

theorem reissued_left (clock : Nat) (a : Arm) : (Arm.reissued clock a).left = a.left := by
  unfold Arm.reissued
  dsimp only
  split <;> rfl

theorem updArm_ext (g : Group) (a : Nat) {f f' : Arm → Arm} (h : ∀ x, f x = f' x) : g.updArm a f = g.updArm a f' := by rw [funext h]

/-- A slot at its first issue. -/
theorem opens_starts {i : Instr} {s : State} {cx : Cx} (h : gate i s = .go cx) (hfirst : cx.first = true) (scope : Option Nat) (ws : List (Nat × Nat)) : cx.Opens s (cx.starts i scope s ws) := by
  have hr := release_clock cx scope (cx.opened s)
  obtain ⟨k, hk⟩ := issued_group (i := i) (vec := isVector i.form cx.h) (ws := ws) ((group_congr (release_groups cx scope (cx.opened s)) cx.c.team cx.c.grp).trans (opened_group h))
  have hid := issued_deferred_clock cx i (isVector i.form cx.h) ws (cx.release scope (cx.opened s)).1
  refine .of_group (f := Arm.reissued (cx.release scope (cx.opened s)).1.clock) (k := k) (hk.trans ?_) (reissued_timing _) (reissued_left _) (hid.1.trans hr.1) (hid.2.trans hr.2) (starts_stays cx i scope s ws hfirst)
  rw [Group.stamped, Group.endYield, updArm_updArm]
  rfl

/-- A slot whose release is over. -/
theorem opens_rebegun {i : Instr} {s : State} {cx : Cx} (h : gate i s = .go cx) : cx.Opens s (cx.rebegun i s) := by
  have hg : ((cx.opened s).updArm cx.c (fun a => { a with wait := {} })).group cx.c.team cx.c.grp = some ((cx.g.endYield cx.c.arm).updArm cx.c.arm (fun a => { a with wait := {} })) := by
    refine (group_updGroup _ _ _ _ fun g => ⟨updArm_team g cx.c.arm _, updArm_idx g cx.c.arm _⟩).trans ?_
    rw [opened_group h]
    rfl
  obtain ⟨k, hk⟩ := issued_group (i := i) (vec := isVector i.form cx.h) (ws := cx.formWords i) hg
  have hid := issued_deferred_clock cx i (isVector i.form cx.h) (cx.formWords i) ((cx.opened s).updArm cx.c (fun a => { a with wait := {} }))
  refine .of_group (f := Arm.rebegun s.clock) (k := k) (hk.trans ?_) (rebegun_timing _) (fun _ => rfl) hid.1 hid.2 (rebegun_stays cx i s)
  rw [Group.stamped, Group.endYield, updArm_updArm, updArm_updArm, updArm_ext (f' := Arm.rebegun s.clock)]
  intro a
  dsimp only
  split <;> rfl

theorem Begins.opens {i : Instr} {scope : Option Nat} {ok : Prop} {s s0 : State} {cx : Cx} (h : Begins i scope ok s cx s0) : cx.Opens s s0 := by
  rcases h with ⟨⟨-, hgo, hfirst⟩, -, -, -, rfl⟩ | ⟨-, hgo, -, -, rfl⟩
  · exact opens_starts hgo hfirst scope _
  · exact opens_rebegun hgo

/-- A first issue without a release begins. -/
theorem Passes.begins {i : Instr} {s : State} {cx : Cx} (h : Passes i s cx) (hc : cx.clean i) {ok : Prop} (hok : ok) : Begins i none ok s cx (cx.begun i s) :=
  .inl ⟨h, hc, hok, released_none cx s, rfl⟩

theorem Cx.Opens.idle {cx : Cx} {s s0 : State} (h : cx.Opens s s0) : ((cx.refresh s0).g.arm cx.c.arm).wait.kind = .idle := by
  have hst := h.stays
  unfold State.stays State.armOf at hst
  rw [h.group] at hst
  simpa using hst

/-- Where an effect begins, its slot is in no wait that has ended. -/
theorem Cx.Opens.ended {cx : Cx} {s s0 : State} (h : cx.Opens s s0) {p : WaitKind → Bool} (hp : p .idle = false) : (cx.refresh s0).ended p = none := by
  unfold Cx.ended
  rw [show ((cx.refresh s0).g.arm (cx.refresh s0).c.arm).wait.kind = .idle from h.idle, hp]
  rfl

/-! ### Effects that may wait, run (R45) -/

/-- A body that leaves the PC to the slot and captures nothing either waits or goes on. -/
theorem Body.perform_plain (b : Body) {i : Instr} {cx : Cx} (u : State) (hown : b.own = false) (honce : b.once = false) (hcap : cx.h.cap = none) :
    let vec := isVector i.form cx.h
    let k := (cx.g.arm cx.c.arm).wait.exec
    let s1 := b.runArms cx (cx.arms vec) k ((cx.arms vec).drop k) (cx.issued vec (cx.deferred i vec (b.words i vec cx) u))
    b.perform i vec cx u = if s1.stays cx.c then s1 else cx.advance s1 := by
  have ha : b.arms cx (isVector i.form cx.h) = cx.arms (isVector i.form cx.h) := by simp [Body.arms, honce]
  simp only [Body.perform, ha, hcap, hown, Option.isSome_none, Bool.false_and, Bool.false_eq_true, if_false, Bool.false_or]

/-- A slot where an effect begins runs it for each arm, until one waits. -/
theorem issue_begins_runs {i : Instr} {scope : Option Nat} {ok : Prop} {s s0 : State} {cx : Cx} (b : Body) (h : Begins i scope ok s cx s0) (hcap : i.form.cap = false)
    (hown : b.own = false) (honce : b.once = false) (hused : b.used = none) (hhold : b.hold cx s = false)
    (h1 : ok → ∀ a ∈ cx.arms (isVector i.form cx.h), b.check cx a s = none) (h2 : ok → ∀ a ∈ cx.arms (isVector i.form cx.h), b.check2 cx a s = none)
    (hrel : b.rel cx = scope) (hf : ∀ s, b.flush cx s = []) :
    let vec := isVector i.form cx.h
    let s1 := b.runArms cx (cx.arms vec) 0 (cx.arms vec) s0
    issue i s b = .next (if s1.stays cx.c then s1 else cx.advance s1) := by
  have hcap' := h.cap_none hcap
  have hw := b.words_eq i cx honce hused
  have ha : b.arms cx (isVector i.form cx.h) = cx.arms (isVector i.form cx.h) := by simp [Body.arms, honce]
  subst hrel
  rcases h with ⟨⟨-, hgo, hfirst⟩, hclean, hok, hrels, rfl⟩ | ⟨-, hgo, hkind, hexec, rfl⟩
  · have hb := b.first_eq_none (i := i) (s := s) (hw.symm ▸ hclean) (ha.symm ▸ h1 hok) (ha.symm ▸ h2 hok)
    rw [issue_effect i s b cx hgo hhold hb, Body.effect_now b i _ cx _ hfirst hrels hf, b.perform_plain _ hown honce hcap', hw, (Cx.first_wait hfirst).2.2]
    rfl
  · obtain ⟨hres, hun⟩ := unissued_of_release (.inl hkind)
    rw [issue_effect i s b cx hgo hhold (b.first_of_resumed i _ cx s hres)]
    unfold Body.effect
    simp only [hun, if_true]
    rw [b.perform_plain _ hown honce hcap', hw, hexec]
    rfl

/-- Executions none of which waits, wherever a property holds that they keep, or that is needed once. -/
theorem Body.runArms_of (b : Body) (cx : Cx) (f : Cx → Nat → State → State) (P : State → Prop) (all : List Nat) :
    ∀ (l : List Nat) (k : Nat) (s : State), P s → s.stays cx.c = false →
      (∀ a ∈ l, ∀ t, P t → b.run (cx.refresh t) a t = f (cx.refresh t) a t ∧ (f (cx.refresh t) a t).stays cx.c = false) →
      (l.length = 1 ∨ ∀ a ∈ l, ∀ t, P t → P (f (cx.refresh t) a t)) →
      b.runArms cx all k l s = cx.each f l s ∧ (cx.each f l s).stays cx.c = false := by
  intro l
  induction l with
  | nil => exact fun k s _ hs _ _ => ⟨rfl, hs⟩
  | cons a t ih =>
    intro k s hP hs hrun hkeep
    obtain ⟨hr, hst⟩ := hrun a (List.mem_cons_self ..) s hP
    simp only [Body.runArms, Cx.each, hr, hst, Bool.and_false, Bool.false_eq_true, if_false]
    rcases hkeep with hone | hkeep
    · obtain rfl : t = [] := List.eq_nil_of_length_eq_zero (Nat.succ.inj hone)
      exact ⟨rfl, hst⟩
    · exact ih (k + 1) _ (hkeep a (List.mem_cons_self ..) s hP) hst (fun x hx => hrun x (List.mem_cons_of_mem _ hx)) (.inr fun x hx => hkeep x (List.mem_cons_of_mem _ hx))

/-- A slot none of whose executions waits ends with its effect. -/
theorem issue_begins_of {i : Instr} {scope : Option Nat} {ok : Prop} {s s0 : State} {cx : Cx} (b : Body) (f : Cx → Nat → State → State) (P : State → Prop)
    (h : Begins i scope ok s cx s0) (hcap : i.form.cap = false)
    (hown : b.own = false) (honce : b.once = false) (hused : b.used = none) (hhold : b.hold cx s = false)
    (h1 : ok → ∀ a ∈ cx.arms (isVector i.form cx.h), b.check cx a s = none) (h2 : ok → ∀ a ∈ cx.arms (isVector i.form cx.h), b.check2 cx a s = none)
    (hrel : b.rel cx = scope) (hf : ∀ s, b.flush cx s = []) (hP : P s0)
    (hrun : ∀ a ∈ cx.arms (isVector i.form cx.h), ∀ t, P t → b.run (cx.refresh t) a t = f (cx.refresh t) a t ∧ (f (cx.refresh t) a t).stays cx.c = false)
    (hkeep : (cx.arms (isVector i.form cx.h)).length = 1 ∨ ∀ a ∈ cx.arms (isVector i.form cx.h), ∀ t, P t → P (f (cx.refresh t) a t)) :
    issue i s b = .next (cx.ends i f s0) := by
  obtain ⟨e, hst⟩ := b.runArms_of cx f P (cx.arms (isVector i.form cx.h)) _ 0 s0 hP h.opens.stays hrun hkeep
  rw [issue_begins_runs b h hcap hown honce hused hhold h1 h2 hrel hf]
  rw [e, hst]
  rfl

theorem State.updArm_updArm (s : State) (c : CtxId) (f f' : Arm → Arm) : (s.updArm c f).updArm c f' = s.updArm c (fun a => f' (f a)) := by
  unfold State.updArm State.updGroup updWhere
  dsimp only
  rw [List.map_map]
  refine congrArg (fun gs => ({ s with groups := gs } : State)) (List.map_congr_left fun g _ => ?_)
  by_cases hg : (g.team == c.team && g.idx == c.grp) = true
  · have hg' : ((g.updArm c.arm f).team == c.team && (g.updArm c.arm f).idx == c.grp) = true := by rw [updArm_team, updArm_idx]; exact hg
    simp only [Function.comp_apply, hg, if_true, hg', Machine.updArm_updArm]
  · simp only [Function.comp_apply, hg, Bool.false_eq_true, if_false]

/-- A slot whose first execution waits stands with its wait, and with the arms it executes for. -/
theorem issue_begins_stands {i : Instr} {scope : Option Nat} {ok : Prop} {s s0 : State} {cx : Cx} {k : Nat} {l : List Nat} (b : Body) (w : Wait) (u : State)
    (h : Begins i scope ok s cx s0) (hcap : i.form.cap = false)
    (hown : b.own = false) (honce : b.once = false) (hused : b.used = none) (hhold : b.hold cx s = false)
    (h1 : ok → ∀ a ∈ cx.arms (isVector i.form cx.h), b.check cx a s = none) (h2 : ok → ∀ a ∈ cx.arms (isVector i.form cx.h), b.check2 cx a s = none)
    (hrel : b.rel cx = scope) (hf : ∀ s, b.flush cx s = []) (harms : cx.arms (isVector i.form cx.h) = k :: l)
    (hrun : b.run (cx.refresh s0) k s0 = cx.stay w u) (hw : w.kind ≠ .idle) (hexec : w.exec = 0) (hu : (u.group cx.c.team cx.c.grp).isSome) :
    issue i s b = .next (cx.keeps i (cx.stay { w with rel := true } u)) := by
  obtain ⟨g, hg⟩ := Option.isSome_iff_exists.mp hu
  have hst := stay_stays hg hw
  have hkeep : (cx.stay w u).updArm cx.c (fun x => { x with wait := { x.wait with rel := true, exec := 0, arms := k :: l } }) = cx.keeps i (cx.stay { w with rel := true } u) := by
    unfold Cx.keeps Cx.stay
    rw [State.updArm_updArm, State.updArm_updArm, harms, ← hexec]
  have hst' : (cx.keeps i (cx.stay { w with rel := true } u)).stays cx.c = true := by
    unfold Cx.keeps
    refine (stays_updArm _ _ _ ?_ _).trans (stay_stays hg hw)
    exact fun _ => rfl
  rw [issue_begins_runs b h hcap hown honce hused hhold h1 h2 hrel hf]
  rw [harms]
  simp only [Body.runArms, hrun, hown, hst, Bool.not_false, Bool.and_self, if_true, hkeep, hst']

/-- A slot whose wait has ended, and whose last execution does not wait again, ends with it. -/
theorem issue_again_finishes {i : Instr} {s : State} {cx : Cx} {a : Nat} (b : Body) (f : Cx → Nat → State → State) (h : Resumes i s cx a) (hcap : i.form.cap = false)
    (hown : b.own = false) (honce : b.once = false) (hhold : b.hold cx s = false)
    (hrun : b.run (cx.refresh (cx.begun i s)) a (cx.begun i s) = f (cx.refresh (cx.begun i s)) a (cx.begun i s))
    (hst : (f (cx.refresh (cx.begun i s)) a (cx.begun i s)).stays cx.c = false) :
    issue i s b = .next (cx.finishes f a (cx.begun i s)) := by
  have hs0 : cx.issued (isVector i.form cx.h) (cx.deferred i (isVector i.form cx.h) (b.words i (isVector i.form cx.h) cx) (cx.opened s)) = cx.begun i s := by
    rw [← begun_again h.again.1 i s (b.words i (isVector i.form cx.h) cx)]
    rfl
  rw [issue_again b h hhold, b.perform_plain _ hown honce (cap_none_of_form h.form h.go hcap), hs0, h.last]
  simp only [Body.runArms, hrun, hst, Bool.and_false, Bool.false_eq_true, if_false]
  rfl

end Sys2Proof.Machine

namespace Sys2Proof.Machine

/-! ### The ends of waits (R294, R297) -/

theorem sget_sput_other (g : Group) (sel sel' r r' : Nat) (x : W32) (h : r' ≠ r) : (g.sput sel r x).sget sel' r' = g.sget sel' r' := by
  unfold Group.sput Group.sget
  dsimp only
  repeat' split
  all_goals simp [get_set, h]

/-- The slot is in no wait once it has ended. -/
theorem done_stays (cx : Cx) (s : State) : (cx.done s).stays cx.c = false := by
  unfold Cx.done State.stays
  rw [armOf_updArm]
  cases s.armOf cx.c <;> rfl

@[simp] theorem acquire_groups (cx : Cx) (scope : Nat) (s : State) : (cx.acquire scope s).groups = s.groups := by
  unfold Cx.acquire
  split
  · unfold State.acquire
    split <;> rfl
  · rfl

@[simp] theorem acquire_teams (cx : Cx) (scope : Nat) (s : State) : (cx.acquire scope s).teams = s.teams := by
  unfold Cx.acquire
  split
  · exact (Wires.acquire ..).teams
  · rfl

/-- The end of a wait of a slot: the wait cleared and a value written. -/
def Cx.leave (cx : Cx) (k : Nat) (x : W64) (s : State) : State := cx.writeU k .u32 x (cx.done s)

theorem leave_stays (cx : Cx) (k : Nat) (x : W64) (s : State) : (cx.leave k x s).stays cx.c = false := (writeU_stays ..).trans (done_stays cx s)

/-- Every wide value a uniform operand holds is the same in both groups. -/
def SameOperand (cx : Cx) (g : Group) (o : Opd) : Prop := ∀ k, ({ cx with g := g } : Cx).srcU k o .u32 = cx.srcU k o .u32

theorem SameOperand.of_regs {cx : Cx} {g : Group} (h : g.regs = cx.g.regs) (o : Opd) : SameOperand cx g o := fun k => srcU_regs h k o .u32

/-- Ending a wait leaves the other operands, and the slot idle. -/
theorem leave_group {cx : Cx} {s : State} {g : Group} (k : Nat) (x : W64) (hg : s.group cx.c.team cx.c.grp = some g) :
    ∃ g', (cx.leave k x s).group cx.c.team cx.c.grp = some g' ∧ (g'.arm cx.c.arm).wait.kind = .idle ∧ ∀ cx0 : Cx, ∀ o, o ≠ cx.h.dst → SameOperand cx0 g o → SameOperand cx0 g' o := by
  have hd : (cx.done s).group cx.c.team cx.c.grp = some (g.updArm cx.c.arm (fun a => { a with wait := {} })) := by
    refine (group_updGroup _ _ _ _ fun g => ⟨updArm_team g cx.c.arm _, updArm_idx g cx.c.arm _⟩).trans ?_
    rw [hg]
    rfl
  have hregs := updArm_regs g cx.c.arm (fun a => { a with wait := {} })
  have hkind : ((g.updArm cx.c.arm (fun a => { a with wait := {} })).arm cx.c.arm).wait.kind = .idle := by rw [arm_updArm]
  have hsame : ∀ cx0 : Cx, ∀ o, SameOperand cx0 g o → SameOperand cx0 (g.updArm cx.c.arm (fun a => { a with wait := {} })) o := by
    intro cx0 o h j
    exact (srcU_regs (cx := { cx0 with g := g }) hregs j o .u32).trans (h j)
  generalize g.updArm cx.c.arm (fun a => { a with wait := {} }) = y at hd hkind hsame
  unfold Cx.leave Cx.writeU
  split
  · next r hr =>
    split
    · have hk := Keeps.swrite .u32 k r.toNat x
      refine ⟨_, (group_updGroup _ _ _ _ fun g => ⟨hk.team g, hk.idx g⟩).trans (congrArg _ hd), (congrArg (fun a => a.wait.kind) (hk.arm y cx.c.arm)).trans hkind, ?_⟩
      intro cx0 o hne h j
      refine Eq.trans ?_ (hsame cx0 o h j)
      unfold Cx.srcU
      cases o
      case s i =>
        have hi : i.toNat ≠ r.toNat := fun he => hne (hr ▸ congrArg Opd.s (BitVec.eq_of_toNat_eq he))
        show BitVec.ofNat 64 ((y.sput k r.toNat _).sget j i.toNat).toNat = BitVec.ofNat 64 (y.sget j i.toNat).toNat
        rw [sget_sput_other _ _ _ _ _ _ hi]
      all_goals rfl
    · exact ⟨y, hd, hkind, fun cx0 o _ h => hsame cx0 o h⟩
  · exact ⟨y, hd, hkind, fun cx0 o _ h => hsame cx0 o h⟩

/-- A state in which the slot's next execution finds its operands `os` as they were and its context in no wait. -/
structure Cx.Ready (cx : Cx) (os : List Opd) (s t : State) : Prop where
  group : t.group cx.c.team cx.c.grp = some (cx.refresh t).g
  idle : ((cx.refresh t).g.arm cx.c.arm).wait.kind = .idle
  same : ∀ o ∈ os, SameOperand cx (cx.refresh t).g o
  teams : t.teams = s.teams

theorem refresh_group {cx : Cx} {t : State} {g : Group} (h : t.group cx.c.team cx.c.grp = some g) : (cx.refresh t).g = g := by
  show (t.group _ _).getD cx.g = g
  rw [h]
  rfl

theorem Cx.Opens.ready {cx : Cx} {s s0 : State} (h : cx.Opens s s0) (os : List Opd) : cx.Ready os s s0 :=
  ⟨h.group, h.idle, fun o _ => .of_regs h.finds.regs o, h.teams⟩

theorem Cx.Ready.srcU {cx : Cx} {os : List Opd} {s t : State} (h : cx.Ready os s t) {o : Opd} (ho : o ∈ os) (k : Nat) : (cx.refresh t).srcU k o .u32 = cx.srcU k o .u32 :=
  h.same o ho k

theorem Cx.Ready.ended {cx : Cx} {os : List Opd} {s t : State} (h : cx.Ready os s t) {p : WaitKind → Bool} (hp : p .idle = false) : (cx.refresh t).ended p = none := by
  unfold Cx.ended
  rw [show ((cx.refresh t).g.arm (cx.refresh t).c.arm).wait.kind = .idle from h.idle, hp]
  rfl

/-- Ending a wait that is not there leaves a slot ready whose destination is none of the operands. -/
theorem Cx.Ready.leave {cx : Cx} {os : List Opd} {s t : State} (h : cx.Ready os s t) (hdst : ∀ o ∈ os, o ≠ cx.h.dst) (k : Nat) (x : W64) :
    cx.Ready os s ((cx.refresh t).leave k x t) := by
  obtain ⟨g', hg', hkind, hsame⟩ := leave_group (cx := cx.refresh t) k x h.group
  have he := refresh_group (cx := cx) hg'
  refine ⟨he.symm ▸ hg', he.symm ▸ hkind, fun o ho => he.symm ▸ hsame cx o (hdst o ho) (h.same o ho), ?_⟩
  refine Eq.trans ?_ h.teams
  unfold Cx.leave Cx.writeU
  split
  · split <;> rfl
  · rfl

/-- A slot stays ready over what leaves the groups and the teams. -/
theorem Cx.Ready.congr {cx : Cx} {os : List Opd} {s t u : State} (h : cx.Ready os s t) (hg : u.groups = t.groups) (ht : u.teams = t.teams) : cx.Ready os s u := by
  have he : (cx.refresh u).g = (cx.refresh t).g := congrArg (fun x => Option.getD x cx.g) (group_congr hg _ _)
  exact ⟨(group_congr hg _ _).trans (he.symm ▸ h.group), he.symm ▸ h.idle, he.symm ▸ h.same, ht.trans h.teams⟩

end Sys2Proof.Machine

namespace Sys2Proof.Machine

/-! ### Team barriers (R293, R294) -/

theorem team_congr {s t : State} (h : t.teams = s.teams) (k : Nat) : t.team k = s.team k := by
  unfold State.team
  rw [h]

theorem barOver_congr {s t : State} (h : t.teams = s.teams) {team grp b : Nat} (ho : Rules.barOver s team grp b) : Rules.barOver t team grp b := by
  unfold Rules.barOver at ho ⊢
  rwa [team_congr h]

theorem barOn_congr {s t : State} (h : t.teams = s.teams) {team grp b : Nat} (ho : Rules.barOn s team grp b) : Rules.barOn t team grp b := by
  unfold Rules.barOn at ho ⊢
  rwa [team_congr h]

theorem leaveBar_stays (v : Nat) (cx : Cx) (k : Nat) (s : State) : (Rules.leaveBar v cx k s).stays cx.c = false := by
  show (if v = 1 then cx.acquire 1 (cx.leave k _ s) else cx.leave k _ s).stays cx.c = false
  split
  · exact (stays_congr (acquire_groups ..) _).trans (leave_stays ..)
  · exact leave_stays ..

theorem leaveBar_ready {cx : Cx} {os : List Opd} {s t : State} (h : cx.Ready os s t) (hdst : ∀ o ∈ os, o ≠ cx.h.dst) (v k : Nat) : cx.Ready os s (Rules.leaveBar v (cx.refresh t) k t) := by
  have hl := h.leave hdst k (BitVec.ofNat 64 v)
  show cx.Ready os s (if v = 1 then (cx.refresh t).acquire 1 ((cx.refresh t).leave k _ t) else (cx.refresh t).leave k _ t)
  split
  · exact hl.congr (acquire_groups ..) (acquire_teams ..)
  · exact hl

/-- The end that the model makes is that of the rules. -/
theorem leaveBar_toNat (cx : Cx) (k : Nat) (v : W32) (s : State) :
    (if v = 1 then cx.acquire 1 (cx.writeU k .u32 (BitVec.ofNat 64 v.toNat) (cx.done s)) else cx.writeU k .u32 (BitVec.ofNat 64 v.toNat) (cx.done s)) = Rules.leaveBar v.toNat cx k s := by
  have hv : v = 1 ↔ v.toNat = 1 := ⟨fun h => by rw [h]; rfl, fun h => BitVec.eq_of_toNat_eq h⟩
  show _ = if v.toNat = 1 then cx.acquire 1 _ else _
  by_cases h : v = 1
  · rw [if_pos h, if_pos (hv.mp h)]
  · rw [if_neg h, if_neg (fun e => h (hv.mpr e))]

theorem ended_of_idle {cx : Cx} (h : (cx.g.arm cx.c.arm).wait.kind = .idle) {p : WaitKind → Bool} (hp : p .idle = false) : cx.ended p = none := by
  unfold Cx.ended
  rw [h, hp]
  rfl

theorem ended_of_status {cx : Cx} {v : W32} (h : (cx.g.arm cx.c.arm).wait.status = some v) {p : WaitKind → Bool} (hp : p (cx.g.arm cx.c.arm).wait.kind = true) : cx.ended p = some v := by
  unfold Cx.ended
  rw [hp]
  exact h

/-- A wait at a barrier whose phase is over, or where the group never arrived, ends at once. -/
theorem barWait_over {cx : Cx} {s : State} {k b : Nat} {o : Opd} {sync : Bool} (he : (cx.g.arm cx.c.arm).wait.kind = .idle)
    (ho : Rules.barOver s cx.c.team cx.c.grp b) : cx.barWait k b o sync s = Rules.leaveBar 1 cx k s := by
  obtain ⟨t, x, ht, hx, hov⟩ := ho
  unfold Cx.barWait
  rw [ended_of_idle he (by rfl)]
  simp only [ht, hx]
  rw [if_pos (by rcases hov with h | h <;> simp [h])]
  exact leaveBar_toNat cx k 1 s

/-- A wait at a barrier whose phase goes on stands at its slot. -/
theorem barWait_on {cx : Cx} {s : State} {k b : Nat} {o : Opd} {sync : Bool} (he : (cx.g.arm cx.c.arm).wait.kind = .idle)
    (ho : Rules.barOn s cx.c.team cx.c.grp b) : cx.barWait k b o sync s = cx.stay { kind := .bar b, deadline := cx.deadline k o s, sync := sync } s := by
  obtain ⟨t, x, ht, hx, hev, hph⟩ := ho
  unfold Cx.barWait
  rw [ended_of_idle he (by rfl)]
  simp only [ht, hx]
  rw [if_neg (by simp [hev, hph])]

theorem barWait_ended {cx : Cx} {s : State} {k b c : Nat} {o : Opd} {sync : Bool} {v : W32} (hk : (cx.g.arm cx.c.arm).wait.kind = .bar c)
    (he : (cx.g.arm cx.c.arm).wait.status = some v) : cx.barWait k b o sync s = Rules.leaveBar v.toNat cx k s := by
  unfold Cx.barWait
  rw [ended_of_status he (by rw [hk])]
  exact leaveBar_toNat cx k v s

/-- The deadline of a wait is that of the rules, for a slot as it opens. -/
theorem deadline_opens {cx : Cx} {s s0 u : State} (h : cx.Opens s s0) (hu : u.clock = s.clock) (k : Nat) (o : Opd) : (cx.refresh s0).deadline k o u = Rules.deadline cx k o s := by
  unfold Cx.deadline Rules.deadline
  rw [show ((cx.refresh s0).g.arm (cx.refresh s0).c.arm).left = _ from h.left, hu, srcU_refresh h.finds]
  cases (cx.g.arm cx.c.arm).left with
  | some n => rfl
  | none => cases o <;> rfl

/-- The slot's own checks of a barrier number. -/
theorem barCheck_none {cx : Cx} {w : Word} {k : Nat} (h : (cx.srcU k w.a .u32).toNat ≤ 15) : cx.barCheck w k false = none := by
  unfold Cx.barCheck
  dsimp only
  rw [if_neg]
  split <;> simp <;> omega

theorem barCheck_count {cx : Cx} {w : Word} {k : Nat} (h : (cx.srcU k w.a .u32).toNat ≤ 15) (hn : w.b = .z ∨ (1 ≤ (cx.srcU k w.b .u32).toNat ∧ (cx.srcU k w.b .u32).toNat ≤ 64)) :
    cx.barCheck w k true = none := by
  unfold Cx.barCheck Cx.barN
  dsimp only
  rw [if_neg]
  rcases hn with hz | ⟨h1, h2⟩
  · rw [hz]
    simp
    omega
  · cases hb : w.b <;> rw [hb] at h1 h2 <;> simp <;> omega

/-- R294: BAR.WAIT with nothing to wait for. -/
theorem barWait_completes (w : Word) (s : State) (cx : Cx) (h : Passes (.barWait w) s cx) (hc : cx.clean (.barWait w)) (hv : isVector (Instr.barWait w).form cx.h = false)
    (hb : ∀ k ∈ cx.arms false, (cx.srcU k w.a .u32).toNat ≤ 15) (ho : ∀ k ∈ cx.arms false, Rules.barOver s cx.c.team cx.c.grp (cx.srcU k w.a .u32).toNat)
    (hd : w.dst ≠ w.a ∨ (cx.arms false).length = 1) : exec (.barWait w) s = .next (cx.ends (.barWait w) (Rules.leaveBar 1) (cx.begun (.barWait w) s)) := by
  have hdst : cx.h.dst = w.dst := congrArg Head.dst (head_of_gate h.2.1 rfl)
  have hbg := h.begins hc (ok := True) trivial
  refine issue_begins_of _ (Rules.leaveBar 1) (cx.Ready [w.a] s) hbg rfl rfl rfl rfl rfl (fun _ a ha => barCheck_none (hb a (hv ▸ ha))) (fun _ _ _ => rfl) rfl (fun _ => rfl)
    (hbg.opens.ready _) (fun a ha t ht => ⟨?run, leaveBar_stays ..⟩) ?keep
  case run =>
    refine barWait_over ht.idle ?_
    rw [ht.srcU (List.mem_singleton_self _)]
    exact barOver_congr ht.teams (ho a (hv ▸ ha))
  case keep =>
    rw [hv]
    rcases hd with hne | hone
    · refine .inr fun a _ t ht => leaveBar_ready ht (fun o ho => ?_) 1 a
      rw [List.mem_singleton.mp ho, hdst]
      exact fun e => hne e.symm
    · exact .inl hone

theorem begun_opens {i : Instr} {s : State} {cx : Cx} (h : Passes i s cx) : cx.Opens s (cx.begun i s) := opens_starts h.2.1 h.2.2 none _

/-- R294: BAR.WAIT whose phase goes on. -/
theorem barWait_waits (w : Word) (s : State) (cx : Cx) (h : Passes (.barWait w) s cx) (hc : cx.clean (.barWait w)) (hv : isVector (Instr.barWait w).form cx.h = false)
    (hb : ∀ k ∈ cx.arms false, (cx.srcU k w.a .u32).toNat ≤ 15) (k : Nat) (l : List Nat) (harms : cx.arms false = k :: l)
    (ho : Rules.barOn s cx.c.team cx.c.grp (cx.srcU k w.a .u32).toNat) :
    exec (.barWait w) s = .next (cx.keeps (.barWait w) (cx.stay { kind := .bar (cx.srcU k w.a .u32).toNat, deadline := Rules.deadline cx k w.c s, rel := true } (cx.begun (.barWait w) s))) := by
  have hbg := h.begins hc (ok := True) trivial
  have hop := hbg.opens
  refine issue_begins_stands (k := k) (l := l) _ { kind := .bar (cx.srcU k w.a .u32).toNat, deadline := Rules.deadline cx k w.c s } (cx.begun (.barWait w) s) hbg rfl rfl rfl rfl rfl
    (fun _ a ha => barCheck_none (hb a (hv ▸ ha))) (fun _ _ _ => rfl) rfl (fun _ => rfl) (hv ▸ harms) ?run (fun e => nomatch e) rfl (by rw [hop.group]; rfl)
  refine (barWait_on hop.idle ?_).trans ?_
  · rw [srcU_refresh hop.finds]
    exact barOn_congr hop.teams ho
  · rw [srcU_refresh hop.finds, deadline_opens hop hop.clock]
    rfl

/-! ### BAR.SYNC, and waits that have ended (R294) -/

/-- Changes of some groups that keep names leave every group standing. -/
theorem group_isSome_updWhere (s : State) (p : Group → Bool) (f : Group → Group) (hf : ∀ g, (f g).team = g.team ∧ (f g).idx = g.idx) (t k : Nat) :
    (({ s with groups := updWhere p f s.groups } : State).group t k).isSome = (s.group t k).isSome := by
  have he : ((fun g => g.team == t && g.idx == k) ∘ fun g => if p g then f g else g) = fun g : Group => g.team == t && g.idx == k := by
    funext g
    simp only [Function.comp_apply]
    split
    · rw [(hf g).1, (hf g).2]
    · rfl
  unfold State.group updWhere
  dsimp only
  rw [List.find?_map, he, Option.isSome_map]

theorem arriveBar_group (s : State) (team grp b : Nat) (n : Option Nat) (t k : Nat) : ((s.arriveBar team grp b n).group t k).isSome = (s.group t k).isSome := by
  unfold State.arriveBar
  extract_lets live bit u
  have hu : (u.group t k).isSome = (s.group t k).isSome := rfl
  rw [← hu]
  generalize u = u
  unfold State.checkBar
  split
  · rfl
  · split
    · rfl
    · extract_lets n
      split
      · refine (group_isSome_updWhere (u.updTeam ..) _ _ ?_ t k).trans rfl
        exact fun _ => ⟨rfl, rfl⟩
      · rfl

theorem arriveBar_clock (s : State) (team grp b : Nat) (n : Option Nat) : (s.arriveBar team grp b n).clock = s.clock := by
  unfold State.arriveBar
  extract_lets live bit u
  unfold State.checkBar
  split
  · rfl
  · split
    · rfl
    · extract_lets n
      split <;> rfl

/-- What BAR.SYNC does for an arm. -/
def barSynced (w : Word) (cx : Cx) (a : Nat) (s : State) : State :=
  match (cx.g.arm cx.c.arm).wait.kind with
  | .bar _ => cx.barWait a (cx.srcU a w.a .u32).toNat w.c true s
  | _ => cx.barWait a (cx.srcU a w.a .u32).toNat w.c true (s.arriveBar cx.c.team cx.c.grp (cx.srcU a w.a .u32).toNat (cx.barN a w.b))

theorem barSynced_idle {w : Word} {cx : Cx} {a : Nat} {s : State} (h : (cx.g.arm cx.c.arm).wait.kind = .idle) :
    barSynced w cx a s = cx.barWait a (cx.srcU a w.a .u32).toNat w.c true (s.arriveBar cx.c.team cx.c.grp (cx.srcU a w.a .u32).toNat (if w.b = .z then none else some (cx.srcU a w.b .u32).toNat)) := by
  unfold barSynced
  rw [h]
  have hn : cx.barN a w.b = if w.b = .z then none else some (cx.srcU a w.b .u32).toNat := by
    unfold Cx.barN
    cases w.b <;> rfl
  rw [hn]

/-- BAR.SYNC's meaning (R294). -/
def barSyncBody (w : Word) : Body where
  check := fun cx a _ => cx.barCheck w a true
  rel := fun _ => some 1
  run := barSynced w

theorem exec_barSync (w : Word) (s : State) : exec (.barSync w) s = issue (.barSync w) s (barSyncBody w) := rfl

/-- R294: BAR.SYNC from where its effect begins, and before its release is over. -/
theorem barSync_acts (w : Word) (s : State) (cx : Cx) (k : Nat) (l : List Nat) (hv : isVector (Instr.barSync w).form cx.h = false) (harms : cx.arms false = k :: l) :
    let ok : Prop := ∀ k ∈ cx.arms false, (cx.srcU k w.a .u32).toNat ≤ 15 ∧ (w.b = .z ∨ (1 ≤ (cx.srcU k w.b .u32).toNat ∧ (cx.srcU k w.b .u32).toNat ≤ 64))
    let b := (cx.srcU k w.a .u32).toNat
    (∀ s0, Begins (.barSync w) (some 1) ok s cx s0 →
      let u := s0.arriveBar cx.c.team cx.c.grp b (if w.b = .z then none else some (cx.srcU k w.b .u32).toNat)
      (Rules.barOver u cx.c.team cx.c.grp b → l = [] → exec (.barSync w) s = .next (cx.advance (Rules.leaveBar 1 cx k u)))
      ∧ (Rules.barOn u cx.c.team cx.c.grp b →
        exec (.barSync w) s = .next (cx.keeps (.barSync w) (cx.stay { kind := .bar b, deadline := Rules.deadline cx k w.c s, sync := true, rel := true } u))))
    ∧ (Passes (.barSync w) s cx → cx.clean (.barSync w) → ok → ¬ cx.released (some 1) s → exec (.barSync w) s = .next (cx.stay (cx.release (some 1) (cx.opened s)).2 (cx.release (some 1) (cx.opened s)).1)) := by
  intro ok b
  have hchk : ok → ∀ a ∈ cx.arms (isVector (Instr.barSync w).form cx.h), (barSyncBody w).check cx a s = none :=
    fun hok a ha => barCheck_count (hok a (hv ▸ ha)).1 (hok a (hv ▸ ha)).2
  refine ⟨fun s0 h => ?acts, fun h hc hok hr => issue_waits_first (barSyncBody w) h hc rfl rfl rfl (hchk hok) (fun _ _ => rfl) rfl hr (fun _ => rfl)⟩
  case acts =>
    intro u
    have hop := h.opens
    have hrun : (barSyncBody w).run (cx.refresh s0) k s0 = (cx.refresh s0).barWait k b w.c true u := by
      show barSynced w (cx.refresh s0) k s0 = _
      rw [barSynced_idle hop.idle, srcU_refresh hop.finds, srcU_refresh hop.finds]
      rfl
    refine ⟨fun hover hl => ?ends, fun hon => ?waits⟩
    case ends =>
      subst hl
      have e := issue_begins_of (barSyncBody w) (fun _ _ _ => Rules.leaveBar 1 cx k u) (fun t => t = s0) h rfl rfl rfl rfl rfl hchk (fun _ _ _ => rfl) rfl (fun _ => rfl) rfl
        (fun a ha t ht => ⟨?_, leaveBar_stays ..⟩) (.inl (by rw [hv, harms]; rfl))
      · rw [exec_barSync, e]
        unfold Cx.ends Cx.leaves
        rw [hv, harms]
        rfl
      · obtain rfl : a = k := by rw [hv, harms] at ha; exact List.mem_singleton.mp ha
        rw [ht, hrun]
        exact barWait_over hop.idle hover
    case waits =>
      refine issue_begins_stands (barSyncBody w) { kind := .bar b, deadline := Rules.deadline cx k w.c s, sync := true } u h rfl rfl rfl rfl rfl hchk (fun _ _ _ => rfl) rfl (fun _ => rfl)
        (hv ▸ harms) (hrun.trans ((barWait_on hop.idle hon).trans ?_)) (fun e => nomatch e) rfl ?_
      · rw [deadline_opens hop ((arriveBar_clock ..).trans hop.clock)]
        rfl
      · rw [arriveBar_group, hop.group]
        rfl

/-- R294: a wait at a barrier that has ended. -/
theorem bar_finishes {i : Instr} {s : State} {cx : Cx} {k b : Nat} {v : W32} (body : Body) (h : Resumes i s cx k) (hcap : i.form.cap = false)
    (hown : body.own = false) (honce : body.once = false) (hhold : body.hold cx s = false) (hkind : (cx.g.arm cx.c.arm).wait.kind = .bar b) (hstatus : (cx.g.arm cx.c.arm).wait.status = some v)
    (hrun : ∀ cx0 : Cx, ∀ t, (cx0.g.arm cx0.c.arm).wait.kind = .bar b → ∃ n o sync, body.run cx0 k t = cx0.barWait k n o sync t) :
    issue i s body = .next (cx.finishes (Rules.leaveBar v.toNat) k (cx.begun i s)) := by
  have hw := h.wait
  have hk : (((cx.refresh (cx.begun i s)).g.arm (cx.refresh (cx.begun i s)).c.arm).wait.kind) = .bar b := (congrArg Wait.kind hw).trans hkind
  obtain ⟨n, o, sync, hr⟩ := hrun _ (cx.begun i s) hk
  exact issue_again_finishes body _ h hcap hown honce hhold (hr.trans (barWait_ended hk ((congrArg Wait.status hw).trans hstatus))) (leaveBar_stays ..)

theorem barriersComplete : Rules.BarriersComplete := by
  refine ⟨fun w s cx h hc hv hb => ⟨barWait_completes w s cx h hc hv hb, barWait_waits w s cx h hc hv hb⟩, barSync_acts, fun i hi w s cx k b v h hv hkind hstatus => ?_⟩
  simp only [List.mem_cons, List.not_mem_nil, or_false] at hi
  rcases hi with rfl | rfl
  · exact bar_finishes _ h rfl rfl rfl rfl hkind hstatus fun cx0 t _ => ⟨_, _, _, rfl⟩
  · refine bar_finishes (barSyncBody w) h rfl rfl rfl rfl hkind hstatus fun cx0 t hk => ⟨(cx0.srcU k w.a .u32).toNat, w.c, true, ?_⟩
    show barSynced w cx0 k t = _
    unfold barSynced
    rw [hk]

end Sys2Proof.Machine

namespace Sys2Proof.Machine

/-! ### Barrier objects (R112, R297) -/

/-- The team of a slot is on its cores. -/
theorem gate_go_here {i : Instr} {s : State} {cx : Cx} (h : gate i s = .go cx) : ∃ t, s.team cx.c.team = some t ∧ t.place.here = true := by
  obtain ⟨hd, cur, g, -, -, hctx, -, rfl⟩ := gate_go_settled h
  show ∃ t, s.team cur.c.team = some t ∧ _
  unfold State.context at hctx
  split at hctx
  · next t g' ht hg =>
    split at hctx
    · next hcond =>
      simp only [Bool.and_eq_true] at hcond
      exact ⟨t, ht, hcond.1.1.1.1⟩
    · cases hctx
  · cases hctx

theorem not_unplaced_of_here {p : Place} (h : p.here = true) : p ≠ .unplaced := by
  rintro rfl
  cases h

/-- The scratchpad of a team on its cores is read from the team. -/
theorem scrRead_congr {s t : State} {team : Nat} {x : Team} (hx : s.team team = some x) (hp : x.place.here = true) (h : t.teams = s.teams) (off n : Nat) :
    t.scrRead team off n = s.scrRead team off n := by
  rw [scrRead_pool hx (not_unplaced_of_here hp), scrRead_pool ((team_congr h team).trans hx) (not_unplaced_of_here hp)]

theorem scrBad_congr {s t : State} {team : Nat} {x : Team} (hx : s.team team = some x) (hp : x.place.here = true) (h : t.teams = s.teams) (off n : Nat) :
    t.scrBad team off n = s.scrBad team off n := by
  unfold State.scrBad
  simp only [team_congr h, hx, not_unplaced_of_here hp, if_false]

theorem leaveBobj_stays (w : Word) (v : Nat) (cx : Cx) (k : Nat) (s : State) : (Rules.leaveBobj w v cx k s).stays cx.c = false := by
  show (if v = 2 then cx.leave k _ s else cx.acquire _ (cx.leave k _ s)).stays cx.c = false
  split
  · exact leave_stays ..
  · exact (stays_congr (acquire_groups ..) _).trans (leave_stays ..)

theorem leaveBobj_ready {cx : Cx} {os : List Opd} {s t : State} (h : cx.Ready os s t) (hdst : ∀ o ∈ os, o ≠ cx.h.dst) (w : Word) (v k : Nat) :
    cx.Ready os s (Rules.leaveBobj w v (cx.refresh t) k t) := by
  have hl := h.leave hdst k (BitVec.ofNat 64 v)
  show cx.Ready os s (if v = 2 then (cx.refresh t).leave k _ t else (cx.refresh t).acquire _ ((cx.refresh t).leave k _ t))
  split
  · exact hl
  · exact hl.congr (acquire_groups ..) (acquire_teams ..)

theorem leaveBobj_toNat (w : Word) (cx : Cx) (k : Nat) (v : W32) (s : State) :
    (if v = 2 then cx.writeU k .u32 (BitVec.ofNat 64 v.toNat) (cx.done s) else cx.acquire (bobjScope w) (cx.writeU k .u32 (BitVec.ofNat 64 v.toNat) (cx.done s))) = Rules.leaveBobj w v.toNat cx k s := by
  have hv : v = 2 ↔ v.toNat = 2 := ⟨fun h => by rw [h]; rfl, fun h => BitVec.eq_of_toNat_eq h⟩
  show _ = if v.toNat = 2 then _ else cx.acquire _ _
  by_cases h : v = 2
  · rw [if_pos h, if_pos (hv.mp h)]
  · rw [if_neg h, if_neg (fun e => h (hv.mpr e))]
    rfl

/-- BOBJ.WAIT for an arm (R297). -/
def bobjWaited (w : Word) (cx : Cx) (a : Nat) (s : State) : State :=
  let off := cx.bobjOff a
  let p := (cx.srcU a w.b .u32).toNat % 65536
  match cx.ended (fun k => match k with | .bobj _ _ => true | _ => false) with
  | some v => Rules.leaveBobj w v.toNat cx a s
  | none =>
    if s.scrBad cx.c.team off 16 then cx.bobjPoison a s
    else if fld (s.scrRead cx.c.team off 16) 47 32 ≠ p then Rules.leaveBobj w 0 cx a s
    else cx.stay { kind := .bobj off p, deadline := cx.deadline a w.c s } s

/-- BOBJ.WAIT's meaning. -/
def bobjWaitBody (w : Word) : Body where
  check := fun cx a s => cx.bobjCheck a true s
  run := bobjWaited w

theorem exec_bobjWait (w : Word) (s : State) : exec (.bobjWait w) s = issue (.bobjWait w) s (bobjWaitBody w) := by
  have hrun : ∀ cx a s, bobjWaited w cx a s = (match cx.ended (fun k => match k with | .bobj _ _ => true | _ => false) with
      | some v => if v = 2 then cx.writeU a .u32 (BitVec.ofNat 64 v.toNat) (cx.done s) else cx.acquire (bobjScope w) (cx.writeU a .u32 (BitVec.ofNat 64 v.toNat) (cx.done s))
      | none =>
        if s.scrBad cx.c.team (cx.bobjOff a) 16 then cx.bobjPoison a s
        else if fld (s.scrRead cx.c.team (cx.bobjOff a) 16) 47 32 ≠ (cx.srcU a w.b .u32).toNat % 65536 then
          (if (0 : W32) = 2 then cx.writeU a .u32 (BitVec.ofNat 64 (0 : W32).toNat) (cx.done s) else cx.acquire (bobjScope w) (cx.writeU a .u32 (BitVec.ofNat 64 (0 : W32).toNat) (cx.done s)))
        else cx.stay { kind := .bobj (cx.bobjOff a) ((cx.srcU a w.b .u32).toNat % 65536), deadline := cx.deadline a w.c s } s) := by
    intro cx a s
    simp only [leaveBobj_toNat]
    rfl
  unfold bobjWaitBody
  rw [show bobjWaited w = _ from funext fun cx => funext fun a => funext fun s => hrun cx a s]
  rfl

theorem bobjWaited_idle {w : Word} {cx : Cx} {a : Nat} {s : State} (h : (cx.g.arm cx.c.arm).wait.kind = .idle) : bobjWaited w cx a s =
    (if s.scrBad cx.c.team (cx.bobjOff a) 16 then cx.bobjPoison a s
    else if fld (s.scrRead cx.c.team (cx.bobjOff a) 16) 47 32 ≠ (cx.srcU a w.b .u32).toNat % 65536 then Rules.leaveBobj w 0 cx a s
    else cx.stay { kind := .bobj (cx.bobjOff a) ((cx.srcU a w.b .u32).toNat % 65536), deadline := cx.deadline a w.c s } s) := by
  unfold bobjWaited
  rw [ended_of_idle h (by rfl)]

theorem bobjPoison_stays (cx : Cx) (k : Nat) (s : State) (h : s.stays cx.c = false) : (cx.bobjPoison k s).stays cx.c = false := by
  unfold Cx.bobjPoison
  dsimp only
  rw [writeU_stays, ← h]
  exact stays_congr (s := (s.imprecise cx.tag 0x16 0 0 0 0).free.1) rfl cx.c

/-- The operands of BOBJ.WAIT are those of its word. -/
theorem bobjWait_head {w : Word} {s : State} {cx : Cx} (h : gate (.bobjWait w) s = .go cx) : cx.h.a = w.a ∧ cx.h.dst = w.dst :=
  ⟨congrArg Head.a (head_of_gate h rfl), congrArg Head.dst (head_of_gate h rfl)⟩

/-- R112, R297: BOBJ.WAIT at its first issue. -/
theorem bobjWait_acts (w : Word) (s : State) (cx : Cx) (h : Passes (.bobjWait w) s cx) (hc : cx.clean (.bobjWait w)) (hv : isVector (Instr.bobjWait w).form cx.h = false) :
    let off (k : Nat) : Nat := (cx.srcU k w.a .u32).toNat % 2 ^ 32
    let phase (k : Nat) : Nat := (cx.srcU k w.b .u32).toNat % 65536
    (∀ k ∈ cx.arms false, s.isArmed cx.c.team (off k) = true ∧ s.rank10 cx [] [(⟨0, off k, 16⟩, 16)] false = none) →
    ((∀ k ∈ cx.arms false, s.scrBad cx.c.team (off k) 16 = false ∧ fld (s.scrRead cx.c.team (off k) 16) 47 32 ≠ phase k) → (w.dst ≠ w.a ∧ w.dst ≠ w.b ∨ (cx.arms false).length = 1) →
      exec (.bobjWait w) s = .next (cx.ends (.bobjWait w) (Rules.leaveBobj w 0) (cx.begun (.bobjWait w) s)))
    ∧ (∀ k l, cx.arms false = k :: l → s.scrBad cx.c.team (off k) 16 = false → fld (s.scrRead cx.c.team (off k) 16) 47 32 = phase k →
      exec (.bobjWait w) s = .next (cx.keeps (.bobjWait w) (cx.stay { kind := .bobj (off k) (phase k), deadline := Rules.deadline cx k w.c s, rel := true } (cx.begun (.bobjWait w) s))))
    ∧ (∀ k, cx.arms false = [k] → s.scrBad cx.c.team (off k) 16 = true →
      exec (.bobjWait w) s = .next (cx.ends (.bobjWait w) (fun cx k s =>
        let f := (s.imprecise cx.tag 0x16 0 0 0 0).free
        cx.writeU k .u32 f.2 f.1) (cx.begun (.bobjWait w) s))) := by
  intro off phase hok
  obtain ⟨ha, hdst⟩ := bobjWait_head h.2.1
  obtain ⟨t, ht, hhere⟩ := gate_go_here h.2.1
  have hbg := h.begins hc (ok := True) trivial
  have hop := hbg.opens
  have hchk : ∀ a ∈ cx.arms (isVector (Instr.bobjWait w).form cx.h), (bobjWaitBody w).check cx a s = none := by
    intro a ham
    obtain ⟨harm, hrank⟩ := hok a (hv ▸ ham)
    show cx.bobjCheck a true s = none
    unfold Cx.bobjCheck Cx.bobjOff
    rw [ha, harm, hrank]
    rfl
  have hoff : ∀ u, cx.Ready [w.a, w.b] s u → ∀ k, (cx.refresh u).bobjOff k = off k ∧ ((cx.refresh u).srcU k w.b .u32).toNat % 65536 = phase k := by
    intro u hu k
    refine ⟨?_, by rw [hu.srcU (by simp)]⟩
    show ((cx.refresh u).srcU k cx.h.a .u32).toNat % 2 ^ 32 = _
    rw [ha, hu.srcU (by simp)]
  have hrun : ∀ u, cx.Ready [w.a, w.b] s u → ∀ k, (bobjWaitBody w).run (cx.refresh u) k u =
      (if s.scrBad cx.c.team (off k) 16 then (cx.refresh u).bobjPoison k u
      else if fld (s.scrRead cx.c.team (off k) 16) 47 32 ≠ phase k then Rules.leaveBobj w 0 (cx.refresh u) k u
      else cx.stay { kind := .bobj (off k) (phase k), deadline := (cx.refresh u).deadline k w.c u } u) := by
    intro u hu k
    refine (bobjWaited_idle hu.idle).trans ?_
    rw [(hoff u hu k).1, (hoff u hu k).2]
    show (if u.scrBad cx.c.team (off k) 16 then _ else if fld (u.scrRead cx.c.team (off k) 16) 47 32 ≠ phase k then _ else _) = _
    rw [scrBad_congr ht hhere hu.teams, scrRead_congr ht hhere hu.teams]
    rfl
  refine ⟨fun hover hd => ?ends, fun k l harms hbad hph => ?waits, fun k harms hbad => ?poisoned⟩
  case ends =>
    rw [exec_bobjWait]
    refine issue_begins_of (bobjWaitBody w) (Rules.leaveBobj w 0) (cx.Ready [w.a, w.b] s) hbg rfl rfl rfl rfl rfl (fun _ => hchk) (fun _ _ _ => rfl) rfl (fun _ => rfl)
      (hop.ready _) (fun a ham u hu => ⟨?_, leaveBobj_stays ..⟩) ?_
    · obtain ⟨hb, hp⟩ := hover a (hv ▸ ham)
      rw [hrun u hu a, hb, if_pos hp]
      rfl
    · rw [hv]
      rcases hd with ⟨hna, hnb⟩ | hone
      · refine .inr fun a _ u hu => leaveBobj_ready hu (fun o ho => ?_) w 0 a
        rw [hdst]
        simp only [List.mem_cons, List.not_mem_nil, or_false] at ho
        rcases ho with rfl | rfl
        · exact hna.symm
        · exact hnb.symm
      · exact .inl hone
  case waits =>
    rw [exec_bobjWait]
    refine issue_begins_stands (bobjWaitBody w) { kind := .bobj (off k) (phase k), deadline := Rules.deadline cx k w.c s } (cx.begun (.bobjWait w) s) hbg rfl rfl rfl rfl rfl (fun _ => hchk) (fun _ _ _ => rfl) rfl
      (fun _ => rfl) (hv ▸ harms) ?_ (fun e => nomatch e) rfl (by rw [hop.group]; rfl)
    rw [hrun _ (hop.ready _) k, hbad, if_neg (not_not_intro hph), deadline_opens hop hop.clock]
    rfl
  case poisoned =>
    rw [exec_bobjWait]
    refine issue_begins_of (bobjWaitBody w) (fun cx k s => cx.bobjPoison k s) (fun u => u = cx.begun (.bobjWait w) s) hbg rfl rfl rfl rfl rfl (fun _ => hchk) (fun _ _ _ => rfl) rfl (fun _ => rfl)
      rfl (fun a ham u hu => ?_) (.inl (by rw [hv, harms]; rfl))
    obtain rfl : a = k := by rw [hv, harms] at ham; exact List.mem_singleton.mp ham
    subst hu
    refine ⟨?_, bobjPoison_stays (cx.refresh _) a _ hop.stays⟩
    rw [hrun _ (hop.ready _) a, hbad]
    rfl

/-- R297: a wait at a barrier object that has ended. -/
theorem bobjWait_finishes (w : Word) (s : State) (cx : Cx) (k : Nat) (v : W32) (h : Resumes (.bobjWait w) s cx k)
    (hkind : ∃ o p, (cx.g.arm cx.c.arm).wait.kind = .bobj o p) (hstatus : (cx.g.arm cx.c.arm).wait.status = some v) :
    exec (.bobjWait w) s = .next (cx.finishes (Rules.leaveBobj w v.toNat) k (cx.begun (.bobjWait w) s)) := by
  obtain ⟨o, p, hk⟩ := hkind
  have hw := h.wait
  refine (exec_bobjWait w s).trans (issue_again_finishes (bobjWaitBody w) _ h rfl rfl rfl rfl ?_ (leaveBobj_stays ..))
  show bobjWaited w _ k _ = _
  unfold bobjWaited
  have hk' : ((cx.refresh (cx.begun (.bobjWait w) s)).g.arm (cx.refresh (cx.begun (.bobjWait w) s)).c.arm).wait.kind = .bobj o p := (congrArg Wait.kind hw).trans hk
  rw [ended_of_status ((congrArg Wait.status hw).trans hstatus) (by rw [hk'])]

/-- Settles O22: each wait from where its effect begins, and at its end. -/
theorem barrierInstructionsComplete : Obligations.BarrierInstructionsComplete :=
  ⟨barriersComplete, fun w s cx h hc hv hok => bobjWait_acts w s cx h hc hv hok, fun w s cx k v h _ hkind hstatus => bobjWait_finishes w s cx k v h hkind hstatus⟩

end Sys2Proof.Machine

namespace Sys2Proof.Machine

/-! ### Poisoned words of a slot that stood for its release (R95, R456)

A body that names the words it uses itself keeps an event, when its slot goes on, for each poisoned word of its operands that is not among them; `Cx.rebegun` counts all source words of the form as used. -/

/-- The machine after reset with one group, its context at a slot that stood for a release, and the word of s0 poisoned meanwhile. -/
def poisonedRelease : State :=
  { (State.reset.place 0).updGroup 0 0 (fun g => { g with spo := [0], arm0 := { g.arm0 with wait := { kind := .release, rel := true } } }) with
    script := [], cur := some { c := ⟨0, 0, 0⟩, bundle := 0, slot := 0, valid := 1, priv := true, portB := false } }

/-- The context of `poisonedRelease`, for a word. -/
def poisonedCx (i : Instr) (h : Head) : Cx :=
  Cx.make i h { c := ⟨0, 0, 0⟩, bundle := 0, slot := 0, valid := 1, priv := true, portB := false } ((poisonedRelease.group 0 0).getD { team := 0, idx := 0, core := 0 }) poisonedRelease

/-- TQ.PUSH of s2 at the queue whose header s0 and s1 name. -/
def pushWord : Word := { Rules.plainWord .z (.s 0) (.s 2) .z .i8 with slot := 7 }

/-- The sequence numbers of the black-box rings after a run. -/
def ringsAfter (o : Host.Outcome State Fault Refusal) : Option (Sparse 64) :=
  match o with
  | .next t => some t.bbSeq
  | _ => none

/-- Refutes O28: TQ.PUSH names no used words of its own, so a header word that has been poisoned while the slot stood for its release leaves an event in the black box when it goes on, which the statement leaves out. -/
theorem not_taskInstructionsComplete : ¬ Obligations.TaskInstructionsComplete := by
  rintro ⟨-, -, hpush, -⟩
  have hnext := hpush pushWord poisonedRelease _ (poisonedCx (.tqPush pushWord) (headR pushWord)) false 0 [] (by decide +kernel) (by decide +kernel) (by decide +kernel) (by decide +kernel)
    (.inr ⟨by decide +kernel, Gate.of_cx? (by decide +kernel), by decide +kernel, by decide +kernel, rfl⟩) (by decide +kernel)
  have hevent : ringsAfter (exec (.tqPush pushWord) poisonedRelease) = some [(0, 1)] := by decide +kernel
  rw [hnext] at hevent
  exact absurd hevent (by decide +kernel)

/-- `poisonedRelease` with the scratchpad word at offset 0 poisoned in place of the register. -/
def poisonedScratch : State :=
  (poisonedRelease.updGroup 0 0 (fun g => { g with spo := [] })).updTeam 0 (fun t => { t with scrPoison := [0] })

/-- PFX.INSERT of the ids at the offset that s2 holds. -/
def insertWord : Word := { Rules.plainWord .z (.s 0) (.s 2) (.s 3) .i8 with slot := 7 }

/-- The context of `poisonedScratch`, for PFX.INSERT. -/
def poisonedScratchCx : Cx :=
  Cx.make (.pfxInsert insertWord) (headR insertWord) { c := ⟨0, 0, 0⟩, bundle := 0, slot := 0, valid := 1, priv := true, portB := false }
    ((poisonedScratch.group 0 0).getD { team := 0, idx := 0, core := 0 }) poisonedScratch

/-- The number of imprecise faults on their way after a run. -/
def faultsAfter (o : Host.Outcome State Fault Refusal) : Option Nat :=
  match o with
  | .next t => some t.faults.length
  | _ => none

/-- Refutes O30: the ids of a PFX.INSERT that stood for its release may be poisoned by the time it goes on; it then raises POISON imprecisely and sends nothing. -/
theorem not_tablesComplete : ¬ Obligations.TablesComplete := by
  rintro ⟨-, -, -, -, hpfx⟩
  have hnext := hpfx .pfxInsert (some 2) (fun cx k h l => SliceOp.pfxInsert h l (loOf (cx.srcU k insertWord.c .u32))) insertWord (by simp) poisonedScratch _ poisonedScratchCx (by decide +kernel)
    (.inr ⟨by decide +kernel, Gate.of_cx? (by decide +kernel), by decide +kernel, by decide +kernel, rfl⟩)
  have hfault : faultsAfter (exec (.pfxInsert insertWord) poisonedScratch) = some 1 := by decide +kernel
  rw [hnext] at hfault
  exact absurd hfault (by decide +kernel)

end Sys2Proof.Machine


/-! The matrix engine (R320, R326 to R329, R455): the instruction at the head of a queue, and what a product leaves in its tile. -/

namespace Sys2Proof.Machine

/-! ### The head of the queues (R320) -/

/-- Settles O34: with the conditions of the event met, each of its guards passes in turn. -/
theorem matrixEnginePerforms : Obligations.MatrixEnginePerforms := by
  unfold Obligations.MatrixEnginePerforms
  intro core s s' m q t hq ht hstop hmem hpair cores hheads hcan u hdo
  have hcancel : (match m.op with | some id => (match s.op id with | some o => o.cancelled | none => false) | none => false) = false := by
    cases hop : m.op with
    | none => rfl
    | some id => cases ho : s.op id with
      | none => simp [ho]
      | some o => simp [ho, hcan id o hop ho]
  have hall : cores.all (fun c => match (s.core c).mq with | x :: _ => x.id == m.id | [] => false) = true := by
    rw [List.all_eq_true]
    intro c hc
    obtain ⟨x, r, hx, hid⟩ := hheads c hc
    simp [hx, hid]
  have hgo : (s.stopped || !cores.all (fun c => match (s.core c).mq with | x :: _ => x.id == m.id | [] => false)
      || (m.kind.paired && core != t.core) || (m.kind.memory && !s.ownsSlot m.tag.tenant)) = false := by
    have hp : (m.kind.paired && core != t.core) = false := by
      cases h : m.kind.paired with
      | false => rfl
      | true => simp [hpair h]
    have hm : (m.kind.memory && !s.ownsSlot m.tag.tenant) = false := by
      cases h : m.kind.memory with
      | false => rfl
      | true => simp [hmem h]
    rw [hstop, hall, hp, hm]
    rfl
  change execMatrixEnginePerform core s = _
  simp only [execMatrixEnginePerform, hq, ht]
  refine (if_neg fun h => Bool.false_ne_true (hgo.symm.trans h)).trans ((if_neg fun h => Bool.false_ne_true (hcancel.symm.trans h)).trans ?_)
  change (match u.doMatrix m core cores with | none => Host.Outcome.next s | some t' => _) = _
  rw [hdo] <;> rfl

/-! ### Contents laid side by side -/

/-- Entries at other indices do not stand before one that follows them. -/
theorem get_append_right {w : Nat} {a : Sparse w} (b : Sparse w) {k : Nat} (h : ∀ p ∈ a, p.1 ≠ k) : Sparse.get (a ++ b) k = Sparse.get b k := by
  induction a with
  | nil => rfl
  | cons p a ih =>
    rw [List.cons_append, Sparse.get, if_neg (h p (by simp)), ih fun q hq => h q (by simp [hq])]

/-- Entries at other indices add nothing behind. -/
theorem get_append_left {w : Nat} (a : Sparse w) {b : Sparse w} {k : Nat} (h : ∀ p ∈ b, p.1 ≠ k) : Sparse.get (a ++ b) k = Sparse.get a k := by
  induction a with
  | nil =>
    induction b with
    | nil => rfl
    | cons p b ih => exact (if_neg (h p (by simp))).trans (ih fun q hq => h q (by simp [hq]))
  | cons p a ih => simp only [List.cons_append, Sparse.get, ih]

theorem get_filter {w : Nat} (a : Sparse w) {f : Nat → Bool} {k : Nat} (h : f k = true) : Sparse.get (a.filter (fun p => f p.1)) k = a.get k := by
  induction a with
  | nil => rfl
  | cons p a ih =>
    by_cases hp : p.1 = k
    · subst hp
      simp [Sparse.get, h]
    · cases hf : f p.1 <;> simp [Sparse.get, hf, hp, ih]

/-- Values laid from an index on, the zero ones left out, read as they are. -/
theorem get_laid {w : Nat} {α : Type} (lo : Nat) (g : Nat → BitVec w × α) (ks : List Nat) (e : Nat) :
    Sparse.get (((ks.map (fun k => (k, g k))).filter (fun p => p.2.1 != 0)).map (fun p => (lo + p.1, p.2.1))) (lo + e) = if e ∈ ks then (g e).1 else 0 := by
  induction ks with
  | nil => rfl
  | cons k ks ih =>
    rw [List.map_cons, List.filter_cons]
    by_cases hz : (g k).1 = 0
    · rw [if_neg (by simp [hz]), ih]
      by_cases hk : k = e
      · subst hk
        simp [hz]
      · simp [Ne.symm hk]
    · rw [if_pos (by simpa using hz), List.map_cons, Sparse.get, ih]
      by_cases hk : k = e
      · simp [hk]
      · simp [hk, Ne.symm hk]

theorem zip_map_range {α : Type} (n : Nat) (g : Nat → α) : (List.range n).zip ((List.range n).map g) = (List.range n).map (fun k => (k, g k)) := by
  simpa using List.zip_map' (f := id) (g := g) (l := List.range n)

/-! ### What a product leaves in its tile (R326 to R329, R455) -/

/-- An element of a tile that has just been written. -/
theorem elem_setTile_same (c : Core) (t : Nat) (g : Nat → W32 × Bool) {i j : Nat} (hi : i < 64) (hj : j < 64) :
    (c.setTile t ((List.range 4096).map g)).elem t i j = (g (i * 64 + j)).1 := by
  have he : i * 64 + j < 4096 := by omega
  have hbefore : ∀ p ∈ c.tiles.filter (fun p => decide (p.1 < t * 4096)), p.1 ≠ t * 4096 + (i * 64 + j) := by
    intro p hp
    have := of_decide_eq_true (List.mem_filter.mp hp).2
    omega
  have hbehind : ∀ p ∈ c.tiles.filter (fun p => decide (t * 4096 + 4096 ≤ p.1)), p.1 ≠ t * 4096 + (i * 64 + j) := by
    intro p hp
    have := of_decide_eq_true (List.mem_filter.mp hp).2
    omega
  unfold Core.elem Core.setTile
  dsimp only
  rw [Nat.add_assoc, zip_map_range, get_append_left _ hbehind, get_append_right _ hbefore, get_laid, if_pos (List.mem_range.mpr he)]

/-- An element of another tile. -/
theorem elem_setTile_other (c : Core) {t u : Nat} (g : Nat → W32 × Bool) {i j : Nat} (hu : u ≠ t) (hi : i < 64) (hj : j < 64) :
    (c.setTile t ((List.range 4096).map g)).elem u i j = c.elem u i j := by
  have hlaid : ∀ p ∈ (((List.range 4096).map (fun k => (k, g k))).filter (fun p => p.2.1 != 0)).map (fun p => (t * 4096 + p.1, p.2.1)), p.1 ≠ u * 4096 + i * 64 + j := by
    intro p hp
    obtain ⟨x, hx, rfl⟩ := List.mem_map.mp hp
    obtain ⟨k, hk, rfl⟩ := List.mem_map.mp (List.mem_filter.mp hx).1
    have := List.mem_range.mp hk
    dsimp only
    omega
  unfold Core.elem Core.setTile
  dsimp only
  rw [zip_map_range]
  rcases Nat.lt_or_gt_of_ne hu with h | h
  · have hbehind : ∀ p ∈ c.tiles.filter (fun p => decide (t * 4096 + 4096 ≤ p.1)), p.1 ≠ u * 4096 + i * 64 + j := by
      intro p hp
      have := of_decide_eq_true (List.mem_filter.mp hp).2
      omega
    rw [get_append_left _ hbehind, get_append_left _ hlaid]
    exact get_filter c.tiles (f := fun k => decide (k < t * 4096)) (decide_eq_true (by omega))
  · have hbefore : ∀ p ∈ c.tiles.filter (fun p => decide (p.1 < t * 4096)), p.1 ≠ u * 4096 + i * 64 + j := by
      intro p hp
      have := of_decide_eq_true (List.mem_filter.mp hp).2
      omega
    rw [List.append_assoc, get_append_right _ hbefore, get_append_right _ hlaid]
    exact get_filter c.tiles (f := fun k => decide (t * 4096 + 4096 ≤ k)) (decide_eq_true (by omega))

/-- The product of rows on one core. -/
theorem product_core (s : State) (core t : Nat) (a b : List (List (FVal × Bool))) :
    ∃ g : Nat → Bool, (s.product [core] t a b).core core = { (s.core core).setTile t ((List.range 4096).map (fun k =>
      (accumulate ((s.core core).elem t (k / 64) (k % 64)) (a.getD (k / 64) []) (b.getD (k % 64) []), g k))) with num := core } := by
  refine ⟨fun k => (anyBad (a.getD (64 * 0 + k / 64) []) || anyBad (b.getD (k % 64) [])) || (s.core core).elemBad t (k / 64) (k % 64), ?_⟩
  unfold State.product State.mapTile
  simp only [List.length_singleton, List.range_one, List.foldl_cons, List.foldl_nil, List.getElem?_cons_zero, core_updCore, if_true, Nat.mul_zero, Nat.zero_add]

/-- The elements read of an operand's row, each as it stands or as it stood at issue. -/
theorem rowVals_elem {s : State} {old : Sparse 8} {at_ team : Nat} {l : Lay} {rows k n : Nat} {v : List (List (FVal × Bool))}
    (h : s.rowVals old at_ team l rows k n = .ok v) {i e : Nat} (hi : i < rows) (he : e < n) :
    ∃ x, (v.getD i [])[e]? = some x ∧ (x.1 = l.fmt.elem (s.scrRead team (l.row i + (l.fmt.span k n).1) (l.fmt.span k n).2) e
      ∨ x.1 = l.fmt.elem (old.read (l.row i + (l.fmt.span k n).1) (l.fmt.span k n).2) e) := by
  unfold State.rowVals at h
  dsimp only at h
  split at h
  · cases h
  · cases h
    simp only [Lay.runs, List.getD_eq_getElem?_getD, List.getElem?_map, List.getElem?_range hi, Option.map_some, Option.getD_some, List.getElem?_range he]
    refine ⟨_, rfl, ?_⟩
    dsimp only [State.seen]
    split
    · exact .inl rfl
    · exact .inr rfl

/-- A product without metadata that is performed has read its records and its rows. -/
theorem doMma_ok {s s' : State} {old : Sparse 8} {team core : Nat} {cores : List Nat} {t la lb koff : Nat} (h : s.doMma old team core cores false t la lb koff = .ok s') :
    ∃ a b va vb, s.layOf old team la (64 * cores.length) .elems = .ok a ∧ s.layOf old team lb 64 .elems = .ok b ∧ b.fmt.k = a.fmt.k ∧ koff % a.fmt.k = 0
      ∧ s.rowVals old 0 team a (64 * cores.length) koff a.fmt.k = .ok va ∧ s.rowVals old (2 ^ 30) team b 64 koff a.fmt.k = .ok vb
      ∧ s' = ((s.bumpBank team core (a.runs (64 * cores.length) koff a.fmt.k)).bumpBank team core (b.runs 64 koff a.fmt.k)).product cores t va vb := by
  unfold State.doMma at h
  dsimp only at h
  cases ha : s.layOf old team la (64 * cores.length) .elems with
  | error e => simp [ha, bind, Except.bind] at h
  | ok a =>
  cases hb : s.layOf old team lb 64 .elems with
  | error e => simp [ha, hb, bind, Except.bind] at h
  | ok b =>
  simp only [ha, hb, bind, Except.bind, Bool.not_false, if_true, -Nat.reducePow] at h
  split at h
  · cases h
  next hk =>
  cases hva : s.rowVals old 0 team a (64 * cores.length) koff a.fmt.k with
  | error e => simp [hva] at h
  | ok va =>
  cases hvb : s.rowVals old (2 ^ 30) team b 64 koff a.fmt.k with
  | error e => simp [hva, hvb, -Nat.reducePow] at h
  | ok vb =>
  simp only [hva, hvb, Except.ok.injEq, -Nat.reducePow] at h
  simp only [Bool.or_eq_true, bne_iff_ne, ne_eq, not_or, Decidable.not_not] at hk
  exact ⟨a, b, va, vb, rfl, rfl, hk.1, hk.2, hva, hvb, h.symm⟩

/-- Settles O35: what is performed has read its operands, and its tile is then set element by element. -/
theorem productsAccumulate : Obligations.ProductsAccumulate := by
  unfold Obligations.ProductsAccumulate
  intro s s' old team core t la lb koff ht h
  obtain ⟨a, b, va, vb, ha, hb, hk, hoff, hva, hvb, rfl⟩ := doMma_ok h
  rw [List.length_singleton, Nat.mul_one] at ha hva
  obtain ⟨g, hg⟩ := product_core ((s.bumpBank team core (a.runs (64 * [core].length) koff a.fmt.k)).bumpBank team core (b.runs 64 koff a.fmt.k)) core t va vb
  refine ⟨a, b, va, vb, ha, hb, hk, hoff, hva, hvb, ?_, ?_, ?_⟩
  · intro l v hl i k hi hkk
    simp only [List.mem_cons, Prod.mk.injEq, List.not_mem_nil, or_false] at hl
    rcases hl with ⟨rfl, rfl⟩ | ⟨rfl, rfl⟩
    · exact rowVals_elem hva hi hkk
    · exact rowVals_elem hvb hi hkk
  · intro i j hi hj
    rw [hg]
    refine (elem_setTile_same _ t _ hi hj).trans ?_
    dsimp only
    rw [show (i * 64 + j) / 64 = i by omega, show (i * 64 + j) % 64 = j by omega]
    rfl
  · intro u i j hu hne hi hj
    rw [hg]
    exact elem_setTile_other _ _ hne hi hj

end Sys2Proof.Machine

namespace Sys2Proof.Machine

/-! ### A group listed twice -/

/-- MTOK.ACQ. -/
def acquireWord : Word := Rules.plainWord .z .z .z .z .i8

/-- The machine after reset with one group, listed twice: the second copy waits in MTOK.ACQ for its core's token. -/
def twiceWaiting : State :=
  let s := State.reset.place 0
  { s with groups := s.groups ++ s.groups.map (fun g => { g with arm1 := { live := true, wait := { kind := .mtok 0 } } }), nextId := 1,
           script := [], cur := some { c := ⟨0, 0, 0⟩, bundle := 0, slot := 0, valid := 1, priv := true, portB := false } }

/-- The context of `twiceWaiting`. -/
def twiceCx : Cx :=
  Cx.make (.mtokAcq acquireWord) (headR acquireWord) { c := ⟨0, 0, 0⟩, bundle := 0, slot := 0, valid := 1, priv := true, portB := false }
    ((twiceWaiting.group 0 0).getD { team := 0, idx := 0, core := 0 }) twiceWaiting

/-- The token of the first team after a run. -/
def tokenAfter (o : Host.Outcome State Fault Refusal) : Option (Option Nat) :=
  match o with
  | .next t => (t.team 0).map (fun t => t.tok)
  | _ => none

/-- Refutes O32: a group may be listed twice in states that no run reaches; the slot's group replaces both copies when it issues, so that a request which the second copy waits with is no longer there, and the token is taken although that request came first. -/
theorem not_tokenInstructionsComplete : ¬ Obligations.TokenInstructionsComplete := by
  rintro ⟨⟨hacq, -⟩, -, -⟩
  have hgo : gate (.mtokAcq acquireWord) twiceWaiting = .go twiceCx := Gate.of_cx? (by decide +kernel)
  obtain ⟨-, hwait⟩ := hacq acquireWord twiceWaiting twiceCx 0 ⟨by decide +kernel, hgo, by decide +kernel⟩ (by decide +kernel) (by decide +kernel)
  obtain ⟨u, hnext, htok, -⟩ := hwait (by decide +kernel)
  have htaken : tokenAfter (exec (.mtokAcq acquireWord) twiceWaiting) = some (some 0) := by decide +kernel
  have hfree : (twiceWaiting.team 0).map (fun t => (t.tok, t.tok2)) = some (none, none) := by decide +kernel
  rw [hnext] at htaken
  obtain ⟨t, ht, hk⟩ := Option.map_eq_some_iff.mp htaken
  have hkept := htok 0
  rw [hfree, ht, Option.map_some, hk] at hkept
  simp at hkept

end Sys2Proof.Machine


/-! What agents of the module write: memory at its slices, the queues and records in it, and what a step tells the host (R74, R116, R313, R379, R390, R421). -/

namespace Sys2Proof.Machine

/-- `t` is `s` but for what a write at a slice, a queue's push or a message to the host may change; memory stays in its canonical form. -/
structure Tells (s t : State) : Prop where
  same : t = { s with groups := t.groups, mem := t.mem, memPoison := t.memPoison, merges := t.merges, tlw := t.tlw, hole := t.hole, tenants := t.tenants, nextId := t.nextId, ctl := t.ctl, bbSeq := t.bbSeq, errs := t.errs, faults := t.faults, fresh := t.fresh }
  wf : s.mem.wf = true → t.mem.wf = true

namespace Tells

theorem refl (s : State) : Tells s s := ⟨rfl, id⟩

theorem trans {s t u : State} (h : Tells s t) (h' : Tells t u) : Tells s u := by
  obtain ⟨hs, hw⟩ := h
  obtain ⟨hs', hw'⟩ := h'
  refine ⟨?_, fun hm => hw' (hw hm)⟩
  rw [hs] at hs'
  exact hs'

theorem foldl {α : Type} (f : State → α → State) (hf : ∀ s x, Tells s (f s x)) (l : List α) (s : State) : Tells s (l.foldl f s) := by
  induction l generalizing s with
  | nil => exact refl s
  | cons x t ih => exact (hf s x).trans (ih _)

theorem reqs {s t : State} (h : Tells s t) : t.reqs = s.reqs := by rw [h.same]
theorem acks {s t : State} (h : Tells s t) : t.acks = s.acks := by rw [h.same]

theorem updGroup (s : State) (t k : Nat) (f) : Tells s (s.updGroup t k f) := ⟨rfl, id⟩
theorem updArm (s : State) (c : CtxId) (f) : Tells s (s.updArm c f) := ⟨rfl, id⟩
theorem updTenant (s : State) (t : Nat) (f) : Tells s (s.updTenant t f) := ⟨rfl, id⟩
theorem imprecise (s : State) (tag : Tag) (a b d : Nat) (i : W64) (e : Nat) : Tells s (s.imprecise tag a b d i e) := ⟨rfl, id⟩
theorem log (s : State) (x : Sparse 8) (y : Sparse 64) : Tells s { s with ctl := x, bbSeq := y } := ⟨rfl, id⟩
theorem bb (s : State) (a b c d : Nat) (x : W64) (e : Nat) : Tells s (s.bb a b c d x e) := log ..

theorem wake (s : State) (c : CtxId) (v : W32) : Tells s (s.wake c v) := ⟨rfl, id⟩

theorem note (s : State) (pa : Nat) : Tells s (s.note pa) := by
  unfold State.note
  split
  · exact ⟨rfl, id⟩
  · exact refl s

theorem evalTl (s : State) (lo n : Nat) : Tells s (s.evalTl lo n) := by
  unfold State.evalTl
  extract_lets hit go
  exact (⟨rfl, id⟩ : Tells s { s with tlw := s.tlw.filter (fun w => !hit w) }).trans (foldl _ (fun u (w : TlWaiter) => wake u w.c 1) _ _)

theorem pokeMask (s : State) (pa n mask v : Nat) : Tells s (s.pokeMask pa n mask v) :=
  (⟨rfl, writeMask_wf _ _ _ _⟩ : Tells s { s with mem := s.mem.writeMask pa n mask v, memPoison := _, merges := _ }).trans (evalTl _ _ _)

theorem poke (s : State) (pa n v : Nat) : Tells s (s.poke pa n v) := (note s pa).trans (pokeMask ..)

theorem bfStamp (s : State) (pa k : Nat) : Tells s (s.bfStamp pa k) := by
  unfold State.bfStamp
  dsimp only
  split
  · exact refl s
  · exact (foldl _ (fun u t => updTenant u t _) _ s).trans ⟨rfl, id⟩

theorem qPush (s : State) (tr : Nat → Tr) (pa data : Nat) : Tells s (s.qPush tr pa data).1 := by
  unfold State.qPush
  dsimp only
  repeat' split
  · exact refl s
  · exact refl s
  · exact refl s
  · exact (poke ..).trans ((poke ..).trans (bfStamp ..))
  · exact refl s

theorem qPop (s : State) (tr : Nat → Tr) (pa : Nat) : Tells s (s.qPop tr pa).1 := by
  unfold State.qPop
  dsimp only
  repeat' split
  · exact refl s
  · exact refl s
  · exact refl s
  · exact (note ..).trans (poke ..)
  · exact refl s

theorem agentPush (s : State) (unit tenant va data : Nat) : Tells s (s.agentPush unit tenant va data).1 := by
  unfold State.agentPush
  split
  · exact refl s
  · exact (note ..).trans (qPush ..)

theorem agentPop (s : State) (unit tenant va : Nat) : Tells s (s.agentPop unit tenant va).1 := by
  unfold State.agentPop
  split
  · exact refl s
  · exact (note ..).trans (qPop ..)

theorem msi (s : State) (tenant v : Nat) : Tells s (s.msi tenant v) := by
  unfold State.msi
  dsimp only
  repeat' split
  · exact updTenant ..
  · exact poke ..
  · exact refl s

theorem writeErr (s : State) (r : ErrRec) : Tells s (s.writeErr r) := by
  unfold State.writeErr
  extract_lets t v
  have h : Tells s (s.agentPush unitError r.tenant t.errQ.toNat v).1 := agentPush ..
  split
  next hp => rw [hp] at h; exact h.trans ((updTenant ..).trans (msi ..))
  next hp => rw [hp] at h; exact h.trans ((updTenant ..).trans (bb ..))

theorem pushErr (s : State) (r : ErrRec) : Tells s (s.pushErr r) := by
  unfold State.pushErr
  dsimp only
  split
  · exact writeErr ..
  · exact ⟨rfl, id⟩

theorem raceErr (s : State) (tag : Tag) (count : Nat) (info : W64) : Tells s (s.raceErr tag count info) := by
  unfold State.raceErr
  split <;> exact pushErr ..

theorem raceWrite (s : State) (tag : Tag) (line : Nat) : Tells s (s.raceWrite tag line) := by
  unfold State.raceWrite
  extract_lets t who
  clear_value who
  dsimp only
  split
  · exact refl s
  · split
    · split
      · exact updTenant ..
      · split
        · exact refl s
        · exact (updTenant ..).trans (pushErr ..)
    · split
      · exact refl s
      · split
        · exact updTenant ..
        · split
          · exact (updTenant ..).trans ((raceErr ..).trans (imprecise ..))
          · exact (updTenant ..).trans (raceErr ..)

theorem mixedAll (s : State) (tag : Tag) (line : Nat) (l : List (Nat × Nat)) : Tells s (s.mixedAll tag line l) := by
  unfold State.mixedAll
  dsimp only
  repeat' split
  · exact refl s
  · exact imprecise ..
  · exact refl s

theorem perfLine (s : State) (tenant line : Nat) : Tells s (s.perfLine tenant line) := by
  unfold State.perfLine
  split
  · exact updTenant ..
  · exact refl s

theorem blur (s : State) (line : Nat) (m : BitVec 128) (mem : Bool) : Tells s (s.blur line m mem).1 := by
  unfold State.blur
  split
  · exact refl s
  · dsimp only
    split
    · exact (⟨rfl, id⟩ : Tells s { s with fresh := s.fresh + 16, merges := _ }).trans (pokeMask ..)
    · exact ⟨rfl, id⟩

end Tells

end Sys2Proof.Machine


/-! The home slices (R74, R75, R99): what becomes of a request that a slice takes, and what a reply gives to those that wait for it. -/

namespace Sys2Proof.Machine

/-- The mixed-size detector adds a fault at most. -/
theorem mixedAll_faults (s : State) (tag : Tag) (line : Nat) (l : List (Nat × Nat)) : ∃ fs, s.mixedAll tag line l = { s with faults := fs } := by
  unfold State.mixedAll
  split
  · exact ⟨s.faults, rfl⟩
  · dsimp only
    split
    · exact ⟨_, rfl⟩
    · exact ⟨s.faults, rfl⟩

/-- Counting a line access changes tenants only. -/
theorem perfLine_tenants (s : State) (tenant line : Nat) : ∃ ts, s.perfLine tenant line = { s with tenants := ts } := by
  unfold State.perfLine
  split
  · exact ⟨_, rfl⟩
  · exact ⟨s.tenants, rfl⟩

/-- A detector that is off notes nothing. -/
theorem raceWrite_off {s : State} {tag : Tag} (line : Nat) (h : (s.tenant tag.tenant).raceCfg.getLsbD 0 = false) : s.raceWrite tag line = s :=
  if_pos (by rw [h]; rfl)

/-- Free values may stand in what open reads of a line were given, and in memory only when that is asked for. -/
theorem blur_kept (s : State) (line : Nat) (m : BitVec 128) : ∃ n ms, (s.blur line m false).1 = { s with fresh := n, merges := ms } := by
  unfold State.blur
  split
  · exact ⟨s.fresh, s.merges, rfl⟩
  · exact ⟨_, _, rfl⟩

theorem spread_zero (n : Nat) : spread n 0 = 0 := by
  induction n with
  | zero => rfl
  | succ n ih => simp [spread, ih]

theorem mask_none {w : Nat} (a b : BitVec w) : (a &&& ~~~(0#w)) ||| (b &&& 0#w) = a := by simp

/-- With no strong access of another size beside it, a write's bytes are its own. -/
theorem mergeBytes_none (a b : BitVec 1024) : mergeBytes 0 a b = a := by
  have h : BitVec.ofNat 1024 (spread 128 (0 : BitVec 128).toNat) = 0#1024 := by rw [show (0 : BitVec 128).toNat = 0 from rfl, spread_zero]
  unfold mergeBytes
  rw [h]
  exact mask_none a b

/-- A request that has left the queue. -/
theorem dropReq_gone {s : State} {id : Nat} : ∀ q ∈ (s.dropReq id).reqs, q.id ≠ id := by
  intro q hq
  simpa using (List.mem_filter.mp hq).2

/-- A read that its slice takes joins the tenant's open read of the line, or makes one of the line as it stands. -/
theorem readReq_joins (s : State) (id : Nat) (r : Req) : ∃ t, (s.dropReq id).readReq r = t ∧ (∀ q ∈ t.reqs, q.id ≠ id) ∧ t.mem = s.mem
    ∧ ∃ m ∈ t.merges, m.line = r.line ∧ m.tenant = r.tenant ∧ r ∈ m.joined
      ∧ ((∀ n ∈ s.merges, ¬ (n.line = r.line ∧ n.tenant = r.tenant ∧ n.closed = false)) → m.data = (s.lineRead r.line).1 ∧ m.poison = (s.lineRead r.line).2) := by
  refine ⟨_, rfl, ?_⟩
  unfold State.readReq
  obtain ⟨fs, hfs⟩ := mixedAll_faults (s.dropReq id) r.tag r.line r.strong
  rw [hfs]
  dsimp only
  cases hfind : List.find? (fun m => m.line == r.line && m.tenant == r.tenant && !m.closed) (s.dropReq id).merges with
  | some m =>
    have hm := List.find?_some hfind
    simp only [Bool.and_eq_true, beq_iff_eq, Bool.not_eq_true'] at hm
    obtain ⟨⟨hline, htenant⟩, hopen⟩ := hm
    have hmem : m ∈ s.merges := List.mem_of_find?_eq_some hfind
    refine ⟨dropReq_gone, rfl, { m with joined := m.joined ++ [r] }, ?_, hline, htenant, by simp, fun hnone => absurd ⟨hline, htenant, hopen⟩ (hnone m hmem)⟩
    exact List.mem_map.mpr ⟨m, hmem, by simp⟩
  | none =>
    dsimp only
    obtain ⟨ts, hts⟩ := perfLine_tenants { s.dropReq id with faults := fs } r.tenant r.line
    rw [hts]
    exact ⟨dropReq_gone, rfl, _, List.mem_append_right _ (List.mem_singleton_self _), rfl, rfl, List.mem_singleton_self _, fun _ => ⟨rfl, rfl⟩⟩

/-- A write that its slice takes is on its way to its acknowledgement. -/
theorem writeReq_started (s : State) (r : Req) (d : BitVec 1024) (m : BitVec 128) (p : BitVec 32) : ∃ t, (s.dropReq r.id).writeReq r d m p = t ∧ (∀ q ∈ t.reqs, q.id ≠ r.id)
    ∧ ((s.tenant r.tag.tenant).raceCfg.getLsbD 0 = false → t.mem = s.mem)
    ∧ ∃ a ∈ t.acks, a.id = r.id ∧ a.line = r.line ∧ a.core = r.core ∧ (s.clash r.tag r.line r.strong = 0 → a.data = d) ∧ a.mask = m ∧ a.poison = p := by
  refine ⟨_, rfl, ?_⟩
  unfold State.writeReq
  extract_lets m' u
  have hu : Tells (s.dropReq r.id) u := ((Tells.mixedAll ..).trans (Tells.raceWrite ..)).trans (Tells.perfLine ..)
  have hmem : (s.tenant r.tag.tenant).raceCfg.getLsbD 0 = false → u.mem = s.mem := by
    intro hoff
    obtain ⟨fs, hfs⟩ := mixedAll_faults (s.dropReq r.id) r.tag r.line r.strong
    obtain ⟨ts, hts⟩ := perfLine_tenants { s.dropReq r.id with faults := fs } r.tenant r.line
    change ((((s.dropReq r.id).mixedAll r.tag r.line r.strong).raceWrite r.tag r.line).perfLine r.tenant r.line).mem = s.mem
    rw [hfs, raceWrite_off (s := { s.dropReq r.id with faults := fs }) r.line hoff, hts]
    rfl
  obtain ⟨n, ms, hblur⟩ := blur_kept u r.line m'
  rcases hb : u.blur r.line m' false with ⟨v, x⟩
  obtain rfl : v = { u with fresh := n, merges := ms } := by rw [← hblur, hb]
  refine ⟨?_, hmem, _, List.mem_append_right _ (List.mem_singleton_self _), rfl, rfl, rfl, ?_, rfl, rfl⟩
  · change ∀ q ∈ u.reqs, _
    rw [hu.reqs]
    exact dropReq_gone
  · intro hclash
    have hm : m' = 0 := hclash
    dsimp only
    rw [hm, mergeBytes_none]

/-- What the slices do with requests and how their replies fill. -/
theorem slicesTakeRequests : Rules.SlicesTakeRequests := by
  refine ⟨fun id s r hfind htakes => ⟨fun hread => ?_, fun d m p hwrite => ?_⟩, fun id s s' r o hfind hop htakes hdone => ?_⟩
  · obtain ⟨t, ht, hjoins⟩ := readReq_joins s id r
    refine ⟨t, ?_, hjoins⟩
    change execHomeSliceRequest id s = _
    simp only [execHomeSliceRequest, hfind, htakes, hread, ht, Bool.not_true, Bool.false_eq_true, if_false]
  · obtain rfl : r.id = id := by simpa using List.find?_some hfind
    obtain ⟨t, ht, hstarted⟩ := writeReq_started s r d m p
    refine ⟨t, ?_, hstarted⟩
    change execHomeSliceRequest r.id s = _
    simp only [execHomeSliceRequest, hfind, htakes, hwrite, ht, Bool.not_true, Bool.false_eq_true, if_false]
  · change execHomeSliceAtomic id s = _
    simp only [execHomeSliceAtomic, hfind, htakes, hop, hdone, Bool.not_true, Bool.false_eq_true, if_false]

/-- Settles O40: a request that its slice takes is performed as the event's branch says, and a reply is given to every request that joined it. -/
theorem slicesPerform : Obligations.SlicesPerform := by
  refine ⟨slicesTakeRequests, fun id s m hfind hstop => ?_⟩
  change execMergedReadReply id s = _
  simp only [execMergedReadReply, hfind, hstop, Bool.false_eq_true, if_false] <;> rfl

end Sys2Proof.Machine


/-! Events of the engines (R105, R108, R151 to R161, R284, R307, R308, R463): what performs, completes or ends an operation. -/

namespace Sys2Proof.Machine

/-! ### Completion (R105, R108, R463) -/

/-- Groups changed one by one keep their places. -/
theorem find_group_updWhere (p : Group → Bool) (f : Group → Group) (hf : ∀ g, (f g).team = g.team ∧ (f g).idx = g.idx) (l : List Group) (t k : Nat) :
    (updWhere p f l).find? (fun x => x.team == t && x.idx == k) = (l.find? (fun x => x.team == t && x.idx == k)).map (fun g => if p g then f g else g) := by
  unfold updWhere
  rw [List.find?_map]
  congr 2
  funext g
  by_cases h : p g = true
  · simp [h, (hf g).1, (hf g).2]
  · simp [h]

/-- A settled future leaves every group its counters. -/
theorem settle_ecnt (s : State) (tenant ticket st t k : Nat) : ((s.settle tenant ticket st).group t k).map (fun g => g.ecnt) = (s.group t k).map (fun g => g.ecnt) := by
  unfold State.settle State.group
  dsimp only
  rw [find_group_updWhere (hf := ?keys), Option.map_map]
  case keys => exact fun g => ⟨rfl, rfl⟩
  congr 1
  funext g
  dsimp only [Function.comp]
  split <;> rfl

/-- The STATE of a ticket once it is settled. -/
theorem settle_state {s : State} {tenant : Nat} (h : tenant < s.tenants.length) (ticket st : Nat) : ((s.settle tenant ticket st).tenant tenant).stateOf ticket = st := by
  have ht : (s.settle tenant ticket st).tenant tenant = (s.tenant tenant).setTicket ticket st := tenant_updTenant h _
  rw [ht]
  simp [Tenant.stateOf, Tenant.setTicket]

/-- An operation that has performed its effects, or was cancelled, and whose turn it is. -/
theorem exec_engineOpComplete {id : Nat} {s : State} {o : EngOp} (ho : s.op id = some o) (hstop : s.stopped = false) (hready : o.ready = true ∨ o.cancelled = true) (hbefore : opsBefore s.ops o = false)
    (hq : ∀ c ∈ s.cores, ∀ m ∈ c.mq, m.op ≠ some id) :
    exec (.engineOpComplete id) s = .next (match o.ticket with
      | some k => (({ s with ops := s.ops.filter (fun x => x.id != id) } : State).bumpCnt o.tag.team o.tag.grp o.cls (· - 1)).settle o.tag.tenant k (if o.cancelled then 2 else if o.faulted then 3 else 1)
      | none => ({ s with ops := s.ops.filter (fun x => x.id != id) } : State).bumpCnt o.tag.team o.tag.grp o.cls (· - 1)) := by
  have hr : (o.ready || o.cancelled) = true := by simpa using hready
  have hmq : s.cores.any (fun c => c.mq.any (fun m => m.op == some id)) = false := by
    simp only [List.any_eq_false, beq_iff_eq]
    simpa using hq
  change execEngineOpComplete id s = _
  simp only [execEngineOpComplete, ho, hstop, hr, hbefore, hmq, Bool.false_eq_true, Bool.not_true, Bool.or_self, if_false] <;> rfl

/-- The counter of a class, one less. -/
theorem bumpCnt_ecnt {s : State} {t k cls : Nat} {g : Group} (hg : s.group t k = some g) (hcls : cls < g.ecnt.length) :
    ((s.bumpCnt t k cls (· - 1)).group t k).map (fun g => g.ecnt.getD cls 0) = some (g.ecnt.getD cls 0 - 1) := by
  unfold State.bumpCnt
  rw [group_updGroup (hf := ?keys), hg]
  case keys => exact fun g => ⟨rfl, rfl⟩
  simp [List.getD_eq_getElem?_getD, getElem?_updAt, List.getElem?_eq_getElem hcls]

theorem operationsComplete : Rules.OperationsComplete := by
  intro id s o g ho hstop hready hbefore hq hg hcls
  refine ⟨_, exec_engineOpComplete ho hstop hready hbefore hq, ?_⟩
  have hcnt := bumpCnt_ecnt (s := { s with ops := s.ops.filter (fun x => x.id != id) }) hg hcls
  have hgone : ∀ x ∈ s.ops.filter (fun x => x.id != id), x.id ≠ id := fun x hx => by simpa using (List.mem_filter.mp hx).2
  cases hticket : o.ticket with
  | none => exact ⟨hgone, hcnt, rfl, fun k hk => by simp at hk⟩
  | some k =>
    refine ⟨hgone, ?_, rfl, fun k' hk' hlen => ?_⟩
    · have hkept := settle_ecnt (({ s with ops := s.ops.filter (fun x => x.id != id) } : State).bumpCnt o.tag.team o.tag.grp o.cls (· - 1)) o.tag.tenant k (if o.cancelled then 2 else if o.faulted then 3 else 1) o.tag.team o.tag.grp
      have := congrArg (Option.map (fun l => l.getD o.cls 0)) hkept
      simp only [Option.map_map] at this
      exact this.trans hcnt
    · obtain rfl : k = k' := Option.some.inj hk'
      exact settle_state hlen k _

/-! ### Copies (R284, R307, R308) -/

theorem copiesPerform : Rules.CopiesPerform := by
  refine ⟨fun id k so n s u o ho hruns hkind hk hprog hturn hbad hcopy => ?_, fun id dst src len dir s u o f ho hruns hkind hprog hcopy => ?_, fun id rec_ so row load s p u o ho hruns hkind hprog hstart => ?_⟩
  · have hgood : (List.range (k + 1)).findSome? (fun j => if o.prog.contains j then none else s.kickBad o so j) = none := by
      rw [List.findSome?_eq_none_iff]
      intro j hj
      cases hc : o.prog.contains j with
      | true => rfl
      | false => exact hbad j (Nat.lt_succ_iff.mp (List.mem_range.mp hj)) hc
    change execCopyRecordLanded id k s = _
    simp only [execCopyRecordLanded, ho, hruns, hprog, hkind, hturn, hgood, hcopy, Nat.not_le.mpr hk, decide_false, Bool.not_true, Bool.or_self, Bool.false_eq_true, if_false]
    split <;> rfl
  · change execCopyRecordLanded id 0 s = _
    simp only [execCopyRecordLanded, ho, hruns, hprog, hkind, hcopy, Bool.not_true, Bool.or_self, Bool.false_eq_true, if_false, ne_eq, not_true_eq_false]
    cases f <;> rfl
  · intro x inner n scr mem hrow hcopy
    change execStreamRowPerformed id row s = _
    have hcopy' : (if load then p.engCopy o scr mem n else p.engCopy o mem scr n) = (u, none) := by
      rw [← hcopy]
      cases load <;> rfl
    simp only [execStreamRowPerformed, ho, hruns, hprog, hkind, hstart, Bool.not_true, Bool.or_self, Bool.false_eq_true, if_false]
    refine (if_neg (Nat.not_le.mpr hrow)).trans ?_
    change (match (if load then p.engCopy o scr mem n else p.engCopy o mem scr n) with | (s, some e) => _ | (s, none) => _) = _
    rw [hcopy'] <;> rfl

/-! ### Pages (R87, R105, R152) -/

/-- No entry of canonical contents stands below their bound. -/
theorem get_below {w : Nat} {m : Sparse w} {n k : Nat} (h : Sparse.wfFrom n m = true) (hk : k < n) : m.get k = 0 := by
  induction m generalizing n with
  | nil => rfl
  | cons p t ih =>
    obtain ⟨hle, -, ht⟩ := wfFrom_cons.mp h
    rw [Sparse.get, if_neg (by omega)]
    exact ih ht (by omega)

/-- Entries set at new indices, each as far from its own. -/
theorem get_moved {w : Nat} {l : Sparse w} {n src dst : Nat} (h : Sparse.wfFrom n l = true) (hlow : ∀ p ∈ l, src ≤ p.1) (b : Sparse w) {k : Nat} (hk : src ≤ k) :
    Sparse.get (l.foldl (fun m p => Sparse.set m (p.1 - src + dst) p.2) b) (k - src + dst) = if l.get k = 0 then b.get (k - src + dst) else l.get k := by
  induction l generalizing n b with
  | nil => rfl
  | cons p t ih =>
    obtain ⟨-, hx, ht⟩ := wfFrom_cons.mp h
    have hp := hlow p (by simp)
    rw [List.foldl_cons, ih ht (fun q hq => hlow q (by simp [hq])), Sparse.get, get_set]
    by_cases he : p.1 = k
    · rw [if_pos (get_below ht (by omega)), if_pos he, if_pos (by omega), if_neg hx]
    · rw [if_neg he, if_neg (show ¬k - src + dst = p.1 - src + dst by omega)]

/-- An index that no entry is set at. -/
theorem get_moved_other {w : Nat} {l : Sparse w} {src dst k : Nat} (b : Sparse w) (h : ∀ p ∈ l, p.1 - src + dst ≠ k) :
    Sparse.get (l.foldl (fun m p => Sparse.set m (p.1 - src + dst) p.2) b) k = b.get k := by
  induction l generalizing b with
  | nil => rfl
  | cons p t ih => rw [List.foldl_cons, ih _ (fun q hq => h q (by simp [hq])), get_set, if_neg (Ne.symm (h p (by simp)))]

/-- Contents of which some entries are left out. -/
theorem get_filter_none {w : Nat} (a : Sparse w) {f : Nat → Bool} {k : Nat} (h : f k = false) : Sparse.get (a.filter (fun p => f p.1)) k = 0 := by
  induction a with
  | nil => rfl
  | cons p a ih =>
    by_cases hp : p.1 = k
    · subst hp
      simp [h, ih]
    · cases hf : f p.1 <;> simp [Sparse.get, hf, hp, ih]

/-- Every byte of a page that has been moved, and every other byte. -/
theorem moveRange_get {s : State} {f old n : Nat} (hwf : s.mem.wf = true) (hapart : f + n ≤ old ∨ old + n ≤ f) (p : Nat) :
    (s.moveRange f old n).mem.get p = if f ≤ p ∧ p < f + n then s.mem.get (p - f + old) else s.mem.get p := by
  unfold State.moveRange
  dsimp only
  have hents : Sparse.wfFrom 0 (s.mem.filter (fun p => decide (old ≤ p.1) && decide (p.1 < old + n))) = true := filter_wf _ hwf
  have hin : ∀ q ∈ s.mem.filter (fun p => decide (old ≤ p.1) && decide (p.1 < old + n)), old ≤ q.1 ∧ q.1 < old + n := fun q hq => by
    simpa using (List.mem_filter.mp hq).2
  by_cases h : f ≤ p ∧ p < f + n
  · have hp : p - f + old - old + f = p := by omega
    have hmoved := get_moved (dst := f) hents (fun q hq => (hin q hq).1) (s.mem.filter (fun q => !(decide (f ≤ q.1) && decide (q.1 < f + n)))) (k := p - f + old) (by omega)
    have hold : Sparse.get (s.mem.filter (fun q => decide (old ≤ q.1) && decide (q.1 < old + n))) (p - f + old) = s.mem.get (p - f + old) :=
      get_filter s.mem (f := fun k => decide (old ≤ k) && decide (k < old + n)) (by simp; omega)
    have hbase : Sparse.get (s.mem.filter (fun q => !(decide (f ≤ q.1) && decide (q.1 < f + n)))) p = 0 :=
      get_filter_none s.mem (f := fun k => !(decide (f ≤ k) && decide (k < f + n))) (by simp; omega)
    rw [hp, hold, hbase] at hmoved
    rw [if_pos h, hmoved]
    split
    next hz => exact hz.symm
    next => rfl
  · have hother : ∀ q ∈ s.mem.filter (fun p => decide (old ≤ p.1) && decide (p.1 < old + n)), q.1 - old + f ≠ p := fun q hq => by
      have := hin q hq
      omega
    rw [if_neg h, get_moved_other _ hother]
    exact get_filter s.mem (f := fun k => !(decide (f ≤ k) && decide (k < f + n))) (by simp; omega)

theorem pagesPromote : Rules.PagesPromote := by
  constructor
  · intro id va len s o e ho hruns hkind tenant a fin hreach
    constructor
    · intro hlp
      change execTierPromotePage id s = _
      simp only [execTierPromotePage, ho, hruns, hkind, Bool.not_true, Bool.false_eq_true, if_false]
      change (match s.reach o.core tenant a { priv := o.tag.priv } with | .bad _ _ => _ | .ok e => _) = _
      rw [hreach]
      dsimp only
      rw [if_pos (by rw [hlp]; rfl)]
    · intro w h f hlp hsize hroom htake hf hal leaf v
      change execTierPromotePage id s = _
      simp only [execTierPromotePage, ho, hruns, hkind, Bool.not_true, Bool.false_eq_true, if_false]
      change (match s.reach o.core tenant a { priv := o.tag.priv } with | .bad _ _ => _ | .ok e => _) = _
      rw [hreach]
      dsimp only
      rw [if_neg (by rw [hlp]; decide), if_neg (by simp [hsize])]
      change (match (s.fillCore o.core e).retRoom tenant with | .error _ => _ | .ok false => _ | .ok true => _) = _
      rw [hroom]
      dsimp only
      change (match (s.fillCore o.core e).takeFrame o.core tenant with | (_, .bad _ _ _) => _ | (_, .refused) => _ | (_, .frozen) => _ | (w, .done _ f) => _) = _
      rw [htake]
      dsimp only
      rw [if_neg (by simp [hal]; omega)]
  · intro s f old hwf hf hold hne
    exact ⟨moveRange_get hwf (by omega), moveRange_wf s f old 65536 hwf⟩

/-! ### Attention (R154, R155, R468) -/

/-- A slice of an attention that has not been computed, and whose head is awaited. -/
theorem exec_attnTileComplete {id slice head rec_ : Nat} {score : Bool} {s : State} {o o' : EngOp} (ho : s.op id = some o) (hkind : o.kind = .attn rec_ score) (hruns : s.opRuns o = true)
    (ho' : (s.attnStart o rec_ score).op id = some o') (hready : o'.ready = false) (hslice : o'.slices.contains slice = true) (hlt : slice < 192) (hhead : head < recHeads o'.result)
    (hprog : o'.prog.contains (slice * 16 + head) = false) (hdone : o'.prog.contains (4096 + slice) = false) :
    exec (.attnTileComplete id slice head) s = (match (s.attnStart o rec_ score).attnTiles o' slice with
      | .error e => .next ((s.attnStart o rec_ score).attnFault id slice e)
      | .ok s' =>
        let x := (s'.op id).getD o'
        let prog := o'.prog ++ [slice * 16 + head]
        if !x.arrived prog then .next (s'.updOp id (fun o => { o with prog := prog }))
        else if x.susp || (score && !s'.scoreTurn x) then .next (s.attnStart o rec_ score)
        else .next (s'.attnFinish x rec_ score slice)) := by
  change execAttnTileComplete id slice head s = _
  simp only [execAttnTileComplete, ho, hkind, hruns, ho', hready, hslice, hprog, hdone, Nat.not_le.mpr hlt, Nat.not_le.mpr hhead, decide_false, Bool.not_true, Bool.or_self, Bool.false_eq_true, if_false] <;> rfl

theorem attentionPerforms : Rules.AttentionPerforms := by
  constructor
  · intro id slice head rec_ score s u o o' e ho hkind hruns ho' hready hslice hlt hhead hprog hdone
    have hexec := exec_attnTileComplete ho hkind hruns ho' hready hslice hlt hhead hprog hdone
    constructor
    · intro herr
      rw [hexec, herr]
    · intro hok x prog
      rw [hexec, hok]
      constructor
      · intro hwait
        exact if_pos (by rw [hwait]; rfl)
      · intro hall hsusp hturn
        have hgo : (x.susp || (score && !u.scoreTurn x)) = false := by
          rw [hsusp]
          cases score with
          | false => rfl
          | true => rw [hturn rfl]; rfl
        exact (if_neg (by rw [hall]; exact Bool.false_ne_true)).trans (if_neg (by rw [hgo]; exact Bool.false_ne_true))
  · intro id s o ho hsusp hagain hruns
    change execAttnRecompute id s = _
    simp only [execAttnRecompute, ho, hsusp, hagain, hruns, Bool.not_true, Bool.or_self, Bool.false_eq_true, if_false]

/-! ### The key-value cache (R151, R159, R161, R345) -/

theorem tableEvents : Rules.TableEvents := by
  refine ⟨?_, ?_, ?_, ?_, ?_, ?_⟩
  · intro id rec_ s u n o ho hkind hruns hstarted hrun
    change execCompactionStart id s = _
    simp only [execCompactionStart, ho, hkind, hruns, hstarted, hrun, Bool.not_true, Bool.false_eq_true, if_false, if_true]
  · intro id l s u o ho hkind hruns hpend hok hbusy hpub
    have hfree : l.any (fun p => s.entBusy (s.tabOf o.core o.tag) p.1) = false := by
      rw [List.any_eq_false]
      intro p hp
      rw [hbusy p hp]
      exact Bool.false_ne_true
    change execBackfillPublish id s = _
    simp only [execBackfillPublish, ho, hkind, hruns, hpend, hok, hfree, hpub, Bool.not_true, Bool.or_self, Bool.false_eq_true, if_false]
  · intro id i s r hr hkind hstop hown hmoved
    change execTableWriteAfterMove id s = _
    simp only [execTableWriteAfterMove, hr, hkind, hstop, hown, hmoved, Bool.not_true, Bool.or_self, Bool.false_eq_true, if_false]
  · intro tenant s u hlt hstop hperiod hok hown hdue hvisit
    have hp : (s.period tenant == 0) = false := by simpa using hperiod
    change execClockVisit tenant s = _
    simp only [execClockVisit, hstop, hp, hok, hown, hvisit, Nat.not_lt.mpr hdue, Nat.not_lt.mpr (Nat.le_of_lt_succ hlt), decide_false, Bool.not_true, Bool.or_self, Bool.false_eq_true, if_false]
  · intro id s u m hm hstop hown v hdone
    change execDemotionCopyComplete ⟨id, 0⟩ s = _
    simp only [execDemotionCopyComplete, hm, hstop, hown, Bool.not_true, Bool.or_self, Bool.false_eq_true, if_false, if_true, Nat.not_lt_zero, decide_false, Bool.false_and, Nat.reduceBEq]
    change (match v.moveDone (v.moveTab m) m (moveWrote 0 m 0) with | (s, none) => _ | (s, some x) => _) = _
    rw [hdone]
  · intro id s u o ho hstop hown hread hpush
    have hdone : o.readers.any (fun k => s.ops.any (fun x => x.id == k && !x.ready)) = false := by
      simp only [List.any_eq_false, Bool.and_eq_true, beq_iff_eq, Bool.not_eq_true', not_and, Bool.not_eq_false]
      intro k hk h
      obtain ⟨x, hx, hid, hnot⟩ := by simpa using h
      exact absurd (hread k hk x hx hid) (by simp [hnot])
    change execOldBlockFreePush id s = _
    simp only [execOldBlockFreePush, ho, hstop, hown, hdone, hpush, Bool.not_true, Bool.or_self, Bool.false_eq_true, if_false]

/-- Settles O42: each event with its conditions met runs its one branch. -/
theorem engineOperationsPerform : Obligations.EngineOperationsPerform :=
  ⟨operationsComplete, copiesPerform, pagesPromote, attentionPerforms, tableEvents⟩

end Sys2Proof.Machine


/-! What the conditions shared by all slots come to (R173, R426, R427), and what the resets leave (R388, R391). -/

namespace Sys2Proof.Machine

/-- Settles O49: an instruction word's meaning is a body under the shared conditions, whose outcomes do not depend on it. -/
theorem sharedConditions : Obligations.SharedConditions := by
  unfold Obligations.SharedConditions
  intro i s hi
  obtain ⟨b, hb⟩ := exec_word_issues hi s
  exact ⟨fun h => hb.trans (issue_noContext i s b h), fun h => hb.trans (issue_hold i s b h), fun _ _ h => exec_trap hi h, fun _ h => exec_skip hi h⟩

/-! ### Resets (R388, R391) -/

/-- Bytes that two contents have in common read alike. -/
theorem read_congr {m m' : Sparse 8} {a n : Nat} (h : ∀ k, a ≤ k → k < a + n → m.get k = m'.get k) : m.read a n = m'.read a n := by
  induction n generalizing a with
  | zero => rfl
  | succ n ih => rw [Sparse.read, Sparse.read, h a (Nat.le_refl a) (by omega), ih fun k hk hk' => h k (by omega) (by omega)]

/-- A range that a write does not touch reads as before. -/
theorem read_write_apart (m : Sparse 8) {a n b k v : Nat} (h : a + n ≤ b ∨ b + k ≤ a) : (m.write b k v).read a n = m.read a n :=
  read_congr fun i hi hi' => by rw [get_write, if_neg (by omega)]

/-- Forgetting device memory leaves host memory as it was. -/
theorem forget_host (l m : Sparse 8) (k : Nat) {p : Nat} (hp : isHost p = true) : (forget l m k).1.get p = m.get p := by
  induction l generalizing m k with
  | nil => rfl
  | cons q t ih =>
    rw [forget]
    split
    · exact ih ..
    next h =>
      rw [ih, get_set, if_neg]
      intro heq
      exact h (heq ▸ hp)

theorem bb_log (s : State) (die unit tenant cause : Nat) (info : W64) (detail : Nat) : ∃ x y, s.bb die unit tenant cause info detail = { s with ctl := x, bbSeq := y } := by
  unfold State.bb
  exact ⟨_, _, rfl⟩

/-- The black box and its sequence numbers are all that an event in every die changes. -/
theorem bbAll_log (s : State) (unit cause : Nat) (info : W64) (detail : Nat) : ∃ x y, s.bbAll unit cause info detail = { s with ctl := x, bbSeq := y } := by
  unfold State.bbAll
  generalize dies = l
  induction l generalizing s with
  | nil => exact ⟨s.ctl, s.bbSeq, rfl⟩
  | cons d t ih =>
    obtain ⟨x, y, h⟩ := bb_log s d unit 0 cause info detail
    rw [List.foldl_cons, h]
    exact ih { s with ctl := x, bbSeq := y }

/-- Settles O48: both resets start from the reset state; what they keep are bytes that a filter or a write elsewhere leaves. -/
theorem resetsClear : Obligations.ResetsClear := by
  unfold Obligations.ResetsClear
  intro s
  constructor
  · refine ⟨_, rfl, rfl, rfl, rfl, rfl, rfl, rfl, rfl, rfl, rfl, fun p => ?_, ?_⟩
    · change Sparse.get (s.mem.filter (fun q => isHost q.1)) p = _
      cases hp : isHost p with
      | true => exact get_filter s.mem hp
      | false => exact get_filter_none s.mem hp
    · change Sparse.read (Sparse.write (Sparse.write (Sparse.write (Sparse.write [] 16 8 (s.ctl.read 16 8)) 384 32 _) 1024 64 _) 1088 64 _) 16 8 = _
      rw [read_write_apart _ (by omega), read_write_apart _ (by omega), read_write_apart _ (by omega), read_write]
      exact Nat.mod_eq_of_lt (read_lt ..)
  · change ∃ t, Host.Outcome.next (State.bbAll _ 40 0x4A 0 0) = .next t ∧ _
    obtain ⟨x, y, h⟩ := bbAll_log { State.reset with
      mem := (forget s.mem s.mem s.fresh).1, fresh := (forget s.mem s.mem s.fresh).2, ctl := s.ctl.filter (fun p => keptByte p.1), logN := s.logN, firmware := s.firmware, bbSeq := s.bbSeq, clock := s.clock,
      script := s.script, nextId := s.nextId } 40 0x4A 0 0
    exact ⟨_, congrArg _ h, rfl, rfl, rfl, rfl, rfl, rfl, rfl, rfl, fun p hp => forget_host _ _ _ hp⟩

end Sys2Proof.Machine


/-! Taking a precise trap (R401, R402, R405). -/

namespace Sys2Proof.Machine

/-- The registers, predicates and exited lanes of a group. -/
def Group.shown (g : Group) := (g.v, g.s, g.sb1, g.p, g.q, g.q1, g.xmask)

theorem updArm_shown (g : Group) (a : Nat) (f : Arm → Arm) : (g.updArm a f).shown = g.shown := by
  unfold Group.updArm
  split
  · rfl
  · split
    · rfl
    · split <;> rfl

/-- A change of an arm shows in no register of any group. -/
theorem group_shown_updArm (s : State) (c : CtxId) (f : Arm → Arm) (t k : Nat) : ((s.updArm c f).group t k).map Group.shown = (s.group t k).map Group.shown := by
  have h : (s.updArm c f).group t k = (s.group t k).map (fun g => if g.team == c.team && g.idx == c.grp then g.updArm c.arm f else g) :=
    find_group_updWhere _ _ (fun g => ⟨updArm_team .., updArm_idx ..⟩) s.groups t k
  rw [h, Option.map_map]
  congr 1
  funext g
  dsimp only [Function.comp]
  split
  · exact updArm_shown ..
  · rfl

/-- A team whose squall begins with a trap. -/
def Team.struck (x : Team) (grp : Nat) (t : Trap) (now : Nat) : Team :=
  { x with squall := some { origin := grp, trap := t, cycle := now }, place := if x.place = .stopping then .resident else x.place }

/-- The first trap of a team that no queue supplied starts its squall and leaves an event in the black box. -/
theorem raise_first {s : State} {tm : Team} {g : Group} {team grp : Nat} (htm : s.team team = some tm) (hg : s.group team grp = some g) (hq : tm.squall = none) (hs : tm.supplier = none) (t : Trap) :
    ∃ x y, s.raise team grp t = ({ s with ctl := x, bbSeq := y } : State).updTeam team (fun z => z.struck grp { t with cycle := s.clock } s.clock) := by
  obtain ⟨x, y, h⟩ := bb_log s (coreDie g.core) (coreUnit g.core) (s.launch tm.launch).tenant t.cause t.pc (t.lane + 64 * t.arm)
  refine ⟨x, y, ?_⟩
  unfold State.raise State.noteTrap
  simp only [htm, hg, hq, hs]
  rw [h]
  rfl

/-- Settles O51: the trap starts its team's squall, and then only the context's arm changes. -/
theorem trapsTaken : Obligations.TrapsTaken := by
  unfold Obligations.TrapsTaken
  intro cx b s tm g htm hg hq hs hmode harm
  obtain ⟨x, y, hraise⟩ := raise_first htm hg hq hs (b.trapAt cx)
  have htrap : cx.trap b s = ((s.raise cx.c.team cx.c.grp (b.trapAt cx)).updArm cx.c (fun a => { a with wait := {} })).updArm cx.c (fun a => { a with halted := true }) := by
    unfold Cx.trap
    exact if_neg (by rw [hmode]; exact Bool.false_ne_true)
  rw [hraise] at htrap
  rw [htrap]
  refine ⟨rfl, ?_, ?_, fun team grp => ?_⟩
  · exact (congrArg _ (team_updTeam _ _ _)).trans (by rw [show State.team { s with ctl := x, bbSeq := y } cx.c.team = some tm from htm]; rfl)
  · rw [armOf_updArm, armOf_updArm, Option.map_map, Option.map_map]
    rfl
  · exact (group_shown_updArm ..).trans (group_shown_updArm ..)

end Sys2Proof.Machine


/-! Dispatch (R24, R354, R359 to R361, R404): the first candidate that fits starts a team. -/

namespace Sys2Proof.Machine

/-! ### Cores made ready (R58, R67) -/

theorem dropCache_wires (s : State) (core : Nat) : Wires s (s.dropCache core) :=
  ((Wires.foldl _ (fun s (l : Line) => Wires.writeBack s core l.addr []) _ s).trans (Wires.noFill ..)).trans (Wires.updCore ..)

theorem loadBounds_wires (s : State) (l : Launch) (core : Nat) : Wires s (s.loadBounds l core) := by
  unfold State.loadBounds
  split
  · exact Wires.refl s
  · exact (dropCache_wires ..).trans (Wires.updCore ..)

theorem pinOn_wires (core team n : Nat) (s : State) : Wires s (State.pinOn core team n s) := by
  induction n generalizing s with
  | zero => exact Wires.refl s
  | succ n ih =>
    unfold State.pinOn
    dsimp only
    split
    · exact Wires.trans (t := { s.updCore core (fun c => c.pin team _) with fresh := s.fresh + 1 }) rfl (ih _)
    · exact Wires.refl s

theorem readyCores_wires (s : State) (l : Launch) (team core : Nat) : Wires s (s.readyCores l team core) :=
  Wires.foldl _ (fun s c => ((loadBounds_wires ..).trans (pinOn_wires ..)).trans (Wires.invalidate ..)) _ s

theorem getElem?_updAt_other {α : Type} (l : List α) {i k : Nat} (f : α → α) (h : i ≠ k) : (updAt l k f)[i]? = l[i]? := by
  induction l generalizing i k with
  | nil => rfl
  | cons x t ih =>
    cases k with
    | zero => cases i with
      | zero => exact absurd rfl h
      | succ i => rfl
    | succ k => cases i with
      | zero => rfl
      | succ i => exact ih fun he => h (congrArg _ he)

/-! ### Launches noted (R359, R361) -/

/-- `t` is `s` but for launches, none of which has placed more or fewer teams. -/
def Notes (s t : State) : Prop := ∃ ls, t = { s with launches := ls } ∧ ∀ i, (t.launch i).next = (s.launch i).next

namespace Notes

theorem refl (s : State) : Notes s s := ⟨s.launches, rfl, fun _ => rfl⟩

theorem trans {s t u : State} (h : Notes s t) (h' : Notes t u) : Notes s u := by
  obtain ⟨ls, rfl, hn⟩ := h
  obtain ⟨ls', rfl, hn'⟩ := h'
  exact ⟨ls', rfl, fun i => (hn' i).trans (hn i)⟩

theorem foldl {α : Type} (f : State → α → State) (hf : ∀ s x, Notes s (f s x)) (l : List α) (s : State) : Notes s (l.foldl f s) := by
  induction l generalizing s with
  | nil => exact refl s
  | cons x t ih => exact (hf s x).trans (ih _)

theorem map (s : State) (f : Launch → Launch) (hf : ∀ l, (f l).next = l.next) : Notes s { s with launches := s.launches.map f } := by
  refine ⟨_, rfl, fun i => ?_⟩
  unfold State.launch
  dsimp only
  rw [List.getElem?_map]
  cases s.launches[i]? with
  | none => rfl
  | some l => exact hf l

theorem updLaunch (s : State) (k : Nat) (f : Launch → Launch) (hf : ∀ l, (f l).next = l.next) : Notes s (s.updLaunch k f) := by
  refine ⟨_, rfl, fun i => ?_⟩
  unfold State.launch State.updLaunch
  dsimp only
  by_cases h : i = k
  · subst h
    rw [getElem?_updAt]
    cases s.launches[i]? with
    | none => rfl
    | some l => exact hf l
  · rw [getElem?_updAt_other _ _ h]

theorem consume (s : State) (core : Nat) (k : Take) : Notes s (s.consume core k) := by
  unfold State.consume
  refine map s _ fun l => ?_
  split
  · rfl
  · split <;> rfl

theorem reachHeads (s : State) : Notes s s.reachHeads :=
  foldl _ (fun s i => by
    dsimp only
    split
    · exact updLaunch _ _ _ fun _ => rfl
    · exact refl s) _ s

end Notes

/-! ### A team placed (R24, R354) -/

/-- A placed team stands last among the teams, its groups among the groups, and its launch has placed one team more. -/
theorem placeTeam_placed (s : State) {launch g : Nat} (core index : Nat) (hg : g < (s.launch launch).gpt) (hl : launch < s.launches.length) :
    ∃ gs k now, (s.placeTeam launch core index).groups = gs ∧ (s.launch launch).newGroup s.teams.length index g k now ∈ gs
      ∧ (s.placeTeam launch core index).team s.teams.length = some ((s.launch launch).newTeam launch index core)
      ∧ ((s.placeTeam launch core index).launch launch).next = (s.launch launch).next + 1 := by
  unfold State.placeTeam
  extract_lets l team u gs v w
  have hw : Notes w ((l.coresAt core).foldl (fun s c => s.consume c (l.take (c != core))) w) := Notes.foldl _ (fun s c => Notes.consume ..) _ w
  obtain ⟨ls, hls, hnext⟩ := hw
  have hu : Wires s u := readyCores_wires s l team core
  rw [hls]
  rw [hls] at hnext
  refine ⟨_, _, u.clock, rfl, List.mem_append_right _ (List.mem_map.mpr ⟨g, List.mem_range.mpr hg, rfl⟩), ?_, ?_⟩
  · change (u.teams ++ [l.newTeam launch index core])[s.teams.length]? = _
    rw [hu.teams, List.getElem?_append_right (Nat.le_refl _), Nat.sub_self]
    rfl
  · rw [hnext launch]
    change ((updAt u.launches launch _)[launch]?.getD _).next = _
    rw [hu.launches, getElem?_updAt]
    change _ = ((s.launches[launch]?).getD Launch.none).next + 1
    rw [List.getElem?_eq_getElem hl]
    rfl

/-- Settles O43: the team is placed, and the launches that reach the head of their source afterwards change nothing of it. -/
theorem teamsDispatch : Obligations.TeamsDispatch := by
  unfold Obligations.TeamsDispatch
  intro launch core g s l hstop hnext hrank htog hfits hg hlen
  have hexec : exec (.dispatchTeam launch core) s = .next (s.placeTeam launch core l.next).reachHeads := by
    have hgo : (s.stopped || decide (l.total ≤ l.next) || s.outranked (.launch launch)) = false := by
      rw [hstop, hrank, decide_eq_false (Nat.not_le.mpr hnext)]
      rfl
    exact (if_neg (by rw [hgo]; exact Bool.false_ne_true)).trans ((if_neg (by rw [htog]; exact Bool.false_ne_true)).trans (if_pos hfits))
  obtain ⟨gs, k, now, hgs, hmem, hteam, hplaced⟩ := placeTeam_placed s core l.next hg hlen
  obtain ⟨ls, hls, hheads⟩ := Notes.reachHeads (s.placeTeam launch core l.next)
  refine ⟨_, l.newGroup s.teams.length l.next g k now, l.newTeam launch l.next core, hexec, ?_, rfl, rfl, ?_, rfl, rfl, rfl, rfl, ?_, ?_, rfl, rfl, rfl, rfl, rfl, rfl, rfl,
    Nat.mul_comm .., rfl, ?_, ?_, rfl, rfl, rfl⟩
  · rw [hls]
    exact hgs ▸ hmem
  · rw [hls]
    exact hteam
  · rw [hheads launch, hplaced]
  · intro b hb
    obtain rfl := List.eq_of_mem_replicate hb
    exact ⟨rfl, rfl⟩
  · change Sparse.get ((Sparse.set [] 96 (loOf l.args)).set 97 (hiOf l.args)) 96 = _
    simp
  · change Sparse.get ((Sparse.set [] 96 (loOf l.args)).set 97 (hiOf l.args)) 97 = _
    simp

end Sys2Proof.Machine


/-! Launches, tasks and teams come and go (R58, R161, R229, R311, R355, R357, R358, R362, R364). -/

namespace Sys2Proof.Machine

theorem launchesArrive : Rules.LaunchesArrive := by
  refine ⟨?_, ?_⟩
  · intro tenant cls i x s u htenant hcls hstop hlq hslot hhead hpop
    change execLaunchPop tenant cls s = _
    have hgo : (s.stopped || s.slotTenant != some tenant || decide (16 ≤ tenant) || decide (4 ≤ cls) || (s.tenant tenant).lq cls == 0
        || s.headWaits tenant ((s.tenant tenant).lq cls)) = false := by
      rw [hstop, hslot, hhead, decide_eq_false (Nat.not_le.mpr htenant), decide_eq_false (Nat.not_le.mpr hcls), beq_eq_false_iff_ne.mpr hlq, bne_self_eq_false]
      rfl
    refine (if_neg (by rw [hgo]; exact Bool.false_ne_true)).trans ?_
    rw [hpop]
  · intro tenant tag addr l s u htenant hstop hup hslot hwrite
    change execTaggedLaunchMessage tenant tag addr l s = _
    have hgo : (s.stopped || !s.eweovUp || decide (16 ≤ tenant) || !s.ownsSlot tenant) = false := by
      rw [hstop, hup, hslot, decide_eq_false (Nat.not_le.mpr htenant)]
      rfl
    refine (if_neg (by rw [hgo]; exact Bool.false_ne_true)).trans ?_
    rw [hwrite]

/-! ### What letting engines and tokens go leaves (R318, R322) -/

/-- What a team holds of its place, scratchpad and objects. -/
def Team.held (t : Team) : Place × Sparse 8 × List Nat := (t.place, t.scr, t.armed)

/-- `t` is `s` with the same launches, and with teams that hold what they held. -/
structure HoldsOn (s t : State) : Prop where
  launches : t.launches = s.launches
  held : ∀ k, (t.team k).map Team.held = (s.team k).map Team.held

namespace HoldsOn

theorem refl (s : State) : HoldsOn s s := ⟨rfl, fun _ => rfl⟩

theorem trans {s t u : State} (h : HoldsOn s t) (h' : HoldsOn t u) : HoldsOn s u := ⟨h'.launches.trans h.launches, fun k => (h'.held k).trans (h.held k)⟩

theorem foldl {α : Type} (f : State → α → State) (hf : ∀ s x, HoldsOn s (f s x)) (l : List α) (s : State) : HoldsOn s (l.foldl f s) := by
  induction l generalizing s with
  | nil => exact refl s
  | cons x t ih => exact (hf s x).trans (ih _)

theorem of_wires {s t : State} (h : Wires s t) : HoldsOn s t := ⟨h.launches, fun k => by unfold State.team; rw [h.teams]⟩

theorem updTeam (s : State) (n : Nat) (f : Team → Team) (hf : ∀ t, (f t).held = t.held) : HoldsOn s (s.updTeam n f) where
  launches := rfl
  held k := by
    by_cases h : k = n
    · subst h
      rw [team_updTeam, Option.map_map]
      exact congrArg (fun g => (s.team k).map g) (funext hf)
    · exact congrArg (Option.map Team.held) (getElem?_updAt_other _ _ h)

theorem setTok (t : Team) (core : Nat) (x : Option Nat) : (t.setTok core x).held = t.held := by
  unfold Team.setTok
  split <;> rfl

theorem bindEngine (s : State) (team : Nat) (t : Team) : HoldsOn s (s.bindEngine team t) :=
  foldl _ (fun s c => by
    split
    · exact refl s
    · exact of_wires (Wires.updCore ..)) _ s

theorem grantTok (s : State) (core : Nat) : HoldsOn s (s.grantTok core) := by
  unfold State.grantTok
  extract_lets can
  split
  · exact refl s
  · split
    · exact refl s
    · exact ((bindEngine ..).trans (updTeam _ _ _ fun t => setTok ..)).trans (of_wires (Wires.updGroup ..))

theorem unbind (s : State) (team : Nat) (t : Team) : HoldsOn s (s.unbind team t) :=
  (foldl _ (fun s c => by
    split
    · exact of_wires (Wires.updCore ..)
    · exact refl s) _ s).trans (foldl _ grantTok _ _)

end HoldsOn

theorem launch_updLaunch {s : State} {k : Nat} (f : Launch → Launch) (h : k < s.launches.length) : (s.updLaunch k f).launch k = f (s.launch k) := by
  change ((updAt s.launches k f)[k]?).getD _ = f ((s.launches[k]?).getD _)
  rw [getElem?_updAt, List.getElem?_eq_getElem h]
  rfl

theorem teamsRetire : Rules.TeamsRetire := by
  refine ⟨?_, ?_⟩
  · intro team s t hteam hstop hplace hreleased
    let v := (t.cores.foldl (fun s c => s.updCore c (fun x => x.unpin team)) s)
    have hv : Wires s v := Wires.foldl _ (fun s c => Wires.updCore ..) _ s
    let w := v.updTeam team (fun t => { t with place := .gone, scr := [], scrPoison := [], armed := [] })
    have hw : HoldsOn w (w.unbind team t) := HoldsOn.unbind ..
    refine ⟨(w.unbind team t).updLaunch t.launch (fun l => { l with retired := l.retired + 1 }), ?_, ?_, ?_⟩
    · change execTeamRetire team s = _
      unfold execTeamRetire
      rw [hteam]
      refine if_neg ?_
      rw [hstop, hplace, hreleased]
      decide
    · refine (hw.held team).trans ?_
      rw [team_updTeam]
      change ((v.teams[team]?).map _).map _ = _
      rw [hv.teams]
      change ((s.team team).map _).map _ = _
      rw [hteam]
      rfl
    · intro hlen
      have hl : (w.unbind team t).launches = s.launches := hw.launches.trans hv.launches
      rw [launch_updLaunch _ (hl ▸ hlen)]
      unfold State.launch
      rw [hl]
  · intro launch s l hstop hopen htotal hnext hretired hops hending hpend herrs hslot
    change execLaunchComplete launch s = _
    have hbusy : s.ops.any (fun o => match s.team o.tag.team with | some t => t.launch == launch | none => false) = false := by
      rw [List.any_eq_false]
      intro o ho
      have h := hops o ho
      cases ht : s.team o.tag.team with
      | none => exact Bool.false_ne_true
      | some t =>
        rw [ht] at h
        exact fun he => h (congrArg some (eq_of_beq he))
    have hgo : (s.stopped || l.complete || l.total == 0 || decide (l.next < l.total) || decide (l.retired < l.total)) = false := by
      rw [hstop, hopen, beq_eq_false_iff_ne.mpr htotal, decide_eq_false (Nat.not_lt.mpr hnext), decide_eq_false (Nat.not_lt.mpr hretired)]
      rfl
    have herr : s.errs.any (fun r => r.tenant == l.tenant) = false := by
      rw [List.any_eq_false]
      exact fun r hr he => herrs r hr (eq_of_beq he)
    have htimeline : (l.f 383 320 != 0 && s.slotTenant != some l.tenant) = false := by
      rcases hslot with h | h
      · rw [h]; rfl
      · rw [h, bne_self_eq_false, Bool.and_false]
    unfold execLaunchComplete
    extract_lets ops p
    have hops' : ops = false := hbusy
    have hp : p = (s, l.ids) := if_pos hending
    rw [if_neg (by rw [hops', Bool.or_false]; exact Bool.not_eq_true _ ▸ hgo), hp]
    refine if_neg ?_
    rw [hpend, htimeline, herr]
    decide

theorem tasksStart : Rules.TasksStart := by
  refine ⟨?_, ?_⟩
  · intro id core x0 x s c l hfind hstop hel hslot hrank hread0 hlaunch href n hread hfits
    change execContinuationResume id core s = _
    unfold execContinuationResume
    rw [hfind]
    refine (if_neg ?_).trans ?_
    · rw [hstop, hel, hslot, hrank]
      decide
    · rw [hread0, hlaunch]
      change (match s.refusal c.tenant none none l with | some _ => _ | none => _) = _
      rw [href]
      change (match s.vread _ _ n with | .error _ => _ | .ok _ => _) = _
      rw [hread]
      refine (if_neg ?_).trans rfl
      rw [hfits]
      decide
  · intro tenant core bfk q i v s u l e haddrs hstop hslot hrank hlaunch hfits htok hreach hpop
    change execBackfillTaskStart tenant core s = _
    unfold execBackfillTaskStart
    rw [haddrs]
    refine (if_neg ?_).trans ?_
    · rw [hstop, hslot, hrank, bne_self_eq_false]
      decide
    · rw [hlaunch]
      refine (if_neg ?_).trans ?_
      · rw [hfits, htok]
        decide
      · dsimp only
        rw [hpop, hreach]

theorem boundariesApply : Rules.BoundariesApply := by
  refine ⟨?_, ?_⟩
  · intro core s hstop hheld hocc
    let b := (s.core core).bounds
    refine ⟨(s.dropCache core).updCore core (fun c => { c with pbReg := b.1, pbScr := b.2.1, pbPin := b.2.2, held := [] }), ?_, ?_, ?_, ?_⟩
    · change execPoolBoundaryApply core s = _
      unfold execPoolBoundaryApply
      refine if_neg ?_
      rw [hstop, hocc, Bool.or_false, Bool.false_or, Bool.not_eq_true, List.isEmpty_eq_false_iff]
      exact hheld
    · rw [core_updCore, if_pos rfl]
    · rw [core_updCore, if_pos rfl]
      change ((s.dropCache core).core core).lines = []
      unfold State.dropCache
      rw [core_updCore, if_pos rfl]
    · rw [core_updCore, if_pos rfl]
  · intro c s g hctx hstop hwait hready
    have harm : s.armOf c = some (g.arm c.arm) := by rw [State.armOf, group_of_context hctx, Option.map_some]
    refine ⟨s.updArm c (fun a => { a with due := true }), ?_, ?_, ?_⟩
    · change execContextDue c s = _
      unfold execContextDue
      rw [hctx]
      refine if_neg ?_
      rw [hstop, hwait, decide_eq_false (Nat.not_lt.mpr hready)]
      decide
    · rw [armOf_updArm, harm]
      rfl
    · rw [armOf_updArm, harm]
      rfl

/-- Settles O44: each event is taken under its conditions; what a retired team lets go of changes no launch and no team's place. -/
theorem workArrivesAndRetires : Obligations.WorkArrivesAndRetires := ⟨launchesArrive, teamsRetire, tasksStart, boundariesApply⟩

end Sys2Proof.Machine


/-! Commands, pre-emption and the trap events (R366 to R370, R380, R402, R408, R416 to R420). -/

namespace Sys2Proof.Machine

/-! ### A team's image written (R62, R368) -/

theorem vwrite_tells {s u : State} {tr : Nat → Tr} {va n v : Nat} (h : s.vwrite tr va n v = .ok u) : Tells s u := by
  unfold State.vwrite at h
  split at h
  · cases h
  · injection h with h
    rw [← h]
    refine Tells.foldl _ (fun s p => ?_) _ s
    split
    · exact Tells.poke ..
    · exact Tells.refl s

theorem poisonVa_tells (s : State) (tr : Nat → Tr) (va n : Nat) : Tells s (s.poisonVa tr va n) :=
  Tells.foldl _ (fun s p => by
    split
    · split
      · exact Tells.refl s
      · exact ⟨rfl, id⟩
    · exact Tells.refl s) _ s

theorem imgPoison_tells (s : State) (tenant va : Nat) (offs : List Nat) : Tells s (s.imgPoison tenant va offs) :=
  Tells.foldl _ (fun _ _ => poisonVa_tells ..) _ s

/-- What a chain of writes that may fail keeps, each of its writes keeps. -/
theorem foldl_tells {α : Type} (f : State → α → Except EFault State) (hf : ∀ s x u, f s x = .ok u → Tells s u) (l : List α) {r : Except EFault State} {s u : State} (hr : ∀ v, r = .ok v → Tells s v)
    (h : l.foldl (fun acc x => match acc with | .error e => .error e | .ok s => f s x) r = .ok u) : Tells s u := by
  induction l generalizing r with
  | nil => exact hr u h
  | cons x t ih =>
    refine ih (fun v hv => ?_) h
    cases r with
    | error e => cases hv
    | ok w => exact (hr w rfl).trans (hf w x v hv)

theorem saveRegs_tells {s u : State} {tenant : Nat} {g : Group} (h : s.saveRegs tenant g = .ok u) : Tells s u := by
  unfold State.saveRegs at h
  extract_lets va x ls r at h
  cases hr : r with
  | error e => rw [hr] at h; cases h
  | ok w =>
    rw [hr] at h
    injection h with h
    rw [← h]
    exact (foldl_tells (fun s k => s.vwrite (s.imgTr tenant) (va + 256 * k) 256 (x / 2 ^ (2048 * k) % 2 ^ 2048)) (fun _ _ _ hv => vwrite_tells hv) ls
      (fun v hv => by injection hv with hv; exact hv ▸ Tells.refl s) hr).trans (imgPoison_tells ..)

theorem saveImage_tells {s u : State} {team : Nat} {t : Team} (h : s.saveImage team t = .ok u) : Tells s u := by
  unfold State.saveImage at h
  extract_lets l base at h
  cases h1 : s.vwrite (s.imgTr l.tenant) base 4096 (s.imgHeader team t) with
  | error e => rw [h1] at h; cases h
  | ok s1 =>
    rw [h1] at h
    change (s1.vwrite (s1.imgTr l.tenant) _ _ _ >>= _) = _ at h
    cases h2 : s1.vwrite (s1.imgTr l.tenant) (base + 4096) (t.scrSize / 128) (t.armed.eraseDups.foldl (fun a k => a + 2 ^ k) 0) with
    | error e => rw [h2] at h; cases h
    | ok s2 =>
      rw [h2] at h
      change (s2.vwrite (s2.imgTr l.tenant) _ _ _ >>= _) = _ at h
      cases h3 : s2.vwrite (s2.imgTr l.tenant) (imgScr l t 0) t.scrSize (packSparse t.scr 0 t.scrSize) with
      | error e => rw [h3] at h; cases h
      | ok s3 =>
        rw [h3] at h
        have hall : Tells s s3 := ((vwrite_tells h1).trans (vwrite_tells h2)).trans (vwrite_tells h3)
        refine foldl_tells (fun s g => s.saveRegs l.tenant g) (fun _ _ _ hv => saveRegs_tells hv) _ (fun v hv => ?_) h
        injection hv with hv
        exact hv ▸ hall.trans (imgPoison_tells ..)

theorem teamsPreempt : Rules.TeamsPreempt := by
  refine ⟨fun tenant id all s => ⟨rfl, rfl⟩, ?_, ?_, ?_⟩
  · intro team s t hteam hstop hpre hhere hdef u
    have hexec : exec (.teamPreemption team) s = if u.atRest team t && u.ownsSlot (u.tenantOf team) then .next (u.saveTeam team t) else .next u := by
      change execTeamPreemption team s = _
      unfold execTeamPreemption
      rw [hteam]
      refine if_neg ?_
      rw [hstop, hpre, hhere, hdef]
      decide
    refine ⟨fun hrest hslot => hexec.trans (if_pos ?_), fun h => hexec.trans (if_neg ?_)⟩
    · rw [hrest, hslot]
      rfl
    · rcases h with h | h <;> rw [h]
      · exact Bool.false_ne_true
      · rw [Bool.and_false]
        exact Bool.false_ne_true
  · intro team s u t hteam hstop hplace hwant hslot himg
    let w := t.cores.foldl (fun s c => ((s.writeBackAll c (fun _ => true)).1).updCore c (fun x => x.unpin team)) u
    have hw : Wires u w := Wires.foldl _ (fun s c => (Wires.foldl _ (fun s (l : Line) => Wires.writeBack s c l.addr []) _ s).trans (Wires.updCore ..)) _ u
    refine ⟨{ (w.updTeam team (fun t => { t with place := .unplaced, scr := [], scrPoison := [] })) with
          groups := updWhere (fun g => g.team == team) (fun g => { g with v := [], vpo := [], vclean := [], vout := [] }) w.groups }, ?_, ?_, ?_⟩
    · change execTeamUnplace team s = _
      unfold execTeamUnplace
      rw [hteam]
      refine (if_neg ?_).trans ?_
      · rw [hstop, hplace, hwant, hslot]
        decide
      · rw [himg]
    · change (((w.updTeam team _).team team).map _) = _
      rw [team_updTeam]
      unfold State.team
      rw [hw.teams, (saveImage_tells himg).same]
      change ((s.team team).map _).map _ = _
      rw [hteam]
      rfl
    · intro g hg hgt
      obtain ⟨g', -, rfl⟩ := List.mem_map.mp hg
      split at hgt
      · split <;> exact ⟨rfl, rfl⟩
      · rename_i h
        exact absurd (beq_iff_eq.mpr hgt) h
  · intro team core s t hteam hstop hwant hslot hrank
    have hexec : exec (.teamResume team core) s = if t.place = .placed then (if core = t.core then .next (s.restart team) else .next s)
        else if t.place = .unplaced ∧ s.teamFits team core ∧ !s.teamWrites team then .next (s.replace team core t) else .next s := by
      change execTeamResume team core s = _
      unfold execTeamResume
      rw [hteam]
      refine if_neg ?_
      rw [hstop, hwant, hslot, hrank]
      decide
    refine ⟨fun hplace hcore => ?_, fun hplace hfits hwrites => ?_⟩
    · rw [hexec, if_pos hplace, if_pos hcore]
    · rw [hexec, if_neg (by rw [hplace]; decide), if_pos ⟨hplace, hfits, by rw [hwrites]; rfl⟩]

theorem trapEvents : Rules.TrapEvents := by
  refine ⟨?_, ?_, ?_, ?_⟩
  · intro n s u f t hfault hteam hstop s'
    have hexec : exec (.impreciseFaultArrival n) s =
        if f.trap.cause = 0x3A then .next (if t.place.finished 0 then s' else if t.place.here then (s'.takeHalt f.team).getD s else s'.haltTeam f.team)
        else if t.place.finished 0 then .next (s'.faultRecord f 1 0)
        else if !t.place.here then .next (s'.faultRecord f 2 4)
        else match s.group f.team f.grp with
          | none => .next s
          | some g => .next ((if !g.retired then s'.takeFault g f.trap
            else match ((s.liveGroups f.team).foldr insertGroup []) with
              | [] => some (s'.faultRecord f 1 0)
              | x :: _ => s'.takeFault x { f.trap with exited := some f.grp }).getD s) := by
      change execImpreciseFaultArrival n s = _
      unfold execImpreciseFaultArrival
      rw [hfault]
      dsimp only
      rw [hteam]
      exact if_neg (by rw [hstop]; exact Bool.false_ne_true)
    refine ⟨fun hcause => ?_, fun hcause hfin => ?_, fun hcause hfin hhere => ?_, fun g hcause hfin hhere hg hret htake => ?_⟩
    · rw [hexec, if_pos hcause]
    · rw [hexec, if_neg hcause, if_pos hfin]
    · rw [hexec, if_neg hcause, if_neg (by rw [hfin]; exact Bool.false_ne_true), if_pos (by rw [hhere]; rfl)]
    · rw [hexec, if_neg hcause, if_neg (by rw [hfin]; exact Bool.false_ne_true), if_neg (by rw [hhere]; decide), hg]
      dsimp only
      rw [if_pos (by rw [hret]; rfl), htake]
      rfl
  · intro team s t q hteam hstop hsquall hent hplace hquiet hslot hsettle
    change execHandlerEntry team s = _
    unfold execHandlerEntry
    rw [hteam]
    dsimp only
    rw [if_neg (by rw [hsquall, hstop, hplace, hquiet, hslot]; dsimp only; rw [hent]; decide), if_neg (by rw [hsettle]; exact Bool.false_ne_true)]
  · intro id tenant all s hstop hbusy htenant
    refine if_neg ?_
    rw [hstop, hbusy, decide_eq_false (Nat.not_le.mpr htenant)]
    decide
  · intro team s t g hteam hstop hplace hfind
    change execWatchdog team s = _
    unfold execWatchdog
    rw [hteam, hfind]
    refine if_neg ?_
    rw [hstop, hplace]
    decide

/-- Settles O45: each command and event is taken under its conditions; writing a team's image moves no team. -/
theorem teamsPreemptAndTrap : Obligations.TeamsPreemptAndTrap := ⟨teamsPreempt, trapEvents⟩

end Sys2Proof.Machine


/-! The host's side of the module: host calls, its accesses and the control space (R233, R288, R373 to R381, R389, R418, R419, R485). -/

namespace Sys2Proof.Machine

theorem hostCalls : Rules.HostCalls := by
  refine ⟨?_, ?_⟩
  · intro c s u h g t i a hfind hgroup hteam hstop hplace hslot hwait hpush
    change execHcallRingPush c s = _
    unfold execHcallRingPush
    rw [hfind, hgroup, hteam]
    dsimp only
    rw [if_neg (by rw [hstop, hplace, hslot, hwait]; decide), hpush]
  · intro tenant n v s h g t hfind hstop hup hgroup hteam hhere hsquall
    change execHostCallReply tenant n v s = _
    unfold execHostCallReply
    rw [hfind]
    refine (if_neg (by rw [hstop, hup]; decide)).trans ?_
    dsimp only
    split
    · rename_i g' t' k hg' ht' hk
      obtain rfl : t = t' := Option.some.inj (hteam.symm.trans ht')
      rw [hhere, hsquall]
      rfl
    · rfl

theorem note_of_not_hole {s : State} {pa : Nat} (h : isHole pa = false) : s.note pa = s := by
  unfold State.note
  rw [h]
  rfl

theorem hostAccesses : Rules.HostAccesses := by
  refine ⟨?_, ?_⟩
  · intro r s htakes hhost hhole hline
    have hexec : exec (.hostRequest r) s = .next (if r.write then s.poke r.pa r.size r.data.toNat else s.note r.pa) := by
      change execHostRequest r s = _
      refine if_neg ?_
      rw [htakes, hhost, decide_eq_false (Nat.not_lt.mpr hline)]
      decide
    refine ⟨_, hexec, fun hread => ?_, fun hwrite p => ?_⟩
    · rw [hread]
      exact note_of_not_hole hhole
    · rw [if_pos hwrite, poke_get, Nat.pow_mul]
  · intro pa size op signed v c t s hty htakes hhost halign hop hpoison
    change execHostAtomic (.atom pa size op signed v c) s = _
    unfold execHostAtomic
    dsimp only
    rw [hty]
    dsimp only
    rw [if_neg (by rw [htakes, hhost, halign, decide_eq_false (Nat.not_lt.mpr hop)]; decide), if_neg (by rw [hpoison]; exact Bool.false_ne_true)]

/-! ### The control space (R375 to R380) -/

/-- Bytes written one by one are the bytes of the value. -/
theorem get_foldl_bytes (m : Sparse 8) (offset x n k : Nat) :
    ((List.range n).foldl (fun (m : Sparse 8) i => m.write (offset + i) 1 (x / 2 ^ (8 * i) % 256)) m).get k
      = if offset ≤ k ∧ k < offset + n then BitVec.ofNat 8 (x / 2 ^ (8 * (k - offset))) else m.get k := by
  induction n with
  | zero => rw [if_neg (by omega)]; rfl
  | succ n ih =>
    rw [List.range_succ, List.foldl_append, List.foldl_cons, List.foldl_nil, get_write, ih]
    by_cases hk : k = offset + n
    · subst hk
      rw [if_pos (by omega), if_pos (by omega), Nat.sub_self, Nat.add_sub_cancel_left, Nat.pow_zero, Nat.div_one]
      apply BitVec.eq_of_toNat_eq
      simp
    · rw [if_neg (by omega)]
      by_cases h : offset ≤ k ∧ k < offset + n
      · rw [if_pos h, if_pos (by omega)]
      · rw [if_neg h, if_neg (by omega)]

theorem plainByte_records {k : Nat} (h : 64 ≤ k) (h' : k < 224) : plainByte k = true := by
  unfold plainByte
  rw [decide_eq_true h, decide_eq_true h']
  simp

/-- A fold of steps that agree on the list's elements. -/
theorem foldl_agrees {α β : Type} {f g : α → β → α} {l : List β} (h : ∀ a, ∀ b ∈ l, f a b = g a b) (a : α) : l.foldl f a = l.foldl g a := by
  induction l generalizing a with
  | nil => rfl
  | cons x t ih => rw [List.foldl_cons, List.foldl_cons, h a x List.mem_cons_self, ih fun b y hy => h b y (List.mem_cons_of_mem x hy)]

theorem storesTakeEffect {offset size : Nat} {v : W64} {s : State} (hsize : 0 < size) (hword : offset % 8 + size ≤ 8) (hup : s.eweovUp = true) :
    let x := v.toNat % 2 ^ (8 * size)
    (0x1000 ≤ offset → offset < 0x2000 → exec (.controlSpaceWrite offset size v) s = .next (s.writeBlock ((offset - 0x1000) / 256) (offset % 256) size x))
    ∧ (456 ≤ offset → offset < 464 → exec (.controlSpaceWrite offset size v) s = .next { s with wdog := BitVec.ofNat 32 (setFld s.wdog.toNat (8 * (offset - 456 + size) - 1) (8 * (offset - 456)) x) })
    ∧ (64 ≤ offset → offset + size ≤ 224 → ∃ t, exec (.controlSpaceWrite offset size v) s = .next t
        ∧ ∀ k, t.ctl.get k = if offset ≤ k ∧ k < offset + size then BitVec.ofNat 8 (x / 2 ^ (8 * (k - offset))) else s.ctl.get k) := by
  intro x
  have hexec : exec (.controlSpaceWrite offset size v) s = if 0x1000 ≤ offset && offset < 0x2000 then .next (s.writeBlock ((offset - 0x1000) / 256) (offset % 256) size x)
      else if 448 ≤ offset && offset < 456 then .next { s with halt := s.halt.set (BitVec.ofNat 64 (setFld s.halt.value (8 * (offset - 448 + size) - 1) (8 * (offset - 448)) x)) (offset == 448) }
      else if 456 ≤ offset && offset < 464 then .next { s with wdog := BitVec.ofNat 32 (setFld s.wdog.toNat (8 * (offset - 456 + size) - 1) (8 * (offset - 456)) x) }
      else .next { s with ctl := (List.range size).foldl (fun m i => if plainByte (offset + i) then m.write (offset + i) 1 (if offset + i = 1 then x / 2 ^ (8 * i) % 256 % 16 else x / 2 ^ (8 * i) % 256) else m) s.ctl } := by
    refine if_neg ?_
    rw [hup, decide_eq_false (Nat.pos_iff_ne_zero.mp hsize), decide_eq_false (Nat.not_lt.mpr hword)]
    decide
  have off {lo hi : Nat} (h : offset < lo ∨ hi ≤ offset) : ¬ (decide (lo ≤ offset) && decide (offset < hi)) = true := by
    rw [Bool.and_eq_true, decide_eq_true_eq, decide_eq_true_eq]
    omega
  have on {lo hi : Nat} (h : lo ≤ offset) (h' : offset < hi) : (decide (lo ≤ offset) && decide (offset < hi)) = true := by
    rw [decide_eq_true h, decide_eq_true h']
    rfl
  refine ⟨fun h h' => hexec.trans (if_pos (on h h')), fun h h' => ?_, fun h h' => ?_⟩
  · rw [hexec, if_neg (off (by omega)), if_neg (off (by omega)), if_pos (on h h')]
  · refine ⟨_, hexec.trans ((if_neg (off (by omega))).trans ((if_neg (off (by omega))).trans (if_neg (off (by omega))))), fun k => ?_⟩
    dsimp only
    rw [foldl_agrees (g := fun (m : Sparse 8) i => m.write (offset + i) 1 (x / 2 ^ (8 * i) % 256)) (fun m i hi => ?_) s.ctl]
    · exact get_foldl_bytes ..
    · have hi' := List.mem_range.mp hi
      rw [if_pos (plainByte_records (by omega) (by omega)), if_neg (by omega)]

theorem attestation (s : State) (hstop : s.stopped = false) : ∃ t, exec .attestationSign s = .next t ∧ t.ctl.read 288 1 = 2
    ∧ t.ctl.read 320 64 = (Config.attestSign (sha512 (s.ctlBytes 1024 (64 * s.logN) ++ s.ctlBytes 256 32 ++ bytesOf 8 s.logN))).toNat := by
  refine ⟨_, if_neg (by rw [hstop]; exact Bool.false_ne_true), read_write .., ?_⟩
  dsimp only
  rw [read_write_apart _ (Or.inr (by decide)), read_write]
  exact Nat.mod_eq_of_lt (lt_of_lt_of_eq (BitVec.isLt _) (Nat.pow_mul 2 8 64))

theorem controlSpace : Rules.ControlSpace :=
  ⟨fun _ _ _ _ hsize hword hup => storesTakeEffect hsize hword hup, fun _ _ _ h => congrArg Host.Outcome.next (if_pos h), attestation⟩

/-- Settles O46: calls and accesses are taken under their conditions; a store to the control space writes its bytes one by one. -/
theorem hostInterface : Obligations.HostInterface := ⟨hostCalls, hostAccesses, controlSpace⟩

end Sys2Proof.Machine


/-! Power states, links, the fabric and memory errors (R382 to R384, R386, R387, R424, R455, R458, R479 to R481). -/

namespace Sys2Proof.Machine

/-! ### Power (R386, R387, R424) -/

theorem clocksAt_power (s : State) (n : Nat) : (s.clocksAt n).power = { s.power with trip := false, busy := false, cur := n, req := n } ∧ (s.clocksAt n).mem = s.mem
    ∧ (s.clocksAt n).groups = s.groups ∧ (s.clocksAt n).clock = s.clock := by
  obtain ⟨x, y, h⟩ := bbAll_log { s with power := { s.power with trip := false, busy := false, cur := n, req := n } } 40 0x45 0 n
  unfold State.clocksAt
  rw [h]
  exact ⟨rfl, rfl, rfl, rfl⟩

theorem stopped_of_power {s : State} {p : Power} (h : s.power = p) : s.stopped = (p.trip || p.cur == 3) := by rw [← h]; rfl

theorem powerReq_running {s : State} (htrip : s.power.trip = false) (hcur : s.power.cur ≠ 3) (n : Nat) : s.powerReq n = { s with power := { s.power with req := n, busy := s.power.cur != n } } :=
  (if_neg (by rw [htrip]; exact Bool.false_ne_true)).trans (if_neg hcur)

theorem powerReq_standing {s : State} (htrip : s.power.trip = false) (hcur : s.power.cur = 3) (n : Nat) : s.powerReq n = s.clocksAt n :=
  (if_neg (by rw [htrip]; exact Bool.false_ne_true)).trans (if_pos hcur)

theorem powerReq_hot {s : State} (htrip : s.power.trip = true) (hhot : s.power.hot = true) (n : Nat) : s.powerReq n = s := (if_pos htrip).trans (if_pos hhot)

theorem exec_powerReqStop {s : State} (htrip : s.power.trip = false) : exec .powerReqStop s = .next { s with power := { s.power with req := 3, busy := s.power.cur != 3 } } :=
  if_neg (by rw [htrip]; exact Bool.false_ne_true)

/-- Clocks that stood still run at the requested state. -/
theorem powerReq_restarts {s : State} (htrip : s.power.trip = false) (hcur : s.power.cur = 3) {n : Nat} (hn : n < 3) :
    (s.powerReq n).power.cur = n ∧ (s.powerReq n).power.busy = false ∧ (s.powerReq n).stopped = false ∧ (s.powerReq n).mem = s.mem ∧ (s.powerReq n).groups = s.groups ∧ (s.powerReq n).clock = s.clock := by
  obtain ⟨hp, hm, hg, hc⟩ := clocksAt_power s n
  rw [powerReq_standing htrip hcur, stopped_of_power hp, hp]
  exact ⟨rfl, rfl, beq_eq_false_iff_ne.mpr (Nat.ne_of_lt hn), hm, hg, hc⟩

theorem powerStates : Rules.PowerStates := by
  refine ⟨?_, ?_, ?_, ?_, ?_, ?_, fun _ => rfl⟩
  · intro s htrip hhot
    exact ⟨congrArg Host.Outcome.next (powerReq_hot htrip hhot 0), congrArg Host.Outcome.next (powerReq_hot htrip hhot 1), congrArg Host.Outcome.next (powerReq_hot htrip hhot 2),
      (if_pos htrip).trans (congrArg Host.Outcome.next (if_pos hhot))⟩
  · intro s htrip hcur
    refine ⟨congrArg Host.Outcome.next (powerReq_running htrip hcur 0), congrArg Host.Outcome.next (powerReq_running htrip hcur 1), congrArg Host.Outcome.next (powerReq_running htrip hcur 2), ?_⟩
    rw [exec_powerReqStop htrip, bne_iff_ne.mpr hcur]
  · intro s htrip hcur
    refine ⟨fun n f hf => ?_, _, exec_powerReqStop htrip, hcur⟩
    have hall : n < 3 ∧ f s = .next (s.powerReq n) := by
      rcases List.mem_cons.mp hf with h | h
      · cases h; exact ⟨by decide, rfl⟩
      rcases List.mem_cons.mp h with h | h
      · cases h; exact ⟨by decide, rfl⟩
      · cases List.mem_singleton.mp h; exact ⟨by decide, rfl⟩
    exact ⟨_, hall.2, powerReq_restarts htrip hcur hall.1⟩
  · intro s hstop hbusy hreq hclock
    obtain ⟨hp, hm, hg, -⟩ := clocksAt_power s s.power.req
    refine ⟨s.clocksAt s.power.req, ?_, by rw [hp], by rw [hp], by rw [hp], hm, hg⟩
    refine if_neg ?_
    rw [hstop, hbusy, hclock, decide_eq_false (Nat.not_le.mpr hreq)]
    decide
  · intro s hstop hbusy hreq hops hinbox hmoves hlink
    obtain ⟨hp, hm, hg, -⟩ := clocksAt_power s 3
    refine ⟨s.clocksAt 3, ?_, by rw [hp], by rw [hp], by rw [stopped_of_power hp]; rfl, hm, hg⟩
    refine if_neg ?_
    rw [hstop, hbusy, hreq, hops, hinbox, hmoves, hlink]
    decide
  · intro die sensor s htrip
    obtain ⟨x, y, h⟩ := bb_log { s with power := { s.power with trip := true, hot := true, hotDie := die } } die 40 0 0x44 0 sensor
    exact ⟨_, (if_neg (by rw [htrip]; exact Bool.false_ne_true)).trans (congrArg Host.Outcome.next h), rfl, rfl, rfl, rfl, rfl⟩

/-! ### Links (R479, R480) -/

/-- Error records change no port's state. -/
theorem errAll_ports (s : State) (kind detail : Nat) (info : W64) : (s.errAll kind detail info).norvanUp = s.norvanUp := by
  have h : Tells s (s.errAll kind detail info) := Tells.foldl _ (fun s t => Tells.pushErr s _) _ s
  rw [h.same]

theorem bb_ports (s : State) (die unit tenant cause : Nat) (info : W64) (detail : Nat) : (s.bb die unit tenant cause info detail).norvanUp = s.norvanUp := by
  obtain ⟨x, y, h⟩ := bb_log s die unit tenant cause info detail
  rw [h]

theorem scrWrite_ports (s : State) (team off n v : Nat) : (s.scrWrite team off n v).norvanUp = s.norvanUp := by
  unfold State.scrWrite
  split
  · rfl
  · split
    · dsimp only
      split
      · rename_i h
        rw [(vwrite_tells h).same]
      · rfl
    · rfl

theorem evalBobj_ports (s : State) (team off : Nat) : (s.evalBobj team off).norvanUp = s.norvanUp := by
  unfold State.evalBobj
  split
  · rfl
  · dsimp only
    split
    · exact scrWrite_ports ..
    · rfl

theorem countDown_ports (s : State) (team off n : Nat) (fault : Bool) : (s.countDown team off n fault).norvanUp = s.norvanUp := by
  unfold State.countDown
  split
  · rfl
  · split
    · rfl
    · exact (evalBobj_ports ..).trans (scrWrite_ports ..)

theorem opFault_ports (s : State) (id cause detail : Nat) (info : W64) (detail8 : Nat) : (s.opFault id cause detail info detail8).norvanUp = s.norvanUp := by
  unfold State.opFault
  split
  · rfl
  · rename_i o ho
    extract_lets u v
    have hu : u.norvanUp = s.norvanUp := by
      unfold u
      split <;> rfl
    have hv : v.norvanUp = u.norvanUp := by
      unfold v
      split
      · exact countDown_ports ..
      · rfl
    exact hv.trans hu

theorem sendsFail_ports (s : State) (port : Nat) : (s.sendsFail port).norvanUp = s.norvanUp := by
  unfold State.sendsFail
  generalize s.ops.filter _ = l
  induction l generalizing s with
  | nil => rfl
  | cons o t ih => exact (ih _).trans (opFault_ports ..)

theorem linksChange : Rules.LinksChange := by
  refine ⟨fun s hstop => ⟨fun hup => if_neg ?_, fun hup => if_neg ?_⟩, fun port peer s hstop hport => ⟨fun hup => ?_, fun hup => ?_⟩⟩
  · rw [hstop, hup]
    decide
  · rw [hstop, hup]
    decide
  · refine ⟨_, if_neg ?_, fun k hk => ?_⟩
    · rw [hstop, hup, decide_eq_false (Nat.not_le.mpr hport)]
      decide
    · rw [errAll_ports, bb_ports, sendsFail_ports, BitVec.getLsbD_and, BitVec.getLsbD_not, BitVec.getLsbD_ofNat, Nat.testBit_two_pow]
      by_cases h : k = port
      · subst h
        simp
      · simp [h, hk, Ne.symm h]
  · refine ⟨_, if_neg ?_, fun k hk => ?_⟩
    · rw [hstop, hup, decide_eq_false (Nat.not_le.mpr hport)]
      decide
    · rw [errAll_ports, bb_ports, BitVec.getLsbD_or, BitVec.getLsbD_ofNat, Nat.testBit_two_pow]
      by_cases h : k = port
      · subst h
        simp
        omega
      · simp [h, hk, Ne.symm h]

/-! ### The fabric (R382 to R384) -/

theorem landReady_of {s : State} {id kind k : Nat} {m : Landing} (hfind : s.inbox.find? (fun m => m.id == id) = some m) (hstop : s.stopped = false) (hkind : m.kind = kind)
    (hdone : m.done.contains k = false) (hslot : s.ownsSlot m.tenant = true) : s.landReady id kind k = some m := by
  unfold State.landReady
  rw [hfind]
  refine if_neg ?_
  rw [hstop, hkind, hdone, hslot, bne_self_eq_false]
  decide

/-- A search by two tests that agree on the list finds the same. -/
theorem find?_agrees {α : Type} {p q : α → Bool} {l : List α} (h : ∀ x ∈ l, p x = q x) : l.find? p = l.find? q := by
  induction l with
  | nil => rfl
  | cons x t ih => rw [List.find?_cons, List.find?_cons, h x List.mem_cons_self, ih fun y hy => h y (List.mem_cons_of_mem x hy)]

theorem op_updOp {s : State} {id : Nat} {o : EngOp} (h : s.op id = some o) (f : EngOp → EngOp) (hf : ∀ o, (f o).id = o.id) : (s.updOp id f).op id = some (f o) := by
  have hid : (o.id == id) = true := List.find?_some (p := fun o : EngOp => o.id == id) h
  have hfind : (updWhere (fun o => o.id == id) f s.ops).find? (fun o => o.id == id) = (s.ops.find? (fun o => o.id == id)).map (fun x => if x.id == id then f x else x) := by
    unfold updWhere
    rw [List.find?_map]
    congr 1
    refine find?_agrees fun x _ => ?_
    dsimp only [Function.comp]
    split
    · rw [hf]
    · rfl
  refine hfind.trans ?_
  change (s.op id).map _ = _
  rw [h, Option.map_some, if_pos hid]

/-- What comes before an operation is told by ids, groups and classes. -/
theorem opsBefore_updWhere (id : Nat) (f : EngOp → EngOp) (hf : ∀ o, (f o).id = o.id ∧ (f o).cls = o.cls ∧ (f o).tag = o.tag) (l : List EngOp) {o o' : EngOp} (h : o'.id = o.id ∧ o'.cls = o.cls ∧ o'.tag = o.tag) :
    opsBefore (updWhere (fun o => o.id == id) f l) o' = opsBefore l o := by
  unfold opsBefore
  rw [h.1, h.2.1, h.2.2]
  induction l with
  | nil => rfl
  | cons x t ih =>
    have hx : (if x.id == id then f x else x).id = x.id ∧ (if x.id == id then f x else x).cls = x.cls ∧ (if x.id == id then f x else x).tag = x.tag := by
      split
      · exact hf x
      · exact ⟨rfl, rfl, rfl⟩
    change (((if x.id == id then f x else x) :: updWhere (fun o => o.id == id) f t).takeWhile _).any _ = _
    rw [List.takeWhile_cons, List.takeWhile_cons, hx.1]
    split
    · rw [List.any_cons, List.any_cons, ih, hx.2.1, hx.2.2]
    · rfl

theorem sendCompletes (id r : Nat) (s : State) (o : EngOp) (ho : s.op id = some o) (hstop : s.stopped = false) (hack : s.sendAcked o = true) (hr : r ≤ 1) (hbefore : opsBefore s.ops o = false)
    (hq : ∀ c ∈ s.cores, ∀ m ∈ c.mq, m.op ≠ some id) :
    ∃ t, exec (.fabricSendComplete ⟨id, r⟩) s = .next t ∧ (∀ x ∈ t.ops, x.id ≠ id) ∧ (∀ m ∈ t.inbox, m.op ≠ some id)
      ∧ (∀ k, o.ticket = some k → o.cancelled = false → o.tag.tenant < s.tenants.length → s.loops o = false → (t.tenant o.tag.tenant).stateOf k = (if r = 1 then 3 else 1)) := by
  let bad := if s.loops o then s.inbox.any (fun m => m.op == some id && m.bad) else r == 1
  let u := (({ s with inbox := s.inbox.filter (fun m => m.op != some id) } : State).updOp id (fun o => { o with faulted := bad })).opReady id
  let o' : EngOp := { o with faulted := bad, ready := true }
  have ho' : u.op id = some o' := 
    op_updOp (op_updOp (s := { s with inbox := s.inbox.filter (fun m => m.op != some id) }) ho (fun o => { o with faulted := bad }) fun _ => rfl) (fun o => { o with ready := true }) fun _ => rfl
  have hbefore' : opsBefore u.ops o' = false :=
    (opsBefore_updWhere id (fun o => { o with ready := true }) (fun _ => ⟨rfl, rfl, rfl⟩) _ (o := o') ⟨rfl, rfl, rfl⟩).trans
      ((opsBefore_updWhere id (fun o => { o with faulted := bad }) (fun _ => ⟨rfl, rfl, rfl⟩) _ (o := o) ⟨rfl, rfl, rfl⟩).trans hbefore)
  have hexec : exec (.fabricSendComplete ⟨id, r⟩) s = exec (.engineOpComplete id) u := by
    change execFabricSendComplete ⟨id, r⟩ s = _
    unfold execFabricSendComplete
    dsimp only
    rw [ho]
    exact if_neg (by rw [hstop, hack, decide_eq_false (Nat.not_lt.mpr hr)]; decide)
  have hdone := exec_engineOpComplete ho' hstop (Or.inl rfl) hbefore' hq
  let v : State := { u with ops := u.ops.filter (fun x => x.id != id) }
  have hops : ∀ x ∈ v.ops, x.id ≠ id := fun x hx => bne_iff_ne.mp (List.mem_filter.mp hx).2
  have hinbox : ∀ m ∈ v.inbox, m.op ≠ some id := fun m hm => bne_iff_ne.mp (List.mem_filter.mp hm).2
  rw [hexec, hdone]
  refine ⟨_, rfl, ?_, ?_, fun k hk hcan htenant hloop => ?_⟩
  · cases o.ticket <;> exact hops
  · cases o.ticket <;> exact hinbox
  · have hbad : bad = (r == 1) := if_neg (by rw [hloop]; exact Bool.false_ne_true)
    change ((match o.ticket with
      | some k => (v.bumpCnt o.tag.team o.tag.grp o.cls (· - 1)).settle o.tag.tenant k (if o.cancelled then 2 else if bad then 3 else 1)
      | none => v.bumpCnt o.tag.team o.tag.grp o.cls (· - 1)).tenant o.tag.tenant).stateOf k = _
    rw [hk, hcan, hbad]
    refine (settle_state (s := v.bumpCnt o.tag.team o.tag.grp o.cls (· - 1)) htenant k _).trans ?_
    rw [if_neg Bool.false_ne_true]
    simp only [beq_iff_eq]

theorem fabricMoves : Rules.FabricMoves := by
  refine ⟨?_, ?_, sendCompletes⟩
  · intro tenant i v s u hstop htenant hslot hfsq hpop u'
    change execFabricSend tenant s = _
    unfold execFabricSend
    rw [if_neg (by rw [hstop, hslot, decide_eq_false (Nat.not_le.mpr htenant), decide_eq_false hfsq]; decide), hpop] <;> rfl
  · intro id k off n s m hfind hstop hdone hslot hpart
    refine ⟨fun hkind => ?_, fun hkind => ?_, fun hkind hk => ?_⟩
    · change execRemoteWriteLanding id k s = _
      unfold execRemoteWriteLanding
      rw [landReady_of hfind hstop hkind hdone hslot]
      dsimp only
      rw [hpart]
    · change execTokenRowLanding id k s = _
      unfold execTokenRowLanding
      rw [landReady_of hfind hstop hkind hdone hslot]
    · subst hk
      change execTaggedMessageLanding id s = _
      unfold execTaggedMessageLanding
      rw [landReady_of hfind hstop hkind hdone hslot]

/-! ### Errors in storage (R455, R458, R481) -/

theorem errorsPoison : Rules.ErrorsPoison := by
  refine ⟨?_, ?_, ?_⟩
  · intro pa s hstop hdram
    have hd : (isHbm pa || isLp pa) = true := Bool.or_eq_true .. ▸ hdram
    refine ⟨_, if_neg (by rw [hstop]; exact Bool.false_ne_true), ?_⟩
    by_cases hp : s.poisonAt pa = true
    · rw [hd, hp]
      exact ⟨hp, rfl⟩
    · rw [hd, eq_false_of_ne_true hp]
      refine ⟨?_, rfl⟩
      change (s.memPoison ++ [pa / 128]).contains (pa / 128) = true
      simp
  · intro team grp r L s g hstop hg hr hL
    refine ⟨_, if_neg (by rw [hstop]; exact Bool.false_ne_true), ?_, rfl⟩
    rw [group_updGroup (hf := ?keys), hg, Option.map_some, Option.map_some, if_pos ⟨hr, hL⟩]
    case keys =>
      intro g
      split <;> exact ⟨rfl, rfl⟩
    simp [Group.vpoison]
  · intro die unit a s hstop
    refine ⟨_, congrArg Host.Outcome.next (if_neg (by rw [hstop]; exact Bool.false_ne_true)), ?_⟩
    have log (u : State) (n : Nat) : (u.bb die unit 0 0x41 a n).mem = u.mem ∧ (u.bb die unit 0 0x41 a n).memPoison = u.memPoison ∧ (u.bb die unit 0 0x41 a n).groups = u.groups
        ∧ (u.bb die unit 0 0x41 a n).cores = u.cores := by
      obtain ⟨x, y, h⟩ := bb_log u die unit 0 0x41 a n
      rw [h]
      exact ⟨rfl, rfl, rfl, rfl⟩
    unfold State.corrected
    dsimp only
    split
    · exact log ..
    · split
      · exact log ..
      · exact ⟨rfl, rfl, rfl, rfl⟩

/-- Settles O47: requests, links, landings and errors take effect under their conditions; a send that is acknowledged completes like any engine operation. -/
theorem powerLinksAndErrors : Obligations.PowerLinksAndErrors := ⟨powerStates, linksChange, fabricMoves, errorsPoison⟩

end Sys2Proof.Machine


namespace Sys2Proof.Machine

/-! ### A REGROUP that has ended, with a register of its run marked -/

/-- A REGROUP of two registers from v8, by the keys in v5. -/
def regroupWord : Word := { Rules.plainWord (.v 4) (.v 5) (.v 8) .z .u32 with fspec := 2 }

/-- The machine after reset with one group whose wait at a REGROUP has ended, and an outstanding load of v9, the second register of the run. -/
def regroupMarked : State :=
  let s := State.reset.place 0
  { s with groups := s.groups.map (fun g => { g with arm0 := { g.arm0 with wait := { kind := .regroup 8 2 (some 4) [], status := some 1, rel := true } } }),
           asyncs := [{ id := 0, core := 0, tag := {}, dest := .vec, ty := .u32, parts := [{ regs := [9], n := 4 }] }],
           script := [], cur := some { c := ⟨0, 0, 0⟩, bundle := 0, slot := 0, valid := 1, priv := true, portB := false } }

/-- The context of `regroupMarked`. -/
def regroupCx : Cx :=
  Cx.make (.regroup regroupWord) (headR regroupWord) { c := ⟨0, 0, 0⟩, bundle := 0, slot := 0, valid := 1, priv := true, portB := false }
    ((regroupMarked.group 0 0).getD { team := 0, idx := 0, core := 0 }) regroupMarked

/-- The bundle that a context stands at after a run. -/
def armPcAfter (o : Host.Outcome State Fault Refusal) (c : CtxId) : Option Nat :=
  match o with
  | .next t => (t.armOf c).map (fun a => a.pc)
  | _ => none

/-- Refutes O36: a REGROUP whose wait has ended is held while a register of its run is marked, and stays at its slot. No run reaches such a state: the registers were unmarked when the slot was first issued, and the group issues nothing while it waits. -/
theorem not_expertInstructionsComplete : ¬ Obligations.ExpertInstructionsComplete := by
  rintro ⟨-, -, -, hends⟩
  have hgo : gate (.regroup regroupWord) regroupMarked = .go regroupCx := Gate.of_cx? (by decide +kernel)
  have hresumes : Resumes (.regroup regroupWord) regroupMarked regroupCx 0 :=
    { form := by decide +kernel, go := hgo, waits := by decide +kernel, rel := by decide +kernel, released := by decide +kernel, last := by decide +kernel }
  have hnext := hends regroupWord regroupMarked regroupCx 0 1 hresumes (by decide +kernel) ⟨8, 2, some 4, [], by decide +kernel⟩ (by decide +kernel)
  have hheld : armPcAfter (exec (.regroup regroupWord) regroupMarked) ⟨0, 0, 0⟩ = some 0 := by decide +kernel
  have hgone : armPcAfter (.next (regroupCx.advance (regroupCx.acquire 1 (regroupCx.done (regroupCx.begun (.regroup regroupWord) regroupMarked))))) ⟨0, 0, 0⟩ ≠ some 0 := by decide +kernel
  exact hgone (hnext ▸ hheld)

end Sys2Proof.Machine


/-! Major SYS and RFH (R57, R84, R394 to R398, R405, R412, R443, R444, R460, R462). -/

namespace Sys2Proof.Machine

/-! ### What a write of a system register leaves of the slot -/

theorem bb_stays (s : State) (die unit tenant cause : Nat) (info : W64) (detail : Nat) (c : CtxId) : (s.bb die unit tenant cause info detail).stays c = s.stays c := by
  obtain ⟨x, y, h⟩ := bb_log s die unit tenant cause info detail
  rw [h]
  rfl

theorem msi_stays (s : State) (tenant v : Nat) (c : CtxId) : (s.msi tenant v).stays c = s.stays c := by
  unfold State.msi
  dsimp only
  split
  · rfl
  · split
    · exact poke_stays ..
    · rfl

theorem bfStamp_stays (s : State) (pa k : Nat) (c : CtxId) : (s.bfStamp pa k).stays c = s.stays c := by
  unfold State.bfStamp
  dsimp only
  split
  · rfl
  · exact foldl_stays (fun (s : State) (t : Nat) => s.updTenant t _) c (fun s t => rfl) _ s

theorem qPush_stays (s : State) (tr : Nat → Tr) (pa data : Nat) (c : CtxId) : (s.qPush tr pa data).1.stays c = s.stays c := by
  unfold State.qPush
  dsimp only
  split
  · rfl
  · split
    · rfl
    · split
      · split
        · rfl
        · exact (bfStamp_stays ..).trans ((poke_stays ..).trans (poke_stays ..))
      · rfl

theorem agentPush_stays (s : State) (unit tenant va data : Nat) (c : CtxId) : (s.agentPush unit tenant va data).1.stays c = s.stays c := by
  unfold State.agentPush
  split
  · rfl
  · exact (qPush_stays ..).trans (note_stays ..)

theorem writeErr_stays (s : State) (r : ErrRec) (c : CtxId) : (s.writeErr r).stays c = s.stays c := by
  unfold State.writeErr
  extract_lets t v
  have h := agentPush_stays s unitError r.tenant t.errQ.toNat v c
  split
  · rename_i hp
    rw [hp] at h
    exact (msi_stays ..).trans h
  · rename_i hp
    rw [hp] at h
    rw [bb_stays]
    exact h

theorem pushErr_stays (s : State) (r : ErrRec) (c : CtxId) : (s.pushErr r).stays c = s.stays c := by
  unfold State.pushErr
  dsimp only
  split
  · exact writeErr_stays ..
  · rfl

theorem cmdPass_stays (s : State) (tenant : Nat) (c : CtxId) : (s.cmdPass tenant).stays c = s.stays c := by
  unfold State.cmdPass
  dsimp only
  split
  · exact msi_stays ..
  · rfl

theorem commands_stays (s : State) (c : CtxId) : s.commands.stays c = s.stays c := by
  unfold State.commands
  dsimp only
  split
  · exact foldl_stays _ c (fun s t => cmdPass_stays s t c) _ s
  · exact (msi_stays ..).trans (foldl_stays _ c (fun s t => cmdPass_stays s t c) _ s)

theorem ctrlPut_stays (s : State) (g : Group) (off n v : Nat) (c : CtxId) : (s.ctrlPut g off n v).stays c = s.stays c := by
  unfold State.ctrlPut
  split
  · rfl
  · exact poke_stays ..

theorem evalFront_stays (s : State) (pa : Nat) (m : Option Nat) (c : CtxId) : (s.evalFront pa m).stays c = s.stays c := by
  unfold State.evalFront
  split
  · rfl
  · exact foldl_stays _ c (fun s l => wake_stays ..) _ _

theorem frontRemove_stays (s : State) (pa k : Nat) (c : CtxId) : (s.frontRemove pa k).stays c = s.stays c := by
  unfold State.frontRemove
  split
  · rfl
  · dsimp only
    have hw (l : List (Nat × Nat × CtxId)) : (l.foldl (fun s l => s.wake l.2.2 1) s).stays c = s.stays c := foldl_stays _ c (fun s l => wake_stays ..) l s
    split
    · exact (poke_stays ..).trans (hw _)
    · exact (evalFront_stays ..).trans (hw _)

theorem unbindFront_stays (s : State) (team grp : Nat) (c : CtxId) : (s.updGroup team grp (fun g => { g with front := none, frontAddr := 0 })).stays c = s.stays c :=
  stays_updGroup s team grp (fun g => { g with front := none, frontAddr := 0 }) ⟨fun _ => rfl, fun _ => rfl, fun _ _ => rfl⟩ c

theorem frontEject_stays (s : State) (pa k : Nat) (c : CtxId) : (s.frontEject pa k).stays c = s.stays c := by
  unfold State.frontEject
  split
  · rfl
  · split
    · rfl
    · refine (frontRemove_stays ..).trans ?_
      split
      · rename_i g t hg ht
        extract_lets pc halted l u v
        have hu : u.stays c = s.stays c := by
          dsimp only [u]
          split
          · exact unbindFront_stays ..
          · rfl
        have hv : v.stays c = u.stays c := by
          dsimp only [v]
          split
          · rw [ctrlPut_stays]
          · rfl
        rw [bb_stays, pushErr_stays, hv, hu]
      · rfl

theorem setFront_stays (s : State) (pa n : Nat) (x : W64) (c : CtxId) : (s.setFront pa n x).stays c = s.stays c := by
  unfold State.setFront
  split
  · rfl
  · split
    · exact foldl_stays _ c (fun s k => frontEject_stays ..) _ s
    · split
      · exact (evalFront_stays ..).trans (poke_stays ..)
      · exact (evalFront_stays ..).trans (poke_stays ..)

theorem setRace_stays (s : State) (cx : Cx) (x : W64) (c : CtxId) : (s.setRace cx x).stays c = s.stays c := by
  unfold State.setRace
  extract_lets va u
  have hu : u.groups = s.groups := by
    dsimp only [u]
    split
    · rfl
    · exact fills_groups ..
  exact stays_congr hu c

/-- A system register written moves no slot into a wait. -/
theorem sysWrite_stays (s : State) (cx : Cx) (n : Nat) (x : W64) (c : CtxId) : (s.sysWrite cx n x).stays c = s.stays c := by
  have hg (f : Group → Group) (h : ∀ g, (f g).team = g.team ∧ (f g).idx = g.idx ∧ ∀ a, (f g).arm a = g.arm a) : (s.updGroup cx.c.team cx.c.grp f).stays c = s.stays c :=
    stays_updGroup s _ _ f ⟨fun g => (h g).1, fun g => (h g).2.1, fun g => (h g).2.2⟩ c
  have front : (match s.frontOf cx.g with | some (pa, _) => s.setFront pa n x | none => s).stays c = s.stays c := by
    split
    · exact setFront_stays ..
    · rfl
  unfold State.sysWrite
  dsimp only
  split
  · rfl
  · rfl
  · rfl
  · exact hg _ fun _ => ⟨rfl, rfl, fun _ => rfl⟩
  · exact hg _ fun _ => ⟨rfl, rfl, fun _ => rfl⟩
  · exact hg _ fun _ => ⟨rfl, rfl, fun _ => rfl⟩
  · exact hg _ fun _ => ⟨rfl, rfl, fun _ => rfl⟩
  · exact hg _ fun _ => ⟨rfl, rfl, fun _ => rfl⟩
  · exact (commands_stays ..).trans (hg _ fun _ => ⟨rfl, rfl, fun _ => rfl⟩)
  · exact hg _ fun _ => ⟨rfl, rfl, fun _ => rfl⟩
  · exact hg _ fun _ => ⟨rfl, rfl, fun _ => rfl⟩
  · exact front
  · exact front
  · exact front
  · rfl
  · rfl
  · rfl
  · exact setRace_stays ..
  · rfl
  · rfl

/-! ### SYSR, SYSW, TLBINV and RACE.CLR -/

/-- A slot whose effect is a change that no wait follows. -/
theorem issue_settled {i : Instr} {s : State} {cx : Cx} (b : Body) (h : Passes i s cx) (hc : cx.clean i) (hcap : i.form.cap = false)
    (hown : b.own = false) (honce : b.once = false) (hused : b.used = none) (hhold : b.hold cx s = false)
    (h1 : ∀ a ∈ cx.arms (isVector i.form cx.h), b.check cx a s = none) (h2 : ∀ a ∈ cx.arms (isVector i.form cx.h), b.check2 cx a s = none)
    (hrel : b.rel cx = none) (hf : ∀ s, b.flush cx s = []) (hs : b.Settles cx.c) :
    issue i s b = .next (cx.ends i b.run (cx.begun i s)) :=
  issue_begins_ends b (h.begins hc (ok := True) trivial) hcap hown honce hused hhold (fun _ => h1) (fun _ => h2) hrel hf hs

/-- A slot that names no operand uses no poisoned word. -/
theorem clean_of_no_operands {i : Instr} {cx : Cx} (ha : cx.h.a = .z) (hb : cx.h.b = .z) (hc : cx.h.c = .z) (hr : i.readsDst = false) : cx.clean i := by
  have hnone (vec : Bool) (sel : Nat) : cx.srcWords i vec sel = [] := by
    unfold Cx.srcWords Cx.namedWords
    cases vec <;> simp [ha, hb, hc, hr, Cx.ruleWords, uwords]
  unfold Cx.clean Cx.formWords
  rw [List.flatMap_eq_nil_iff.mpr fun a _ => hnone ..]
  rfl

theorem systemRegistersComplete : Rules.SystemRegistersComplete := by
  refine ⟨fun w s cx h => ?_, fun w s cx h hc hv hok => ?_, fun w s cx h hc hv hz hok => ?_, fun w s cx h => ?_⟩
  · obtain ⟨-, ha, hb, hc⟩ := unused_operands h.1 (gate_head h.2.1)
    exact issue_settled _ h (clean_of_no_operands (unused_z rfl ha) (unused_z rfl hb) (unused_z rfl hc) rfl) rfl rfl rfl rfl rfl (fun _ _ => rfl) (fun _ _ => rfl) rfl (fun _ => rfl)
      fun cx' a s hcx hs => (writeU_stays ..).trans hs
  · refine issue_settled _ h hc rfl rfl rfl rfl rfl (fun a ha => ?_) (fun a ha => ?_) rfl (fun _ => rfl) fun cx' a s hcx hs => (sysWrite_stays ..).trans hs
    · exact if_neg (by rw [(hok a (hv ▸ ha)).1]; exact Bool.false_ne_true)
    · by_cases hn : (w.fspec.toNat == 0x38 && epochVa (cx.srcU a w.a .u64) != 0) = true
      · have ⟨hrace, hva⟩ := Bool.and_eq_true_iff.mp hn
        exact (if_pos hn).trans ((hok a (hv ▸ ha)).2 (BitVec.eq_of_toNat_eq (eq_of_beq hrace)) (bne_iff_ne.mp hva))
      · exact if_neg hn
  · refine issue_settled _ h hc rfl rfl rfl rfl rfl (fun a ha => ?_) (fun _ _ => rfl) rfl (fun _ => rfl) fun cx' a s hcx hs => hs
    have hboth : ((w.a == .z) != (w.b == .z)) = false := by
      rw [bne_eq_false_iff_eq, Bool.eq_iff_iff, beq_iff_eq, beq_iff_eq]
      exact hz
    refine (if_neg (by rw [hboth]; exact Bool.false_ne_true)).trans ?_
    by_cases hall : w.a = .z
    · simp only [hall, if_true]
    · simp only [hall, if_false]
      exact hok.resolve_left hall a (hv ▸ ha)
  · obtain ⟨-, ha, hb, hc⟩ := unused_operands h.1 (gate_head h.2.1)
    exact issue_settled _ h (clean_of_no_operands (unused_z rfl ha) (unused_z rfl hb) (unused_z rfl hc) rfl) rfl rfl rfl rfl rfl (fun _ _ => rfl) (fun _ _ => rfl) rfl (fun _ => rfl)
      fun cx' a s hcx hs => hs

/-! ### What the registers hold (R57, R84, R394, R395, R405) -/

theorem keep_bit (x : W64) (m k : Nat) (hk : k < 64) : (keep x m).getLsbD k = (x.getLsbD k && m.testBit k) := by
  rw [keep, BitVec.getLsbD_and, BitVec.getLsbD_ofNat, decide_eq_true hk, Bool.true_and]

/-- CAUSE's flags and codes stand apart. -/
theorem cause_bits (g : Group) : (BitVec.ofNat 64 g.cause).getLsbD 63 = g.hmode ∧ (BitVec.ofNat 64 g.cause).getLsbD 62 = g.exited ∧ (BitVec.ofNat 64 g.cause).getLsbD 61 = g.causeArm
    ∧ (BitVec.ofNat 64 g.cause).getLsbD 0 = g.ovf ∧ ∀ k, k < 60 → (BitVec.ofNat 64 g.cause).getLsbD (k + 1) = g.codes.getLsbD k := by
  have hcodes := g.codes.isLt
  have hovf : b2n g.ovf < 2 := by cases g.ovf <;> decide
  have hlow : 2 ^ 1 * g.codes.toNat + b2n g.ovf < 2 ^ 61 := by omega
  have hcause : g.cause = 2 ^ 61 * (4 * b2n g.hmode + 2 * b2n g.exited + b2n g.causeArm) + (2 ^ 1 * g.codes.toNat + b2n g.ovf) := by
    unfold Group.cause
    omega
  have hbit (k : Nat) (hk : k < 64) : (BitVec.ofNat 64 g.cause).getLsbD k = if k < 61 then (2 ^ 1 * g.codes.toNat + b2n g.ovf).testBit k else (4 * b2n g.hmode + 2 * b2n g.exited + b2n g.causeArm).testBit (k - 61) := by
    rw [BitVec.getLsbD_ofNat, decide_eq_true hk, Bool.true_and, hcause, Nat.testBit_two_pow_mul_add _ hlow]
  have hlo (k : Nat) : (2 ^ 1 * g.codes.toNat + b2n g.ovf).testBit k = if k < 1 then (b2n g.ovf).testBit k else g.codes.toNat.testBit (k - 1) := Nat.testBit_two_pow_mul_add _ hovf k
  refine ⟨?_, ?_, ?_, ?_, fun k hk => ?_⟩
  · rw [hbit 63 (by decide), if_neg (by decide)]
    cases g.hmode <;> cases g.exited <;> cases g.causeArm <;> rfl
  · rw [hbit 62 (by decide), if_neg (by decide)]
    cases g.hmode <;> cases g.exited <;> cases g.causeArm <;> rfl
  · rw [hbit 61 (by decide), if_neg (by decide)]
    cases g.hmode <;> cases g.exited <;> cases g.causeArm <;> rfl
  · rw [hbit 0 (by decide), if_pos (by decide), hlo, if_pos (by decide)]
    cases g.ovf <;> rfl
  · rw [hbit (k + 1) (by omega), if_pos (by omega), hlo, if_neg (by omega), Nat.add_sub_cancel]
    rfl

/-- A group's register written shows in its slot alone. -/
theorem refresh_updGroup {s : State} {cx : Cx} (hg : s.group cx.c.team cx.c.grp = some cx.g) (f : Group → Group) (hf : ∀ g, (f g).team = g.team ∧ (f g).idx = g.idx) :
    cx.refresh (s.updGroup cx.c.team cx.c.grp f) = { cx with g := f cx.g } := by
  unfold Cx.refresh
  rw [group_updGroup s _ _ f hf, hg]
  rfl

theorem refresh_updTenant {s : State} {cx : Cx} (hg : s.group cx.c.team cx.c.grp = some cx.g) (n : Nat) (f : Tenant → Tenant) : cx.refresh (s.updTenant n f) = cx := by
  unfold Cx.refresh
  change ({ cx with g := (s.group cx.c.team cx.c.grp).getD cx.g } : Cx) = cx
  rw [hg]
  rfl

/-- The registers of `Rules.plainRegs` by their group and tenant alone. -/
def plainVal (g : Group) (t : Tenant) (n : Nat) : W64 :=
  match n with
  | 0x08 => g.ctxBase
  | 0x09 => g.privBase
  | 0x0A => g.privLim
  | 0x0B => g.divLim
  | 0x10 => g.trapVec
  | 0x12 => g.tpc
  | 0x13 => g.skid
  | 0x30 => t.kvtBase
  | 0x31 => t.kvtSize
  | 0x32 => t.pfxBase
  | _ => t.debugCfg

theorem sysVal_plain (s : State) (cx : Cx) : ∀ q ∈ Rules.plainRegs, s.sysVal cx q.1 = plainVal cx.g (s.tenant cx.tenant) q.1 := by
  simp only [Rules.plainRegs, List.forall_mem_cons]
  exact ⟨rfl, rfl, rfl, rfl, rfl, rfl, rfl, rfl, rfl, rfl, rfl, List.forall_mem_nil _⟩

/-- What a write of a register does that keeps the bits of a mask: the register reads them, and no other register changes. -/
def Writes (s : State) (cx : Cx) (x : W64) (r : Nat × List (Nat × Nat)) : Prop :=
  let t := s.sysWrite cx r.1 x
  (∀ k, k < 64 → (t.sysVal (cx.refresh t) r.1).getLsbD k = (x.getLsbD k && r.2.any (fun p => decide (p.1 ≤ k) && decide (k ≤ p.2))))
  ∧ (∀ q ∈ Rules.plainRegs, q.1 ≠ r.1 → t.sysVal (cx.refresh t) q.1 = s.sysVal cx q.1) ∧ t.mem = s.mem ∧ t.hashm = s.hashm

/-- A write that leaves the slot's group and tenant as `g` and `u`. -/
theorem writes_of {s t : State} {cx : Cx} {x : W64} {r : Nat × List (Nat × Nat)} {g : Group} {u : Tenant} {m : Nat} (hr : r ∈ Rules.plainRegs)
    (hw : s.sysWrite cx r.1 x = t) (hg : cx.refresh t = { cx with g := g }) (hu : t.tenant cx.tenant = u) (hmem : t.mem = s.mem ∧ t.hashm = s.hashm)
    (hself : plainVal g u r.1 = keep x m) (hm : ∀ k, k < 64 → m.testBit k = r.2.any (fun p => decide (p.1 ≤ k) && decide (k ≤ p.2)))
    (hother : ∀ q ∈ Rules.plainRegs, q.1 ≠ r.1 → plainVal g u q.1 = plainVal cx.g (s.tenant cx.tenant) q.1) : Writes s cx x r := by
  subst hw hu
  have hval : ∀ q ∈ Rules.plainRegs, (s.sysWrite cx r.1 x).sysVal (cx.refresh (s.sysWrite cx r.1 x)) q.1 = plainVal g ((s.sysWrite cx r.1 x).tenant cx.tenant) q.1 := fun q hq => by
    rw [hg, sysVal_plain _ _ q hq]
  refine ⟨fun k hk => ?_, fun q hq hne => ?_, hmem⟩
  · rw [hval r hr, hself, keep_bit x m k hk, hm k hk]
  · rw [hval q hq, hother q hq hne, sysVal_plain s cx q hq]

theorem plainRegs_write {s : State} {cx : Cx} (hg : s.group cx.c.team cx.c.grp = some cx.g) (hlen : cx.tenant < s.tenants.length) (x : W64) : ∀ r ∈ Rules.plainRegs, Writes s cx x r := by
  have onGroup {r : Nat × List (Nat × Nat)} {m : Nat} (hr : r ∈ Rules.plainRegs) (f : Group → Group) (hf : ∀ g, (f g).team = g.team ∧ (f g).idx = g.idx)
      (hw : s.sysWrite cx r.1 x = s.updGroup cx.c.team cx.c.grp f) := writes_of (m := m) (u := s.tenant cx.tenant) hr hw (refresh_updGroup hg f hf) rfl ⟨rfl, rfl⟩
  have onTenant {r : Nat × List (Nat × Nat)} {m : Nat} (hr : r ∈ Rules.plainRegs) (f : Tenant → Tenant) (hw : s.sysWrite cx r.1 x = s.updTenant cx.tenant f) :=
    writes_of (m := m) hr hw (refresh_updTenant hg cx.tenant f) (tenant_updTenant hlen f) ⟨rfl, rfl⟩
  simp only [Rules.plainRegs, List.forall_mem_cons]
  refine ⟨?_, ?_, ?_, ?_, ?_, ?_, ?_, ?_, ?_, ?_, ?_, List.forall_mem_nil _⟩
  · exact onGroup (by decide) (fun g => { g with ctxBase := keep x (bits 55 10) }) (fun _ => ⟨rfl, rfl⟩) rfl rfl (by decide) (by simp [Rules.plainRegs, plainVal])
  · exact onGroup (by decide) (fun g => { g with privBase := keep x (bits 55 7) }) (fun _ => ⟨rfl, rfl⟩) rfl rfl (by decide) (by simp [Rules.plainRegs, plainVal])
  · exact onGroup (by decide) (fun g => { g with privLim := keep x (bits 19 0) }) (fun _ => ⟨rfl, rfl⟩) rfl rfl (by decide) (by simp [Rules.plainRegs, plainVal])
  · exact onGroup (by decide) (fun g => { g with divLim := keep x (bits 7 0) }) (fun _ => ⟨rfl, rfl⟩) rfl rfl (by decide) (by simp [Rules.plainRegs, plainVal])
  · exact onGroup (by decide) (fun g => { g with trapVec := keep x (bits 55 6 + 1) }) (fun _ => ⟨rfl, rfl⟩) rfl rfl (by decide) (by simp [Rules.plainRegs, plainVal])
  · exact onGroup (by decide) (fun g => { g with tpc := keep x (bits 55 6 + 3) }) (fun _ => ⟨rfl, rfl⟩) rfl rfl (by decide) (by simp [Rules.plainRegs, plainVal])
  · exact onGroup (by decide) (fun g => { g with skid := keep x (bits 55 32 + bits 25 19 + bits 15 10) }) (fun _ => ⟨rfl, rfl⟩) rfl rfl (by decide) (by simp [Rules.plainRegs, plainVal])
  · exact onTenant (by decide) (fun t => { t with kvtBase := keep x (bits 55 8) }) rfl rfl (by decide) (by simp [Rules.plainRegs, plainVal])
  · exact onTenant (by decide) (fun t => { t with kvtSize := keep x (bits 47 32 + bits 18 16 + bits 11 8 + bits 4 0) }) rfl rfl (by decide) (by simp [Rules.plainRegs, plainVal])
  · exact onTenant (by decide) (fun t => { t with pfxBase := keep x (bits 55 8 + bits 4 0) }) rfl rfl (by decide) (by simp [Rules.plainRegs, plainVal])
  · exact onTenant (by decide) (fun t => { t with debugCfg := keep x (3) }) rfl rfl (by decide) (by simp [Rules.plainRegs, plainVal])

/-- The registers from 0x20 on are the hash masks. -/
theorem sysVal_hashMask (s : State) (cx : Cx) : ∀ i, i < 16 → s.sysVal cx (0x20 + i) = s.hashm.getD i 0
  | 0, _ | 1, _ | 2, _ | 3, _ | 4, _ | 5, _ | 6, _ | 7, _ | 8, _ | 9, _ | 10, _ | 11, _ | 12, _ | 13, _ | 14, _ | 15, _ => rfl
  | n + 16, h => absurd h (by omega)

theorem systemRegistersHold : Rules.SystemRegistersHold := by
  refine ⟨fun s cx => ⟨BitVec.toNat_ofNat .., BitVec.toNat_ofNat .., BitVec.toNat_ofNat .., rfl, rfl, rfl, rfl, rfl, rfl, rfl, rfl, rfl, rfl, rfl, rfl, sysVal_hashMask s cx, cause_bits cx.g⟩,
    fun r hr s cx x hg hlen => plainRegs_write hg hlen x r hr⟩

/-! ### PERF.RD (R396 to R398) -/

theorem completes_congr_tenant (cx : Cx) (i : Instr) (f g : Cx → Nat → State → State) (P : State → Prop) (hP : ∀ cx' a s, cx'.h = cx.h ∧ cx'.tenant = cx.tenant → P s → P (f cx' a s))
    (h : ∀ cx' a s, cx'.h = cx.h ∧ cx'.tenant = cx.tenant → P s → f cx' a s = g cx' a s) (s : State) (hs : P s) : cx.completes i f s = cx.completes i g s := by
  simp only [Cx.completes, Cx.leaves, each_congr_of cx f g P (fun a s => hP _ a s ⟨rfl, rfl⟩) (fun a s => h _ a s ⟨rfl, rfl⟩) _ s hs,
    each_congr_of { cx with wb := true } f g P (fun a s => hP _ a s ⟨rfl, rfl⟩) (fun a s => h _ a s ⟨rfl, rfl⟩) _ s hs]

/-- No earlier load or atomic of the context is on its way. -/
theorem none_awaited {s : State} {cx : Cx} (h : ∀ x ∈ s.asyncs, x.tag.team = cx.c.team → x.tag.grp = cx.c.grp → cx.g.split = true ∧ x.tag.arm ≠ armSel cx.c) :
    s.asyncs.any (fun x => x.tag.team == cx.c.team && x.tag.grp == cx.c.grp && (!cx.g.split || x.tag.arm == armSel cx.c)) = false := by
  rw [List.any_eq_false]
  intro x hx hall
  simp only [Bool.and_eq_true, beq_iff_eq, Bool.or_eq_true, Bool.not_eq_true'] at hall
  obtain ⟨⟨hteam, hgrp⟩, hside⟩ := hall
  obtain ⟨hsplit, harm⟩ := h x hx hteam hgrp
  rcases hside with hs | ha
  · rw [hsplit] at hs
    cases hs
  · exact harm ha

/-- Counter i of the bank that a PERF.RD names. -/
def perfVal (w : Word) (s : State) (cx : Cx) (i : Nat) : W64 := BitVec.ofNat 64 (((s.tenant cx.tenant).perf.get ((perfBank w.fspec.toNat).1 + i)).toNat % 2 ^ w.ty.bits)

/-- What PERF.RD writes, by the counters of the state in which it issues. -/
def perfDst (w : Word) (vec : Bool) (s : State) : Body :=
  anyDst w.ty vec (fun cx L => perfVal w s cx ((cx.srcAny vec 0 w.a .u32 L).toNat % 2 ^ 32)) (fun cx a => perfVal w s cx ((cx.srcAny vec a w.a .u32 0).toNat % 2 ^ 32))

theorem exec_perfRd {w : Word} {s : State} {cx : Cx} {vec : Bool} (h : Passes (.perfRd w) s cx) (hc : cx.clean (.perfRd w)) (hv : isVector (Instr.perfRd w).form cx.h = vec)
    (hwait : ∀ x ∈ s.asyncs, x.tag.team = cx.c.team → x.tag.grp = cx.c.grp → cx.g.split = true ∧ x.tag.arm ≠ armSel cx.c)
    (hok : ∀ a ∈ cx.arms vec, ∀ L ∈ cx.lanes vec, (cx.srcAny vec a w.a .u32 L).toNat % 2 ^ 32 < (perfBank w.fspec.toNat).2) :
    exec (.perfRd w) s = .next (cx.completes (.perfRd w) (perfDst w vec s).run (cx.begun (.perfRd w) s)) := by
  have e : cx.h = headR w := Option.some.inj ((gate_head h.2.1).symm.trans rfl)
  have hv' : isVector (Instr.perfRd w).form (headR w) = vec := e ▸ hv
  let b : Body := { perfDst w vec s with
    hold := fun cx s => s.asyncs.any (fun x => x.tag.team == cx.c.team && x.tag.grp == cx.c.grp && (!cx.g.split || x.tag.arm == armSel cx.c))
    check := fun cx a _ => ((cx.lanes vec).find? (fun L => decide ((perfBank w.fspec.toNat).2 ≤ (cx.srcAny vec a w.a .u32 L).toNat % 2 ^ 32))).map (fun L => { cause := 0x03, lane := L }) }
  have hexec : exec (.perfRd w) s = issue (.perfRd w) s b := by subst hv'; rfl
  have hwords : b.words (.perfRd w) (isVector (Instr.perfRd w).form cx.h) cx = cx.formWords (.perfRd w) := Body.words_eq b _ cx rfl rfl
  rw [hexec, issue_checked b h rfl rfl (none_awaited hwait) (hwords.symm ▸ hc) (fun a ha => ?_) (fun _ _ => rfl) rfl (fun _ => rfl) (anyDst_settles _ _ _ _ _), hwords]
  have hnone : (cx.lanes vec).find? (fun L => decide ((perfBank w.fspec.toNat).2 ≤ (cx.srcAny vec a w.a .u32 L).toNat % 2 ^ 32)) = none := by
    rw [List.find?_eq_none]
    exact fun L hL hbad => Nat.not_le.mpr (hok a (hv ▸ ha) L hL) (of_decide_eq_true hbad)
  exact congrArg (Option.map fun L => ({ cause := 0x03, lane := L } : Bad)) hnone

theorem countersRead : Rules.CountersRead := by
  refine ⟨fun w s cx h hc hv hwait hok => ?_, fun w s cx h hc hv hwait hok => ?_⟩
  · refine (exec_perfRd h hc hv hwait fun a _ L hL => hok L hL).trans (congrArg _ ?_)
    refine completes_congr_tenant cx _ _ _ (fun _ => True) (fun _ _ _ _ _ => trivial) (fun cx' a u hcx _ => ?_) _ trivial
    simp only [perfDst, anyDst, perfVal, Cx.srcAny, Rules.lanes, hcx.2, if_true]
  · refine (exec_perfRd h hc hv hwait fun a ha L _ => hok a ha).trans (congrArg _ ?_)
    rw [completes_eq_ends cx _ _ _ (h.cap_none_of_uniform hv)]
    unfold Cx.ends Cx.leaves
    refine congrArg _ (each_congr_of cx _ _ (fun _ => True) (fun _ _ _ => trivial) (fun a u _ => ?_) _ _ trivial)
    simp only [perfDst, anyDst, perfVal, Cx.srcAny, Bool.false_eq_true, if_false, Cx.refresh]

/-! ### RFH (R412) -/

/-- An RFH whose guard is always false. -/
def rfhWord : Word := { Rules.plainWord .z .z .z .z .i8 with guard := ⟨false, true, 7⟩ }

/-- The machine after reset with one group with a handler and a pending trap, that stands at its slot for a release that is over. -/
def rfhReleased : State :=
  let s := State.reset.place 0
  { s with groups := s.groups.map (fun g => { g with trapVec := 1, pend := [{ cause := 1 }], arm0 := { g.arm0 with wait := { kind := .release } } }),
           script := [], cur := some { c := ⟨0, 0, 0⟩, bundle := 0, slot := 0, valid := 1, priv := true, portB := false } }

/-- The context of `rfhReleased`. -/
def rfhCx : Cx :=
  Cx.make (.rfh rfhWord) (headR rfhWord) { c := ⟨0, 0, 0⟩, bundle := 0, slot := 0, valid := 1, priv := true, portB := false }
    ((rfhReleased.group 0 0).getD { team := 0, idx := 0, core := 0 }) rfhReleased

/-- The group of a run is in a handler. -/
def handlerAfter (o : Host.Outcome State Fault Refusal) : Option Bool :=
  match o with
  | .next t => (t.group 0 0).map (fun g => g.hmode)
  | _ => none

/-- Refutes O38: an RFH whose guard is always false, and that stands at its slot for its release, executes for no arm when the release is over, so that it returns from nothing. No run reaches such a state: the guard passes over the slot before it makes its release. -/
theorem not_systemInstructionsComplete : ¬ Obligations.SystemInstructionsComplete := by
  rintro ⟨-, -, -, hreturn⟩
  have hgo : gate (.rfh rfhWord) rfhReleased = .go rfhCx := Gate.of_cx? (by decide +kernel)
  have hbegins : Begins (.rfh rfhWord) (some 1) True rfhReleased rfhCx (rfhCx.rebegun (.rfh rfhWord) rfhReleased) :=
    .inr ⟨by decide +kernel, hgo, by decide +kernel, by decide +kernel, rfl⟩
  have hnext := hreturn rfhWord rfhReleased _ rfhCx (by decide +kernel) hbegins
  have hstands : handlerAfter (exec (.rfh rfhWord) rfhReleased) = some false := by decide +kernel
  have hreturns : handlerAfter (.next ((rfhCx.rebegun (.rfh rfhWord) rfhReleased).returnHandler rfhCx.c.team rfhCx.c.grp rfhCx.core)) = some true := by decide +kernel
  rw [hnext, hreturns] at hstands
  cases hstands

end Sys2Proof.Machine


/-! Attention and early exit (R159, R341, R343, R344, R346, R347). -/

namespace Sys2Proof.Machine

/-! ### ATTN, ATTN.SCORE, TOPK, KV.COMPACT, KV.SWEEP and SCORE.CLR -/

theorem issue_record {i : Instr} {w : Word} {s : State} {cx : Cx} (kind : Nat → OpKind) (total : Nat) (h : Passes i s cx) (hh : i.head = some (headR w)) (hc : cx.clean i) (hv : isVector i.form cx.h = false)
    (hheld : cx.opHeld 4 s = false)
    (hok : ∀ k ∈ cx.arms false, s.rank10 cx [] ((⟨0, (cx.srcU k w.a .u32).toNat, 64⟩, 64) :: (match cx.bobjB k with | some b => [(⟨0, b, 16⟩, 16)] | none => [])) false = none) :
    issue i s (recBody kind total) = .next (cx.ends i (fun cx k s => cx.issueOp k 4 (kind (cx.srcU k w.a .u32).toNat) (cx.bobjB k) total s) (cx.begun i s)) := by
  have e : cx.h.a = w.a := congrArg Head.a (Option.some.inj ((gate_head h.2.1).symm.trans hh))
  refine (issue_operation (recBody kind total) (fun cx k => kind (cx.srcU k cx.h.a .u32).toNat) (fun cx k => cx.bobjB k) (fun _ _ => total) h hc hv rfl rfl rfl hheld
    (fun k hk => ?_) (fun _ _ => rfl) rfl (fun _ => rfl) rfl).trans (congrArg _ (ends_congr cx _ _ _ (fun cx' a u hcx => ?_) _))
  · rw [← hok k hk, ← e]
    rfl
  · rw [hcx, e]
    rfl

theorem attentionIssues : Rules.AttentionIssues := by
  refine ⟨?_, fun w s cx h hc hv hheld hok => ?_, ?_⟩
  · simp only [Rules.recordRows, List.forall_mem_cons]
    exact ⟨fun w s cx h hc hv hheld hok => issue_record _ _ h rfl hc hv hheld hok, fun w s cx h hc hv hheld hok => issue_record _ _ h rfl hc hv hheld hok,
      fun w s cx h hc hv hheld hok => issue_record _ _ h rfl hc hv hheld hok, fun w s cx h hc hv hheld hok => issue_record _ _ h rfl hc hv hheld hok, List.forall_mem_nil _⟩
  · refine issue_operation _ (fun cx k => .sweep ((cx.srcU k w.a .u32).toNat % 2 ^ 32)) (fun _ _ => none) (fun _ _ => 0) h hc hv rfl rfl rfl hheld (fun k hk => ?_) (fun _ _ => rfl) rfl (fun _ => rfl) rfl
    obtain ⟨hpos, hmax⟩ := hok k hk
    exact if_neg (by rw [beq_eq_false_iff_ne.mpr hpos, decide_eq_false (Nat.not_lt.mpr hmax)]; decide)
  · intro w s cx h hc hv accs hown hok
    refine issue_settled _ h hc rfl rfl rfl rfl hown (fun k hk => ?_) (fun k hk => (hok k (hv ▸ hk)).2.2) rfl (fun _ => rfl) fun cx' k u hcx hu => ?_
    · obtain ⟨hmax, hrank, -⟩ := hok k (hv ▸ hk)
      exact (if_neg (Nat.not_lt.mpr hmax)).trans hrank
    · exact (storeMany_stays ..).trans ((stays_congr (fills_groups ..) _).trans hu)

/-! ### EXIT.TEST -/

/-- Executions depend on what the body does and on whether it moves the PC. -/
theorem Body.runArms_congr {b b' : Body} (hr : b.run = b'.run) (ho : b.own = b'.own) (cx : Cx) (all : List Nat) (k : Nat) (l : List Nat) (s : State) : b.runArms cx all k l s = b'.runArms cx all k l s := by
  induction l generalizing k s with
  | nil => rfl
  | cons a t ih => simp only [Body.runArms, hr, ho, ih]

/-- In a group without poisoned words the words that a body uses do not matter. -/
theorem issue_unused {i : Instr} {s : State} {cx : Cx} (b : Body) (hgo : gate i s = .go cx) (hp : cx.pure) : issue i s b = issue i s { b with used := none } := by
  have hperform (u : State) : b.perform i (isVector i.form cx.h) cx u = ({ b with used := none } : Body).perform i (isVector i.form cx.h) cx u := by
    unfold Body.perform
    rw [hp.deferred i _ (b.words i _ cx) (({ b with used := none } : Body).words i _ cx)]
    simp only [Body.runArms_congr (b := b) (b' := { b with used := none }) rfl rfl]
    rfl
  have hfirst : b.first i (isVector i.form cx.h) cx s = ({ b with used := none } : Body).first i (isVector i.form cx.h) cx s := by
    unfold Body.first
    rw [hp.poison, hp.poison]
    rfl
  unfold issue
  rw [hgo]
  dsimp only
  rw [hfirst]
  split
  · rfl
  · split
    · rfl
    · unfold Body.effect
      simp only [hperform]
      rfl

theorem src_refresh {cx : Cx} {t : State} (h : cx.Finds (cx.refresh t).g) (o : Opd) (ty : Ty) (L : Nat) : (cx.refresh t).src o ty L = cx.src o ty L := by
  have hv := h.vget
  have hs := h.regs
  have hrun (i : Nat) := runReg_refresh h o i L
  obtain ⟨f, k, hf, he⟩ := h
  have harm : laneArm (cx.refresh t).g cx.c.arm L = laneArm cx.g cx.c.arm L := by
    rw [he]
    exact laneArm_updArm ..
  have hren (a j : Nat) : (cx.refresh t).g.renOf a j = cx.g.renOf a j := by
    rw [he]
    exact updArm_renOf ..
  unfold Cx.src
  dsimp only
  rw [show laneArm (cx.refresh t).g (cx.refresh t).c.arm L = _ from harm]
  cases o
  case s => exact sval_congr hs ..
  case v => simp only [Group.vval, hv]
  case m => simp only [Group.vval, hv, hren]
  all_goals rfl

/-- What EXIT.TEST does at its slot, the words that it uses apart. -/
def exitBody (w : Word) : Body :=
  { hold := fun cx s => cx.opMarked (s.marksOf cx.c.team cx.c.grp) w.c { n := 6 }
    rel := fun cx => if cx.act.any (cx.passes w) then some 2 else none
    run := fun cx _ s =>
      match cx.answered s with
      | some x => cx.writeP w.slot.toNat (cx.act.map (fun L => (L, x.parts.any (fun p => p.lane == L && p.pred)))) (cx.done (s.dropAsync x.id))
      | none =>
        if (cx.act.filter (cx.passes w)).isEmpty then cx.writeP w.slot.toNat (cx.act.map (fun L => (L, false))) s
        else
          match s.backQueue (s.tabOf cx.core cx.tag) with
          | .error e => cx.writeP w.slot.toNat (cx.act.map (fun L => (L, false))) (s.kvTrap cx.tag e)
          | .ok (va, pa) =>
            cx.ask ((cx.act.filter (cx.passes w)).map (fun L =>
              (({ lane := L, pa := pa, n := 4 } : Part), SliceOp.exitPush pa (BitVec.ofNat 64 va) ((List.range 8).map (fun k => BitVec.ofNat 32 (cx.backRec w L / 2 ^ (32 * k)))), 0))) s }

theorem exec_exitTest {w : Word} {s : State} {cx : Cx} (hgo : gate (.exitTest w) s = .go cx) (hp : cx.pure) : exec (.exitTest w) s = issue (.exitTest w) s (exitBody w) :=
  issue_unused _ hgo hp

theorem passes_refresh {cx : Cx} {t : State} (h : cx.Finds (cx.refresh t).g) (w : Word) : (cx.refresh t).passes w = cx.passes w := by
  funext L
  unfold Cx.passes
  rw [src_refresh h, src_refresh h]

theorem backRec_refresh {cx : Cx} {t : State} (h : cx.Finds (cx.refresh t).g) (w : Word) (L : Nat) : (cx.refresh t).backRec w L = cx.backRec w L := by
  unfold Cx.backRec
  simp only [runReg_refresh h, h.vget]

/-- Where an effect begins nothing has been answered yet. -/
theorem Cx.Opens.answered {cx : Cx} {s s0 : State} (h : cx.Opens s s0) (t : State) : (cx.refresh s0).answered t = none := by
  unfold Cx.answered
  rw [show ((cx.refresh s0).g.arm (cx.refresh s0).c.arm).wait.kind = .idle from h.idle]

theorem exitTest_clears {w : Word} {s : State} {cx : Cx} (h : Passes (.exitTest w) s cx) (hp : cx.pure) (hmark : cx.opMarked (s.marksOf cx.c.team cx.c.grp) w.c { n := 6 } = false)
    (hnone : ∀ L ∈ cx.act, cx.passes w L = false) :
    exec (.exitTest w) s = .next (cx.ends (.exitTest w) (fun cx _ s => cx.writeP w.slot.toNat (cx.act.map (fun L => (L, false))) s) (cx.begun (.exitTest w) s)) := by
  have hany : cx.act.any (cx.passes w) = false := List.any_eq_false.mpr fun L hL => by rw [hnone L hL]; exact Bool.false_ne_true
  have hgo : cx.act.filter (cx.passes w) = [] := List.filter_eq_nil_iff.mpr fun L hL => by rw [hnone L hL]; exact Bool.false_ne_true
  have hb := h.begins (hp.clean _) (ok := True) trivial
  rw [exec_exitTest h.2.1 hp]
  refine issue_begins_of (exitBody w) _ (fun t => t = cx.begun (.exitTest w) s) hb rfl rfl rfl rfl hmark (fun _ _ _ => rfl) (fun _ _ _ => rfl) (if_neg (by rw [hany]; exact Bool.false_ne_true)) (fun _ => rfl) rfl ?run (.inl ?one)
  case one => rfl
  case run =>
    rintro a - t rfl
    have hclears : (exitBody w).run (cx.refresh (cx.begun (.exitTest w) s)) a (cx.begun (.exitTest w) s)
        = cx.writeP w.slot.toNat (cx.act.map (fun L => (L, false))) (cx.begun (.exitTest w) s) := by
      unfold exitBody
      dsimp only
      rw [hb.opens.answered, passes_refresh hb.opens.finds]
      exact if_pos (by rw [show (cx.refresh (cx.begun (.exitTest w) s)).act = cx.act from rfl, hgo]; rfl)
    exact ⟨hclears, (writeP_stays ..).trans hb.opens.stays⟩

theorem exitTest_asks {w : Word} {s s0 : State} {cx : Cx} {va pa : Nat} (hp : cx.pure) (hmark : cx.opMarked (s.marksOf cx.c.team cx.c.grp) w.c { n := 6 } = false)
    (hne : cx.act.filter (cx.passes w) ≠ []) (hb : Begins (.exitTest w) (some 2) True s cx s0) (hq : s0.backQueue (s0.tabOf cx.core cx.tag) = .ok (va, pa)) :
    exec (.exitTest w) s = .next (cx.keeps (.exitTest w) (cx.ask ((cx.act.filter (cx.passes w)).map (fun L =>
      (({ lane := L, pa := pa, n := 4 } : Part), SliceOp.exitPush pa (BitVec.ofNat 64 va) ((List.range 8).map (fun k => BitVec.ofNat 32 (cx.backRec w L / 2 ^ (32 * k)))), 0))) s0)) := by
  have hany : cx.act.any (cx.passes w) = true := by
    obtain ⟨L, hL⟩ := List.exists_mem_of_ne_nil _ hne
    obtain ⟨hact, hpass⟩ := List.mem_filter.mp hL
    exact List.any_eq_true.mpr ⟨L, hact, hpass⟩
  have hasks : (exitBody w).run (cx.refresh s0) (armSel cx.c) s0 = cx.ask ((cx.act.filter (cx.passes w)).map (fun L =>
      (({ lane := L, pa := pa, n := 4 } : Part), SliceOp.exitPush pa (BitVec.ofNat 64 va) ((List.range 8).map (fun k => BitVec.ofNat 32 (cx.backRec w L / 2 ^ (32 * k)))), 0))) s0 := by
    unfold exitBody
    dsimp only
    rw [hb.opens.answered, passes_refresh hb.opens.finds]
    refine (if_neg ?_).trans ?_
    · rw [List.isEmpty_iff]
      exact hne
    · rw [show s0.backQueue (s0.tabOf (cx.refresh s0).core (cx.refresh s0).tag) = _ from hq]
      simp only [backRec_refresh hb.opens.finds]
      rfl
  rw [exec_exitTest hb.go hp]
  refine issue_begins_stands (k := armSel cx.c) (l := []) (exitBody w) { kind := .slice, asy := [s0.nextId], rel := true } _ hb rfl rfl rfl rfl hmark (fun _ _ _ => rfl) (fun _ _ _ => rfl) (if_pos hany) (fun _ => rfl) rfl
    hasks (fun hk => nomatch hk) rfl ?_
  rw [group_congr (sendOps_groups ..), hb.opens.group]
  rfl

/-- EXIT.TEST once its records have been answered: each lane's predicate is its answer. -/
def exitPuts (w : Word) (x : Async) (cx : Cx) (_ : Nat) (s : State) : State :=
  cx.writeP w.slot.toNat (cx.act.map (fun L => (L, x.parts.any (fun p => p.lane == L && p.pred)))) (cx.done (s.dropAsync x.id))

theorem exitTest_answered {w : Word} {s : State} {cx : Cx} {k : Nat} {x : Async} (h : Resumes (.exitTest w) s cx k) (hmark : cx.opMarked (s.marksOf cx.c.team cx.c.grp) w.c { n := 6 } = false)
    (hans : cx.answered s = some x) :
    exec (.exitTest w) s = .next (cx.ends (.exitTest w) (fun cx _ s =>
      cx.writeP w.slot.toNat (cx.act.map (fun L => (L, x.parts.any (fun p => p.lane == L && p.pred)))) (cx.done (s.dropAsync x.id))) (cx.begun (.exitTest w) s)) := by
  have hk : armSel cx.c = k := by
    have hl : [armSel cx.c].drop _ = [k] := h.last
    cases hn : (cx.g.arm cx.c.arm).wait.exec with
    | zero => rw [hn] at hl; exact (List.cons.inj hl).1
    | succ n => rw [hn] at hl; simp at hl
  subst hk
  have hbegun : (cx.refresh (cx.begun (.exitTest w) s)).answered (cx.begun (.exitTest w) s) = some x := by
    rw [← hans]
    unfold Cx.answered
    rw [show ((cx.refresh (cx.begun (.exitTest w) s)).g.arm (cx.refresh (cx.begun (.exitTest w) s)).c.arm).wait = _ from h.wait,
      show (cx.begun (.exitTest w) s).asyncs = s.asyncs by rw [(Beside.begun cx (.exitTest w) s (cx.formWords _)).eq]]
  rw [ends_vector _ _ _ _ rfl]
  refine issue_again_finishes _ (exitPuts w x) h rfl rfl rfl hmark ?run ?stays
  case run =>
    dsimp only
    rw [hbegun]
    rfl
  case stays => exact (writeP_stays ..).trans (done_stays ..)

/-! ### BACKFILL -/

theorem startRelease_groups (s : State) (core : Nat) (t : Team) (team grp scope : Nat) : (s.startRelease core t team grp scope).1.groups = s.groups := by
  unfold State.startRelease
  dsimp only
  split
  · rfl
  · split
    · exact foldl_writeBack_groups ..
    · rfl

theorem writeU_teams (cx : Cx) (sel : Nat) (ty : Ty) (x : BitVec 64) (s : State) : (cx.writeU sel ty x s).teams = s.teams := by
  unfold Cx.writeU
  split
  · split <;> rfl
  · rfl

theorem issueOp_teams (cx : Cx) (sel cls : Nat) (kind : OpKind) (bobj : Option Nat) (total : Nat) (s : State) : (cx.issueOp sel cls kind bobj total s).teams = s.teams := by
  have hrec : (recorded cx sel cls kind bobj total s).teams = s.teams := by
    unfold recorded ticketed
    split <;> rfl
  by_cases h : cx.wb = true ∧ ∃ r, cx.h.dst = .s r
  · obtain ⟨hwb, r, hd⟩ := h
    rw [issueOp_dst cx sel cls kind bobj total s hwb hd]
    exact (writeU_teams ..).trans hrec
  · rw [issueOp_plain cx sel cls kind bobj total s h, hrec]

/-- What BACKFILL does for one of its arms, in a group of team `t`. -/
def backfills (w : Word) (vec : Bool) (t : Team) (cx : Cx) (k : Nat) (s : State) : State :=
  let l := (cx.lanes vec).map (fun L => ((cx.srcAny vec k w.a .u32 L).toNat % 2 ^ 32, (cx.srcAny vec k w.b .u32 L).toNat % 2 ^ 32))
  let r := s.startRelease cx.core t cx.c.team cx.c.grp 2
  (cx.issueOp k 4 (.backfill l) none 0 r.1).updOp r.1.nextId (fun o => { o with ids := r.2.ids, asy := r.2.asy })

theorem backfills_stays (w : Word) (vec : Bool) (t : Team) (cx : Cx) (k : Nat) (s : State) (c : CtxId) : (backfills w vec t cx k s).stays c = s.stays c :=
  (issueOp_stays ..).trans (stays_congr (startRelease_groups ..) _)

theorem backfills_teams (w : Word) (vec : Bool) (t : Team) (cx : Cx) (k : Nat) (s : State) : (backfills w vec t cx k s).teams = s.teams :=
  (issueOp_teams ..).trans (Wires.startRelease ..).teams

theorem backfill_issues {w : Word} {s : State} {cx : Cx} {vec : Bool} {t : Team} (hvec : vec = isVector (Instr.backfill w).form (headR w)) (h : Passes (.backfill w) s cx)
    (hc : cx.clean (.backfill w)) (hne : cx.lanes vec ≠ []) (hheld : cx.opHeld 4 s = false) (hok : ∀ k ∈ cx.arms vec, cx.idxCheck vec k s = none)
    (ht : s.team cx.c.team = some t) :
    exec (.backfill w) s = .next (cx.ends (.backfill w) (backfills w vec t) (cx.begun (.backfill w) s)) := by
  subst hvec
  have hhead : headR w = cx.h := Option.some.inj (gate_head h.2.1)
  have hb := h.begins hc (ok := True) trivial
  refine issue_begins_of _ _ (fun u => u.stays cx.c = false ∧ u.teams = s.teams) hb rfl rfl rfl rfl ?hold (fun _ k hk => hok k (hhead ▸ hk)) (fun _ _ _ => rfl) rfl (fun _ => rfl)
    ⟨hb.opens.stays, hb.opens.teams⟩ ?run (.inr fun a _ u hu => ⟨(backfills_stays ..).trans hu.1, (backfills_teams ..).trans hu.2⟩)
  case hold => exact (congrArg (_ && ·) hheld).trans (Bool.and_false _)
  case run =>
    rintro a - u ⟨hstay, hteams⟩
    have hteam : u.team (cx.refresh u).c.team = some t := by
      rw [← ht]
      unfold State.team
      rw [hteams]
      rfl
    refine ⟨?_, (backfills_stays ..).trans hstay⟩
    refine (if_neg (by rw [List.isEmpty_iff]; exact hne)).trans ?_
    dsimp only
    rw [hteam]
    rfl

/-- The three things that EXIT.TEST can do at its slot, and BACKFILL. -/
theorem earlyExitCompletes : Rules.EarlyExitCompletes := by
  refine ⟨fun w s cx h hp hmark hnone => exitTest_clears h hp hmark hnone, fun w s s0 cx va pa hp hmark hne hb hq => exitTest_asks hp hmark hne hb hq, fun w s cx k x h hmark hans => exitTest_answered h hmark hans,
    fun w s cx vec t hvec h hc hne hheld hok ht => backfill_issues hvec h hc hne hheld hok ht⟩

/-- Settles O31: operations issued, and the three things that EXIT.TEST can do at its slot. -/
theorem attentionInstructionsComplete : Obligations.AttentionInstructionsComplete := ⟨attentionIssues, earlyExitCompletes⟩

end Sys2Proof.Machine


/-! Fronts (R78 to R80, R303 to R305, R477). -/

namespace Sys2Proof.Machine

/-! ### What a core reads at issue -/

theorem send_core (s : State) (r : Req) (n : Nat) : (s.send r).core n = s.core n := by
  unfold State.core
  rw [show (s.send r).cores = s.cores from note_cores s (r.line * 128)]

/-- What a core reads of a line. -/
def Line.shows (l : Line) : BitVec 1024 × BitVec 128 × Bool := (l.data, l.dirty, l.filled)

/-- A change of a line in what nobody reads. -/
theorem line_updLine_shows (c : Core) (ln m : Nat) (f : Line → Line) (haddr : ∀ x, (f x).addr = x.addr) (hf : ∀ x, (f x).shows = x.shows) :
    ∃ g : Line → Line, (∀ x, (g x).shows = x.shows) ∧ (c.updLine ln f).line m = (c.line m).map g := by
  by_cases h : ln = m
  · subst h
    exact ⟨f, hf, line_updLine c ln f haddr⟩
  · refine ⟨id, fun _ => rfl, ?_⟩
    rw [Option.map_id]
    refine find_updWhere_other _ _ f (fun x hx => ?_) c.lines
    rw [haddr, beq_iff_eq.mp hx]
    simp [h]

/-- `t` is `s` but for what is on its way, and every core translates and reads as before. -/
structure Sees (s t : State) : Prop where
  wires : Wires s t
  tlb : ∀ n, (t.core n).tlb = (s.core n).tlb
  byte : ∀ n pa, t.coreByte n pa = s.coreByte n pa

theorem Wires.walkFrom {s t : State} (h : Wires s t) (tenant va n table : Nat) : Machine.walkFrom t tenant va n table = Machine.walkFrom s tenant va n table := by
  rw [h]
  generalize t.groups = gs
  generalize t.cores = cs
  induction n generalizing table with
  | zero =>
    simp only [Machine.walkFrom]
    rfl
  | succ n ih =>
    cases n with
    | zero =>
      simp only [Machine.walkFrom]
      rfl
    | succ n =>
      simp only [Machine.walkFrom, ih]
      rfl

namespace Sees

theorem refl (s : State) : Sees s s := ⟨Wires.refl s, fun _ => rfl, fun _ _ => rfl⟩

theorem trans {s t u : State} (h : Sees s t) (h' : Sees t u) : Sees s u :=
  ⟨h.wires.trans h'.wires, fun n => (h'.tlb n).trans (h.tlb n), fun n pa => (h'.byte n pa).trans (h.byte n pa)⟩

/-- Requests that change in nothing that their writes show leave what the cores read. -/
theorem of_reqs {s t : State} (h : Wires s t) (hc : t.cores = s.cores) (f : Req → Req) (hf : ∀ r, (f r).core = r.core ∧ (f r).line = r.line ∧ (f r).kind = r.kind)
    (l : List Req) (hl : ∀ r ∈ l, ∀ n pa, r.covers n pa = false) (hr : t.reqs = s.reqs.map f ++ l) : Sees s t := by
  have hcore (n : Nat) : t.core n = s.core n := by
    unfold State.core
    rw [hc]
  refine ⟨h, fun n => by rw [hcore], fun n pa => ?_⟩
  have hw : t.wireByte n pa = s.wireByte n pa := wireByte_congr f hf l (fun r hm => hl r hm n pa) hr h.acks h.mem
  cases hx : (s.core n).line (pa / 128) with
  | none => rw [coreByte_of_absent hx, coreByte_of_absent (by rw [hcore, hx]), hw]
  | some x => rw [coreByte_of_line hx, coreByte_of_line (by rw [hcore, hx]), hw]

theorem noFill (s : State) (core : Nat) (p : Nat → Bool) : Sees s (s.noFill core p) := by
  refine of_reqs (Wires.noFill ..) rfl (fun r => if r.core == core && r.kind == .read && p r.line then { r with alloc := false } else r) (fun r => ?_) [] (fun _ h => nomatch h) (List.append_nil _).symm
  split <;> exact ⟨rfl, rfl, rfl⟩

/-- An operation on its way to its slice writes no byte. -/
theorem send_op (s : State) (r : Req) (o : SliceOp) (hk : r.kind = .op o) : Sees s (s.send r) := by
  refine of_reqs (Wires.send ..) ?_ id (fun _ => ⟨rfl, rfl, rfl⟩) _ ?_ ((send_reqs ..).trans (by rw [List.map_id]))
  · unfold State.send
    exact note_cores ..
  · intro x hx n pa
    rw [List.mem_singleton.mp hx]
    simp [Req.covers, hk]

theorem of_asyncs (s : State) (l : List Async) (n : Nat) : Sees s { s with asyncs := l, nextId := n } := ⟨rfl, fun _ => rfl, fun _ _ => rfl⟩

/-- A line written back stays as it is read. -/
theorem writeBack_line (s : State) (core ln n m : Nat) (l : List (Nat × Nat)) :
    ((s.writeBack core ln l).core n).tlb = (s.core n).tlb ∧ ∃ f : Line → Line, (∀ x, (f x).shows = x.shows) ∧ ((s.writeBack core ln l).core n).line m = ((s.core n).line m).map f := by
  have hid : (s.core n).tlb = (s.core n).tlb ∧ ∃ f : Line → Line, (∀ x, (f x).shows = x.shows) ∧ (s.core n).line m = ((s.core n).line m).map f :=
    ⟨rfl, id, fun _ => rfl, by rw [Option.map_id]; rfl⟩
  unfold State.writeBack
  split
  · exact hid
  · dsimp only
    split
    · exact hid
    · simp only [core_updCore, send_core]
      split
      · next hn =>
        subst hn
        exact ⟨rfl, line_updLine_shows (s.core core) ln m _ (fun _ => rfl) (fun _ => rfl)⟩
      · exact hid

theorem writeBack (s : State) (core ln : Nat) (l : List (Nat × Nat)) : Sees s (s.writeBack core ln l) := by
  refine ⟨Wires.writeBack .., fun n => (writeBack_line s core ln n 0 l).1, fun n pa => ?_⟩
  obtain ⟨-, f, hf, hline⟩ := writeBack_line s core ln n (pa / 128) l
  cases hx : (s.core n).line (pa / 128) with
  | none =>
    rw [hx] at hline
    rw [coreByte_of_absent hx, coreByte_of_absent hline]
    refine wireByte_writeBack s n core ln pa l fun x hl hk hln => ?_
    rw [hk, hln, hx] at hl
    cases hl
  | some x =>
    rw [hx] at hline
    obtain ⟨hdata, hdirty, hfilled⟩ : (f x).data = x.data ∧ (f x).dirty = x.dirty ∧ (f x).filled = x.filled := by
      simpa only [Line.shows, Prod.mk.injEq] using hf x
    rw [coreByte_of_line hx, coreByte_of_line hline, hdata, hdirty, hfilled]
    split
    · rfl
    · next hclean =>
      refine wireByte_writeBack s n core ln pa l fun y hl hk hln => ?_
      rw [hk, hln, hx] at hl
      cases hl
      simp only [Bool.or_eq_true, not_or, Bool.not_eq_true] at hclean
      exact hclean.1

theorem sendOps (s : State) (x : Async) (l : List (Part × SliceOp × Nat)) : Sees s (s.sendOps x l) := by
  have hsend (l' : List Nat) (id : Nat) (s : State) : Sees s (l'.foldl (fun s k =>
      match l[k]? with
      | none => s
      | some (p, o, n) =>
        ((s.writeBack x.core (p.pa / 128)).noFill x.core (fun y => y == p.pa / 128)).send
          { id := 0, core := x.core, tenant := x.tag.tenant, line := p.pa / 128, kind := .op o, tag := x.tag, async := some (id, k), strong := if n = 0 then [] else [(p.pa % 128, n)] }) s) := by
    induction l' generalizing s with
    | nil => exact refl s
    | cons k l' ih =>
      refine trans ?_ (ih _)
      dsimp only
      split
      · exact refl s
      · exact ((writeBack ..).trans (noFill ..)).trans (send_op _ _ _ rfl)
  exact (of_asyncs s s.asyncs (s.nextId + 1)).trans ((hsend _ _ _).trans (of_asyncs ..))

variable {s t : State}

theorem reach (h : Sees s t) (core tenant va : Nat) (n : Need) : t.reach core tenant va n = s.reach core tenant va n := by
  have hwalk : walk t tenant va = walk s tenant va := by
    unfold walk
    rw [h.wires.walkFrom, show t.tenant tenant = s.tenant tenant by rw [h.wires]; rfl]
  simp only [State.reach, State.trCore, h.tlb, hwalk]

theorem coreRead (h : Sees s t) (core pa n : Nat) : t.coreRead core pa n = s.coreRead core pa n := by
  induction n generalizing pa with
  | zero => rfl
  | succ n ih => simp only [State.coreRead, h.byte, ih]

theorem frontOf (h : Sees s t) (g : Group) : t.frontOf g = s.frontOf g := by
  have htenant (k : Nat) : t.tenantOf k = s.tenantOf k := by rw [h.wires]; rfl
  have hctrl : t.ctrlFront g = s.ctrlFront g := by
    unfold State.ctrlFront
    rw [htenant, h.reach]
    split
    · rfl
    · exact h.coreRead ..
  have hrecord (core va k : Nat) : t.recordAt core g va k = s.recordAt core g va k := by
    unfold State.recordAt
    rw [htenant, h.reach]
  unfold State.frontOf State.frontField
  dsimp only
  rw [hctrl, hrecord]

end Sees

/-! ### At the record's slice (R78, R79, R305) -/

/-- An element changed where a test holds is found where it still does. -/
theorem find_updWhere_kept {α : Type} (p : α → Bool) (f : α → α) (hf : ∀ x, p x = true → p (f x) = true) (l : List α) : (updWhere p f l).find? p = (l.find? p).map f := by
  induction l with
  | nil => rfl
  | cons x t ih =>
    simp only [updWhere] at ih
    by_cases hx : p x
    · simp [updWhere, hx, hf x hx]
    · simp [updWhere, hx, ih]

/-- A change of some groups shows in no part of them that it keeps. -/
theorem group_updGroup_map {α : Type} (s : State) (t k : Nat) (f : Group → Group) (φ : Group → α) (hf : ∀ g, (f g).team = g.team ∧ (f g).idx = g.idx ∧ φ (f g) = φ g) (t' k' : Nat) :
    ((s.updGroup t k f).group t' k').map φ = (s.group t' k').map φ := by
  by_cases h : t' = t ∧ k' = k
  · obtain ⟨rfl, rfl⟩ := h
    rw [group_updGroup s t' k' f fun g => ⟨(hf g).1, (hf g).2.1⟩, Option.map_map]
    exact congrArg (fun ψ => (s.group t' k').map ψ) (funext fun g => (hf g).2.2)
  · rw [group_updGroup_other s t k t' k' f (fun g => ⟨(hf g).1, (hf g).2.1⟩) h]

/-- The front that a group named so is bound to. -/
def State.boundAt (s : State) (t k : Nat) : Option (Option (Nat × Nat)) := (s.group t k).map (fun g => g.front)

theorem wake_boundAt (s : State) (c : CtxId) (v : W32) (t k : Nat) : (s.wake c v).boundAt t k = s.boundAt t k := by
  refine group_updGroup_map s c.team c.grp _ _ (fun g => ⟨updArm_team .., updArm_idx .., ?_⟩) t k
  unfold Group.updArm
  repeat' split
  all_goals rfl

theorem poke_boundAt (s : State) (pa n v t k : Nat) : (s.poke pa n v).boundAt t k = s.boundAt t k := by
  have hwakes (l : List TlWaiter) (u : State) : (l.foldl (fun s w => s.wake w.c 1) u).boundAt t k = u.boundAt t k := by
    induction l generalizing u with
    | nil => rfl
    | cons w l ih => exact (ih _).trans (wake_boundAt ..)
  unfold State.poke State.pokeMask State.evalTl
  refine (hwakes _ _).trans ?_
  unfold State.note
  split <;> rfl

theorem frontAt_updFront (s : State) (pa : Nat) (f : FrontEnt → FrontEnt) (hf : ∀ e, e.pa = pa → (f e).pa = pa) : (s.updFront pa f).frontAt pa = (s.frontAt pa).map f :=
  find_updWhere_kept (fun e : FrontEnt => e.pa == pa) f (fun e he => by simpa using hf e (by simpa using he)) s.fronts

theorem frontAt_pa {s : State} {pa : Nat} {e : FrontEnt} (h : s.frontAt pa = some e) : e.pa = pa := by
  simpa using List.find?_some h

theorem ctrlPut_frontAt (s : State) (g : Group) (off n v pa : Nat) : (s.ctrlPut g off n v).frontAt pa = s.frontAt pa := by
  unfold State.ctrlPut
  split
  · rfl
  · show (s.poke _ _ _).fronts.find? _ = _
    rw [(Tells.poke ..).same]
    rfl

theorem ctrlPut_boundAt (s : State) (g : Group) (off n v t k : Nat) : (s.ctrlPut g off n v).boundAt t k = s.boundAt t k := by
  unfold State.ctrlPut
  split
  · rfl
  · exact poke_boundAt ..

/-- A member that joins: its bit, its STEP, and who it is (R78). -/
def FrontEnt.joined (m : Option Nat) (k team grp : Nat) (e : FrontEnt) : FrontEnt :=
  { e with mem := e.mem ||| BitVec.ofNat 64 (2 ^ k), steps := e.steps.set k (BitVec.ofNat 16 (m.getD 0)), who := e.who ++ [(k, team, grp)] }

/-- A group bound to slot k of a front (R78). -/
def Group.bound (pa k : Nat) (va : W64) (g : Group) : Group := { g with front := some (pa, k), frontAddr := va }

theorem frontJoin_binds {s : State} {pa k tenant team grp : Nat} {va : W64} {e : FrontEnt} {g : Group} (he : s.frontAt pa = some e) (hg : s.group team grp = some g) :
    ∃ x, (s.frontJoin pa va k tenant team grp).frontAt pa = some x ∧ x.mem = e.mem ||| BitVec.ofNat 64 (2 ^ k) ∧ (x.steps.get k).toNat = (e.minOf e.mem).getD 0 % 2 ^ 16
      ∧ (k, team, grp) ∈ x.who ∧ x.slip = e.slip ∧ (s.frontJoin pa va k tenant team grp).boundAt team grp = some (some (pa, k)) := by
  unfold State.frontJoin
  extract_lets x s0 m s1 s2
  have hs0 : s0 = s := if_pos (by rw [he]; rfl)
  have hm : m = e.minOf e.mem := by
    show (match s0.frontAt pa with | some e => _ | none => _) = _
    rw [hs0, he]
  have hs2 : s2.group team grp = some (g.bound pa k va) := by
    refine (group_updGroup s1 team grp (Group.bound pa k va) fun g => ⟨rfl, rfl⟩).trans ?_
    rw [show s1.group team grp = s.group team grp by rw [← hs0]; rfl, hg]
    rfl
  rw [hs2]
  refine ⟨e.joined m k team grp, ?_, rfl, ?_, by simp [FrontEnt.joined], rfl, ?_⟩
  · refine (ctrlPut_frontAt ..).trans ((frontAt_updFront s0 pa (FrontEnt.joined m k team grp) (fun e h => h)).trans ?_)
    rw [hs0, he]
    rfl
  · simp only [FrontEnt.joined, get_set, if_true, BitVec.toNat_ofNat, hm]
  · rw [ctrlPut_boundAt]
    unfold State.boundAt
    rw [hs2]
    rfl

/-! ### Steps and lulls (R79) -/

/-- A member in lull let go: its STEP is one higher, and it is in lull no more. -/
def FrontEnt.letGo (e : FrontEnt) (l : Nat × Nat × CtxId) : FrontEnt := { e with steps := e.steps.set l.1 (e.steps.get l.1 + 1), lull := e.lull.filter (fun x => x.1 != l.1) }

/-- What stays of an entry whatever is let go in it. -/
def FrontEnt.fixed (e : FrontEnt) : Nat × W64 := (e.pa, e.mem)

/-- Members of different slots let go one by one: their STEPs alone are one higher, and none of them is in lull. -/
theorem letGo_all (go : List (Nat × Nat × CtxId)) (hgo : (go.map Prod.fst).Nodup) (e : FrontEnt) :
    let r := go.foldl FrontEnt.letGo e
    r.fixed = e.fixed ∧ (∀ l ∈ r.lull, l ∈ e.lull ∧ l.1 ∉ go.map Prod.fst) ∧ ∀ j, r.steps.get j = if j ∈ go.map Prod.fst then e.steps.get j + 1 else e.steps.get j := by
  induction go generalizing e with
  | nil => exact ⟨rfl, fun l hl => ⟨hl, List.not_mem_nil⟩, fun j => rfl⟩
  | cons x go ih =>
    obtain ⟨hx, hgo⟩ := List.nodup_cons.mp hgo
    obtain ⟨hfix, hlull, hstep⟩ := ih hgo (e.letGo x)
    refine ⟨hfix, fun l hl => ?_, fun j => ?_⟩
    · obtain ⟨hl, hn⟩ := hlull l hl
      obtain ⟨hl, hne⟩ := List.mem_filter.mp hl
      exact ⟨hl, by simp_all⟩
    · rw [List.foldl_cons, hstep, FrontEnt.letGo, get_set]
      by_cases hj : j = x.1
      · subst hj
        simp [hx]
      · simp only [hj, if_false, List.map_cons, List.mem_cons, false_or]

/-- The members of a front that its lull lets go. -/
def FrontEnt.freed (e : FrontEnt) : List (Nat × Nat × CtxId) := (lanesOf e.mem).filterMap (fun k => if e.within k then (e.lull.find? (fun l => l.1 == k)) else none)

/-- Two maps that agree on the list's elements, where they give a value. -/
theorem filterMap_agrees {α β : Type} {f g : α → Option β} {l : List α} (h : ∀ x ∈ l, f x = g x) : l.filterMap f = l.filterMap g := by
  induction l with
  | nil => rfl
  | cons x t ih => rw [List.filterMap_cons, List.filterMap_cons, h x List.mem_cons_self, ih fun y hy => h y (List.mem_cons_of_mem x hy)]

theorem freed_nodup (e : FrontEnt) : (e.freed.map Prod.fst).Nodup := by
  have hkeys : e.freed.map Prod.fst = (lanesOf e.mem).filter (fun k => e.within k && e.lull.any (fun l => l.1 == k)) := by
    unfold FrontEnt.freed
    rw [List.map_filterMap, ← List.filterMap_eq_filter]
    refine filterMap_agrees fun k _ => ?_
    cases hw : e.within k
    · simp [Option.guard, hw]
    · cases hf : e.lull.find? (fun l => l.1 == k) with
      | none =>
        have hany : e.lull.any (fun l => l.1 == k) = false := List.any_eq_false.mpr (List.find?_eq_none.mp hf)
        simp [Option.guard, hw, hf, hany]
      | some l =>
        have hany : e.lull.any (fun l => l.1 == k) = true := List.any_eq_true.mpr ⟨l, List.mem_of_find?_eq_some hf, by simpa using List.find?_some hf⟩
        have hk : l.1 = k := by simpa using List.find?_some hf
        simp [Option.guard, hw, hf, hany, hk]
  rw [hkeys]
  exact (List.nodup_range.filter _).filter _

theorem freed_lull {e : FrontEnt} {l : Nat × Nat × CtxId} (h : l ∈ e.freed) : l ∈ e.lull := by
  obtain ⟨k, -, hk⟩ := List.mem_filterMap.mp h
  split at hk
  · exact List.mem_of_find?_eq_some hk
  · cases hk

/-- Members in lull are let go at most once each: no other STEP changes. -/
theorem release_steps (n : Nat) (e : FrontEnt) :
    let r := (e.release n).1
    r.fixed = e.fixed ∧ ∀ j, r.steps.get j = e.steps.get j ∨ (∃ l ∈ e.lull, l.1 = j) ∧ r.steps.get j = e.steps.get j + 1 := by
  induction n generalizing e with
  | zero => exact ⟨rfl, fun j => .inl rfl⟩
  | succ n ih =>
    have hcons : e.release (n + 1) = if e.freed.isEmpty then (e, []) else (((e.freed.foldl FrontEnt.letGo e).release n).1, e.freed ++ ((e.freed.foldl FrontEnt.letGo e).release n).2) := rfl
    rw [hcons]
    split
    · exact ⟨rfl, fun j => .inl rfl⟩
    · obtain ⟨hfix, hlull, hstep⟩ := letGo_all e.freed (freed_nodup e) e
      obtain ⟨hfix', hstep'⟩ := ih (e.freed.foldl FrontEnt.letGo e)
      refine ⟨hfix'.trans hfix, fun j => ?_⟩
      have hj := hstep j
      by_cases hin : j ∈ e.freed.map Prod.fst
      · obtain ⟨l, hl, hlj⟩ := List.mem_map.mp hin
        refine .inr ⟨⟨l, freed_lull hl, hlj⟩, ?_⟩
        rw [if_pos hin] at hj
        rcases hstep' j with h | ⟨⟨l', hl', hlj'⟩, -⟩
        · exact h.trans hj
        · exact absurd (hlj' ▸ hin) (hlull l' hl').2
      · rw [if_neg hin] at hj
        rcases hstep' j with h | ⟨⟨l', hl', hlj'⟩, h⟩
        · exact .inl (h.trans hj)
        · exact .inr ⟨⟨l', (hlull l' hl').1, hlj'⟩, by rw [h, hj]⟩

theorem wakes_frontAt (l : List (Nat × Nat × CtxId)) (s : State) (pa : Nat) : (l.foldl (fun s l => s.wake l.2.2 1) s).frontAt pa = s.frontAt pa := by
  induction l generalizing s with
  | nil => rfl
  | cons x l ih => exact ih _

/-- What is evaluated at a front: the members in lull that it lets go, and no other STEP. -/
theorem evalFront_steps {s : State} {pa : Nat} {e : FrontEnt} (m : Option Nat) (he : s.frontAt pa = some e) :
    ∃ x, (s.evalFront pa m).frontAt pa = some x ∧ x.mem = e.mem ∧ ∀ j, x.steps.get j = e.steps.get j ∨ (∃ l ∈ e.lull, l.1 = j) ∧ x.steps.get j = e.steps.get j + 1 := by
  obtain ⟨hfix, hstep⟩ := release_steps e.lull.length e
  simp only [FrontEnt.fixed, Prod.mk.injEq] at hfix
  obtain ⟨hpa, hmem⟩ := hfix
  unfold State.evalFront
  rw [he]
  dsimp only
  rw [wakes_frontAt, frontAt_updFront, he]
  case hf => exact fun _ _ => by split <;> exact hpa.trans (frontAt_pa he)
  refine ⟨_, rfl, ?_⟩
  split <;> exact ⟨hmem, hstep⟩

theorem frontStep_within {s : State} {pa k : Nat} {c : CtxId} {e : FrontEnt} (he : s.frontAt pa = some e) (hm : s.isMember pa k c.team c.grp = true) (hw : e.within k = true)
    (hlull : ∀ l ∈ e.lull, l.1 ≠ k) :
    ∃ x, (s.frontStep pa k c).frontAt pa = some x ∧ x.mem = e.mem ∧ x.steps.get k = e.steps.get k + 1
      ∧ ∀ j, j ≠ k → x.steps.get j = e.steps.get j ∨ (∃ l ∈ e.lull, l.1 = j) ∧ x.steps.get j = e.steps.get j + 1 := by
  have hat : ((s.updFront pa (fun e => { e with steps := e.steps.set k (e.steps.get k + 1) })).wake c 1).frontAt pa = some { e with steps := e.steps.set k (e.steps.get k + 1) } := by
    refine (frontAt_updFront s pa (fun e => { e with steps := e.steps.set k (e.steps.get k + 1) }) fun _ h => h).trans ?_
    rw [he]
    rfl
  obtain ⟨x, hx, hmem, hstep⟩ := evalFront_steps (e.minOf e.mem) hat
  refine ⟨x, ?_, hmem, ?_, fun j hj => ?_⟩
  · unfold State.frontStep
    rw [he]
    dsimp only
    rw [hm, hw]
    exact hx
  · rcases hstep k with h | ⟨⟨l, hl, hk⟩, -⟩
    · rw [h, get_set, if_pos rfl]
    · exact absurd hk (hlull l hl)
  · have hg := get_set e.steps k j (e.steps.get k + 1)
    rw [if_neg hj] at hg
    have h := hstep j
    dsimp only at h
    rwa [hg] at h

theorem frontStep_lulls {s : State} {pa k : Nat} {c : CtxId} {e : FrontEnt} (he : s.frontAt pa = some e) (hm : s.isMember pa k c.team c.grp = true) (hw : e.within k = false) :
    s.frontStep pa k c = s.updFront pa (fun e => { e with lull := e.lull ++ [(k, s.clock, c)] }) := by
  unfold State.frontStep
  rw [he]
  dsimp only
  rw [hm, hw]
  rfl

theorem frontsPerform : Rules.FrontsPerform := by
  refine ⟨fun s pa k tenant team grp va e g he hg _ => frontJoin_binds he hg, fun s pa k c e he hmem hwho => ?_, fun s pa k e he => ?_⟩
  · have hm : s.isMember pa k c.team c.grp = true := by
      unfold State.isMember
      rw [he]
      dsimp only
      rw [hmem, List.contains_iff_mem.mpr hwho]
      rfl
    exact ⟨fun hw hl => frontStep_within he hm hw hl, fun hw => frontStep_lulls he hm hw⟩
  · unfold State.frontValue
    rw [he]
    exact ⟨rfl, rfl, rfl, rfl⟩

theorem frontEjects : Rules.FrontEjects := by
  intro record m k s e he hstop hlull hm hk
  change execFrontEjection record s = _
  unfold execFrontEjection
  rw [he]
  dsimp only
  have hany : e.lull.any (fun l => decide (l.2.1 + e.pat ≤ s.clock)) = true := List.any_eq_true.mpr (by simpa using hlull)
  rw [hstop, hany, hm]
  dsimp only
  rw [hk]
  rfl

/-! ### Slots of one arm whose meaning moves the PC itself -/

/-- A slot of one arm that passes leaves what its meaning leaves. -/
theorem issue_own {i : Instr} {s : State} {cx : Cx} {a : Nat} (b : Body) (h : Passes i s cx) (hc : cx.clean i) (hcap : i.form.cap = false) (hown : b.own = true)
    (honce : b.once = false) (hused : b.used = none) (hhold : b.hold cx s = false) (ha : cx.arms (isVector i.form cx.h) = [a])
    (h1 : b.check cx a s = none) (h2 : b.check2 cx a s = none) (hrel : b.rel cx = none) (hflush : ∀ s, b.flush cx s = []) :
    issue i s b = .next (b.run (cx.refresh (cx.begun i s)) a (cx.begun i s)) := by
  rw [issue_leaves_checked b h hc hcap hown honce hused hhold (by rw [ha]; exact List.forall_mem_singleton.mpr h1) (by rw [ha]; exact List.forall_mem_singleton.mpr h2) hrel hflush]
  unfold Cx.leaves
  rw [ha]
  rfl

/-- A body that moves the PC itself and captures nothing leaves what its executions leave. -/
theorem Body.perform_own (b : Body) {i : Instr} {cx : Cx} (u : State) (hown : b.own = true) (honce : b.once = false) (hcap : cx.h.cap = none) :
    let vec := isVector i.form cx.h
    let k := (cx.g.arm cx.c.arm).wait.exec
    b.perform i vec cx u = b.runArms cx (cx.arms vec) k ((cx.arms vec).drop k) (cx.issued vec (cx.deferred i vec (b.words i vec cx) u)) := by
  have ha : b.arms cx (isVector i.form cx.h) = cx.arms (isVector i.form cx.h) := by simp [Body.arms, honce]
  simp only [Body.perform, ha, hcap, hown, Option.isSome_none, Bool.false_and, Bool.false_eq_true, if_false, Bool.true_or, if_true]

/-- A slot whose wait has ended, at its last execution, leaves what its meaning leaves. -/
theorem issue_again_own {i : Instr} {s : State} {cx : Cx} {a : Nat} (b : Body) (h : Resumes i s cx a) (hcap : i.form.cap = false) (hown : b.own = true) (honce : b.once = false)
    (hhold : b.hold cx s = false) : issue i s b = .next (b.run (cx.refresh (cx.begun i s)) a (cx.begun i s)) := by
  have hs0 : cx.issued (isVector i.form cx.h) (cx.deferred i (isVector i.form cx.h) (b.words i (isVector i.form cx.h) cx) (cx.opened s)) = cx.begun i s := by
    rw [← begun_again h.again.1 i s (b.words i (isVector i.form cx.h) cx)]
    rfl
  rw [issue_again b h hhold, b.perform_own _ hown honce (cap_none_of_form h.form h.go hcap), hs0, h.last]
  simp only [Body.runArms, hown, Bool.not_true, Bool.false_and, Bool.false_eq_true, if_false]

/-- An instruction that must stand in no split and no melded region, and names no operand, executes for the context's own arm (R45, R304). -/
theorem arms_of_oneArm {i : Instr} {s : State} {cx : Cx} (h : Passes i s cx) (hone : i.form.oneArm = true) (hq : i.form.guard = .q) (hv : isVector i.form cx.h = false)
    (hn : ∀ cx : Cx, some cx.h = i.head → cx.handles i = []) : cx.arms false = [armSel cx.c] := by
  obtain ⟨hwf, hgo, hfirst⟩ := h
  obtain ⟨hres, -⟩ := Cx.first_wait hfirst
  obtain ⟨-, -, hact, h5, -⟩ := gate_go_ranks hgo hres
  have hmelded : cx.g.melded = false := by
    cases hm : cx.g.melded
    · rfl
    · simp [rank5, hone, hm] at h5
  have hsels : cx.sels = [armSel cx.c] := by
    have hg := gate_go_group_eq hgo hn
    obtain ⟨hd, cur, g, hh, -, hctx, -, rfl⟩ := gate_go_settled hgo
    have e : g = (settledCx i hd cur g s).g := Option.some.inj ((group_of_context hctx).symm.trans hg)
    have hv' : isVector i.form hd = false := hv
    have hm : g.melded = false := e ▸ hmelded
    show (if isVector i.form hd then execArms g cur.c hd.path true else execArms g cur.c hd.path _) = _
    rw [hv']
    unfold execArms
    rw [hm]
    rfl
  have hguard : guardU cx.g (armSel cx.c) cx.h.guard = true := by
    simp only [WellFormed, gate_head hgo, wordOk, guardOk, hq, Bool.and_eq_true, Bool.or_eq_true] at hwf
    obtain ⟨⟨⟨⟨⟨⟨⟨-, hu⟩, -⟩, -⟩, -⟩, -⟩, -⟩, -⟩ := hwf
    unfold Cx.noEffect at hact
    rw [hsels] at hact
    by_cases h7 : cx.h.guard.idx == 7
    · rw [if_pos h7] at hact
      rw [beq_iff_eq] at h7
      simp [guardU, hact, h7, Group.qget]
    · have huni : cx.h.guard.uni = true := hu.resolve_right h7
      rw [if_neg h7, huni] at hact
      simpa using hact
  have hag : cx.again = false := by
    unfold Cx.again
    dsimp only
    rw [hres]
    rfl
  unfold Cx.arms
  rw [hag, hsels]
  simp [hguard]

/-! ### The front instructions at their slots (R303 to R305) -/

theorem frontLeave_handles {w : Word} (hw : WellFormed (.frontLeave w) = true) (cx : Cx) (hcx : some cx.h = (Instr.frontLeave w).head) : cx.handles (.frontLeave w) = [] := by
  obtain ⟨-, ha, hb, hc⟩ := unused_operands hw hcx.symm
  exact handles_of_no_operands (unused_z rfl ha) (unused_z rfl hb) (unused_z rfl hc) rfl

/-- What a group's binding depends on. -/
def Group.binding (g : Group) : Bool × Nat × Nat × Nat × W64 × Option (Nat × Nat) × W64 := (g.hmode, g.core, g.team, g.width, g.ctxBase, g.front, g.frontAddr)

theorem frontOf_congr (s : State) {g g' : Group} (h : g'.binding = g.binding) : s.frontOf g' = s.frontOf g := by
  simp only [Group.binding, Prod.mk.injEq] at h
  obtain ⟨h1, h2, h3, h4, h5, h6, h7⟩ := h
  unfold State.frontOf State.frontField State.ctrlFront State.recordAt Group.ctrlVa
  simp only [h1, h2, h3, h4, h5, h6, h7]

theorem frontOf_finds {cx : Cx} {t : State} (h : cx.Finds (cx.refresh t).g) (s : State) : s.frontOf (cx.refresh t).g = s.frontOf cx.g := by
  obtain ⟨f, k, -, he⟩ := h
  refine frontOf_congr s ?_
  rw [he]
  show (cx.g.updArm cx.c.arm f).binding = _
  unfold Group.updArm
  repeat' split
  all_goals rfl

/-- Where an effect begins its group is bound as its slot finds it. -/
theorem frontOf_begun (cx : Cx) (i : Instr) (s : State) : (cx.begun i s).frontOf (cx.refresh (cx.begun i s)).g = s.frontOf cx.g := by
  rw [(Beside.begun cx i s (cx.formWords i)).frontOf, frontOf_finds (finds_begun cx i s (cx.formWords i))]

/-- A slot that resumes finds the answer that it found. -/
theorem answered_begun {i : Instr} {s : State} {cx : Cx} {k : Nat} (h : Resumes i s cx k) : (cx.refresh (cx.begun i s)).answered (cx.begun i s) = cx.answered s := by
  unfold Cx.answered
  rw [show ((cx.refresh (cx.begun i s)).g.arm (cx.refresh (cx.begun i s)).c.arm).wait = _ from h.wait,
    show (cx.begun i s).asyncs = s.asyncs by rw [(Beside.begun cx i s (cx.formWords _)).eq]]

/-- Where an effect begins at a first issue no answer is there, and no wait has ended. -/
theorem begun_idle {i : Instr} {s : State} {cx : Cx} (h : Passes i s cx) : ((cx.refresh (cx.begun i s)).g.arm (cx.refresh (cx.begun i s)).c.arm).wait.kind = .idle :=
  (begun_opens h).idle

theorem answered_of_idle {cx : Cx} {s : State} (h : (cx.g.arm cx.c.arm).wait.kind = .idle) : cx.answered s = none := by
  unfold Cx.answered
  rw [h]

theorem frontJoin_joined {w : Word} {s : State} {cx : Cx} {k : Nat} {x : Async} (h : Resumes (.frontJoin w) s cx k) (hans : cx.answered s = some x) (hok : ∀ p ∈ x.parts, p.data ≠ 2) :
    exec (.frontJoin w) s = .next (cx.advance ((cx.begun (.frontJoin w) s).dropAsync x.id)) := by
  have hany : x.parts.any (fun p => p.data == 2) = false := List.any_eq_false.mpr fun p hp => by simpa using hok p hp
  refine (issue_again_own _ h rfl rfl rfl rfl).trans (congrArg Host.Outcome.next ?_)
  dsimp only
  rw [answered_begun h, hans]
  dsimp only
  rw [hany]
  rfl

theorem frontJoin_asks {w : Word} {s : State} {cx : Cx} {k : Nat} (h : Passes (.frontJoin w) s cx) (hc : cx.clean (.frontJoin w)) (hv : isVector (Instr.frontJoin w).form cx.h = false)
    (ha : cx.arms false = [k]) (hchk : cx.joinCheck k s = none) (h11 : s.rank11 cx [⟨0, (cx.joinOps k).1, 256⟩] (needRW cx.priv) = none) :
    exec (.frontJoin w) s = .next (
      let s := (cx.begun (.frontJoin w) s).fills cx.core cx.tenant [⟨0, (cx.joinOps k).1, 256⟩]
      let pa := s.phys cx.core cx.tenant (cx.joinOps k).1
      cx.ask [({ pa := pa, n := 4 }, .frontJoin pa (BitVec.ofNat 64 (cx.joinOps k).1) (cx.joinOps k).2, 0)] s) := by
  have hops : (cx.refresh (cx.begun (.frontJoin w) s)).joinOps k = cx.joinOps k := by
    have hf := (begun_opens h).finds
    unfold Cx.joinOps
    rw [srcU_refresh hf, srcU_refresh hf]
    rfl
  refine (issue_own _ h hc rfl rfl rfl rfl rfl (hv ▸ ha) hchk h11 rfl (fun _ => rfl)).trans (congrArg Host.Outcome.next ?_)
  dsimp only
  rw [answered_of_idle (begun_idle h), hops]
  rfl

theorem frontLeave_left {w : Word} {s : State} {cx : Cx} {k : Nat} {x : Async} (h : Resumes (.frontLeave w) s cx k) (hans : cx.answered s = some x) :
    exec (.frontLeave w) s = .next (cx.advance ((cx.begun (.frontLeave w) s).dropAsync x.id)) := by
  refine (issue_again_own _ h rfl rfl rfl rfl).trans (congrArg Host.Outcome.next ?_)
  dsimp only
  rw [answered_begun h, hans]
  rfl

theorem frontStep_goes {w : Word} {s : State} {cx : Cx} {k : Nat} (h : Resumes (.frontStep w) s cx k) (hk : (cx.g.arm cx.c.arm).wait.kind = .lull)
    (hst : (cx.g.arm cx.c.arm).wait.status.isSome = true) : exec (.frontStep w) s = .next (cx.advance (cx.begun (.frontStep w) s)) := by
  obtain ⟨v, hv⟩ := Option.isSome_iff_exists.mp hst
  have hended : (cx.refresh (cx.begun (.frontStep w) s)).ended (fun k => k == .lull) = some v := by
    refine ended_of_status ?_ ?_
    · rw [← hv]
      exact congrArg Wait.status h.wait
    · rw [show ((cx.refresh (cx.begun (.frontStep w) s)).g.arm (cx.refresh (cx.begun (.frontStep w) s)).c.arm).wait.kind = _ from congrArg Wait.kind h.wait, hk]
      rfl
  refine (issue_again_own _ h rfl rfl rfl rfl).trans (congrArg Host.Outcome.next ?_)
  dsimp only
  rw [hended]
  rfl

/-- A front instruction that names no operand, at its first issue. -/
theorem front_issues {i : Instr} {s : State} {cx : Cx} (b : Body) (h : Passes i s cx) (hone : i.form.oneArm = true) (hq : i.form.guard = .q) (hv : isVector i.form cx.h = false)
    (hun : i.form.a.used = false ∧ i.form.b.used = false ∧ i.form.c.used = false) (hr : i.readsDst = false) (hcap : i.form.cap = false)
    (hown : b.own = true) (honce : b.once = false) (hused : b.used = none) (hhold : b.hold cx s = false) (h1 : ∀ a, b.check cx a s = none) (h2 : ∀ a, b.check2 cx a s = none)
    (hrel : b.rel cx = none) (hflush : ∀ s, b.flush cx s = []) : issue i s b = .next (b.run (cx.refresh (cx.begun i s)) (armSel cx.c) (cx.begun i s)) := by
  have hz (cx : Cx) (hcx : some cx.h = i.head) : cx.h.a = .z ∧ cx.h.b = .z ∧ cx.h.c = .z := by
    obtain ⟨-, ha, hb, hc⟩ := unused_operands h.1 hcx.symm
    exact ⟨unused_z hun.1 ha, unused_z hun.2.1 hb, unused_z hun.2.2 hc⟩
  obtain ⟨za, zb, zc⟩ := hz cx (gate_head h.2.1).symm
  have ha := arms_of_oneArm h hone hq hv fun cx hcx => by
    obtain ⟨za, zb, zc⟩ := hz cx hcx
    exact handles_of_no_operands za zb zc hr
  exact issue_own b h (clean_of_no_operands za zb zc hr) hcap hown honce hused hhold (hv ▸ ha) (h1 _) (h2 _) hrel hflush

theorem frontLeave_issues {w : Word} {s : State} {cx : Cx} (h : Passes (.frontLeave w) s cx) (hv : isVector (Instr.frontLeave w).form cx.h = false) :
    exec (.frontLeave w) s = .next (match s.frontOf cx.g with
      | none => cx.advance (cx.begun (.frontLeave w) s)
      | some (pa, k) => cx.ask [({ pa := pa, n := 4 }, .frontLeave pa k, 0)] (cx.begun (.frontLeave w) s)) := by
  refine (front_issues _ h rfl rfl hv ⟨rfl, rfl, rfl⟩ rfl rfl rfl rfl rfl rfl (fun _ => rfl) (fun _ => rfl) rfl (fun _ => rfl)).trans (congrArg Host.Outcome.next ?_)
  dsimp only
  rw [answered_of_idle (begun_idle h), frontOf_begun]
  rfl

theorem frontStep_issues {w : Word} {s : State} {cx : Cx} (h : Passes (.frontStep w) s cx) (hv : isVector (Instr.frontStep w).form cx.h = false) :
    exec (.frontStep w) s = .next (match s.frontOf cx.g with
      | none => cx.advance (cx.begun (.frontStep w) s)
      | some (pa, k) => cx.stay { kind := .lull, ids := [(cx.sendOp pa (.frontStep pa k cx.c) (cx.begun (.frontStep w) s)).2], rel := true }
          (cx.sendOp pa (.frontStep pa k cx.c) (cx.begun (.frontStep w) s)).1) := by
  refine (front_issues _ h rfl rfl hv ⟨rfl, rfl, rfl⟩ rfl rfl rfl rfl rfl rfl (fun _ => rfl) (fun _ => rfl) rfl (fun _ => rfl)).trans (congrArg Host.Outcome.next ?_)
  dsimp only
  rw [ended_of_idle (begun_idle h) rfl, frontOf_begun]
  cases s.frontOf cx.g <;> rfl

/-- What FRONT.STAT does for one of its arms. -/
def statAsks (w : Word) (pa k : Nat) (cx : Cx) (a : Nat) (s : State) : State :=
  s.sendOps { id := 0, core := cx.core, tag := cx.tag, dest := cx.asyncDest false a, ty := w.ty, parts := [] }
    [({ regs := cx.dstRegs w.ty.regs 0, n := w.ty.bytes, pa := pa }, .frontStat pa k w.fspec.toNat, 0)]

/-- What FRONT.STAT of an unbound group does for one of its arms. -/
def statIdle (w : Word) (cx : Cx) (k : Nat) (s : State) : State :=
  let parts : List Part := [{ regs := cx.dstRegs w.ty.regs 0, n := w.ty.bytes, done := true }]
  s.addAsync { id := 0, core := cx.core, tag := cx.tag, dest := cx.asyncDest false k, ty := w.ty, parts := parts }

/-- FRONT.STAT, whose effect `f` for each arm leaves the groups and what the cores read. -/
theorem frontStat_issues {w : Word} {s : State} {cx : Cx} (f : Cx → Nat → State → State) (h : Passes (.frontStat w) s cx) (hc : cx.clean (.frontStat w))
    (hf : ∀ cx a u, (f cx a u).groups = u.groups ∧ Sees u (f cx a u))
    (hrun : ∀ cx' a u, u.frontOf cx'.g = s.frontOf cx.g → (match u.frontOf cx'.g with | none => statIdle w cx' a u | some (pa, k) => statAsks w pa k cx' a u) = f cx' a u) :
    exec (.frontStat w) s = .next (cx.ends (.frontStat w) f (cx.begun (.frontStat w) s)) := by
  have hb := h.begins hc (ok := True) trivial
  refine issue_begins_of _ f (fun u => u.groups = (cx.begun (.frontStat w) s).groups ∧ Sees (cx.begun (.frontStat w) s) u) hb rfl rfl rfl rfl rfl (fun _ _ _ => rfl) (fun _ _ _ => rfl) rfl (fun _ => rfl)
    ⟨rfl, Sees.refl _⟩ ?run (.inr fun a _ u hu => ⟨(hf _ _ _).1.trans hu.1, hu.2.trans (hf _ _ _).2⟩)
  rintro a - u ⟨hgroups, hsees⟩
  have hg : (cx.refresh u).g = (cx.refresh (cx.begun (.frontStat w) s)).g := by
    show (u.group _ _).getD cx.g = _
    rw [group_congr hgroups]
    rfl
  have hfront : u.frontOf (cx.refresh u).g = s.frontOf cx.g := by rw [hsees.frontOf, hg, frontOf_begun]
  refine ⟨?_, (stays_congr ((hf _ _ _).1.trans hgroups) _).trans hb.opens.stays⟩
  rw [← hrun _ a u hfront]
  rfl

/-- The front instructions at each of their issues. -/
theorem frontsComplete : Rules.FrontsComplete := by
  refine ⟨fun w s cx k x h _ hans hok => frontJoin_joined h hans hok, fun w s cx k h hc hv ha hchk h11 => frontJoin_asks h hc hv ha hchk h11, fun w s cx k x h _ hans => frontLeave_left h hans,
    fun w s cx k h _ hk hst => frontStep_goes h hk hst, fun i hi w s cx h hv hfront => ?_, fun w s cx pa k h hv hfront => ?_, fun w s cx pa k h hv hfront => ?_,
    fun w s cx pa k h hc hv hfront => ?_, fun w s cx h hc hv hfront => ?_⟩
  · simp only [List.mem_cons, List.not_mem_nil, or_false] at hi
    rcases hi with rfl | rfl
    · rw [frontLeave_issues h hv, hfront]
    · rw [frontStep_issues h hv, hfront]
  · rw [frontLeave_issues h hv, hfront]
  · rw [frontStep_issues h hv, hfront]
  · exact frontStat_issues (statAsks w pa k) h hc (fun cx a u => ⟨sendOps_groups .., Sees.sendOps ..⟩) fun cx' a u hu => by rw [hu, hfront]
  · exact frontStat_issues (statIdle w) h hc (fun cx a u => ⟨rfl, Sees.of_asyncs ..⟩) fun cx' a u hu => by rw [hu, hfront]

/-- Settles O25: front instructions at their slots, at the record's slice, and the ejection of a laggard. -/
theorem frontInstructionsComplete : Obligations.FrontInstructionsComplete := ⟨frontsComplete, frontsPerform, frontEjects⟩

end Sys2Proof.Machine


/-! What leaves the contexts that wait for nothing: retirement, regrouping, traps, and the end of a team (R166, R229, R401, R420). -/

namespace Sys2Proof.Machine

/-- A context of `s` that waits for nothing waits for nothing in `t`. -/
structure Calms (s t : State) : Prop where
  stays : ∀ c, s.stays c = false → t.stays c = false

/-- A change of a group that keeps its name, and leaves each arm in its kind of wait or in none. -/
structure Group.Calming (f : Group → Group) : Prop where
  team : ∀ g, (f g).team = g.team
  idx : ∀ g, (f g).idx = g.idx
  kind : ∀ g a, ((f g).arm a).wait.kind = .idle ∨ ((f g).arm a).wait.kind = (g.arm a).wait.kind

theorem Group.Calming.of_keeps {f : Group → Group} (h : Keeps f) : Group.Calming f := ⟨h.team, h.idx, fun g a => .inr (by rw [h.arm])⟩

theorem Group.Calming.mapArms {f : Arm → Arm} (hf : ∀ a, (f a).wait.kind = .idle ∨ (f a).wait.kind = a.wait.kind) : Group.Calming (fun g => g.mapArms f) := by
  refine ⟨fun _ => rfl, fun _ => rfl, fun g a => ?_⟩
  unfold Group.arm Group.mapArms
  repeat' split
  all_goals exact hf _

theorem Group.Calming.updArm {f : Arm → Arm} (hf : ∀ a, (f a).wait.kind = .idle ∨ (f a).wait.kind = a.wait.kind) (b : Nat) : Group.Calming (fun g => g.updArm b f) := by
  refine ⟨fun g => updArm_team .., fun g => updArm_idx .., fun g a => ?_⟩
  unfold Group.arm Group.updArm
  repeat' split
  all_goals simp [hf]

namespace Calms

theorem refl (s : State) : Calms s s := ⟨fun _ h => h⟩
theorem trans {s t u : State} (h : Calms s t) (h' : Calms t u) : Calms s u := ⟨fun c hc => h'.stays c (h.stays c hc)⟩
theorem of_stays {s t : State} (h : ∀ c, t.stays c = s.stays c) : Calms s t := ⟨fun c hc => (h c).trans hc⟩
theorem of_groups {s t : State} (h : t.groups = s.groups) : Calms s t := of_stays fun c => stays_congr h c

theorem foldl {α : Type} (f : State → α → State) (hf : ∀ s x, Calms s (f s x)) (l : List α) (s : State) : Calms s (l.foldl f s) := by
  induction l generalizing s with
  | nil => exact refl s
  | cons x t ih => exact (hf s x).trans (ih _)

theorem groups (s : State) (p : Group → Bool) (f : Group → Group) (hf : Group.Calming f) : Calms s { s with groups := updWhere p f s.groups } := by
  refine ⟨fun c hc => ?_⟩
  have hname : ((fun g => g.team == c.team && g.idx == c.grp) ∘ fun g => if p g then f g else g) = fun g : Group => g.team == c.team && g.idx == c.grp := by
    funext g
    simp only [Function.comp_apply]
    split
    · rw [hf.team, hf.idx]
    · rfl
  unfold State.stays State.armOf State.group updWhere at *
  dsimp only
  rw [List.find?_map, hname]
  cases hg : s.groups.find? (fun g => g.team == c.team && g.idx == c.grp) with
  | none => rfl
  | some g =>
    rw [hg] at hc
    simp only [Option.map_some] at hc ⊢
    split
    · rcases hf.kind g c.arm with h | h
      · rw [h]; rfl
      · rw [h]; exact hc
    · exact hc

theorem bb (s : State) (die unit tenant cause : Nat) (info : W64) (detail : Nat) : Calms s (s.bb die unit tenant cause info detail) := of_stays fun _ => bb_stays ..

theorem updTeam (s : State) (t : Nat) (f) : Calms s (s.updTeam t f) := of_groups rfl
theorem updCore (s : State) (n : Nat) (f) : Calms s (s.updCore n f) := of_groups rfl

theorem updGroup (s : State) (t k : Nat) (f : Group → Group) (hf : Group.Calming f) : Calms s (s.updGroup t k f) := groups s _ f hf
theorem updArm (s : State) (c : CtxId) (f : Arm → Arm) (hf : ∀ a, (f a).wait.kind = .idle ∨ (f a).wait.kind = a.wait.kind) : Calms s (s.updArm c f) := updGroup s _ _ _ (.updArm hf c.arm)

/-! ### Traps, regrouping and retirement -/

theorem signalTl (s : State) (pa v : Nat) : Calms s (s.signalTl pa v) := by
  have hpoke (s : State) (pa n v : Nat) : Calms s (s.poke pa n v) := of_stays fun c => poke_stays ..
  unfold State.signalTl
  refine trans (t := if s.poisonAt pa then _ else _) ?_ (foldl _ (fun s t => ?_) _ _)
  · split
    · exact trans (t := { s with memPoison := s.memPoison.filter (fun l => l != pa / 128) }) (of_groups rfl) (hpoke ..)
    · split
      · exact hpoke ..
      · exact refl s
  · split
    · exact of_groups rfl
    · exact refl s

theorem freeze (s : State) (sup : Supplier) (t : Trap) (l team grp tenant : Nat) : Calms s (s.freeze sup t l team grp tenant) := by
  have hpoke (s : State) (pa n v : Nat) : Calms s (s.poke pa n v) := of_stays fun c => poke_stays ..
  have hnote (s : State) (pa : Nat) : Calms s (s.note pa) := of_stays fun c => note_stays ..
  unfold State.freeze
  split
  · exact refl s
  · next e _ =>
    extract_lets pa s1 h s2 v
    have h1 : Calms s s1 := hnote ..
    have h2 : Calms s1 s2 := (hpoke ..).trans (bb ..)
    split
    · exact h1.trans (h2.trans (of_stays fun c => pushErr_stays ..))
    · split
      · exact h1.trans h2
      · exact h1.trans (h2.trans ((hpoke ..).trans (signalTl ..)))

theorem noteTrap (s : State) (tm : Team) (g : Group) (t : Trap) : Calms s (s.noteTrap tm g t) := by
  unfold State.noteTrap
  dsimp only
  split
  · split
    · exact bb ..
    · exact (bb ..).trans (freeze ..)
  · exact bb ..

theorem pendTrap (s : State) (team grp : Nat) (t : Trap) : Calms s (s.updGroup team grp (fun g => g.pendTrap t)) := by
  refine updGroup s _ _ _ (.of_keeps ⟨fun g => ?_, fun g => ?_, fun g a => ?_⟩)
  all_goals
    unfold Group.pendTrap
    dsimp only
    split <;> rfl

theorem joinSquall (s : State) (q : Squall) (team grp : Nat) (t : Trap) : Calms s (s.joinSquall q team grp t) := by
  unfold State.joinSquall
  split
  · exact (pendTrap ..).trans (of_groups rfl)
  · exact pendTrap ..

theorem raise (s : State) (team grp : Nat) (t : Trap) : Calms s (s.raise team grp t) := by
  unfold State.raise
  split
  · next tm g _ _ =>
    extract_lets t l s1 s2
    have h1 : Calms s s1 := noteTrap ..
    split
    · have h2 : Calms s1 s2 := by
        show Calms s1 (if g.pend.length < 8 then s1 else _)
        split
        · exact refl _
        · exact bb ..
      exact h1.trans (h2.trans (joinSquall ..))
    · exact h1.trans (of_groups rfl)
  · exact refl s

theorem regroupTrap (s : State) (team : Nat) (gs : List Group) : Calms s (s.regroupTrap team gs) := by
  refine foldl _ (fun s g => ?_) gs s
  extract_lets a c s1
  have h : Calms s s1 := (raise s ..).trans (updArm _ c (fun a => { a with wait := {} }) fun _ => .inl rfl)
  refine h.trans ?_
  split
  · exact updArm s1 c (fun a => { a with pc := _, slot := _, wait := {}, left := none }) fun _ => .inl rfl
  · exact updArm s1 c (fun a => { a with halted := true }) fun _ => .inr rfl

theorem regroupMove (s : State) (team vr c : Nat) (old : List Group) (moves : List (Nat × Nat)) : Calms s (s.regroupMove team vr c old moves) := by
  refine foldl _ (fun s m => ?_) moves s
  split
  · next o d _ _ =>
    refine updGroup s _ _ _ (.of_keeps ?_)
    have hlane : Keeps (fun g => g.regroupLane o vr c (m.2 % d.width) (m.1 % o.width)) := by
      unfold Group.regroupLane
      refine Keeps.foldl _ (fun r => ?_) _
      dsimp only
      split
      · exact (Keeps.vpoison ..).comp (Keeps.vput ..)
      · exact Keeps.vput ..
    split
    · exact (Keeps.vput ..).comp hlane
    · exact hlane
  · exact refl s

theorem regroupTeam (s : State) (team : Nat) : Calms s (s.regroupTeam team) := by
  unfold State.regroupTeam
  dsimp only
  split
  · exact refl s
  · split
    · exact refl s
    · split
      · exact regroupTrap ..
      · exact (regroupMove ..).trans (foldl _ (fun s g => of_stays fun c => wake_stays ..) _ _)

theorem tokenGiven (s : State) (team grp : Nat) : Calms s (s.tokenGiven team grp) := by
  refine updGroup s _ _ _ (.mapArms fun a => .inr ?_)
  split <;> rfl

theorem bindEngine (s : State) (team : Nat) (t : Team) : Calms s (s.bindEngine team t) := by
  refine foldl _ (fun s c => ?_) _ s
  split
  · exact refl s
  · exact of_groups rfl

theorem grantTok (s : State) (core : Nat) : Calms s (s.grantTok core) := by
  unfold State.grantTok
  dsimp only
  split
  · exact refl s
  · split
    · exact refl s
    · exact (bindEngine ..).trans ((updTeam ..).trans (tokenGiven ..))

theorem leaveFront (s : State) (team grp : Nat) : Calms s (s.leaveFront team grp) := by
  unfold State.leaveFront
  split
  · exact refl s
  · split
    · exact refl s
    · exact of_stays fun c => (frontRemove_stays ..).trans (unbindFront_stays ..)

theorem retireGroup (s : State) (team grp : Nat) : Calms s (s.retireGroup team grp) := by
  unfold State.retireGroup
  extract_lets s1 s2 s3 s4 s5 s6
  have h1 : Calms s s2 := (leaveFront ..).trans (of_groups rfl)
  have h3 : Calms s2 s3 := by
    refine updGroup s2 _ _ _ ⟨fun _ => rfl, fun _ => rfl, fun g a => .inl ?_⟩
    unfold Group.arm
    dsimp only
    repeat' split
    all_goals rfl
  have h5 : Calms s4 s5 := by
    show Calms s4 (match s4.group team grp with | some g => s4.grantTok g.core | none => s4)
    split
    · exact grantTok ..
    · exact refl _
  have h4 : Calms s3 s4 := of_groups rfl
  have h6 : Calms s5 s6 := (foldl (fun s b => s.checkBar team b) (fun s b => of_stays fun c => checkBar_stays ..) (List.range 16) s5).trans (regroupTeam ..)
  clear_value s6
  clear_value s5
  clear_value s4
  clear_value s3
  have h6 : Calms s s6 := h1.trans (h3.trans (h4.trans (h5.trans h6)))
  split
  · exact h6.trans ((of_groups rfl).trans (of_stays fun c => commands_stays ..))
  · exact h6

theorem terminate (s : State) (team grp kind : Nat) (t : Trap) (detail : Nat) (info : W64) : Calms s (s.terminate team grp kind t detail info) := by
  unfold State.terminate
  extract_lets armBit core s1 s2 s3 s4
  have h1 : Calms s s1 := bb ..
  have h2 : Calms s1 s2 := groups s1 _ _ (.mapArms (f := fun a => { a with wait := {} }) fun a => .inl rfl)
  have h3 : Calms s2 s3 := foldl (fun s (g : Group) => s.retireGroup team g.idx) (fun s g => retireGroup s team g.idx) (s2.liveGroups team) s2
  have h4 : Calms s3 s4 := of_groups rfl
  have h : Calms s s4 := h1.trans (h2.trans (h3.trans h4))
  clear_value s4
  refine h.trans ?_
  unfold State.teamErr
  split
  · exact refl _
  · exact of_stays fun c => pushErr_stays ..

theorem loseTeam (s : State) (team grp : Nat) (t : Trap) : Calms s (s.loseTeam team grp t) := by
  unfold State.loseTeam
  extract_lets go
  have hgo (q : Squall) : Calms s (go q) := of_groups rfl
  split
  · exact refl s
  · split
    · split
      · exact terminate ..
      · split
        · exact refl s
        · exact hgo _
    · exact hgo _

/-! ### The matrix engine bound -/

theorem loadTiles {s u : State} {l : Launch} {t : Team} {core : Nat} (h : s.loadTiles l t core = .ok u) : Calms s u := by
  unfold State.loadTiles at h
  split at h
  · cases h
  · cases h
    exact updCore ..

/-- A fold that keeps its first error and ends without one had none, and each of its steps calms. -/
theorem of_foldl {α ε : Type} {f : Except ε State → α → Except ε State} (hf : ∀ acc x u, f acc x = .ok u → ∃ s, acc = .ok s ∧ Calms s u) (l : List α) {acc : Except ε State} {u : State}
    (h : l.foldl f acc = .ok u) : ∃ s, acc = .ok s ∧ Calms s u := by
  induction l generalizing acc with
  | nil => exact ⟨u, h, refl u⟩
  | cons x l ih =>
    obtain ⟨w, hw, hwu⟩ := ih h
    obtain ⟨s, hs, hsw⟩ := hf acc x w hw
    exact ⟨s, hs, hsw.trans hwu⟩

theorem restoreTiles (s : State) (team grp : Nat) (t : Trap) : Calms s (s.restoreTiles team grp t) := by
  unfold State.restoreTiles
  split
  · exact refl s
  · split
    · exact refl s
    · split
      · exact loseTeam ..
      · next u hu =>
        obtain ⟨_, e, h⟩ := of_foldl (fun acc c v hv => by
          cases acc with
          | error e => cases hv
          | ok w => exact ⟨w, rfl, loadTiles hv⟩) _ hu
        cases e
        exact h.trans (updTeam ..)

theorem engine (cx : Cx) (s : State) : Calms s (cx.engine s) := by
  unfold Cx.engine
  split
  · exact (bindEngine ..).trans (restoreTiles ..)
  · exact refl s

theorem enqueue (cx : Cx) (sel : Nat) (k : MKind) (op : Option Nat) (pair : Bool) (s : State) : Calms s (cx.enqueue sel k op pair s) := by
  unfold Cx.enqueue
  extract_lets u old src m
  have h : Calms u { u with nextId := u.nextId + 1 } := of_groups rfl
  exact (engine cx s).trans (h.trans (foldl (fun s c => s.updCore c (fun x => { x with mq := x.mq ++ [m] })) (fun s c => updCore ..) _ _))

theorem enqueueOp (cx : Cx) (sel : Nat) (k : MKind) (bobj : Option Nat) (pair : Bool) (s : State) : Calms s (cx.enqueueOp sel k bobj pair s) :=
  (of_stays fun c => issueOp_stays ..).trans (enqueue ..)

end Calms

end Sys2Proof.Machine


/-! The matrix instructions and the engine's queues (R320, R325, R327 to R336). -/

namespace Sys2Proof.Machine

/-! ### At the slot -/

theorem enqueue_settles {c : CtxId} (b : Body) (h : ∀ cx a s, Calms s (b.run cx a s)) : b.Settles c := fun cx a s _ hs => (h cx a s).stays c hs

theorem mma_issues {w : Word} {sp : Bool} {i : Instr} {s : State} {cx : Cx} (hexec : exec i s = issue i s (mmaBody w sp)) (hcap : i.form.cap = false) (h : Passes i s cx) (hc : cx.clean i)
    (hv : isVector i.form cx.h = false) (hheld : cx.mheld s (w.fspec.getLsbD 4) = false)
    (hok : ∀ k ∈ cx.arms false, s.rank10 cx [] (cx.recAt k w.a 32 :: (if sp then [(⟨0, (cx.srcU k w.a .u32).toNat + 32, 32⟩, 32)] else []) ++ [cx.recAt k w.b 32]) false = none) :
    exec i s = .next (cx.ends i (fun cx k s =>
      cx.enqueue k (.mma sp (w.fspec.toNat % 16) (cx.srcU k w.a .u32).toNat (cx.srcU k w.b .u32).toNat ((cx.srcU k w.c .u32).toNat % 2 ^ 32) (w.fspec.getLsbD 4)) none
        (w.fspec.getLsbD 4) s) (cx.begun i s)) :=
  hexec.trans (issue_settled (mmaBody w sp) h hc hcap rfl rfl rfl hheld (fun k hk => hok k (hv ▸ hk)) (fun _ _ => rfl) rfl (fun _ => rfl) (enqueue_settles _ fun _ _ _ => Calms.enqueue ..))

theorem mheld_op {cx : Cx} {s : State} {pair : Bool} (h : cx.mheld s pair = false) (h' : cx.opHeld 1 s = false) : (cx.mheld s pair || cx.opHeld clsMatrix s) = false := by
  rw [h]
  exact h'

theorem accRecord_issues {w : Word} {n : Nat} {kind : Nat → Nat → Bool → MKind} {i : Instr} {s : State} {cx : Cx} (hexec : exec i s = issue i s (accBody w n kind)) (hcap : i.form.cap = false)
    (h : Passes i s cx) (hc : cx.clean i) (hv : isVector i.form cx.h = false) (hheld : cx.mheld s (w.fspec.getLsbD 4) = false) (hop : cx.opHeld 1 s = false)
    (hok : ∀ k ∈ cx.arms false, s.rank10 cx [] (cx.recAt k w.a n :: cx.bobjBAcc k) false = none) :
    exec i s = .next (cx.ends i (fun cx k s =>
      cx.enqueueOp k (kind (w.fspec.toNat % 16) (cx.srcU k w.a .u32).toNat (w.fspec.getLsbD 4)) (cx.bobjB k) (w.fspec.getLsbD 4) s) (cx.begun i s)) :=
  hexec.trans (issue_settled (accBody w n kind) h hc hcap rfl rfl rfl (mheld_op hheld hop) (fun k hk => hok k (hv ▸ hk)) (fun _ _ => rfl) rfl (fun _ => rfl) (enqueue_settles _ fun _ _ _ => Calms.enqueueOp ..))

theorem matrixInstructionsIssue : Rules.MatrixInstructionsIssue := by
  refine ⟨fun sp i hi w s cx h hc hv hheld hok => ?_, fun w s cx h hc hv hheld hop hok => ?_, fun w s cx h hv hheld => ?_, fun i n kind hi w s cx h hc hv hheld hop hok => ?_,
    fun w s cx h hc hv hheld hok => ?_⟩
  · simp only [List.mem_cons, Prod.mk.injEq, List.not_mem_nil, or_false] at hi
    obtain ⟨rfl, rfl⟩ | ⟨rfl, rfl⟩ := hi
    · exact mma_issues rfl rfl h hc hv hheld hok
    · exact mma_issues rfl rfl h hc hv hheld hok
  · exact issue_settled _ h hc rfl rfl rfl rfl (mheld_op hheld hop) (fun k hk => hok k (hv ▸ hk)) (fun _ _ => rfl) rfl (fun _ => rfl) (enqueue_settles _ fun _ _ _ => Calms.enqueueOp ..)
  · obtain ⟨-, ha, hb, hc⟩ := unused_operands h.1 (gate_head h.2.1)
    exact issue_settled _ h (clean_of_no_operands (unused_z rfl ha) (unused_z rfl hb) (unused_z rfl hc) rfl) rfl rfl rfl rfl hheld (fun _ _ => rfl) (fun _ _ => rfl) rfl (fun _ => rfl)
      (enqueue_settles _ fun _ _ _ => Calms.enqueue ..)
  · simp only [List.mem_cons, Prod.mk.injEq, List.not_mem_nil, or_false] at hi
    obtain ⟨rfl, rfl, rfl⟩ | ⟨rfl, rfl, rfl⟩ := hi
    · exact accRecord_issues rfl rfl h hc hv hheld hop hok
    · exact accRecord_issues rfl rfl h hc hv hheld hop hok
  · exact issue_settled _ h hc rfl rfl rfl rfl hheld (fun k hk => hok k (hv ▸ hk)) (fun _ _ => rfl) rfl (fun _ => rfl) (enqueue_settles _ fun _ _ _ => Calms.enqueue ..)

/-! ### In the queues -/

/-- `t` is `s` but for what stands in the cores, and their queues are as they were. -/
structure Binds (s t : State) : Prop where
  same : t = { s with cores := t.cores }
  mq : ∀ c, (t.core c).mq = (s.core c).mq

theorem bindEngine_binds (s : State) (team : Nat) (t : Team) : Binds s (s.bindEngine team t) := by
  unfold State.bindEngine
  induction t.cores generalizing s with
  | nil => exact ⟨rfl, fun _ => rfl⟩
  | cons c l ih =>
    rw [List.foldl_cons]
    split
    · exact ih s
    · obtain ⟨hsame, hmq⟩ := ih (s.updCore c (fun x => { x with bound := some team, tiles := [], tilePoison := [] }))
      refine ⟨hsame, fun n => (hmq n).trans ?_⟩
      rw [core_updCore]
      split
      · next h => rw [h]
      · rfl

/-- A team whose tiles are in no image has its engines bound, and nothing more. -/
theorem engine_binds {cx : Cx} {s : State} {t : Team} (ht : s.team cx.c.team = some t) (hs : t.saved = false) : Binds s (cx.engine s) := by
  have hb := bindEngine_binds s cx.c.team t
  have hteam : (s.bindEngine cx.c.team t).team cx.c.team = some t := by
    rw [← ht, hb.same]
    rfl
  unfold Cx.engine
  rw [ht]
  dsimp only
  unfold State.restoreTiles
  rw [hteam]
  dsimp only
  rw [hs]
  exact hb

/-- An instruction that enters the queues of different cores stands last in each of them, and in no other. -/
theorem foldl_mq (m : MInst) (l : List Nat) (hl : l.Nodup) (s : State) :
    let u := l.foldl (fun s c => s.updCore c (fun x => { x with mq := x.mq ++ [m] })) s
    u = { s with cores := u.cores } ∧ ∀ c, (u.core c).mq = if c ∈ l then (s.core c).mq ++ [m] else (s.core c).mq := by
  induction l generalizing s with
  | nil => exact ⟨rfl, fun _ => rfl⟩
  | cons k l ih =>
    obtain ⟨hk, hl⟩ := List.nodup_cons.mp hl
    obtain ⟨hsame, hmq⟩ := ih hl (s.updCore k (fun x => { x with mq := x.mq ++ [m] }))
    refine ⟨hsame, fun c => (hmq c).trans ?_⟩
    rw [core_updCore]
    by_cases hc : k = c
    · subst hc
      simp [hk]
    · simp [hc, Ne.symm hc]

theorem queueEntered : Rules.QueueEntered := by
  intro cx k kind op pair s t ht hsaved hne u cores
  have hb := engine_binds (cx := cx) ht hsaved
  have hteam : (cx.engine s).team cx.c.team = some t := by
    rw [← ht, hb.same]
    rfl
  have hid : (cx.engine s).nextId = s.nextId := by rw [hb.same]
  let m : MInst := { id := s.nextId, kind := kind, tag := { cx.tag with arm := if cx.g.melded then 0 else k }, op := op, old := t.scr }
  have hu : u = cores.foldl (fun s c => s.updCore c (fun x => { x with mq := x.mq ++ [m] })) { cx.engine s with nextId := (cx.engine s).nextId + 1 } := by
    show (Cx.mcores cx (cx.engine s) pair).foldl _ _ = _
    unfold Cx.mcores
    rw [hteam, hid]
  have hnodup : cores.Nodup := by
    dsimp only [cores]
    split
    · unfold Team.cores
      cases hc : t.core2 with
      | none => simp
      | some b => simpa [hc, eq_comm] using hne
    · exact List.pairwise_singleton _ _
  obtain ⟨hsame, hmq⟩ := foldl_mq m cores hnodup { cx.engine s with nextId := (cx.engine s).nextId + 1 }
  rw [← hu] at hsame hmq
  have hq (c : Nat) : (u.core c).mq = if c ∈ cores then (s.core c).mq ++ [m] else (s.core c).mq := by
    rw [hmq c, show (State.core { cx.engine s with nextId := (cx.engine s).nextId + 1 } c).mq = (s.core c).mq from hb.mq c]
  refine ⟨fun c => ?_, fun c hc => ⟨m, by rw [hq, if_pos hc], rfl, rfl, rfl, rfl, rfl, rfl⟩, ?_, ?_, ?_⟩
  · rw [hq]
    split <;> simp [m]
  all_goals
    rw [hsame, hb.same]

/-! ### Tile moves (R335) -/

/-- A vector slot with no lane in Active() uses no word and meets no condition of its own (R427). -/
theorem issue_laneless {i : Instr} {s : State} {cx : Cx} (b : Body) (hgo : gate i s = .go cx) (hv : isVector i.form cx.h = true) (hact : cx.act = [])
    (hw : b.words i true cx = []) : issue i s b = issue i s { b with check := fun _ _ _ => none, check2 := fun _ _ _ => none, used := none } := by
  have hsrc (sel : Nat) : cx.srcWords i true sel = [] := by
    unfold Cx.srcWords Cx.namedWords
    rw [hact]
    rfl
  have hw' : ({ b with check := fun _ _ _ => none, check2 := fun _ _ _ => none, used := none } : Body).words i true cx = [] := List.flatMap_eq_nil_iff.mpr fun sel _ => hsrc sel
  have hfirst (b : Body) : b.first i true cx s = none := if_pos (by rw [hact]; simp)
  unfold issue
  rw [hgo]
  dsimp only
  rw [hv, hfirst, hfirst]
  unfold Body.effect Body.perform
  dsimp only
  rw [hw, hw']
  simp only [Body.runArms_congr (b := b) (b' := { b with check := fun _ _ _ => none, check2 := fun _ _ _ => none, used := none }) rfl rfl]
  rfl

/-- A tile move with no lane in Active() only goes on. -/
theorem tileMove_idle {i : Instr} {s : State} {cx : Cx} (b : Body) (h : Passes i s cx) (hv : isVector i.form cx.h = true) (hact : cx.act = []) (hw : b.words i true cx = [])
    (hcap : i.form.cap = false) (hown : b.own = false) (honce : b.once = false) (hhold : b.hold cx s = false) (hrel : b.rel cx = none) (hflush : ∀ s, b.flush cx s = [])
    (hrun : ∀ cx a s, cx.act = [] → b.run cx a s = s) : issue i s b = .next (cx.advance (cx.begun i s)) := by
  have hclean : cx.clean i := by
    unfold Cx.clean
    rw [formWords_idle hv hact]
    rfl
  have hb := h.begins hclean (ok := True) trivial
  rw [issue_laneless b h.2.1 hv hact hw, ← ends_vector cx i (fun _ _ s => s) (cx.begun i s) hv]
  refine issue_begins_of _ (fun _ _ s => s) (fun t => t = cx.begun i s) hb hcap hown honce rfl hhold (fun _ _ _ => rfl) (fun _ _ _ => rfl) hrel hflush rfl ?run ?one
  case run =>
    rintro a - t rfl
    exact ⟨hrun _ a _ hact, hb.opens.stays⟩
  case one =>
    rw [arms_of_vector cx hv]
    exact .inl rfl

theorem rowCheck_none {cx : Cx} {w : Word} (hh : cx.h = headR w) (h : (cx.srcU cx.oneSel w.a .u32).toNat % 2 ^ 32 ≤ 63) : cx.rowCheck cx.oneSel = none := by
  have ha : cx.h.a = w.a := congrArg Head.a hh
  unfold Cx.rowCheck
  rw [ha]
  exact if_neg (Nat.not_lt.mpr h)

/-- A tile move whose effect `f` puts it in the queue. -/
theorem tileMove_issues {i : Instr} {s : State} {cx : Cx} (b : Body) (f : Cx → Nat → State → State) (h : Passes i s cx) (hc : cx.clean i) (hv : isVector i.form cx.h = true) (hact : cx.act ≠ [])
    (hcap : i.form.cap = false) (hown : b.own = false) (honce : b.once = false) (hused : b.used = none) (hhold : b.hold cx s = false) (h1 : ∀ a, b.check cx a s = none) (h2 : ∀ a, b.check2 cx a s = none)
    (hrel : b.rel cx = none) (hflush : ∀ s, b.flush cx s = [])
    (hrun : ∀ cx a s, cx.act ≠ [] → b.run cx a s = f cx a s) (hf : ∀ cx a s, Calms s (f cx a s)) : issue i s b = .next (cx.ends i f (cx.begun i s)) := by
  have hb := h.begins hc (ok := True) trivial
  refine issue_begins_of b f (fun t => t.stays cx.c = false) hb hcap hown honce hused hhold (fun _ a _ => h1 a) (fun _ a _ => h2 a) hrel hflush hb.opens.stays
    (fun a _ t ht => ⟨hrun _ a t hact, (hf _ a t).stays _ ht⟩) ?one
  rw [arms_of_vector cx hv]
  exact .inl rfl

/-- What ACC.MOV to vector registers does. -/
def movTov (w : Word) (cx : Cx) (k : Nat) (s : State) : State :=
  let parts : List Part := (List.range (64 / cx.W)).flatMap (fun r => cx.act.map (fun L => { lane := L, regs := ((cx.dstRegs (64 / cx.W) L).drop r).take 1, pa := r * cx.W + L, n := 4 }))
  cx.enqueue k (.tov (w.fspec.toNat % 16) ((cx.srcU cx.oneSel w.a .u32).toNat % 2 ^ 32) s.nextId) none false
    (s.addAsync { id := 0, core := cx.core, tag := cx.tag, dest := .vec, ty := .f32, parts := parts })

theorem movTov_calms (w : Word) (cx : Cx) (k : Nat) (s : State) : Calms s (movTov w cx k s) := by
  have h (x : Async) : Calms s (s.addAsync x) := Calms.of_groups rfl
  exact (h _).trans (Calms.enqueue ..)

/-- What ACC.MOV to the accumulator does. -/
def movToa (w : Word) (cx : Cx) (k : Nat) (s : State) : State :=
  let vals := (List.range (64 / cx.W)).flatMap (fun r => cx.act.map (fun L => (r * cx.W + L, cx.g.vget (cx.runReg w.b r L) L)))
  cx.enqueue k (.toa (w.fspec.toNat % 16) ((cx.srcU cx.oneSel w.a .u32).toNat % 2 ^ 32) vals) none false s

theorem held_marked {x y : Bool} (hx : x = false) (hy : y = false) : (x || y) = false := by
  rw [hx, hy]
  rfl

theorem tileMovesIssue : Rules.TileMovesIssue := by
  refine ⟨fun w s cx h hc hv hheld hmark hrow hact => ?_, fun w s cx hact hheld => ⟨fun h hv hmark => ?_, fun h hv hmark => ?_⟩, fun w s cx h hp hv hheld hmark hrow hact => ?_⟩
  · exact tileMove_issues _ (movTov w) h hc hv hact rfl rfl rfl rfl (held_marked hheld hmark) (fun _ => rowCheck_none (head_of_gate h.2.1 rfl) hrow) (fun _ => rfl) rfl (fun _ => rfl)
      (fun cx a s hact => if_neg (by rw [List.isEmpty_iff]; exact hact)) (movTov_calms w)
  · refine tileMove_idle _ h hv hact ?_ rfl rfl rfl (held_marked hheld hmark) rfl (fun _ => rfl) fun cx a s hact => if_pos (List.isEmpty_iff.mpr hact)
    refine List.flatMap_eq_nil_iff.mpr fun sel _ => ?_
    show cx.srcWords _ true sel = []
    unfold Cx.srcWords Cx.namedWords
    rw [hact]
    rfl
  · refine tileMove_idle _ h hv hact ?_ rfl rfl rfl (held_marked hheld hmark) rfl (fun _ => rfl) fun cx a s hact => if_pos (List.isEmpty_iff.mpr hact)
    refine List.flatMap_eq_nil_iff.mpr fun sel _ => ?_
    show cx.act.flatMap _ = []
    rw [hact]
    rfl
  · exact (issue_unused _ h.2.1 hp).trans (tileMove_issues _ (movToa w) h (hp.clean _) hv hact rfl rfl rfl rfl (held_marked hheld hmark) (fun _ => rowCheck_none (head_of_gate h.2.1 rfl) hrow) (fun _ => rfl) rfl
      (fun _ => rfl) (fun cx a s hact => if_neg (by rw [List.isEmpty_iff]; exact hact)) (fun _ _ _ => Calms.enqueue ..))

/-- Settles O33: what a matrix instruction puts in the queues, where it stands in them, and the moves between tiles and registers. -/
theorem matrixInstructionsComplete : Obligations.MatrixInstructionsComplete := ⟨matrixInstructionsIssue, queueEntered, tileMovesIssue⟩

end Sys2Proof.Machine


/-! What accesses leave of memory at issue, whatever becomes of their slot (R70, R72, R73). -/

namespace Sys2Proof.Machine

/-- No byte of memory, no hash mask, no operation and no launch differs. -/
structure Unwritten (s t : State) : Prop where
  mem : t.mem = s.mem
  hashm : t.hashm = s.hashm
  ops : t.ops = s.ops
  launches : t.launches = s.launches

namespace Unwritten

theorem refl (s : State) : Unwritten s s := ⟨rfl, rfl, rfl, rfl⟩

theorem trans {s t u : State} (h : Unwritten s t) (h' : Unwritten t u) : Unwritten s u :=
  ⟨h'.mem.trans h.mem, h'.hashm.trans h.hashm, h'.ops.trans h.ops, h'.launches.trans h.launches⟩

theorem of_beside {s t : State} (h : Beside s t) : Unwritten s t := by
  rw [h.eq]
  exact ⟨rfl, rfl, rfl, rfl⟩

theorem of_wires {s t : State} (h : Wires s t) : Unwritten s t := ⟨h.mem, h.hashm, h.ops, h.launches⟩

theorem updTeam (s : State) (t : Nat) (f) : Unwritten s (s.updTeam t f) := ⟨rfl, rfl, rfl, rfl⟩
theorem updGroup (s : State) (t k : Nat) (f) : Unwritten s (s.updGroup t k f) := ⟨rfl, rfl, rfl, rfl⟩
theorem updArm (s : State) (c : CtxId) (f) : Unwritten s (s.updArm c f) := ⟨rfl, rfl, rfl, rfl⟩
theorem bb (s : State) (a b c d : Nat) (x : W64) (e : Nat) : Unwritten s (s.bb a b c d x e) := of_beside (Beside.bb ..)

/-! ### Traps -/

theorem joinSquall (s : State) (q : Squall) (team grp : Nat) (t : Trap) : Unwritten s (s.joinSquall q team grp t) := by
  unfold State.joinSquall
  split
  · exact (updGroup ..).trans (updTeam ..)
  · exact updGroup ..

/-- A trap in a group that no queue supplied leaves memory as it was (R471). -/
theorem raise {s : State} {team : Nat} (h : ∀ tm, s.team team = some tm → tm.supplier = none) (grp : Nat) (t : Trap) : Unwritten s (s.raise team grp t) := by
  unfold State.raise
  split
  · next tm g htm _ =>
    extract_lets t l s1 s2
    have h1 : Unwritten s s1 := by
      show Unwritten s (s.noteTrap tm g t)
      unfold State.noteTrap
      rw [h tm htm]
      exact bb ..
    split
    · have h2 : Unwritten s1 s2 := by
        show Unwritten s1 (if g.pend.length < 8 then s1 else _)
        split
        · exact refl _
        · exact bb ..
      exact h1.trans (h2.trans (joinSquall ..))
    · exact h1.trans (updTeam ..)
  · exact refl s

theorem advance (cx : Cx) (s : State) : Unwritten s (cx.advance s) := updArm ..

theorem trap {cx : Cx} {s : State} (h : ∀ tm, s.team cx.c.team = some tm → tm.supplier = none) (b : Bad) : Unwritten s (cx.trap b s) := by
  unfold Cx.trap
  extract_lets t s1
  have h1 : Unwritten s s1 := raise h ..
  split
  · exact h1.trans (advance ..)
  · exact h1.trans ((updArm ..).trans (updArm ..))

/-! ### A slot -/

theorem capture (cx : Cx) (d s : State) : Unwritten s (cx.capture d s) := by
  unfold Cx.capture
  split
  · exact of_beside (Beside.updPort ..)
  · exact refl s

end Unwritten

theorem Body.before_wires (b : Body) (cx : Cx) (s : State) : Wires s (b.before cx s).1 := by
  unfold Body.before
  extract_lets r f
  have hr : Wires s r.1 := by
    dsimp only [r]
    split
    · exact Wires.startRelease ..
    · exact Wires.refl s
  exact hr.trans (Wires.foldl _ (fun s ln => Wires.writeBack ..) _ _)

/-- A team's scratchpad stands in its pool. -/
def State.pooled (s : State) (team : Nat) : Prop := (s.team team).map Team.place ≠ some .unplaced

/-- Where a team's scratchpad stands in its pool, nothing of memory differs, and the team stands there still. -/
structure UnwrittenPooled (team : Nat) (s t : State) : Prop where
  keeps : s.pooled team → Unwritten s t ∧ t.pooled team

namespace UnwrittenPooled

theorem refl (team : Nat) (s : State) : UnwrittenPooled team s s := ⟨fun h => ⟨.refl s, h⟩⟩

theorem trans {team : Nat} {s t u : State} (h : UnwrittenPooled team s t) (h' : UnwrittenPooled team t u) : UnwrittenPooled team s u := by
  refine ⟨fun hs => ?_⟩
  obtain ⟨ht, hp⟩ := h.keeps hs
  obtain ⟨hu, hp⟩ := h'.keeps hp
  exact ⟨ht.trans hu, hp⟩

theorem of_teams {s t : State} (h : Unwritten s t) (ht : t.teams = s.teams) (team : Nat) : UnwrittenPooled team s t := by
  refine ⟨fun hs => ⟨h, ?_⟩⟩
  unfold State.pooled State.team at hs ⊢
  rwa [ht]

theorem of_beside {s t : State} (h : Beside s t) (team : Nat) : UnwrittenPooled team s t := of_teams (.of_beside h) (by rw [h.eq]) team
theorem of_wires {s t : State} (h : Wires s t) (team : Nat) : UnwrittenPooled team s t := of_teams (.of_wires h) h.teams team
theorem updArm (team : Nat) (s : State) (c : CtxId) (f) : UnwrittenPooled team s (s.updArm c f) := of_beside (Beside.updArm ..) team

theorem foldl {α : Type} {team : Nat} (f : State → α → State) (hf : ∀ s x, UnwrittenPooled team s (f s x)) (l : List α) (s : State) : UnwrittenPooled team s (l.foldl f s) := by
  induction l generalizing s with
  | nil => exact refl team s
  | cons x t ih => exact (hf s x).trans (ih _)

/-- Executions that leave memory leave it all together. -/
theorem runArms {team : Nat} {cx : Cx} (b : Body) (hrun : ∀ u a, UnwrittenPooled team u (b.run (cx.refresh u) a u)) (all l : List Nat) (k : Nat) (s : State) :
    UnwrittenPooled team s (b.runArms cx all k l s) := by
  induction l generalizing k s with
  | nil => exact refl team s
  | cons a t ih =>
    unfold Body.runArms
    dsimp only
    split
    · exact (hrun s a).trans (updArm ..)
    · exact (hrun s a).trans (ih _ _)

end UnwrittenPooled

namespace Unwritten

theorem perform {cx : Cx} (b : Body) (i : Instr) (vec : Bool) (hrun : ∀ cx' : Cx, cx'.c = cx.c → ∀ u a, UnwrittenPooled cx.c.team u (b.run cx' a u)) {s : State} (hs : s.pooled cx.c.team) :
    Unwritten s (b.perform i vec cx s) := by
  unfold Body.perform
  extract_lets k go s0 s1 s2
  have h0 : UnwrittenPooled cx.c.team s s0 := .of_beside ((Beside.deferred ..).trans (Beside.issued ..)) _
  have h1 : UnwrittenPooled cx.c.team s0 s1 := UnwrittenPooled.runArms b (fun u a => hrun (cx.refresh u) rfl u a) ..
  obtain ⟨h1, -⟩ := (h0.trans h1).keeps hs
  have h2 : Unwritten s1 s2 := by
    show Unwritten s1 (if _ then cx.capture _ s1 else s1)
    split
    · exact capture ..
    · exact refl _
  split
  · exact h1.trans h2
  · exact h1.trans (h2.trans (advance ..))

theorem effect {cx : Cx} (b : Body) (i : Instr) (vec : Bool) (hrun : ∀ cx' : Cx, cx'.c = cx.c → ∀ u a, UnwrittenPooled cx.c.team u (b.run cx' a u)) {s : State} (hs : s.pooled cx.c.team) :
    Unwritten s (b.effect i vec cx s) := by
  unfold Body.effect
  extract_lets w p
  have hstart : ∀ u, UnwrittenPooled cx.c.team s u → Unwritten s (b.perform i vec cx u) := by
    intro u hu
    obtain ⟨hu, hp⟩ := hu.keeps hs
    exact hu.trans (perform b i vec hrun hp)
  split
  · exact hstart _ (.updArm ..)
  · split
    · exact hstart s (.refl ..)
    · split
      · exact (of_wires (b.before_wires cx s)).trans (updArm ..)
      · exact hstart _ (.of_wires (b.before_wires cx s) _)

end Unwritten

/-- The context of a slot that its shared conditions trap or let through. -/
theorem gate_cur {i : Instr} {s : State} {cur : Cur} (hcur : s.cur = some cur) :
    (∀ cx b, gate i s = .trap cx b → cx.c = cur.c) ∧ (∀ cx, gate i s = .go cx → cx.c = cur.c ∧ ∃ tm, s.team cur.c.team = some tm ∧ tm.place.here = true) := by
  refine ⟨fun cx b h => ?_, fun cx h => ?_⟩
  · unfold gate at h
    split at h
    · next cur' hd hc hh =>
      cases hcur.symm.trans hc
      split at h
      · cases h
      · dsimp only at h
        split at h
        · cases h
        · split at h
          · split at h
            · cases h; rfl
            · cases h
          · split at h
            · cases h; rfl
            · split at h
              · cases h
              · split at h
                · cases h; rfl
                · cases h
    · cases h
  · obtain ⟨hd, cur', g, -, hc, hctx, -, rfl⟩ := gate_go_settled h
    cases hcur.symm.trans hc
    refine ⟨rfl, ?_⟩
    unfold State.context at hctx
    split at hctx
    · next tm g' htm _ =>
      split at hctx
      · next hgo =>
        simp only [Bool.and_eq_true] at hgo
        obtain ⟨⟨⟨⟨hhere, -⟩, -⟩, -⟩, -⟩ := hgo
        exact ⟨tm, htm, hhere⟩
      · cases hctx
    · cases hctx

/-- A slot whose meaning leaves memory leaves it whatever becomes of the slot, in a group that no queue supplied. -/
theorem issue_unwritten {i : Instr} {s t : State} {cur : Cur} {tm : Team} (b : Body) (hcur : s.cur = some cur) (htm : s.team cur.c.team = some tm) (hsup : tm.supplier = none)
    (hrun : ∀ cx : Cx, ∀ u a, UnwrittenPooled cx.c.team u (b.run cx a u)) (h : issue i s b = .next t) : Unwritten s t := by
  obtain ⟨htrap, hgo⟩ := gate_cur (i := i) hcur
  have hnone (cx : Cx) (hc : cx.c = cur.c) : ∀ x, s.team cx.c.team = some x → x.supplier = none := by
    intro x hx
    rw [hc, htm] at hx
    rwa [← Option.some.inj hx]
  unfold issue at h
  split at h
  · cases h
  · cases h
    exact .refl s
  · next cx bad hg =>
    cases h
    exact .trap (hnone cx (htrap cx bad hg)) bad
  · cases h
    refine .trans ?_ (.advance ..)
    unfold Cx.passed
    extract_lets vec s1
    have h1 : Unwritten s s1 := .of_beside ((Beside.deferred ..).trans (Beside.issued ..))
    split
    · exact h1
    · exact h1.trans (.capture ..)
  · next cx hg =>
    obtain ⟨hc, x, hx, hhere⟩ := hgo cx hg
    dsimp only at h
    split at h
    · cases h
      exact .refl s
    · split at h
      · cases h
        exact .trap (hnone cx hc) _
      · cases h
        refine (Unwritten.updGroup ..).trans (.effect b i _ (fun cx' hc' u a => hc' ▸ hrun cx' u a) ?_)
        show (s.team cx.c.team).map Team.place ≠ some .unplaced
        rw [hc, hx]
        intro e
        rw [Option.some.inj e] at hhere
        cases hhere

/-! ### The instructions that reach memory through the home slices -/

theorem UnwrittenPooled.scrWrite {team : Nat} (s : State) (off n v : Nat) : UnwrittenPooled team s (s.scrWrite team off n v) := by
  refine ⟨fun hs => ?_⟩
  unfold State.pooled at hs ⊢
  cases ht : s.team team with
  | none =>
    have e : s.scrWrite team off n v = s := by
      unfold State.scrWrite
      rw [ht]
    rw [e, ht]
    exact ⟨.refl s, by simp⟩
  | some t =>
    rw [ht] at hs
    have hp : t.place ≠ .unplaced := fun e => hs (congrArg some e)
    obtain ⟨t', ht', hplace, -⟩ := scrWrite_pool ht hp off n v
    rw [ht']
    refine ⟨?_, fun e => hp (hplace.symm.trans (Option.some.inj e))⟩
    unfold State.scrWrite
    rw [ht]
    dsimp only
    rw [if_neg hp]
    exact Unwritten.updTeam ..

theorem UnwrittenPooled.evalBobj {team : Nat} (s : State) (off : Nat) : UnwrittenPooled team s (s.evalBobj team off) := by
  have hwake (s : State) (f : Nat → Option W32) : UnwrittenPooled team s (s.wakeBobj team off f) := .of_beside (Beside.of_groups _) team
  unfold State.evalBobj
  split
  · exact .refl ..
  · dsimp only
    split
    · exact (hwake ..).trans ((UnwrittenPooled.scrWrite ..).trans (hwake ..))
    · exact hwake ..

theorem atom_unwritten (w : Word) (vec : Bool) (n dn : Nat) (t : Ty) (cas : Bool) (op : Cx → Nat → Nat → Nat → SliceOp) (cx : Cx) (u : State) (a : Nat) :
    UnwrittenPooled cx.c.team u ((atomBody w vec n dn t cas op).run cx a u) := .of_wires ((Wires.fills ..).trans (Wires.sendOps ..)) _

theorem load_unwritten (w : Word) (vec : Bool) (cx : Cx) (u : State) (a : Nat) : UnwrittenPooled cx.c.team u ((loadBody w vec).run cx a u) :=
  .of_wires ((Wires.fills ..).trans (Wires.startLoad ..)) _

theorem Wires.ite {s t u : State} {p : Prop} [Decidable p] (h : Wires s t) (h' : Wires s u) : Wires s (if p then t else u) := by
  split
  · exact h
  · exact h'

theorem store_unwritten (w : Word) (vec : Bool) (cx : Cx) (u : State) (a : Nat) : UnwrittenPooled cx.c.team u ((storeBody w vec).run cx a u) := by
  refine .of_wires ?_ _
  have h1 (l : List (Nat × Nat × Nat)) (accs : List Acc) (hint : Nat) (strong : Bool) : Wires u (cx.storeMany l hint strong (u.fills cx.core cx.tenant accs)) := (Wires.fills ..).trans (Wires.storeMany ..)
  dsimp only [storeBody]
  exact Wires.ite (h1 ..) (Wires.ite ((h1 ..).trans (Wires.storeOut ..)) ((h1 ..).trans (Wires.storeKept ..)))

theorem fence_unwritten (w : Word) (cx : Cx) (u : State) (_ : Nat) : UnwrittenPooled cx.c.team u (if w.fspec.toNat / 64 % 2 = 1 then cx.acquire w.scope.toNat u else u) := by
  split
  · unfold Cx.acquire
    split
    · exact .of_wires (Wires.acquire ..) _
    · exact .refl ..
  · exact .refl ..

/-- Settles O54: each meaning sends, or writes the scratchpad; a trap of a group that is no task writes the black box alone. -/
theorem memoryWaitsForSlices : Obligations.MemoryWaitsForSlices := by
  intro f hf w s t cur tm hcur htm hsup h
  suffices hu : Unwritten s t from ⟨hu.mem, hu.hashm, hu.ops, hu.launches⟩
  simp only [Rules.throughSlices, List.mem_cons, List.not_mem_nil, or_false] at hf
  rcases hf with rfl | rfl | rfl | rfl | rfl | rfl | rfl | rfl | rfl | rfl | rfl | rfl | rfl | rfl | rfl
  · exact issue_unwritten _ hcur htm hsup (load_unwritten w _) h
  · exact issue_unwritten _ hcur htm hsup (store_unwritten w _) h
  · exact issue_unwritten _ hcur htm hsup (load_unwritten w _) h
  · exact issue_unwritten _ hcur htm hsup (store_unwritten w _) h
  · exact issue_unwritten _ hcur htm hsup (fun cx u a => .of_wires (Wires.addAsync ..) _) h
  · exact issue_unwritten _ hcur htm hsup (fun cx u a => (UnwrittenPooled.foldl _ (fun s x => UnwrittenPooled.scrWrite ..) _ _).trans (.foldl _ (fun s k => UnwrittenPooled.evalBobj ..) _ _)) h
  · exact issue_unwritten _ hcur htm hsup (fun cx u a => .refl ..) h
  · exact issue_unwritten _ hcur htm hsup (fun cx u a => .of_wires (Wires.invalidate ..) _) h
  · exact issue_unwritten _ hcur htm hsup (atom_unwritten w _ _ _ _ _ _) h
  · exact issue_unwritten _ hcur htm hsup (atom_unwritten w _ _ _ _ _ _) h
  · exact issue_unwritten _ hcur htm hsup (atom_unwritten w _ _ _ _ _ _) h
  · exact issue_unwritten _ hcur htm hsup (atom_unwritten w _ _ _ _ _ _) h
  · exact issue_unwritten _ hcur htm hsup (atom_unwritten w _ _ _ _ _ _) h
  · exact issue_unwritten _ hcur htm hsup (fence_unwritten w) h
  · exact issue_unwritten _ hcur htm hsup (fun cx u a => .refl ..) h

end Sys2Proof.Machine


/-! Every step keeps memory in its canonical form (log 1): no operation writes the list of bytes but by the writes of the memory, which keep it so. The lemmas go with the definitions of the model: `f_canonical` says that what `f` leaves has canonical memory when the state before it had. This file holds the ways to carry that through folds and failing computations, and the first operations. -/

namespace Sys2Proof.Machine

/-- The body of an instruction keeps memory in its canonical form (log 1), in whatever state it runs. -/
def Body.Canonical (b : Body) : Prop := ∀ cx k s, s.mem.wf → (b.run cx k s).mem.wf

/-- What a member-mask operation writes keeps memory in its canonical form. -/
def Member.Canonical (m : Member) : Prop := ∀ cx l s, s.mem.wf → (m.put cx l s).mem.wf

/-- The states that a turn stands in have memory in its canonical form. -/
def Turn.Canonical : Turn → Prop
  | .held s | .done s | .run _ s => s.mem.wf
  | .finish _ _ s v => s.mem.wf ∧ v.mem.wf

theorem foldl_canonical {α : Type} {f : State → α → State} {s : State} (h : s.mem.wf) (l : List α) (hf : ∀ s x, s.mem.wf → (f s x).mem.wf) : (l.foldl f s).mem.wf := by
  induction l generalizing s with
  | nil => exact h
  | cons x l ih => exact ih (hf s x h)

theorem bind_eq_match {ε α β : Type} (x : Except ε α) (f : α → Except ε β) : (x >>= f) = match x with | .ok a => f a | .error e => .error e := by
  cases x <;> rfl

/-- What a computation that may fail returns satisfies `P`, when its first part returns only what makes the rest do so. -/
theorem of_bind {ε α β : Type} {P : Prop} {x : Except ε α} {f : α → Except ε β} {b : β} (h : ∀ a, x = .ok a → f a = .ok b → P) : (x >>= f) = .ok b → P := by
  cases x with
  | error e => exact nofun
  | ok a => exact h a rfl

theorem of_ok {ε : Type} {s u : State} (h : s.mem.wf) : (Except.ok s : Except ε State) = .ok u → u.mem.wf := by
  rintro ⟨⟩
  exact h

/-- A fold that stops at its first failure returns a canonical memory when every step does. -/
theorem foldl_ok_canonical {ε α : Type} {f : Except ε State → α → Except ε State} {r : Except ε State} (hr : ∀ u, r = .ok u → u.mem.wf) (l : List α)
    (hf : ∀ acc x, (∀ u, acc = .ok u → u.mem.wf) → ∀ u, f acc x = .ok u → u.mem.wf) {u : State} : l.foldl f r = .ok u → u.mem.wf :=
  List.foldlRecOn (motive := fun acc => ∀ u, acc = .ok u → u.mem.wf) l f hr (fun acc h x _ => hf acc x h) u

theorem bind_eq_ok {ε α β : Type} {x : Except ε α} {f : α → Except ε β} {b : β} : (x >>= f) = .ok b ↔ ∃ a, x = .ok a ∧ f a = .ok b := by
  cases x with
  | error e => exact ⟨nofun, nofun⟩
  | ok a => exact ⟨fun h => ⟨a, rfl, h⟩, fun ⟨_, ha, h⟩ => by cases ha; exact h⟩

theorem of_unless {ε β : Type} {P c : Prop} [Decidable c] {x : Except ε β} {err : ε} {b : β} (h : x = .ok b → P) : (if c then .error err else x) = .ok b → P := by
  split
  · exact nofun
  · exact h

theorem ite_canonical {c : Prop} [Decidable c] {s t : State} (h : s.mem.wf) (h' : t.mem.wf) : (if c then s else t).mem.wf := by
  split
  · exact h
  · exact h'

theorem of_next {s u : State} (h : s.mem.wf) : (Host.Outcome.next s : Host.Outcome State Fault Refusal) = .next u → u.mem.wf := by
  rintro ⟨⟩
  exact h

/-! ### Parts of the state -/

theorem State.updCore_canonical {s : State} (h : s.mem.wf) (n : Nat) (f : Core → Core) : (s.updCore n f).mem.wf := h

theorem State.updTeam_canonical {s : State} (h : s.mem.wf) (t : Nat) (f : Team → Team) : (s.updTeam t f).mem.wf := h

theorem State.updGroup_canonical {s : State} (h : s.mem.wf) (t g : Nat) (f : Group → Group) : (s.updGroup t g f).mem.wf := h

theorem State.updLaunch_canonical {s : State} (h : s.mem.wf) (l : Nat) (f : Launch → Launch) : (s.updLaunch l f).mem.wf := h

theorem State.updTenant_canonical {s : State} (h : s.mem.wf) (n : Nat) (f : Tenant → Tenant) : (s.updTenant n f).mem.wf := h

theorem State.updArm_canonical {s : State} (h : s.mem.wf) (c : CtxId) (f : Arm → Arm) : (s.updArm c f).mem.wf := h

theorem State.take_canonical {s : State} (h : s.mem.wf) : s.take.1.mem.wf := h

theorem State.free_canonical {s : State} (h : s.mem.wf) : s.free.1.mem.wf := h

theorem State.bb_canonical {s : State} (h : s.mem.wf) (die unit tenant cause : Nat) (info : W64) (detail : Nat) : (s.bb die unit tenant cause info detail).mem.wf := by
  unfold State.bb
  grind

/-! ### Registers, and where a context goes on (R45, R182) -/

theorem Cx.writeV_canonical {s : State} (h : s.mem.wf) (cx : Cx) (t : Ty) (vals : List (Nat × W64)) : (cx.writeV t vals s).mem.wf := by
  unfold Cx.writeV
  grind [State.updGroup_canonical]

theorem Cx.writeU_canonical {s : State} (h : s.mem.wf) (cx : Cx) (sel : Nat) (t : Ty) (x : W64) : (cx.writeU sel t x s).mem.wf := by
  unfold Cx.writeU
  grind [State.updGroup_canonical]

theorem Cx.writeP_canonical {s : State} (h : s.mem.wf) (cx : Cx) (i : Nat) (vals : List (Nat × Bool)) : (cx.writeP i vals s).mem.wf := by
  unfold Cx.writeP
  grind [State.updGroup_canonical]

theorem Cx.writeQ_canonical {s : State} (h : s.mem.wf) (cx : Cx) (sel i : Nat) (b : Bool) : (cx.writeQ sel i b s).mem.wf := by
  unfold Cx.writeQ
  grind [State.updGroup_canonical]

theorem State.jump_canonical {s : State} (h : s.mem.wf) (c : CtxId) (bundle slot : Nat) : (s.jump c bundle slot).mem.wf := h

theorem Cx.advance_canonical {s : State} (h : s.mem.wf) (cx : Cx) : (cx.advance s).mem.wf := h

theorem Cx.stay_canonical {s : State} (h : s.mem.wf) (cx : Cx) (w : Wait) : (cx.stay w s).mem.wf := h

/-! ### Bytes written, and translations (R74, R81-R83) -/

theorem State.note_canonical {s : State} (h : s.mem.wf) (pa : Nat) : (s.note pa).mem.wf := by
  unfold State.note
  grind

theorem State.wake_canonical {s : State} (h : s.mem.wf) (c : CtxId) (v : W32) : (s.wake c v).mem.wf := h

theorem State.pokeMask_canonical {s : State} (h : s.mem.wf) (pa n mask v : Nat) : (s.pokeMask pa n mask v).mem.wf := by
  exact pokeMask_wf s pa n mask v h

theorem State.poke_canonical {s : State} (h : s.mem.wf) (pa n v : Nat) : (s.poke pa n v).mem.wf := by
  unfold State.poke
  grind [State.note_canonical, State.pokeMask_canonical]

theorem State.fillCore_canonical {s : State} (h : s.mem.wf) (core : Nat) (e : TlbEntry) : (s.fillCore core e).mem.wf := by
  unfold State.fillCore
  grind [State.updCore_canonical]

theorem State.fillAgent_canonical {s : State} (h : s.mem.wf) (unit : Nat) (e : TlbEntry) : (s.fillAgent unit e).mem.wf := by
  unfold State.fillAgent
  grind

/-! ### The first-level cache, releases and acquires (R70-R75, R95-R99) -/

theorem State.noFill_canonical {s : State} (h : s.mem.wf) (core : Nat) (p : Nat → Bool) : (s.noFill core p).mem.wf := h

theorem State.send_canonical {s : State} (h : s.mem.wf) (r : Req) : (s.send r).mem.wf := by
  unfold State.send
  grind [State.note_canonical]

theorem State.writeBack_canonical {s : State} (h : s.mem.wf) (core ln : Nat) (strong : List (Nat × Nat)) : (s.writeBack core ln strong).mem.wf := by
  unfold State.writeBack
  grind [State.noFill_canonical, State.updCore_canonical, State.send_canonical]

theorem State.evict_canonical {s : State} (h : s.mem.wf) (core ln : Nat) : (s.evict core ln).mem.wf := by
  unfold State.evict
  grind [State.updCore_canonical, State.writeBack_canonical]

theorem State.alloc_canonical {s : State} (h : s.mem.wf) (core ln : Nat) (next : Bool) (tag : Tag) : (s.alloc core ln next tag).mem.wf := by
  unfold State.alloc
  grind [State.updCore_canonical, State.evict_canonical]

theorem State.store_canonical {s : State} (h : s.mem.wf) (core : Nat) (tag : Tag) (pa n v hint : Nat) : (s.store core tag pa n v hint).mem.wf := by
  unfold State.store
  grind [State.note_canonical, State.updCore_canonical, State.alloc_canonical]

theorem State.markStrong_canonical {s : State} (h : s.mem.wf) (core pa n : Nat) : (s.markStrong core pa n).mem.wf := h

theorem State.bypass_canonical {s : State} (h : s.mem.wf) (core : Nat) (tag : Tag) (l : List (Nat × Nat × Nat)) (strong : Bool) : (s.bypass core tag l strong).mem.wf :=
  foldl_canonical h _ fun s x h => by grind [State.noFill_canonical, State.updCore_canonical, State.send_canonical]

theorem State.freeLine_canonical {s : State} (h : s.mem.wf) : s.freeLine.1.mem.wf := h

theorem State.blurPart_canonical {s : State} (h : s.mem.wf) (tag : Tag) (p : Part) : (s.blurPart tag p).1.mem.wf := by
  unfold State.blurPart
  grind [State.freeLine_canonical]

theorem State.blurParts_canonical {s : State} (h : s.mem.wf) (tag : Tag) (l : List Part) : (s.blurParts tag l).1.mem.wf := by
  induction l generalizing s with
  | nil => exact h
  | cons p l ih => exact ih (State.blurPart_canonical h ..)

theorem State.loadParts_canonical {s : State} (h : s.mem.wf) (core : Nat) (tag : Tag) (async : Nat) (parts : List Part) (hint : Nat) (strong : Bool) : (s.loadParts core tag async parts hint strong).1.mem.wf := by
  unfold State.loadParts
  grind [foldl_canonical, State.blurParts_canonical, State.note_canonical, State.send_canonical]

theorem State.fillLine_canonical {s : State} (h : s.mem.wf) (r : Req) (data : BitVec 1024) (poison : Bool) : (s.fillLine r data poison).mem.wf := by
  unfold State.fillLine
  grind [State.updCore_canonical, State.alloc_canonical]

theorem State.writeBackAll_canonical {s : State} (h : s.mem.wf) (core : Nat) (p : Nat → Bool) : (s.writeBackAll core p).1.mem.wf :=
  foldl_canonical h _ fun s x h => by grind [State.writeBack_canonical]

theorem State.startRelease_canonical {s : State} (h : s.mem.wf) (core : Nat) (t : Team) (team grp scope : Nat) : (s.startRelease core t team grp scope).1.mem.wf := by
  unfold State.startRelease
  grind [State.writeBackAll_canonical]

theorem State.invalidate_canonical {s : State} (h : s.mem.wf) (core : Nat) (p : Nat → Bool) : (s.invalidate core p).mem.wf := h

theorem State.orderArms_canonical {s : State} (h : s.mem.wf) (core team grp : Nat) : (s.orderArms core team grp).mem.wf := by
  unfold State.orderArms
  grind [State.invalidate_canonical]

theorem State.acquire_canonical {s : State} (h : s.mem.wf) (core : Nat) (t : Team) (scope : Nat) : (s.acquire core t scope).mem.wf := by
  unfold State.acquire
  grind [State.invalidate_canonical]

end Sys2Proof.Machine


/-! Memory stays canonical through the operations on queues, barriers, fronts, traps and teams, and through the issue of a slot. -/

namespace Sys2Proof.Machine

/-! ### Queues, faults, barriers, fronts, traps and teams -/

theorem State.vwrite_canonical {s : State} {tr : Nat → Tr} {va n v : Nat} {u : State} (h : s.mem.wf) (e : s.vwrite tr va n v = .ok u) : u.mem.wf := by
  unfold State.vwrite at e
  split at e
  · cases e
  · cases e
    exact foldl_canonical h _ fun s x h => by grind [State.poke_canonical]

theorem State.msi_canonical {s : State} (h : s.mem.wf) (tenant v : Nat) : (s.msi tenant v).mem.wf := by
  unfold State.msi
  grind [State.poke_canonical, State.updTenant_canonical]

theorem State.bfStamp_canonical {s : State} (h : s.mem.wf) (pa index : Nat) : (s.bfStamp pa index).mem.wf := by
  unfold State.bfStamp
  grind [foldl_canonical, State.updTenant_canonical]

theorem State.qPush_canonical {s : State} (h : s.mem.wf) (tr : Nat → Tr) (pa data : Nat) : (s.qPush tr pa data).1.mem.wf := by
  unfold State.qPush
  extract_lets r
  split
  · exact h
  · split
    · exact h
    · split
      · split
        · exact h
        · exact State.bfStamp_canonical (State.poke_canonical (State.poke_canonical h ..) ..) ..
      · exact h

theorem State.qPop_canonical {s : State} (h : s.mem.wf) (tr : Nat → Tr) (pa : Nat) : (s.qPop tr pa).1.mem.wf := by
  unfold State.qPop
  grind [State.note_canonical, State.poke_canonical]

theorem State.agentPush_canonical {s : State} (h : s.mem.wf) (unit tenant va data : Nat) : (s.agentPush unit tenant va data).1.mem.wf := by
  unfold State.agentPush
  grind [State.note_canonical, State.qPush_canonical]

theorem State.agentPop_canonical {s : State} (h : s.mem.wf) (unit tenant va : Nat) : (s.agentPop unit tenant va).1.mem.wf := by
  unfold State.agentPop
  grind [State.note_canonical, State.qPop_canonical]

theorem State.writeErr_canonical {s : State} (h : s.mem.wf) (r : ErrRec) : (s.writeErr r).mem.wf := by
  unfold State.writeErr
  grind [State.agentPush_canonical, State.bb_canonical, State.updTenant_canonical, State.msi_canonical]

theorem State.pushErr_canonical {s : State} (h : s.mem.wf) (r : ErrRec) : (s.pushErr r).mem.wf := by
  unfold State.pushErr
  grind [State.writeErr_canonical]

theorem State.flushErrs_canonical {s : State} (h : s.mem.wf) : s.flushErrs.mem.wf := by
  unfold State.flushErrs
  grind [foldl_canonical, State.writeErr_canonical]

theorem State.teamErr_canonical {s : State} (h : s.mem.wf) (team grp kind : Nat) (t : Trap) (detail : Nat) (info : W64) (flags : Nat) : (s.teamErr team grp kind t detail info flags).mem.wf := by
  unfold State.teamErr
  grind [State.pushErr_canonical]

theorem State.imprecise_canonical {s : State} (h : s.mem.wf) (tag : Tag) (cause lane detail : Nat) (info : W64) (detail8 : Nat) : (s.imprecise tag cause lane detail info detail8).mem.wf := h

theorem State.checkBar_canonical {s : State} (h : s.mem.wf) (team b : Nat) : (s.checkBar team b).mem.wf := by
  unfold State.checkBar
  grind [State.updTeam_canonical]

theorem State.arriveBar_canonical {s : State} (h : s.mem.wf) (team grp b : Nat) (n : Option Nat) : (s.arriveBar team grp b n).mem.wf := by
  unfold State.arriveBar
  grind [State.checkBar_canonical, State.updTeam_canonical]

theorem State.scrWrite_canonical {s : State} (h : s.mem.wf) (team off n v : Nat) : (s.scrWrite team off n v).mem.wf := by
  unfold State.scrWrite
  grind [State.vwrite_canonical, State.updTeam_canonical]

theorem State.poisonVa_canonical {s : State} (h : s.mem.wf) (tr : Nat → Tr) (va n : Nat) : (s.poisonVa tr va n).mem.wf :=
  foldl_canonical h _ fun s x h => by grind

theorem State.scrPoisonSet_canonical {s : State} (h : s.mem.wf) (team off n : Nat) : (s.scrPoisonSet team off n).mem.wf := by
  unfold State.scrPoisonSet
  grind [State.poisonVa_canonical, State.updTeam_canonical]

theorem State.wakeBobj_canonical {s : State} (h : s.mem.wf) (team off : Nat) (f : Nat → Option W32) : (s.wakeBobj team off f).mem.wf := h

theorem State.evalBobj_canonical {s : State} (h : s.mem.wf) (team off : Nat) : (s.evalBobj team off).mem.wf := by
  unfold State.evalBobj
  grind [State.scrWrite_canonical, State.wakeBobj_canonical]

theorem State.arriveBobj_canonical {s : State} (h : s.mem.wf) (team off n : Nat) : (s.arriveBobj team off n).mem.wf := by
  unfold State.arriveBobj
  grind [State.evalBobj_canonical, State.scrWrite_canonical]

theorem State.countDown_canonical {s : State} (h : s.mem.wf) (team off n : Nat) (fault : Bool) : (s.countDown team off n fault).mem.wf := by
  unfold State.countDown
  grind [State.evalBobj_canonical, State.scrWrite_canonical]

theorem State.loadLine_canonical {s : State} {tenant : Nat} {g : Group} {k : Nat} {u : State} (h : s.mem.wf) (e : s.loadLine tenant g k = .ok u) : u.mem.wf := by
  unfold State.loadLine at e
  grind [= bind_eq_match, State.updGroup_canonical]

theorem State.updFront_canonical {s : State} (h : s.mem.wf) (pa : Nat) (f : FrontEnt → FrontEnt) : (s.updFront pa f).mem.wf := h

theorem State.evalFront_canonical {s : State} (h : s.mem.wf) (pa : Nat) (oldMin : Option Nat) : (s.evalFront pa oldMin).mem.wf := by
  unfold State.evalFront
  grind [foldl_canonical, State.updFront_canonical, State.wake_canonical]

theorem State.frontRemove_canonical {s : State} (h : s.mem.wf) (pa k : Nat) : (s.frontRemove pa k).mem.wf := by
  unfold State.frontRemove
  grind [foldl_canonical, State.updFront_canonical, State.wake_canonical, State.poke_canonical, State.evalFront_canonical]

theorem State.leaveFront_canonical {s : State} (h : s.mem.wf) (team grp : Nat) : (s.leaveFront team grp).mem.wf := by
  unfold State.leaveFront
  grind [State.updGroup_canonical, State.frontRemove_canonical]

theorem State.endEpoch_canonical {s : State} (h : s.mem.wf) (tenant : Nat) : (s.endEpoch tenant).mem.wf := h

theorem State.signalTl_canonical {s : State} (h : s.mem.wf) (pa v : Nat) : (s.signalTl pa v).mem.wf := by
  unfold State.signalTl
  grind [foldl_canonical, State.poke_canonical, State.endEpoch_canonical]

theorem State.freeze_canonical {s : State} (h : s.mem.wf) (sup : Supplier) (t : Trap) (launchId team grp tenant : Nat) : (s.freeze sup t launchId team grp tenant).mem.wf := by
  unfold State.freeze
  grind [State.note_canonical, State.signalTl_canonical, State.poke_canonical, State.bb_canonical, State.pushErr_canonical]

theorem State.joinSquall_canonical {s : State} (h : s.mem.wf) (q : Squall) (team grp : Nat) (t : Trap) : (s.joinSquall q team grp t).mem.wf := by
  unfold State.joinSquall
  grind [State.updGroup_canonical, State.updTeam_canonical]

theorem State.noteTrap_canonical {s : State} (h : s.mem.wf) (tm : Team) (g : Group) (t : Trap) : (s.noteTrap tm g t).mem.wf := by
  unfold State.noteTrap
  grind [State.freeze_canonical, State.bb_canonical]

theorem State.raise_canonical {s : State} (h : s.mem.wf) (team grp : Nat) (t : Trap) : (s.raise team grp t).mem.wf := by
  unfold State.raise
  grind [State.noteTrap_canonical, State.updTeam_canonical, State.bb_canonical, State.joinSquall_canonical]

theorem State.haltCtx_canonical {s : State} (h : s.mem.wf) (c : CtxId) : (s.haltCtx c).mem.wf := h

theorem Cx.trap_canonical {s : State} (h : s.mem.wf) (cx : Cx) (b : Bad) : (cx.trap b s).mem.wf := by
  unfold Cx.trap
  grind [State.updArm_canonical, State.raise_canonical, Cx.advance_canonical, State.haltCtx_canonical]

theorem State.regroupMove_canonical {s : State} (h : s.mem.wf) (team vr c : Nat) (old : List Group) (moves : List (Nat × Nat)) : (s.regroupMove team vr c old moves).mem.wf :=
  foldl_canonical h _ fun s x h => by grind [State.updGroup_canonical]

theorem State.regroupTrap_canonical {s : State} (h : s.mem.wf) (team : Nat) (gs : List Group) : (s.regroupTrap team gs).mem.wf :=
  foldl_canonical h _ fun s x h => by grind [State.updArm_canonical, State.raise_canonical, State.jump_canonical, State.haltCtx_canonical]

theorem State.regroupTeam_canonical {s : State} (h : s.mem.wf) (team : Nat) : (s.regroupTeam team).mem.wf := by
  unfold State.regroupTeam
  grind [foldl_canonical, State.wake_canonical, State.regroupMove_canonical, State.regroupTrap_canonical]

theorem State.updOp_canonical {s : State} (h : s.mem.wf) (id : Nat) (f : EngOp → EngOp) : (s.updOp id f).mem.wf := h

theorem State.haltAt_canonical {s : State} (h : s.mem.wf) (c : CtxId) : (s.haltAt c).mem.wf := by
  unfold State.haltAt
  grind [State.updArm_canonical]

theorem State.settle_canonical {s : State} (h : s.mem.wf) (tenant ticket st : Nat) : (s.settle tenant ticket st).mem.wf := h

theorem State.bumpCnt_canonical {s : State} (h : s.mem.wf) (team grp cls : Nat) (f : Nat → Nat) : (s.bumpCnt team grp cls f).mem.wf := h

theorem State.opFault_canonical {s : State} (h : s.mem.wf) (id cause detail : Nat) (info : W64) (detail8 : Nat) : (s.opFault id cause detail info detail8).mem.wf := by
  unfold State.opFault
  grind [State.imprecise_canonical, State.countDown_canonical, State.updOp_canonical]

theorem State.bindEngine_canonical {s : State} (h : s.mem.wf) (team : Nat) (t : Team) : (s.bindEngine team t).mem.wf :=
  foldl_canonical h _ fun s x h => by grind [State.updCore_canonical]

theorem State.tokenGiven_canonical {s : State} (h : s.mem.wf) (team grp : Nat) : (s.tokenGiven team grp).mem.wf := h

theorem State.grantTok_canonical {s : State} (h : s.mem.wf) (core : Nat) : (s.grantTok core).mem.wf := by
  unfold State.grantTok
  grind [State.tokenGiven_canonical, State.updTeam_canonical, State.bindEngine_canonical]

theorem State.cmdPass_canonical {s : State} (h : s.mem.wf) (tenant : Nat) : (s.cmdPass tenant).mem.wf := by
  unfold State.cmdPass
  grind [State.updTenant_canonical, State.msi_canonical]

theorem State.commands_canonical {s : State} (h : s.mem.wf) : s.commands.mem.wf := by
  unfold State.commands
  grind [foldl_canonical, State.cmdPass_canonical, State.msi_canonical]

theorem State.retireGroup_canonical {s : State} (h : s.mem.wf) (team grp : Nat) : (s.retireGroup team grp).mem.wf := by
  unfold State.retireGroup
  grind [foldl_canonical, State.commands_canonical, State.updGroup_canonical, State.checkBar_canonical, State.updTeam_canonical, State.regroupTeam_canonical, State.grantTok_canonical, State.leaveFront_canonical]

theorem State.writeCtrl_canonical {s : State} {g : Group} {u : State} (h : s.mem.wf) (e : s.writeCtrl g = .ok u) : u.mem.wf := by
  unfold State.writeCtrl at e
  grind [= bind_eq_match, State.noFill_canonical, State.vwrite_canonical, State.updCore_canonical]

theorem State.ctrlPut_canonical {s : State} (h : s.mem.wf) (g : Group) (off n v : Nat) : (s.ctrlPut g off n v).mem.wf := by
  unfold State.ctrlPut
  grind [State.updCore_canonical, State.poke_canonical]

theorem State.bindFront_canonical {s : State} (h : s.mem.wf) (core : Nat) (g : Group) (x : Nat) : (s.bindFront core g x).mem.wf := h

theorem State.writeAllCtrl_canonical {s : State} {team : Nat} {u : State} (h : s.mem.wf) (e : s.writeAllCtrl team = .ok u) : u.mem.wf := by
  refine foldl_ok_canonical (fun _ => of_ok h) _ (fun acc k ih u e => ?_) e
  grind [State.writeCtrl_canonical, State.updGroup_canonical]

theorem State.abandon_canonical {s : State} (h : s.mem.wf) (c : CtxId) : (s.abandon c).mem.wf := h

theorem State.abandoned_canonical {s : State} (h : s.mem.wf) (old g : Group) : (s.abandoned old g).mem.wf := by
  unfold State.abandoned
  grind [State.abandon_canonical, State.grantTok_canonical]

theorem State.resumeCtrl_canonical {s : State} (h : s.mem.wf) (core : Nat) (g : Group) (x : Nat × Option Nat) : (s.resumeCtrl core g x).mem.wf := by
  unfold State.resumeCtrl
  grind [State.updGroup_canonical, State.bindFront_canonical, State.raise_canonical, State.haltCtx_canonical, State.abandoned_canonical]

theorem State.readAllCtrl_canonical {s : State} {team : Nat} {core : Option Nat} {u : State} (h : s.mem.wf) (e : s.readAllCtrl team core = .ok u) : u.mem.wf := by
  refine foldl_ok_canonical (fun _ => of_ok h) _ (fun acc k ih u e => ?_) e
  grind [State.resumeCtrl_canonical]

theorem State.terminate_canonical {s : State} (h : s.mem.wf) (team grp kind : Nat) (t : Trap) (detail : Nat) (info : W64) : (s.terminate team grp kind t detail info).mem.wf := by
  unfold State.terminate
  grind [foldl_canonical, State.teamErr_canonical, State.retireGroup_canonical, State.bb_canonical]

theorem State.loseTeam_canonical {s : State} (h : s.mem.wf) (team grp : Nat) (t : Trap) : (s.loseTeam team grp t).mem.wf := by
  unfold State.loseTeam
  grind [State.updTeam_canonical, State.terminate_canonical]

theorem State.dropLatches_canonical {s : State} (h : s.mem.wf) (c : CtxId) : (s.dropLatches c).mem.wf := h

theorem State.deliver_canonical {s : State} (h : s.mem.wf) (team grp origin : Nat) (t : Trap) : (s.deliver team grp origin t).mem.wf := by
  unfold State.deliver
  grind [State.commands_canonical, State.teamErr_canonical, State.dropLatches_canonical, State.updGroup_canonical]

theorem State.undelivered_canonical {s : State} (h : s.mem.wf) (team grp : Nat) (t : Trap) : (s.undelivered team grp t).mem.wf := by
  unfold State.undelivered
  grind [State.terminate_canonical]

theorem State.receive_canonical {s : State} (h : s.mem.wf) (team grp origin : Nat) (t : Trap) : (s.receive team grp origin t).mem.wf := by
  unfold State.receive
  grind [State.undelivered_canonical, State.deliver_canonical]

theorem State.enterHandler_canonical {s : State} (h : s.mem.wf) (team : Nat) : (s.enterHandler team).mem.wf := by
  unfold State.enterHandler
  repeat' split
  all_goals grind [State.terminate_canonical, State.undelivered_canonical, State.writeAllCtrl_canonical, State.updTeam_canonical, State.deliver_canonical]

theorem State.syncPair_canonical {s : State} (h : s.mem.wf) (team : Nat) : (s.syncPair team).mem.wf := by
  unfold State.syncPair
  grind [foldl_canonical, State.invalidate_canonical]

theorem State.restoreTeam_canonical {s : State} (h : s.mem.wf) (team core : Nat) : (s.restoreTeam team core).mem.wf := by
  unfold State.restoreTeam
  grind [State.syncPair_canonical, State.readAllCtrl_canonical, State.updTeam_canonical, State.terminate_canonical]

theorem State.returnHandler_canonical {s : State} (h : s.mem.wf) (team grp core : Nat) : (s.returnHandler team grp core).mem.wf := by
  unfold State.returnHandler
  grind [State.updGroup_canonical, State.receive_canonical, State.restoreTeam_canonical]

/-! ### Issue of a slot (R426, R427) -/

theorem Cx.deferred_canonical {s : State} (h : s.mem.wf) (cx : Cx) (i : Instr) (vec : Bool) (used : List (Nat × Nat)) : (cx.deferred i vec used s).mem.wf :=
  foldl_canonical h _ fun s x h => by grind [State.bb_canonical]

theorem State.updPort_canonical {s : State} (h : s.mem.wf) (core : Nat) (portB : Bool) (f : Port → Port) : (s.updPort core portB f).mem.wf := h

theorem State.yieldPorts_canonical {s : State} (h : s.mem.wf) (c : CtxId) (core : Nat) : (s.yieldPorts c core).mem.wf := h

theorem Cx.issued_canonical {s : State} (h : s.mem.wf) (cx : Cx) (vec : Bool) : (cx.issued vec s).mem.wf := by
  unfold Cx.issued
  grind [State.updGroup_canonical, State.yieldPorts_canonical, State.updPort_canonical]

theorem Cx.capture_canonical {d s : State} (h : s.mem.wf) (cx : Cx) : (cx.capture d s).mem.wf := by
  unfold Cx.capture
  grind [State.updPort_canonical]

theorem Body.runArms_canonical {b : Body} (hb : b.Canonical) {s : State} (h : s.mem.wf) (cx : Cx) (all : List Nat) (k : Nat) (l : List Nat) : (b.runArms cx all k l s).mem.wf := by
  induction l generalizing s k with
  | nil => exact h
  | cons a l ih =>
    rw [Body.runArms]
    grind [Body.Canonical, State.updArm_canonical]

theorem Body.perform_canonical {b : Body} (hb : b.Canonical) {s : State} (h : s.mem.wf) (i : Instr) (vec : Bool) (cx : Cx) : (b.perform i vec cx s).mem.wf := by
  unfold Body.perform
  grind [Cx.capture_canonical, Cx.deferred_canonical, Cx.issued_canonical, Cx.advance_canonical, Body.runArms_canonical]

theorem State.flushLines_canonical {s : State} (h : s.mem.wf) (core : Nat) (l : List Nat) : (s.flushLines core l).1.mem.wf :=
  foldl_canonical h _ fun s x h => by grind [State.writeBack_canonical]

theorem Body.before_canonical {s : State} (h : s.mem.wf) (b : Body) (cx : Cx) : (b.before cx s).1.mem.wf := by
  unfold Body.before
  grind [State.startRelease_canonical, State.flushLines_canonical]

theorem Body.effect_canonical {b : Body} (hb : b.Canonical) {s : State} (h : s.mem.wf) (i : Instr) (vec : Bool) (cx : Cx) : (b.effect i vec cx s).mem.wf := by
  unfold Body.effect
  grind [Body.perform_canonical, State.updArm_canonical, Cx.stay_canonical, Body.before_canonical]

theorem Cx.passed_canonical {s : State} (h : s.mem.wf) (cx : Cx) (i : Instr) : (cx.passed i s).mem.wf := by
  unfold Cx.passed
  grind [Cx.capture_canonical, Cx.deferred_canonical, Cx.issued_canonical]

theorem issue_canonical {b : Body} (hb : b.Canonical) {s : State} {i : Instr} {u : State} (h : s.mem.wf) (e : issue i s b = .next u) : u.mem.wf := by
  unfold issue at e
  grind [Cx.trap_canonical, State.updGroup_canonical, Body.effect_canonical, Cx.advance_canonical, Cx.passed_canonical]

end Sys2Proof.Machine


/-! Memory stays canonical through the accesses of cores, slices and engines, and the instructions that make them. -/

namespace Sys2Proof.Machine

/-! ### Accesses through a core -/

theorem State.fills_canonical {s : State} (h : s.mem.wf) (core tenant : Nat) (l : List Acc) : (s.fills core tenant l).mem.wf := by
  unfold State.fills
  grind [foldl_canonical, State.fillCore_canonical]

theorem Cx.storeLines_canonical {s : State} (h : s.mem.wf) (cx : Cx) (l : List (Nat × Nat × Nat)) (hint : Nat) : (cx.storeLines l hint s).mem.wf := by
  unfold Cx.storeLines
  grind [foldl_canonical, State.store_canonical]

theorem Cx.storeMany_canonical {s : State} (h : s.mem.wf) (cx : Cx) (l : List (Nat × Nat × Nat)) (hint : Nat) (strong : Bool) : (cx.storeMany l hint strong s).mem.wf := by
  unfold Cx.storeMany
  grind [foldl_canonical, State.bypass_canonical, State.updGroup_canonical, Cx.storeLines_canonical]

theorem Cx.storeOut_canonical {s : State} (h : s.mem.wf) (cx : Cx) (l : List (Nat × Nat)) : (cx.storeOut l s).mem.wf :=
  foldl_canonical h _ fun s x h => by grind [State.writeBack_canonical]

theorem Cx.storeKept_canonical {s : State} (h : s.mem.wf) (cx : Cx) (l : List (Nat × Nat)) : (cx.storeKept l s).mem.wf :=
  foldl_canonical h _ fun s x h => by grind [State.markStrong_canonical]

theorem State.addAsync_canonical {s : State} (h : s.mem.wf) (x : Async) : (s.addAsync x).mem.wf := h

theorem State.startLoad_canonical {s : State} (h : s.mem.wf) (x : Async) (hint : Nat) (strong : Bool) : (s.startLoad x hint strong).mem.wf := by
  unfold State.startLoad
  grind [State.loadParts_canonical]

/-! ### What a slice and an append leave (R103, R137, R461) -/

theorem State.blur_canonical {s : State} (h : s.mem.wf) (line : Nat) (m : BitVec 128) (mem : Bool) : (s.blur line m mem).1.mem.wf := by
  unfold State.blur
  grind [State.freeLine_canonical, State.pokeMask_canonical]

theorem State.mixedAll_canonical {s : State} (h : s.mem.wf) (tag : Tag) (line : Nat) (l : List (Nat × Nat)) : (s.mixedAll tag line l).mem.wf := by
  unfold State.mixedAll
  grind [State.imprecise_canonical]

theorem State.mixed_canonical {s : State} (h : s.mem.wf) (tag : Tag) (line off n : Nat) : (s.mixed tag line off n).mem.wf := by
  unfold State.mixed
  grind [State.mixedAll_canonical]

theorem State.raceErr_canonical {s : State} (h : s.mem.wf) (tag : Tag) (count : Nat) (info : W64) : (s.raceErr tag count info).mem.wf := by
  unfold State.raceErr
  grind [State.pushErr_canonical]

theorem State.raceWrite_canonical {s : State} (h : s.mem.wf) (tag : Tag) (line : Nat) : (s.raceWrite tag line).mem.wf := by
  unfold State.raceWrite
  grind [State.raceErr_canonical, State.imprecise_canonical, State.updTenant_canonical, State.pushErr_canonical]

theorem State.dropClean_canonical {s : State} (h : s.mem.wf) (core : Nat) (lines : List Nat) : (s.dropClean core lines).mem.wf := h

theorem State.perfBump_canonical {s : State} (h : s.mem.wf) (tenant k : Nat) : (s.perfBump tenant k).mem.wf := h

theorem State.perfLine_canonical {s : State} (h : s.mem.wf) (tenant line : Nat) : (s.perfLine tenant line).mem.wf := by
  unfold State.perfLine
  grind [State.perfBump_canonical]

theorem State.engineWrite_canonical {s : State} (h : s.mem.wf) (core : Nat) (tag : Tag) (pa n v : Nat) (poison : Bool) : (s.engineWrite core tag pa n v poison).mem.wf := by
  unfold State.engineWrite
  grind [foldl_canonical, State.dropClean_canonical, State.raceWrite_canonical, State.poke_canonical, State.perfLine_canonical]

theorem State.keepAgent_canonical {s : State} (h : s.mem.wf) (unit tenant va : Nat) : (s.keepAgent unit tenant va).mem.wf := by
  unfold State.keepAgent
  grind [State.fillAgent_canonical]

theorem State.appendOutlier_canonical {s : State} (h : s.mem.wf) (core : Nat) (tag : Tag) (f : Slot) (slot : Nat) (engine : Bool) (idx : Nat) (v : W32) (bad : Bool) : (s.appendOutlier core tag f slot engine idx v bad).1.mem.wf := by
  unfold State.appendOutlier
  grind [State.keepAgent_canonical, State.note_canonical, State.dropClean_canonical, State.mixed_canonical, State.blur_canonical, State.store_canonical, State.engineWrite_canonical, State.poke_canonical, State.perfLine_canonical]

theorem State.appendAll_canonical {s : State} (h : s.mem.wf) (core : Nat) (tag : Tag) (f : Slot) (slot : Nat) (engine : Bool) (l : List (Nat × W32)) : (s.appendAll core tag f slot engine l).mem.wf := by
  refine List.foldlRecOn (motive := fun acc : State × List Nat => acc.1.mem.wf) _ _ h (fun acc h p _ => ?_)
  grind [State.appendOutlier_canonical, State.imprecise_canonical]

/-! ### Engine operations (R104, R463) -/

theorem Cx.issueOp_canonical {s : State} (h : s.mem.wf) (cx : Cx) (sel cls : Nat) (kind : OpKind) (bobj : Option Nat) (total : Nat) : (cx.issueOp sel cls kind bobj total s).mem.wf := by
  unfold Cx.issueOp
  grind [State.updGroup_canonical, State.take_canonical, Cx.writeU_canonical, State.updTenant_canonical, State.bumpCnt_canonical]

theorem State.engCount_canonical {s : State} (h : s.mem.wf) (o : EngOp) (va n : Nat) : (s.engCount o va n).mem.wf :=
  foldl_canonical h _ fun s x h => by grind [State.perfLine_canonical]

theorem State.engWrite_canonical {s : State} (h : s.mem.wf) (o : EngOp) (va n v : Nat) (poison : Bool) : (s.engWrite o va n v poison).1.mem.wf := by
  refine List.foldlRecOn (motive := fun acc : State × Option EFault => acc.1.mem.wf) _ _ h (fun acc h p _ => ?_)
  grind [State.engineWrite_canonical, State.fills_canonical]

theorem State.engScr_canonical {s : State} (h : s.mem.wf) (o : EngOp) (off n v : Nat) (poison : Bool) : (s.engScr o off n v poison).mem.wf := by
  unfold State.engScr
  grind [foldl_canonical, State.evalBobj_canonical, State.scrWrite_canonical, State.scrPoisonSet_canonical, State.imprecise_canonical, State.updOp_canonical]

theorem State.lapped_canonical {s : State} (h : s.mem.wf) (o : EngOp) (dst : End) (lo hi m v : Nat) (bad : Bool) : (s.lapped o dst lo hi m v bad).1.mem.wf := by
  unfold State.lapped
  grind [State.free_canonical]

theorem State.copyRun_canonical {s : State} (h : s.mem.wf) (o : EngOp) (lo hi : Nat) (dst src : End) (k n : Nat) : (State.copyRun o lo hi dst src k n s).1.mem.wf := by
  induction k generalizing s dst src n with
  | zero => exact h
  | succ k ih =>
    rw [State.copyRun]
    grind [State.engCount_canonical, State.lapped_canonical, State.engScr_canonical, State.engWrite_canonical]

theorem State.engCopy_canonical {s : State} (h : s.mem.wf) (o : EngOp) (dst src : End) (n : Nat) : (s.engCopy o dst src n).1.mem.wf := by
  unfold State.engCopy
  grind [State.copyRun_canonical]

theorem State.engFault_canonical {s : State} (h : s.mem.wf) (id : Nat) (e : EFault) : (s.engFault id e).mem.wf := by
  unfold State.engFault
  grind [State.opFault_canonical]

theorem State.opShare_canonical {s : State} (h : s.mem.wf) (id piece n : Nat) : (s.opShare id piece n).mem.wf := by
  unfold State.opShare
  grind [State.countDown_canonical, State.engFault_canonical, State.updOp_canonical]

theorem State.opReady_canonical {s : State} (h : s.mem.wf) (id : Nat) : (s.opReady id).mem.wf := h

/-! ### Loads, stores, streams and tiers -/

theorem loadBody_canonical (w : Word) (vec : Bool) : (loadBody w vec).Canonical := by
  intro cx k s h
  unfold loadBody
  grind [State.startLoad_canonical, State.fills_canonical]

theorem storeBody_canonical (w : Word) (vec : Bool) : (storeBody w vec).Canonical := by
  intro cx k s h
  unfold storeBody
  grind [Cx.storeMany_canonical, Cx.storeKept_canonical, Cx.storeOut_canonical, State.fills_canonical]

theorem execSld_canonical {s : State} {w : Word} {u : State} (h : s.mem.wf) (e : execSld w s = .next u) : u.mem.wf := by
  refine issue_canonical (fun cx k s h => ?_) h e
  grind [State.addAsync_canonical]

theorem execSst_canonical {s : State} {w : Word} {u : State} (h : s.mem.wf) (e : execSst w s = .next u) : u.mem.wf := by
  refine issue_canonical (fun cx a s h => ?_) h e
  exact foldl_canonical (foldl_canonical h _ fun s x h => State.scrWrite_canonical h ..) _ fun s k h => State.evalBobj_canonical h ..

theorem streamBody_canonical (w : Word) (load : Bool) : (streamBody w load).Canonical := by
  intro cx k s h
  unfold streamBody
  grind [Cx.issueOp_canonical]

theorem State.streamStart_canonical {s : State} (h : s.mem.wf) (o : EngOp) (rec_ so : Nat) : (s.streamStart o rec_ so).1.mem.wf := by
  unfold State.streamStart
  grind [State.engCount_canonical, State.engFault_canonical, State.updOp_canonical]

theorem execStreamRowPerformed_canonical {s : State} {id row : Nat} {u : State} (h : s.mem.wf) (e : execStreamRowPerformed id row s = .next u) : u.mem.wf := by
  unfold execStreamRowPerformed at e
  grind [State.opShare_canonical, State.engFault_canonical, State.engCopy_canonical, State.streamStart_canonical, State.opReady_canonical]

theorem execL1Wb_canonical {s : State} {w : Word} {u : State} (h : s.mem.wf) (e : execL1Wb w s = .next u) : u.mem.wf := by
  refine issue_canonical (fun cx k s h => ?_) h e
  grind

theorem execL1Inv_canonical {s : State} {w : Word} {u : State} (h : s.mem.wf) (e : execL1Inv w s = .next u) : u.mem.wf := by
  refine issue_canonical (fun cx k s h => ?_) h e
  grind [State.invalidate_canonical]

theorem execTierPref_canonical {s : State} {w : Word} {u : State} (h : s.mem.wf) (e : execTierPref w s = .next u) : u.mem.wf := by
  refine issue_canonical (fun cx k s h => ?_) h e
  grind [Cx.issueOp_canonical]

theorem State.moveRange_canonical {s : State} (h : s.mem.wf) (dst src n : Nat) : (s.moveRange dst src n).mem.wf := by
  exact moveRange_wf s dst src n h

theorem State.dropPage_canonical {s : State} (h : s.mem.wf) (tenant va n : Nat) : (s.dropPage tenant va n).mem.wf := h

theorem State.takeFrame_canonical {s : State} (h : s.mem.wf) (core tenant : Nat) : (s.takeFrame core tenant).1.mem.wf := by
  unfold State.takeFrame
  grind [State.dropClean_canonical, State.agentPop_canonical]

theorem State.giveFrame_canonical {s : State} (h : s.mem.wf) (core tenant f : Nat) : (s.giveFrame core tenant f).mem.wf := by
  unfold State.giveFrame
  grind [State.dropClean_canonical, State.agentPush_canonical]

theorem execTierPromotePage_canonical {s : State} {id : Nat} {u : State} (h : s.mem.wf) (e : execTierPromotePage id s = .next u) : u.mem.wf := by
  unfold execTierPromotePage at e
  split at e
  · exact of_next h e
  rename_i o _
  split at e
  · extract_lets t k va fin at e
    have hfin (v : State) (hv : v.mem.wf) : (fin v).mem.wf := by
      have hv := State.updOp_canonical (State.opShare_canonical hv id k 65536) id fun o => { o with started := true }
      exact ite_canonical (State.opReady_canonical hv ..) hv
    clear_value fin va k t
    split at e
    · exact of_next h e
    split at e
    · exact of_next (State.engFault_canonical h ..) e
    · rename_i x _
      extract_lets sf at e
      have hf : sf.mem.wf := State.fillCore_canonical h o.core x
      have ht := State.takeFrame_canonical hf o.core t
      clear_value sf
      split at e
      · exact of_next (hfin _ hf) e
      split at e
      · exact of_next (State.engFault_canonical hf ..) e
      split at e
      · exact of_next (State.engFault_canonical hf ..) e
      · exact of_next hf e
      split at e
      · rename_i hv
        rw [hv] at ht
        exact of_next (State.engFault_canonical ht ..) e
      · rename_i hv
        rw [hv] at ht
        exact of_next (State.engFault_canonical ht ..) e
      · rename_i hv
        rw [hv] at ht
        exact of_next (State.engFault_canonical ht ..) e
      · rename_i hv
        rw [hv] at ht
        split at e
        · exact of_next (State.engFault_canonical (State.giveFrame_canonical ht ..) ..) e
        · refine of_next (hfin _ (State.giveFrame_canonical (State.dropClean_canonical (State.dropPage_canonical ?_ ..) ..) ..)) e
          exact State.poke_canonical (State.moveRange_canonical ht ..) ..
  · exact of_next h e

/-! ### Atomics (R287-R290) -/

theorem State.sendOps_canonical {s : State} (h : s.mem.wf) (x : Async) (l : List (Part × SliceOp × Nat)) : (s.sendOps x l).mem.wf := by
  unfold State.sendOps
  grind [foldl_canonical, State.noFill_canonical, State.writeBack_canonical, State.send_canonical]

theorem atomBody_canonical (w : Word) (vec : Bool) (n dn : Nat) (t : Ty) (cas : Bool) (op : Cx → Nat → Nat → Nat → SliceOp) : (atomBody w vec n dn t cas op).Canonical := by
  intro cx k s h
  unfold atomBody
  grind [State.sendOps_canonical, State.fills_canonical]

theorem execAtom_canonical {s : State} {w : Word} {u : State} (h : s.mem.wf) (e : execAtom w s = .next u) : u.mem.wf := by
  unfold execAtom at e
  grind [atomBody_canonical, issue_canonical]

theorem execAtomBinc_canonical {s : State} {w : Word} {u : State} (h : s.mem.wf) (e : execAtomBinc w s = .next u) : u.mem.wf := by
  unfold execAtomBinc at e
  grind [atomBody_canonical, issue_canonical]

theorem execXaccAdd_canonical {s : State} {w : Word} {u : State} (h : s.mem.wf) (e : execXaccAdd w s = .next u) : u.mem.wf := by
  unfold execXaccAdd at e
  grind [atomBody_canonical, issue_canonical]

theorem execXaccFold_canonical {s : State} {w : Word} {u : State} (h : s.mem.wf) (e : execXaccFold w s = .next u) : u.mem.wf := by
  unfold execXaccFold at e
  grind [atomBody_canonical, issue_canonical]

theorem execXaccClr_canonical {s : State} {w : Word} {u : State} (h : s.mem.wf) (e : execXaccClr w s = .next u) : u.mem.wf := by
  unfold execXaccClr at e
  grind [atomBody_canonical, issue_canonical]

theorem State.answer_canonical {s : State} (h : s.mem.wf) (r : Req) (f : Part → Part) : (s.answer r f).mem.wf := by
  unfold State.answer
  grind

theorem State.answerVal_canonical {s : State} (h : s.mem.wf) (r : Req) (v : Nat) (poison : Bool) : (s.answerVal r v poison).mem.wf := by
  unfold State.answerVal
  grind [State.answer_canonical]

theorem State.atomic_canonical {s : State} (h : s.mem.wf) (r : Req) (pa n : Nat) (f : Nat → Option Nat × Nat) : (s.atomic r pa n f).mem.wf := by
  unfold State.atomic
  grind [State.answerVal_canonical, State.poke_canonical]

theorem State.atomOp_canonical {s : State} (h : s.mem.wf) (r : Req) (o : SliceOp) : (s.atomOp r o).mem.wf := by
  unfold State.atomOp
  grind [State.atomic_canonical]

/-! ### Barriers, timelines and futures -/

theorem Cx.done_canonical {s : State} (h : s.mem.wf) (cx : Cx) : (cx.done s).mem.wf := h

theorem Cx.acquire_canonical {s : State} (h : s.mem.wf) (cx : Cx) (scope : Nat) : (cx.acquire scope s).mem.wf := by
  unfold Cx.acquire
  grind [State.acquire_canonical]

theorem execFence_canonical {s : State} {w : Word} {u : State} (h : s.mem.wf) (e : execFence w s = .next u) : u.mem.wf := by
  refine issue_canonical (fun cx k s h => ?_) h e
  grind [Cx.acquire_canonical]

theorem execBarArrive_canonical {s : State} {w : Word} {u : State} (h : s.mem.wf) (e : execBarArrive w s = .next u) : u.mem.wf := by
  refine issue_canonical (fun cx k s h => ?_) h e
  grind [State.arriveBar_canonical]

theorem Cx.barWait_canonical {s : State} (h : s.mem.wf) (cx : Cx) (sel b : Nat) (tmo : Opd) (sync : Bool) : (cx.barWait sel b tmo sync s).mem.wf := by
  unfold Cx.barWait
  grind [Cx.done_canonical, Cx.stay_canonical, Cx.writeU_canonical, Cx.acquire_canonical]

theorem execBarWait_canonical {s : State} {w : Word} {u : State} (h : s.mem.wf) (e : execBarWait w s = .next u) : u.mem.wf := by
  refine issue_canonical (fun cx k s h => ?_) h e
  grind [Cx.barWait_canonical]

theorem execBarSync_canonical {s : State} {w : Word} {u : State} (h : s.mem.wf) (e : execBarSync w s = .next u) : u.mem.wf := by
  refine issue_canonical (fun cx k s h => ?_) h e
  grind [State.arriveBar_canonical, Cx.barWait_canonical]

theorem Cx.bobjPoison_canonical {s : State} (h : s.mem.wf) (cx : Cx) (sel : Nat) : (cx.bobjPoison sel s).mem.wf := by
  unfold Cx.bobjPoison
  grind [State.imprecise_canonical, State.free_canonical, Cx.writeU_canonical]

theorem execBobjInit_canonical {s : State} {w : Word} {u : State} (h : s.mem.wf) (e : execBobjInit w s = .next u) : u.mem.wf := by
  refine issue_canonical (fun cx k s h => ?_) h e
  grind [State.evalBobj_canonical, State.scrWrite_canonical, State.updTeam_canonical]

theorem execBobjArrive_canonical {s : State} {w : Word} {u : State} (h : s.mem.wf) (e : execBobjArrive w s = .next u) : u.mem.wf := by
  refine issue_canonical (fun cx k s h => ?_) h e
  grind [State.arriveBobj_canonical, Cx.bobjPoison_canonical, Cx.writeU_canonical]

theorem execBobjWait_canonical {s : State} {w : Word} {u : State} (h : s.mem.wf) (e : execBobjWait w s = .next u) : u.mem.wf := by
  refine issue_canonical (fun cx k s h => ?_) h e
  grind [Cx.bobjPoison_canonical, Cx.done_canonical, Cx.stay_canonical, Cx.writeU_canonical, Cx.acquire_canonical]

theorem Cx.sendOp_canonical {s : State} (h : s.mem.wf) (cx : Cx) (pa : Nat) (o : SliceOp) : (cx.sendOp pa o s).1.mem.wf := by
  unfold Cx.sendOp
  grind [State.noFill_canonical, State.writeBack_canonical, State.send_canonical]

theorem execTlSignal_canonical {s : State} {w : Word} {u : State} (h : s.mem.wf) (e : execTlSignal w s = .next u) : u.mem.wf := by
  refine issue_canonical (fun cx k s h => ?_) h e
  grind [Cx.sendOp_canonical, State.fills_canonical]

theorem execTlWait_canonical {s : State} {w : Word} {u : State} (h : s.mem.wf) (e : execTlWait w s = .next u) : u.mem.wf := by
  refine issue_canonical (fun cx k s h => ?_) h e
  grind [Cx.done_canonical, Cx.stay_canonical, Cx.writeU_canonical, Cx.sendOp_canonical, Cx.acquire_canonical, State.fills_canonical]

theorem State.tlOp_canonical {s : State} (h : s.mem.wf) (r : Req) (o : SliceOp) : (s.tlOp r o).mem.wf := by
  unfold State.tlOp
  grind [State.wake_canonical, State.signalTl_canonical, State.imprecise_canonical]

theorem execWaitcnt_canonical {s : State} {w : Word} {u : State} (h : s.mem.wf) (e : execWaitcnt w s = .next u) : u.mem.wf := by
  refine issue_canonical (fun cx k s h => ?_) h e
  grind

theorem execFutWait_canonical {s : State} {w : Word} {u : State} (h : s.mem.wf) (e : execFutWait w s = .next u) : u.mem.wf := by
  refine issue_canonical (fun cx k s h => ?_) h e
  grind [Cx.done_canonical, Cx.stay_canonical, Cx.writeU_canonical, Cx.acquire_canonical]

theorem execFutTest_canonical {s : State} {w : Word} {u : State} (h : s.mem.wf) (e : execFutTest w s = .next u) : u.mem.wf := by
  refine issue_canonical (fun cx k s h => ?_) h e
  grind [Cx.writeU_canonical, Cx.acquire_canonical]

theorem execFutCancel_canonical {s : State} {w : Word} {u : State} (h : s.mem.wf) (e : execFutCancel w s = .next u) : u.mem.wf := by
  refine issue_canonical (fun cx k s h => ?_) h e
  grind [State.settle_canonical, State.updOp_canonical]

theorem execWaitTimeout_canonical {s : State} {c : CtxId} {u : State} (h : s.mem.wf) (e : execWaitTimeout c s = .next u) : u.mem.wf := by
  unfold execWaitTimeout at e
  grind [State.wake_canonical]

/-! ### Fronts (R303-R305, R477) -/

theorem Cx.ask_canonical {s : State} (h : s.mem.wf) (cx : Cx) (l : List (Part × SliceOp × Nat)) : (cx.ask l s).mem.wf := by
  unfold Cx.ask
  grind [Cx.stay_canonical, State.sendOps_canonical]

theorem State.dropAsync_canonical {s : State} (h : s.mem.wf) (id : Nat) : (s.dropAsync id).mem.wf := h

theorem execFrontJoin_canonical {s : State} {w : Word} {u : State} (h : s.mem.wf) (e : execFrontJoin w s = .next u) : u.mem.wf := by
  refine issue_canonical (fun cx k s h => ?_) h e
  grind [Cx.trap_canonical, State.dropAsync_canonical, Cx.ask_canonical, Cx.advance_canonical, State.fills_canonical]

theorem execFrontLeave_canonical {s : State} {w : Word} {u : State} (h : s.mem.wf) (e : execFrontLeave w s = .next u) : u.mem.wf := by
  refine issue_canonical (fun cx k s h => ?_) h e
  grind [State.dropAsync_canonical, Cx.ask_canonical, Cx.advance_canonical]

theorem execFrontStep_canonical {s : State} {w : Word} {u : State} (h : s.mem.wf) (e : execFrontStep w s = .next u) : u.mem.wf := by
  refine issue_canonical (fun cx k s h => ?_) h e
  grind [Cx.stay_canonical, Cx.advance_canonical, Cx.sendOp_canonical]

theorem execFrontStat_canonical {s : State} {w : Word} {u : State} (h : s.mem.wf) (e : execFrontStat w s = .next u) : u.mem.wf := by
  refine issue_canonical (fun cx k s h => ?_) h e
  grind [State.addAsync_canonical, State.sendOps_canonical]

theorem State.frontJoin_canonical {s : State} (h : s.mem.wf) (pa : Nat) (va : W64) (k tenant team grp : Nat) : (s.frontJoin pa va k tenant team grp).mem.wf := by
  unfold State.frontJoin
  grind [State.updFront_canonical, State.updGroup_canonical, State.ctrlPut_canonical]

theorem State.frontStep_canonical {s : State} (h : s.mem.wf) (pa k : Nat) (c : CtxId) : (s.frontStep pa k c).mem.wf := by
  unfold State.frontStep
  grind [State.updFront_canonical, State.wake_canonical, State.evalFront_canonical]

theorem State.frontEject_canonical {s : State} (h : s.mem.wf) (pa k : Nat) : (s.frontEject pa k).mem.wf := by
  unfold State.frontEject
  grind [State.updGroup_canonical, State.ctrlPut_canonical, State.bb_canonical, State.pushErr_canonical, State.frontRemove_canonical]

theorem State.frontOp_canonical {s : State} {r : Req} {o : SliceOp} {u : State} (h : s.mem.wf) (e : s.frontOp r o = some u) : u.mem.wf := by
  unfold State.frontOp at e
  grind [State.frontJoin_canonical, State.ctrlPut_canonical, State.imprecise_canonical, State.answerVal_canonical, State.frontStep_canonical, State.leaveFront_canonical]

theorem execFrontEjection_canonical {s : State} {record : Nat} {u : State} (h : s.mem.wf) (e : execFrontEjection record s = .next u) : u.mem.wf := by
  unfold execFrontEjection at e
  grind [State.updFront_canonical, State.frontEject_canonical]

/-! ### Copies (R307, R308) -/

theorem execKick_canonical {s : State} {w : Word} {u : State} (h : s.mem.wf) (e : execKick w s = .next u) : u.mem.wf := by
  refine issue_canonical (fun cx k s h => ?_) h e
  grind [Cx.issueOp_canonical]

theorem execCpy_canonical {s : State} {w : Word} {u : State} (h : s.mem.wf) (e : execCpy w s = .next u) : u.mem.wf := by
  refine issue_canonical (fun cx k s h => ?_) h e
  grind [Cx.issueOp_canonical]

theorem State.kickCount_canonical {s : State} (h : s.mem.wf) (o : EngOp) (so k : Nat) (fault : Bool) : (s.kickCount o so k fault).mem.wf := by
  unfold State.kickCount
  grind [State.countDown_canonical]

theorem State.kickFault_canonical {s : State} (h : s.mem.wf) (o : EngOp) (so n : Nat) (e : EFault) : (s.kickFault o so n e).mem.wf := by
  unfold State.kickFault
  grind [foldl_canonical, State.kickCount_canonical, State.engFault_canonical]

theorem execCopyRecordLanded_canonical {s : State} {id index : Nat} {u : State} (h : s.mem.wf) (e : execCopyRecordLanded id index s = .next u) : u.mem.wf := by
  unfold execCopyRecordLanded at e
  grind [State.opShare_canonical, State.kickFault_canonical, State.kickCount_canonical, State.engFault_canonical, State.engCopy_canonical, State.updOp_canonical, State.opReady_canonical]

/-! ### Tasks and task queues (R310-R315) -/

theorem Cx.sliceWrite_canonical {s : State} (h : s.mem.wf) (cx : Cx) (va n v : Nat) : (cx.sliceWrite va n v s).mem.wf :=
  foldl_canonical h _ fun s x h => by grind [State.engineWrite_canonical]

theorem execContPark_canonical {s : State} {w : Word} {u : State} (h : s.mem.wf) (e : execContPark w s = .next u) : u.mem.wf := by
  refine issue_canonical (fun cx k s h => ?_) h e
  grind [Cx.sliceWrite_canonical, State.updCore_canonical, State.retireGroup_canonical, State.fills_canonical]

theorem execTqInit_canonical {s : State} {w : Word} {u : State} (h : s.mem.wf) (e : execTqInit w s = .next u) : u.mem.wf := by
  refine issue_canonical (fun cx a s h => ?_) h e
  exact foldl_canonical (State.fills_canonical h ..) _ fun s x h => Cx.sendOp_canonical h ..

theorem State.newSend_canonical {s : State} (h : s.mem.wf) (r : Req) (index : Nat) : (s.newSend r index).mem.wf := h

theorem execTqPush_canonical {s : State} {w : Word} {u : State} (h : s.mem.wf) (e : execTqPush w s = .next u) : u.mem.wf := by
  refine issue_canonical (fun cx k s h => ?_) h e
  grind [Cx.writeP_canonical, State.dropAsync_canonical, Cx.done_canonical, Cx.ask_canonical, Cx.writeV_canonical, Cx.writeU_canonical, Cx.writeQ_canonical, State.fills_canonical]

theorem execTqPop_canonical {s : State} {w : Word} {u : State} (h : s.mem.wf) (e : execTqPop w s = .next u) : u.mem.wf := by
  refine issue_canonical (fun cx k s h => ?_) h e
  grind [State.sendOps_canonical, State.fills_canonical]

theorem State.freeBits_canonical {s : State} (h : s.mem.wf) (n : Nat) : (s.freeBits n).1.mem.wf := by
  induction n generalizing s with
  | zero => exact h
  | succ n ih => exact ih (State.free_canonical h)

theorem State.qTrap_canonical {s : State} (h : s.mem.wf) (r : Req) (cause detail info : Nat) : (s.qTrap r cause detail info).mem.wf := by
  unfold State.qTrap
  grind [State.imprecise_canonical]

theorem State.tqOp_canonical {s : State} (h : s.mem.wf) (r : Req) (o : SliceOp) : (s.tqOp r o).mem.wf := by
  unfold State.tqOp
  grind [State.keepAgent_canonical, State.answer_canonical, State.qPush_canonical, State.imprecise_canonical, State.free_canonical, State.poke_canonical, State.newSend_canonical, State.qPop_canonical, State.qTrap_canonical, State.freeBits_canonical]

end Sys2Proof.Machine


/-! Memory stays canonical through the table walker, attention and compaction. -/

namespace Sys2Proof.Machine

/-! ### The inverted block table (R147-R152) -/

theorem State.tCount_canonical {s : State} (h : s.mem.wf) (t : Tab) (va n : Nat) : (s.tCount t va n).mem.wf := by
  unfold State.tCount
  grind [foldl_canonical, State.perfLine_canonical]

theorem State.tRace_canonical {s : State} (h : s.mem.wf) (t : Tab) (va n : Nat) : (s.tRace t va n).mem.wf := by
  unfold State.tRace
  grind [foldl_canonical, State.raceWrite_canonical]

theorem State.tWrite_canonical {s : State} {t : Tab} {va n v : Nat} {u : State} (h : s.mem.wf) (e : s.tWrite t va n v = .ok u) : u.mem.wf := by
  unfold State.tWrite at e
  grind [= bind_eq_match, State.vwrite_canonical, State.dropClean_canonical, State.tCount_canonical, State.tRace_canonical]

theorem State.tCarryTo_canonical {s : State} {t : Tab} {va n v : Nat} {poison : Bool} {u : State} (h : s.mem.wf) (e : s.tCarryTo t va n v poison = .ok u) : u.mem.wf := by
  unfold State.tCarryTo at e
  grind [= bind_eq_match, State.tWrite_canonical]

theorem State.tPut_canonical {s : State} {t : Tab} {i v : Nat} {u : State} (h : s.mem.wf) (e : s.tPut t i v = .ok u) : u.mem.wf := by
  unfold State.tPut at e
  grind [= bind_eq_match, State.tWrite_canonical]

theorem State.tSeen_canonical {s : State} (h : s.mem.wf) (t : Tab) (l : List Nat) : (s.tSeen t l).mem.wf := by
  unfold State.tSeen
  grind [foldl_canonical, State.tCount_canonical]

theorem State.kvLook_canonical {s : State} {t : Tab} {k : KvKey} {u} (h : s.mem.wf) (e : s.kvLook t k = .ok u) : u.1.mem.wf := by
  unfold State.kvLook at e
  split at e
  · cases e
  · obtain ⟨r, -, e⟩ := bind_eq_ok.mp e
    have hs : (if t.perf then s.tSeen t (s.kvWalk t k) else s).mem.wf := by grind [State.tSeen_canonical]
    cases r with
    | none =>
      cases e
      exact hs
    | some j =>
      obtain ⟨x, -, e⟩ := bind_eq_ok.mp e
      obtain ⟨v, hv, e⟩ := bind_eq_ok.mp e
      cases e
      exact State.tPut_canonical hs hv

theorem State.kvPop_canonical {s : State} {t : Tab} {tier : Nat} {u} (h : s.mem.wf) (e : s.kvPop t tier = .ok u) : u.1.mem.wf := by
  simp only [State.kvPop, bind_eq_ok] at e
  obtain ⟨_, -, c, -, e⟩ := e
  split at e
  · cases e
    exact h
  · simp only [bind_eq_ok] at e
    obtain ⟨_, -, _, -, v, hv, e⟩ := e
    cases e
    exact State.tWrite_canonical (State.tCount_canonical (State.tCount_canonical h ..) ..) hv

theorem State.kvPush_canonical {s : State} {t : Tab} {tier a : Nat} {u : State} (h : s.mem.wf) (e : s.kvPush t tier a = .ok u) : u.mem.wf := by
  exact of_bind (fun _ _ => of_bind fun _ _ => of_bind fun _ _ => of_bind fun v hv => State.tWrite_canonical (State.tWrite_canonical (State.tCount_canonical h ..) hv)) e

theorem State.kvFill_canonical {s : State} {t : Tab} {k : KvKey} {j : Nat} {ovr : Bool} {a : Nat} {u : State} (h : s.mem.wf) (e : s.kvFill t k j ovr a = .ok u) : u.mem.wf := by
  unfold State.kvFill at e
  obtain ⟨x, -, e⟩ := bind_eq_ok.mp e
  dsimp only at e
  split at e
  · exact of_bind (fun _ e => by cases e) e
  obtain ⟨y, -, e⟩ := bind_eq_ok.mp e
  split at e
  · obtain ⟨w, hw, e⟩ := bind_eq_ok.mp e
    exact State.tPut_canonical (State.tPut_canonical (State.tSeen_canonical h ..) hw) e
  · exact State.tPut_canonical (State.tSeen_canonical h ..) e

theorem State.kvAlloc_canonical {s : State} {t : Tab} {k : KvKey} {base : Nat} {addr : Option Nat} {u} (h : s.mem.wf) (e : s.kvAlloc t k base addr = .ok u) : u.1.mem.wf := by
  unfold State.kvAlloc at e
  obtain ⟨⟨v, r⟩, hr, e⟩ := bind_eq_ok.mp e
  have hv : v.mem.wf := State.kvLook_canonical h hr
  cases r with
  | some j =>
    cases e
    exact hv
  | none =>
    obtain ⟨slot, -, e⟩ := bind_eq_ok.mp e
    have hw : (if t.perf then v.tSeen t (v.freeWalk t t.n (k.hash t.n)) else v).mem.wf := by grind [State.tSeen_canonical]
    cases slot with
    | none => cases e
    | some p =>
      cases addr with
      | some a =>
        obtain ⟨x, hx, e⟩ := bind_eq_ok.mp e
        cases e
        exact State.kvFill_canonical hw hx
      | none =>
        obtain ⟨⟨x, r⟩, hr, e⟩ := bind_eq_ok.mp e
        have hx : x.mem.wf := State.kvPop_canonical hw hr
        cases r with
        | none => cases e
        | some a =>
          obtain ⟨y, hy, e⟩ := bind_eq_ok.mp e
          obtain ⟨z, hz, e⟩ := bind_eq_ok.mp e
          cases e
          exact State.kvFill_canonical (State.tWrite_canonical hx hy) hz

theorem State.kvUnlink_canonical {s : State} {t : Tab} {j x : Nat} {u : State} (h : s.mem.wf) (e : s.kvUnlink t j x = .ok u) : u.mem.wf := by
  unfold State.kvUnlink at e
  obtain ⟨y, -, e⟩ := bind_eq_ok.mp e
  obtain ⟨r, -, e⟩ := bind_eq_ok.mp e
  extract_lets v at e
  have hv : v.mem.wf := by grind [State.tSeen_canonical]
  clear_value v
  match r with
  | none => exact of_ok hv e
  | some none => exact State.tPut_canonical hv e
  | some (some p) => exact of_bind (fun _ _ => State.tPut_canonical hv) e

theorem State.kvFreeEnt_canonical {s : State} {t : Tab} {j : Nat} {push : Bool} {u : State} (h : s.mem.wf) (e : s.kvFreeEnt t j push = .ok u) : u.mem.wf := by
  unfold State.kvFreeEnt at e
  obtain ⟨x, -, e⟩ := bind_eq_ok.mp e
  split at e
  · exact of_ok h e
  split at e
  · cases e
  obtain ⟨v, hv, e⟩ := bind_eq_ok.mp e
  have hv := State.kvUnlink_canonical (State.tSeen_canonical h ..) hv
  dsimp only at e
  split at e
  · obtain ⟨w, hw, e⟩ := bind_eq_ok.mp e
    exact of_bind (fun _ _ => State.tPut_canonical (State.kvPush_canonical hv hw)) e
  · exact of_bind (fun _ _ => State.tPut_canonical hv) e

theorem State.clockErr_canonical {s : State} (h : s.mem.wf) (tenant idx : Nat) (e : EFault) : (s.clockErr tenant idx e).mem.wf := by
  unfold State.clockErr
  grind [State.pushErr_canonical]

theorem State.kvDemote_canonical {s : State} {t : Tab} {i x : Nat} {u : State} (h : s.mem.wf) (e : s.kvDemote t i x = .ok u) : u.mem.wf := by
  unfold State.kvDemote at e
  obtain ⟨⟨v, r⟩, hr, e⟩ := bind_eq_ok.mp e
  have hv : v.mem.wf := State.kvPop_canonical h hr
  cases r with
  | none => exact of_ok h e
  | some a =>
    obtain ⟨w, hw, e⟩ := bind_eq_ok.mp e
    cases e
    have hw := State.tPut_canonical hv hw
    exact hw

theorem State.kvTryDemote_canonical {s : State} {t : Tab} {i x : Nat} {u : State} (h : s.mem.wf) (e : s.kvTryDemote t i x = .ok u) : u.mem.wf := by
  unfold State.kvTryDemote at e
  grind [= bind_eq_match, State.clockErr_canonical, State.kvDemote_canonical]

theorem State.kvVisit_canonical {s : State} {t : Tab} {u : State} (h : s.mem.wf) (e : s.kvVisit t = .ok u) : u.mem.wf := by
  unfold State.kvVisit at e
  obtain ⟨_, -, e⟩ := bind_eq_ok.mp e
  obtain ⟨_, -, e⟩ := bind_eq_ok.mp e
  obtain ⟨_, -, e⟩ := bind_eq_ok.mp e
  extract_lets v rest at e
  have hv : v.mem.wf := State.tSeen_canonical (State.tCount_canonical h ..) ..
  clear_value v
  split at e
  · obtain ⟨w, hw, e⟩ := bind_eq_ok.mp e
    refine State.tWrite_canonical ?_ e
    split at hw
    · exact State.tPut_canonical hv hw
    · exact State.kvTryDemote_canonical hv hw
  · exact State.tWrite_canonical hv e

theorem State.kvVisits_canonical {s : State} (h : s.mem.wf) (t : Tab) (n : Nat) : (State.kvVisits t n s).1.mem.wf := by
  induction n generalizing s with
  | zero => exact h
  | succ n ih =>
    rw [State.kvVisits]
    split
    · exact h
    · exact ih (State.kvVisit_canonical h ‹_›)

theorem execClockVisit_canonical {s : State} {tenant : Nat} {u : State} (h : s.mem.wf) (e : execClockVisit tenant s = .next u) : u.mem.wf := by
  unfold execClockVisit at e
  grind [State.kvVisit_canonical, State.clockErr_canonical, State.updTenant_canonical]

theorem State.copyLines_canonical {s : State} {t : Tab} {dst src n : Nat} {u : State} (h : s.mem.wf) (e : State.copyLines t dst src n s = .ok u) : u.mem.wf := by
  induction n generalizing s with
  | zero => exact of_ok h e
  | succ n ih => exact of_bind (fun _ _ => of_bind fun v hv => ih (State.tCarryTo_canonical h hv)) e

theorem State.moveDone_canonical {s : State} (h : s.mem.wf) (t : Tab) (m : Move) (wrote : Except EFault Unit) : (s.moveDone t m wrote).1.mem.wf := by
  unfold State.moveDone
  dsimp only
  split
  · rename_i v hv
    have hv : v.mem.wf := of_bind (fun _ _ => of_bind fun v hv => of_bind fun _ _ => State.tPut_canonical (State.copyLines_canonical h hv)) hv
    exact hv
  · dsimp only
    split
    · rename_i v hv
      exact of_bind (fun _ _ => of_bind fun v hv => State.kvPush_canonical (State.tPut_canonical h hv)) hv
    · exact h

theorem State.sweepsDone_canonical {s : State} (h : s.mem.wf) : s.sweepsDone.mem.wf := h

theorem execDemotionCopyComplete_canonical {s : State} {e : Finish} {u : State} (h : s.mem.wf) (e : execDemotionCopyComplete e s = .next u) : u.mem.wf := by
  unfold execDemotionCopyComplete at e
  grind [State.sweepsDone_canonical, State.moveDone_canonical, State.free_canonical, State.clockErr_canonical]

theorem execOldBlockFreePush_canonical {s : State} {id : Nat} {u : State} (h : s.mem.wf) (e : execOldBlockFreePush id s = .next u) : u.mem.wf := by
  unfold execOldBlockFreePush at e
  split at e
  · exact of_next h e
  split at e
  · exact of_next h e
  extract_lets s' at e
  have hs : s'.mem.wf := h
  clear_value s'
  split at e
  · exact of_next (State.kvPush_canonical hs ‹_›) e
  · exact of_next (State.clockErr_canonical hs ..) e

/-! ### Attention, TOPK and compaction (R154-R159, R343, R399) -/

theorem State.kvSet_canonical {s : State} {t : Tab} {x n i : Nat} {u} (h : s.mem.wf) (e : State.kvSet t x n i s = .ok u) : u.1.mem.wf := by
  induction n generalizing s i u with
  | zero =>
    cases e
    exact h
  | succ n ih =>
    rw [State.kvSet] at e
    obtain ⟨⟨v, r⟩, hr, e⟩ := bind_eq_ok.mp e
    have hv : v.mem.wf := State.kvLook_canonical h hr
    cases r with
    | none => exact ih hv e
    | some j =>
      obtain ⟨_, -, e⟩ := bind_eq_ok.mp e
      obtain ⟨w, hw, e⟩ := bind_eq_ok.mp e
      cases e
      have hw := ih hv hw
      exact hw

theorem State.attnSuspend_canonical {s : State} (h : s.mem.wf) (id slice : Nat) (e : EFault) : (s.attnSuspend id slice e).mem.wf := by
  unfold State.attnSuspend
  grind [State.imprecise_canonical, State.updOp_canonical]

theorem State.attnFault_canonical {s : State} (h : s.mem.wf) (id slice : Nat) (e : EFault) : (s.attnFault id slice e).mem.wf := by
  unfold State.attnFault
  grind [State.engFault_canonical, State.attnSuspend_canonical]

theorem State.attnHomes_canonical {s : State} (h : s.mem.wf) (id : Nat) (t : Tab) : (s.attnHomes id t).mem.wf := by
  unfold State.attnHomes
  grind [State.attnFault_canonical, State.updOp_canonical]

theorem State.attnStart_canonical {s : State} (h : s.mem.wf) (o : EngOp) (rec_ : Nat) (score : Bool) : (s.attnStart o rec_ score).mem.wf := by
  unfold State.attnStart
  split
  · exact h
  extract_lets t s1
  have h1 : s1.mem.wf := h
  clear_value s1
  split
  · exact State.engFault_canonical h1 ..
  · rename_i x _
    extract_lets s2 size w
    have h2 : s2.mem.wf := h1
    clear_value s2
    refine ite_canonical (State.engFault_canonical h2 ..) (ite_canonical (State.engFault_canonical h2 ..) ?_)
    split
    · exact State.engFault_canonical h2 ..
    · rename_i v b e
      have hv : v.mem.wf := State.kvSet_canonical h2 e
      exact State.attnHomes_canonical (State.updOp_canonical hv ..) ..

theorem State.attnTiles_canonical {s : State} {o : EngOp} {slice : Nat} {u : State} (h : s.mem.wf) (e : s.attnTiles o slice = .ok u) : u.mem.wf := by
  unfold State.attnTiles at e
  split at e
  · exact of_ok h e
  · obtain ⟨r, -, e⟩ := bind_eq_ok.mp e
    cases e
    exact foldl_canonical h _ fun s b h => State.engCount_canonical h ..

theorem State.scoreAdd_canonical {s : State} {t : Tab} {va : Nat} {ps : List (W32 × Bool)} {u : State} (h : s.mem.wf) (e : s.scoreAdd t va ps = .ok u) : u.mem.wf := by
  unfold State.scoreAdd at e
  grind [= bind_eq_match, State.tCount_canonical, State.tCarryTo_canonical]

theorem State.scoreRows_canonical {s : State} (h : s.mem.wf) (o : EngOp) (t : Tab) (fin : List AttnTile) (qs : List (List (FVal × Bool))) (l : List AttnRow) : (State.scoreRows o t fin qs l s).1.mem.wf := by
  induction l generalizing s with
  | nil => exact h
  | cons r l ih =>
    rw [State.scoreRows]
    dsimp only
    split
    · exact h
    · exact ih (State.scoreAdd_canonical h ‹_›)

theorem State.engWords_canonical {s : State} (h : s.mem.wf) (o : EngOp) (off : Nat) (l : List (W32 × Bool)) : (State.engWords o off l s).mem.wf := by
  induction l generalizing s off with
  | nil => exact h
  | cons p l ih => exact ih (State.engScr_canonical h ..) _

theorem State.attnFinish_canonical {s : State} (h : s.mem.wf) (o : EngOp) (rec_ : Nat) (score : Bool) (slice : Nat) : (s.attnFinish o rec_ score slice).mem.wf := by
  unfold State.attnFinish
  grind [foldl_canonical, State.opShare_canonical, State.scoreRows_canonical, State.engCount_canonical, State.attnFault_canonical, State.engFault_canonical, State.engWords_canonical, State.engScr_canonical, State.opReady_canonical]

theorem execAttnTileComplete_canonical {s : State} {id slice head : Nat} {u : State} (h : s.mem.wf) (e : execAttnTileComplete id slice head s = .next u) : u.mem.wf := by
  unfold execAttnTileComplete at e
  split at e
  · cases e
    exact h
  split at e
  · dsimp only at e
    split at e
    · cases e
      exact h
    have hs := fun o r b => State.attnStart_canonical h o r b
    split at e
    · cases e
      exact hs ..
    split at e
    · cases e
      exact hs ..
    split at e
    · cases e
      exact State.attnFault_canonical (hs ..) ..
    have hv := State.attnTiles_canonical (hs ..) ‹_›
    split at e
    · cases e
      exact State.updOp_canonical hv ..
    split at e
    · cases e
      exact hs ..
    · cases e
      exact State.attnFinish_canonical hv ..
  · cases e
    exact h

theorem execAttnRecompute_canonical {s : State} {id : Nat} {u : State} (h : s.mem.wf) (e : execAttnRecompute id s = .next u) : u.mem.wf := by
  unfold execAttnRecompute at e
  grind [State.attnHomes_canonical, State.updOp_canonical]

theorem State.setKeep_canonical {s : State} (h : s.mem.wf) (t : Tab) (keep : Nat) (l : List Cand) : (State.setKeep t keep l s).1.mem.wf := by
  induction l generalizing s with
  | nil => exact h
  | cons c l ih =>
    rw [State.setKeep]
    dsimp only
    split
    · exact h
    · rename_i v hv
      exact ih (of_bind (fun _ _ => State.tWrite_canonical h) hv)

theorem State.kvFault_canonical {s : State} (h : s.mem.wf) (id : Nat) (e : EFault) : (s.kvFault id e).mem.wf := by
  unfold State.kvFault
  grind [State.engFault_canonical, State.opFault_canonical]

theorem State.countSel_canonical {s : State} (h : s.mem.wf) (t : Tab) (x : Nat) (scores : Bool) (l : List KvBlk) : (s.countSel t x scores l).mem.wf :=
  foldl_canonical h _ fun s x h => by grind [State.tCount_canonical]

theorem State.topkRun_canonical {s : State} (h : s.mem.wf) (o : EngOp) (rec_ : Nat) : (s.topkRun o rec_).mem.wf := by
  unfold State.topkRun
  dsimp only
  have hs := State.updOp_canonical h o.id (fun o => { o with started := true })
  split
  · exact State.engFault_canonical hs ..
  · rename_i v x pick e
    have hv : v.mem.wf := by
      obtain ⟨x, -, e⟩ := bind_eq_ok.mp e
      refine of_unless (of_bind fun p hp => of_bind fun _ _ e => ?_) e
      cases e
      exact State.countSel_canonical (State.kvSet_canonical hs hp) ..
    have hk := State.setKeep_canonical hv (State.tabOf s o.core o.tag) (fld x 447 384) pick
    grind [State.engFault_canonical, State.opReady_canonical, State.opShare_canonical, State.engScr_canonical]

theorem State.fillRow_canonical {s : State} {t : Tab} {addr r : Nat} {src : Option Nat} {u : State} (h : s.mem.wf) (e : s.fillRow t addr r src = .ok u) : u.mem.wf := by
  unfold State.fillRow at e
  grind [= bind_eq_match, State.tCount_canonical, State.tCarryTo_canonical]

theorem State.fillBlock_canonical {s : State} {t : Tab} {addr : Nat} {l : List Kept} {u : State} (h : s.mem.wf) (e : s.fillBlock t addr l = .ok u) : u.mem.wf := by
  unfold State.fillBlock at e
  obtain ⟨v, hv, e⟩ := bind_eq_ok.mp e
  refine foldl_ok_canonical (fun _ => of_ok (State.tWrite_canonical h hv)) _ (fun acc i ih u => ?_) e
  exact of_bind fun x hx => of_bind fun y hy => State.fillRow_canonical (State.fillRow_canonical (ih x hx) hy)

theorem State.kvPops_canonical {s : State} {t : Tab} {n : Nat} {u} (h : s.mem.wf) (e : State.kvPops t n s = .ok u) : u.1.mem.wf := by
  induction n generalizing s u with
  | zero =>
    cases e
    exact h
  | succ n ih =>
    rw [State.kvPops] at e
    obtain ⟨⟨v, r⟩, hr, e⟩ := bind_eq_ok.mp e
    have hv : v.mem.wf := State.kvPop_canonical h hr
    cases r with
    | none => cases e
    | some a =>
      obtain ⟨w, hw, e⟩ := bind_eq_ok.mp e
      cases e
      have hw := ih hv hw
      exact hw

theorem State.kvFresh_canonical {s : State} {t : Tab} {x : Nat} {old : List KvBlk} {new : List (Nat × Nat)} {u : State} (h : s.mem.wf) (e : State.kvFresh t x old new s = .ok u) : u.mem.wf := by
  refine foldl_ok_canonical (fun _ => of_ok h) _ (fun acc p ih u e => ?_) e
  obtain ⟨v, hv, e⟩ := bind_eq_ok.mp e
  obtain ⟨w, hw, e⟩ := bind_eq_ok.mp e
  cases e
  exact State.kvAlloc_canonical (ih v hv) hw

theorem State.kvRewrite_canonical {s : State} {t : Tab} {old : List KvBlk} {tiers : List Nat} {new : List (Nat × Nat)} {u : State} (h : s.mem.wf) (e : State.kvRewrite t old tiers new s = .ok u) : u.mem.wf := by
  unfold State.kvRewrite at e
  obtain ⟨v, hv, e⟩ := bind_eq_ok.mp e
  obtain ⟨w, hw, e⟩ := bind_eq_ok.mp e
  have hv : v.mem.wf := by
    refine foldl_ok_canonical (fun _ => of_ok h) _ (fun acc p ih u e => ?_) hv
    obtain ⟨x, hx, e⟩ := bind_eq_ok.mp e
    split at e
    · exact of_ok (ih x hx) e
    · exact of_bind (fun _ _ => State.tPut_canonical (State.tSeen_canonical (ih x hx) ..)) e
  have hw : w.mem.wf := foldl_ok_canonical (fun _ => of_ok hv) _ (fun acc p ih u => of_bind fun x hx => State.kvFreeEnt_canonical (ih x hx)) hw
  exact foldl_ok_canonical (fun _ => of_ok hw) _ (fun acc p ih u => of_bind fun x hx => State.kvPush_canonical (ih x hx)) e

theorem State.moveScores_canonical {s : State} {t : Tab} {score n : Nat} {new : List (List Kept)} {u : State} (h : s.mem.wf) (e : State.moveScores t score n new s = .ok u) : u.mem.wf := by
  unfold State.moveScores at e
  obtain ⟨w, -, e⟩ := bind_eq_ok.mp e
  refine foldl_ok_canonical (fun _ => of_ok ?_) _ (fun acc i ih u => of_bind fun x hx => State.tCarryTo_canonical (ih x hx)) e
  exact foldl_canonical h _ fun s g h => foldl_canonical h _ fun s k h => State.tCount_canonical h ..

theorem State.compactSet_canonical {s : State} {t : Tab} {x : Nat} {u l} (h : s.mem.wf) (e : s.compactSet t x = .ok (some (u, l))) : u.mem.wf := by
  unfold State.compactSet at e
  obtain ⟨⟨v, b⟩, hr, e⟩ := bind_eq_ok.mp e
  have hv : v.mem.wf := State.kvSet_canonical h hr
  obtain ⟨w, -, e⟩ := bind_eq_ok.mp e
  split at e
  · cases e
  · obtain ⟨x, hx, e⟩ := bind_eq_ok.mp e
    cases e
    refine foldl_ok_canonical (fun _ => of_ok ?_) _ (fun acc i ih u => of_bind fun x hx => of_bind fun _ _ => State.tPut_canonical (ih x hx)) hx
    exact foldl_canonical hv _ fun s b h => State.tCount_canonical (State.tSeen_canonical h ..) ..

theorem State.compactRun_canonical {s : State} {o : EngOp} {u} (h : s.mem.wf) (e : s.compactRun o = .ok u) : u.1.mem.wf := by
  unfold State.compactRun at e
  obtain ⟨ks, -, e⟩ := bind_eq_ok.mp e
  obtain ⟨tiers, -, e⟩ := bind_eq_ok.mp e
  obtain ⟨⟨v, addrs⟩, hr, e⟩ := bind_eq_ok.mp e
  have hv : v.mem.wf := State.kvPops_canonical (State.tSeen_canonical h ..) hr
  obtain ⟨w, hw, e⟩ := bind_eq_ok.mp e
  have hw := State.kvFresh_canonical (State.countSel_canonical hv ..) hw
  obtain ⟨x, hx, e⟩ := bind_eq_ok.mp e
  have hx : x.mem.wf := foldl_ok_canonical (fun _ => of_ok hw) _ (fun acc p ih u => of_bind fun y hy => State.fillBlock_canonical (ih y hy)) hx
  obtain ⟨y, hy, e⟩ := bind_eq_ok.mp e
  have hy := State.kvRewrite_canonical hx hy
  dsimp only at e
  split at e
  · cases e
    exact hy
  · obtain ⟨z, hz, e⟩ := bind_eq_ok.mp e
    cases e
    exact State.moveScores_canonical hy hz

theorem State.uncompact_canonical {s : State} (h : s.mem.wf) (o : EngOp) : (s.uncompact o).mem.wf := by
  refine foldl_canonical h _ fun s b h => ?_
  split
  · rename_i v hv
    exact of_bind (fun _ _ => State.tPut_canonical h) hv
  · exact h

theorem execCompactionStart_canonical {s : State} {id : Nat} {u : State} (h : s.mem.wf) (e : execCompactionStart id s = .next u) : u.mem.wf := by
  unfold execCompactionStart at e
  split at e
  · exact of_next h e
  split at e
  · extract_lets t at e
    split at e
    · exact of_next h e
    split at e
    · split at e
      · rename_i v n hv
        have hv : v.mem.wf := State.compactRun_canonical h hv
        exact of_next (State.opReady_canonical (State.opShare_canonical (State.engScr_canonical hv ..) ..) ..) e
      · exact of_next (State.kvFault_canonical (State.uncompact_canonical h ..) ..) e
    split at e
    · exact of_next (State.engFault_canonical h ..) e
    split at e
    · exact of_next (State.engFault_canonical h ..) e
    split at e
    · exact of_next (State.engFault_canonical h ..) e
    · exact of_next h e
    · exact of_next (State.updOp_canonical (State.compactSet_canonical h ‹_›) ..) e
  · exact of_next h e

theorem State.sweepRun_canonical {s : State} (h : s.mem.wf) (o : EngOp) (n : Nat) : (s.sweepRun o n).mem.wf := by
  unfold State.sweepRun
  grind [State.kvVisits_canonical, State.sweepsDone_canonical, State.engFault_canonical, State.updOp_canonical]

theorem State.opPerform_canonical {s : State} (h : s.mem.wf) (o : EngOp) : (s.opPerform o).mem.wf := by
  unfold State.opPerform
  grind [State.sweepRun_canonical, State.topkRun_canonical]

theorem execEngineOpComplete_canonical {s : State} {id : Nat} {u : State} (h : s.mem.wf) (e : execEngineOpComplete id s = .next u) : u.mem.wf := by
  unfold execEngineOpComplete at e
  grind [State.settle_canonical, State.opPerform_canonical, State.bumpCnt_canonical]

/-! ### Attention and table instructions -/

theorem recBody_canonical (kind : Nat → OpKind) (total : Nat) : (recBody kind total).Canonical := by
  intro cx k s h
  unfold recBody
  grind [Cx.issueOp_canonical]

theorem execKvSweep_canonical {s : State} {w : Word} {u : State} (h : s.mem.wf) (e : execKvSweep w s = .next u) : u.mem.wf := by
  refine issue_canonical (fun cx k s h => ?_) h e
  grind [Cx.issueOp_canonical]

theorem kvBody_canonical (w : Word) (vec : Bool) (acq : Option Nat) (op : KvKey → SliceOp) : (kvBody w vec acq op).Canonical := by
  intro cx k s h
  unfold kvBody
  grind [State.sendOps_canonical]

theorem execKvFree_canonical {s : State} {w : Word} {u : State} (h : s.mem.wf) (e : execKvFree w s = .next u) : u.mem.wf := by
  refine issue_canonical (fun cx k s h => ?_) h e
  grind [State.sendOps_canonical]

theorem execScoreClr_canonical {s : State} {w : Word} {u : State} (h : s.mem.wf) (e : execScoreClr w s = .next u) : u.mem.wf := by
  refine issue_canonical (fun cx k s h => ?_) h e
  grind [Cx.storeMany_canonical, State.fills_canonical]

theorem pfxBody_canonical (w : Word) (insert : Bool) : (pfxBody w insert).Canonical := by
  intro cx k s h
  unfold pfxBody
  grind [State.addAsync_canonical, State.imprecise_canonical, State.free_canonical, State.sendOps_canonical]

theorem State.kvTrap_canonical {s : State} (h : s.mem.wf) (tag : Tag) (e : EFault) : (s.kvTrap tag e).mem.wf := by
  unfold State.kvTrap
  grind [State.imprecise_canonical]

theorem execExitTest_canonical {s : State} {w : Word} {u : State} (h : s.mem.wf) (e : execExitTest w s = .next u) : u.mem.wf := by
  refine issue_canonical (fun cx k s h => ?_) h e
  grind [Cx.writeP_canonical, State.dropAsync_canonical, Cx.done_canonical, Cx.ask_canonical, State.kvTrap_canonical]

theorem execBackfill_canonical {s : State} {w : Word} {u : State} (h : s.mem.wf) (e : execBackfill w s = .next u) : u.mem.wf := by
  refine issue_canonical (fun cx k s h => ?_) h e
  grind [State.startRelease_canonical, State.updOp_canonical, Cx.issueOp_canonical]

theorem State.publishAt_canonical {s : State} {t : Tab} {addr : Nat} {e : Nat} {valid : Bool} {u : State} (h : s.mem.wf) (e : s.publishAt t addr e valid = .ok u) : u.mem.wf := by
  unfold State.publishAt at e
  grind [= bind_eq_match, State.tCount_canonical, State.tWrite_canonical]

theorem State.publish_canonical {s : State} {t : Tab} {idx : Nat} {e : Nat} {u : State} (h : s.mem.wf) (e : s.publish t idx e = .ok u) : u.mem.wf := by
  unfold State.publish at e
  grind [= bind_eq_match, State.tSeen_canonical, State.publishAt_canonical]

theorem execBackfillPublish_canonical {s : State} {id : Nat} {u : State} (h : s.mem.wf) (e : execBackfillPublish id s = .next u) : u.mem.wf := by
  unfold execBackfillPublish at e
  split at e
  · cases e
    exact h
  split at e
  · dsimp only at e
    split at e
    · cases e
      exact h
    split at e
    · cases e
      exact State.engFault_canonical h ..
    split at e
    · cases e
      exact h
    have hs := State.updOp_canonical h id fun o => { o with started := true }
    split at e
    · cases e
      exact State.engFault_canonical hs ..
    · cases e
      refine State.opReady_canonical (foldl_ok_canonical (fun _ => of_ok hs) _ (fun acc p ih u => of_bind fun x hx => State.publish_canonical (ih x hx)) ‹_›) ..
  · cases e
    exact h

theorem State.laneErr_canonical {s : State} (h : s.mem.wf) (r : Req) (e : EFault) (f : Part → Part) : (s.laneErr r e f).mem.wf := by
  unfold State.laneErr
  grind [State.answer_canonical, State.kvTrap_canonical]

theorem State.kvFreeOp_canonical {s : State} (h : s.mem.wf) (r : Req) (idx : Nat) : (s.kvFreeOp r idx).mem.wf := by
  unfold State.kvFreeOp
  grind [State.answer_canonical, State.laneErr_canonical, State.kvFreeEnt_canonical]

theorem State.exitPush_canonical {s : State} (h : s.mem.wf) (r : Req) (pa : Nat) (data : List W32) : (s.exitPush r pa data).mem.wf := by
  unfold State.exitPush
  grind [State.answer_canonical, State.qPush_canonical, State.laneErr_canonical, State.free_canonical]

theorem State.kvOp_canonical {s : State} (h : s.mem.wf) (r : Req) (o : SliceOp) : (s.kvOp r o).mem.wf := by
  unfold State.kvOp
  dsimp only
  split
  · split
    · exact State.laneErr_canonical h ..
    · exact State.answer_canonical (State.kvLook_canonical h ‹_›) ..
    · exact State.answer_canonical (State.kvLook_canonical h ‹_›) ..
  · split
    · exact State.laneErr_canonical h ..
    · exact State.answer_canonical (State.kvAlloc_canonical h ‹_›) ..
  · split
    · exact h
    · exact State.kvFreeOp_canonical h ..
  · grind [State.laneErr_canonical, State.answer_canonical]
  · grind [State.laneErr_canonical, State.answer_canonical, State.tWrite_canonical]
  · exact State.exitPush_canonical h ..
  · exact h

theorem execTableWriteAfterMove_canonical {s : State} {id : Nat} {u : State} (h : s.mem.wf) (e : execTableWriteAfterMove id s = .next u) : u.mem.wf := by
  unfold execTableWriteAfterMove at e
  grind [State.kvFreeOp_canonical]

end Sys2Proof.Machine


/-! Memory stays canonical through control flow, conversions, the matrix engine, moves, system instructions and the home slices. -/

namespace Sys2Proof.Machine

/-! ### Control flow and divergence (R29-R41, R218-R231) -/

theorem State.mergeAsync_canonical {s : State} (h : s.mem.wf) (c : CtxId) (keep1 : Bool) : (s.mergeAsync c keep1).mem.wf := h

theorem State.setMask_canonical {s : State} (h : s.mem.wf) (c : CtxId) (m : W64) (depth : Nat) : (s.setMask c m depth).mem.wf := h

theorem State.park_canonical {s : State} (h : s.mem.wf) (c : CtxId) (bundle : Nat) : (s.park c bundle).mem.wf := by
  unfold State.park
  grind [State.updGroup_canonical, State.orderArms_canonical, State.mergeAsync_canonical]

theorem State.joinStep_canonical {s : State} {cx : Cx} {bundle n : Nat} {u : State} (h : s.mem.wf) (e : s.joinStep cx bundle n = .ok u) : u.mem.wf := by
  induction n generalizing s u with
  | zero => exact of_ok h e
  | succ n ih =>
    have pop {s' : State} (h' : s'.mem.wf) {x : W64} {d at_ : Nat}
        (e : (if d = 0 then Except.ok ((s'.setMask cx.c x d).jump cx.c at_ 1) else (s'.setMask cx.c x d).joinStep cx bundle n) = .ok u) : u.mem.wf := by
      split at e
      · exact of_ok (State.jump_canonical (State.setMask_canonical h' ..) ..) e
      · exact ih (State.setMask_canonical h' ..) e
    rw [State.joinStep] at e
    split at e
    · exact of_ok h e
    dsimp only at e
    split at e
    · refine of_ok ?_ e
      split
      · exact State.park_canonical h ..
      · exact State.jump_canonical h ..
    split at e
    · cases e
    split at e
    · exact pop h e
    split at e
    · cases e
    split at e
    · exact of_ok (State.jump_canonical (State.setMask_canonical (State.store_canonical h ..) ..) ..) e
    · exact pop (State.store_canonical h ..) e

theorem State.exitSteps_canonical {s : State} {cx : Cx} {bundle n : Nat} {u : State} (h : s.mem.wf) (e : s.exitSteps cx bundle n = .ok u) : u.mem.wf := by
  induction n generalizing s u with
  | zero => exact of_ok h e
  | succ n ih =>
    rw [State.exitSteps] at e
    split at e
    · exact of_ok h e
    dsimp only at e
    split at e
    · exact of_ok h e
    split at e
    · split at e
      · cases e
      · exact ih (State.joinStep_canonical h ‹_›) e
    split at e
    · refine of_ok ?_ e
      grind [State.park_canonical, State.retireGroup_canonical]
    · exact of_ok (State.retireGroup_canonical h ..) e

theorem execNop_canonical {s : State} {w : Word} {u : State} (h : s.mem.wf) (e : execNop w s = .next u) : u.mem.wf := by
  refine issue_canonical (fun cx k s h => ?_) h e
  grind

theorem execBra_canonical {s : State} {w : WordI} {u : State} (h : s.mem.wf) (e : execBra w s = .next u) : u.mem.wf := by
  refine issue_canonical (fun cx k s h => ?_) h e
  grind [State.jump_canonical]

theorem execBrd_canonical {s : State} {w : WordI} {u : State} (h : s.mem.wf) (e : execBrd w s = .next u) : u.mem.wf := by
  refine issue_canonical (fun cx k s h => ?_) h e
  grind [State.updGroup_canonical, State.setMask_canonical, State.store_canonical, State.jump_canonical]

theorem execJoin_canonical {s : State} {w : Word} {u : State} (h : s.mem.wf) (e : execJoin w s = .next u) : u.mem.wf := by
  refine issue_canonical (fun cx k s h => ?_) h e
  grind [State.joinStep_canonical]

theorem execCall_canonical {s : State} {w : WordI} {u : State} (h : s.mem.wf) (e : execCall w s = .next u) : u.mem.wf := by
  refine issue_canonical (fun cx k s h => ?_) h e
  grind [Cx.writeU_canonical, State.jump_canonical]

theorem execRet_canonical {s : State} {w : Word} {u : State} (h : s.mem.wf) (e : execRet w s = .next u) : u.mem.wf := by
  refine issue_canonical (fun cx k s h => ?_) h e
  grind [State.jump_canonical]

theorem execJmpi_canonical {s : State} {w : Word} {u : State} (h : s.mem.wf) (e : execJmpi w s = .next u) : u.mem.wf := by
  refine issue_canonical (fun cx k s h => ?_) h e
  grind [Cx.writeU_canonical, State.jump_canonical]

theorem execMeld_canonical {s : State} {w : Word} {u : State} (h : s.mem.wf) (e : execMeld w s = .next u) : u.mem.wf := by
  refine issue_canonical (fun cx k s h => ?_) h e
  grind [State.updGroup_canonical]

theorem execMeldMap_canonical {s : State} {w : Word} {u : State} (h : s.mem.wf) (e : execMeldMap w s = .next u) : u.mem.wf := by
  refine issue_canonical (fun cx k s h => ?_) h e
  grind [State.updGroup_canonical]

theorem execMeldEnd_canonical {s : State} {w : Word} {u : State} (h : s.mem.wf) (e : execMeldEnd w s = .next u) : u.mem.wf := by
  refine issue_canonical (fun cx k s h => ?_) h e
  grind [State.updGroup_canonical, State.orderArms_canonical, State.mergeAsync_canonical]

theorem Cx.exit_canonical {s : State} {cx : Cx} {u : State} (h : s.mem.wf) (e : cx.exit s = .ok u) : u.mem.wf := by
  unfold Cx.exit at e
  grind [= bind_eq_match, State.exitSteps_canonical, State.updGroup_canonical, Cx.advance_canonical]

theorem execExit_canonical {s : State} {w : Word} {u : State} (h : s.mem.wf) (e : execExit w s = .next u) : u.mem.wf := by
  refine issue_canonical (fun cx k s h => ?_) h e
  grind [Cx.exit_canonical]

theorem execYield_canonical {s : State} {w : Word} {u : State} (h : s.mem.wf) (e : execYield w s = .next u) : u.mem.wf := by
  refine issue_canonical (fun cx k s h => ?_) h e
  grind [State.yieldPorts_canonical]

theorem execYieldOn_canonical {s : State} {w : WordI} {u : State} (h : s.mem.wf) (e : execYieldOn w s = .next u) : u.mem.wf := by
  refine issue_canonical (fun cx k s h => ?_) h e
  grind [State.updArm_canonical, State.yieldPorts_canonical, State.jump_canonical]

theorem Cx.softTrap_canonical {s : State} (h : s.mem.wf) (cx : Cx) (cause code : Nat) : (cx.softTrap cause code s).mem.wf := by
  unfold Cx.softTrap
  grind [State.raise_canonical, Cx.advance_canonical, State.haltCtx_canonical]

theorem execBpt_canonical {s : State} {w : Word} {u : State} (h : s.mem.wf) (e : execBpt w s = .next u) : u.mem.wf := by
  refine issue_canonical (fun cx k s h => ?_) h e
  grind [Cx.softTrap_canonical]

theorem execTrap_canonical {s : State} {w : Word} {u : State} (h : s.mem.wf) (e : execTrap w s = .next u) : u.mem.wf := by
  refine issue_canonical (fun cx k s h => ?_) h e
  grind [Cx.softTrap_canonical]

theorem execHcall_canonical {s : State} {w : Word} {u : State} (h : s.mem.wf) (e : execHcall w s = .next u) : u.mem.wf := by
  refine issue_canonical (fun cx k s h => ?_) h e
  grind [State.acquire_canonical, State.fillCore_canonical, Cx.stay_canonical, Cx.writeU_canonical, Cx.advance_canonical]

theorem execRfh_canonical {s : State} {w : Word} {u : State} (h : s.mem.wf) (e : execRfh w s = .next u) : u.mem.wf := by
  refine issue_canonical (fun cx k s h => ?_) h e
  grind [State.returnHandler_canonical]

/-! ### Lane by lane (R246-R249) -/

theorem laneWise_canonical (t : Ty) (f : Cx → Nat → W64) : (laneWise t f).Canonical := by
  intro cx k s h
  unfold laneWise
  grind [Cx.writeV_canonical]

theorem vecInt_canonical (f : IOp) (t : Ty) (sat : Bool) : (vecInt f t sat).Canonical := by
  exact laneWise_canonical _ _

theorem execVAddc_canonical {s : State} {w : Word} {u : State} (h : s.mem.wf) (e : execVAddc w s = .next u) : u.mem.wf := by
  refine issue_canonical (fun cx k s h => ?_) h e
  grind [Cx.writeP_canonical, Cx.writeV_canonical]

theorem laneCmp_canonical (p : Nat) (f : Cx → Nat → Bool) : (laneCmp p f).Canonical := by
  intro cx k s h
  unfold laneCmp
  grind [Cx.writeP_canonical, Cx.writeV_canonical]

theorem execVSel_canonical {s : State} {w : Word} {u : State} (h : s.mem.wf) (e : execVSel w s = .next u) : u.mem.wf := by
  unfold execVSel at e
  grind [laneWise_canonical, issue_canonical]

/-! ### Conversions (R256-R261) -/

theorem execCvtN_canonical {s : State} {w : Word} {u : State} (h : s.mem.wf) (e : execCvtN w s = .next u) : u.mem.wf := by
  refine issue_canonical (fun cx k s h => ?_) h e
  grind [State.dropClean_canonical, State.appendAll_canonical, Cx.writeV_canonical]

theorem execCvtW_canonical {s : State} {w : Word} {u : State} (h : s.mem.wf) (e : execCvtW w s = .next u) : u.mem.wf := by
  refine issue_canonical (fun cx k s h => ?_) h e
  grind [Cx.writeV_canonical]

theorem execPack_canonical {s : State} {w : Word} {u : State} (h : s.mem.wf) (e : execPack w s = .next u) : u.mem.wf := by
  refine issue_canonical (fun cx k s h => ?_) h e
  grind [Cx.writeV_canonical]

theorem execUnpack_canonical {s : State} {w : Word} {u : State} (h : s.mem.wf) (e : execUnpack w s = .next u) : u.mem.wf := by
  refine issue_canonical (fun cx k s h => ?_) h e
  grind [Cx.writeV_canonical]

theorem execBlkEnc_canonical {s : State} {w : Word} {u : State} (h : s.mem.wf) (e : execBlkEnc w s = .next u) : u.mem.wf := by
  refine issue_canonical (fun cx k s h => ?_) h e
  grind [Cx.storeMany_canonical, State.dropClean_canonical, State.appendAll_canonical, State.fills_canonical]

theorem execBlkDec_canonical {s : State} {w : Word} {u : State} (h : s.mem.wf) (e : execBlkDec w s = .next u) : u.mem.wf := by
  refine issue_canonical (fun cx k s h => ?_) h e
  grind [State.updGroup_canonical, Cx.stay_canonical, State.startLoad_canonical, Cx.advance_canonical, State.fills_canonical]

/-! ### The matrix engine (R320-R336) -/

theorem State.loadTiles_canonical {s : State} {l : Launch} {t : Team} {core : Nat} {u : State} (h : s.mem.wf) (e : s.loadTiles l t core = .ok u) : u.mem.wf := by
  unfold State.loadTiles at e
  grind [= bind_eq_match, State.updCore_canonical]

theorem State.restoreTiles_canonical {s : State} (h : s.mem.wf) (team grp : Nat) (at_ : Trap) : (s.restoreTiles team grp at_).mem.wf := by
  unfold State.restoreTiles
  split
  · exact h
  split
  · exact h
  split
  · exact State.loseTeam_canonical h ..
  · rename_i v hv
    refine State.updTeam_canonical (foldl_ok_canonical (fun _ => of_ok h) _ (fun acc c ih u e => ?_) hv) ..
    cases acc with
    | error => cases e
    | ok w => exact State.loadTiles_canonical (ih w rfl) e

theorem Cx.engine_canonical {s : State} (h : s.mem.wf) (cx : Cx) : (cx.engine s).mem.wf := by
  unfold Cx.engine
  grind [State.restoreTiles_canonical, State.bindEngine_canonical]

theorem Cx.takeToken_canonical {s : State} (h : s.mem.wf) (cx : Cx) : (cx.takeToken s).mem.wf := by
  unfold Cx.takeToken
  grind [Cx.engine_canonical, State.updTeam_canonical]

theorem execMtokAcq_canonical {s : State} {w : Word} {u : State} (h : s.mem.wf) (e : execMtokAcq w s = .next u) : u.mem.wf := by
  refine issue_canonical (fun cx k s h => ?_) h e
  grind [Cx.engine_canonical, State.updArm_canonical, Cx.done_canonical, Cx.stay_canonical, Cx.takeToken_canonical]

theorem execMtokAcqTry_canonical {s : State} {w : Word} {u : State} (h : s.mem.wf) (e : execMtokAcqTry w s = .next u) : u.mem.wf := by
  refine issue_canonical (fun cx k s h => ?_) h e
  grind [Cx.writeU_canonical, Cx.takeToken_canonical]

theorem execMtokPass_canonical {s : State} {w : Word} {u : State} (h : s.mem.wf) (e : execMtokPass w s = .next u) : u.mem.wf := by
  refine issue_canonical (fun cx k s h => ?_) h e
  grind [State.tokenGiven_canonical, State.updTeam_canonical, State.grantTok_canonical]

theorem Cx.enqueue_canonical {s : State} (h : s.mem.wf) (cx : Cx) (sel : Nat) (k : MKind) (op : Option Nat) (pair : Bool) : (cx.enqueue sel k op pair s).mem.wf := by
  unfold Cx.enqueue
  grind [foldl_canonical, Cx.engine_canonical, State.updCore_canonical]

theorem Cx.enqueueOp_canonical {s : State} (h : s.mem.wf) (cx : Cx) (sel : Nat) (k : MKind) (bobj : Option Nat) (pair : Bool) : (cx.enqueueOp sel k bobj pair s).mem.wf := by
  unfold Cx.enqueueOp
  grind [Cx.enqueue_canonical, Cx.issueOp_canonical]

theorem mmaBody_canonical (w : Word) (sp : Bool) : (mmaBody w sp).Canonical := by
  intro cx k s h
  unfold mmaBody
  grind [Cx.enqueue_canonical]

theorem execMmaOut_canonical {s : State} {w : Word} {u : State} (h : s.mem.wf) (e : execMmaOut w s = .next u) : u.mem.wf := by
  refine issue_canonical (fun cx k s h => ?_) h e
  grind [Cx.enqueueOp_canonical]

theorem execAccZero_canonical {s : State} {w : Word} {u : State} (h : s.mem.wf) (e : execAccZero w s = .next u) : u.mem.wf := by
  refine issue_canonical (fun cx k s h => ?_) h e
  grind [Cx.enqueue_canonical]

theorem accBody_canonical (w : Word) (n : Nat) (k : Nat → Nat → Bool → MKind) : (accBody w n k).Canonical := by
  intro cx k s h
  unfold accBody
  grind [Cx.enqueueOp_canonical]

theorem execAccMovTov_canonical {s : State} {w : Word} {u : State} (h : s.mem.wf) (e : execAccMovTov w s = .next u) : u.mem.wf := by
  refine issue_canonical (fun cx k s h => ?_) h e
  grind [State.addAsync_canonical, Cx.enqueue_canonical]

theorem execAccMovToa_canonical {s : State} {w : Word} {u : State} (h : s.mem.wf) (e : execAccMovToa w s = .next u) : u.mem.wf := by
  refine issue_canonical (fun cx k s h => ?_) h e
  grind [Cx.enqueue_canonical]

theorem execLayout_canonical {s : State} {w : Word} {u : State} (h : s.mem.wf) (e : execLayout w s = .next u) : u.mem.wf := by
  refine issue_canonical (fun cx k s h => ?_) h e
  grind [Cx.enqueue_canonical]

theorem State.sawOperands_canonical {s : State} (h : s.mem.wf) : s.sawOperands.mem.wf := h

theorem State.bumpBank_canonical {s : State} (h : s.mem.wf) (team core : Nat) (l : List (Nat × Nat)) : (s.bumpBank team core l).mem.wf := h

theorem State.mapTile_canonical {s : State} (h : s.mem.wf) (core t : Nat) (f : Nat → Nat → W32 → W32) (bad : Nat → Nat → Bool) : (s.mapTile core t f bad).mem.wf := h

theorem State.product_canonical {s : State} (h : s.mem.wf) (cores : List Nat) (t : Nat) (x3 b : List (List (FVal × Bool))) : (s.product cores t x3 b).mem.wf :=
  foldl_canonical h _ fun s x h => by grind [State.mapTile_canonical]

theorem State.doMma_canonical {s : State} {old : Sparse 8} {team core : Nat} {cores : List Nat} {sp : Bool} {t la lb koff : Nat} {u : State} (h : s.mem.wf) (e : s.doMma old team core cores sp t la lb koff = .ok u) : u.mem.wf := by
  unfold State.doMma at e
  obtain ⟨a, -, e⟩ := bind_eq_ok.mp e
  obtain ⟨b, -, e⟩ := bind_eq_ok.mp e
  refine of_unless (fun e => ?_) e
  split at e
  · refine of_bind (fun _ _ => of_bind fun _ _ => of_ok ?_) e
    exact State.product_canonical (State.bumpBank_canonical (State.bumpBank_canonical h ..) ..) ..
  · refine of_bind (fun _ _ => of_bind fun _ _ => of_bind fun _ _ => of_unless fun e => ?_) e
    split at e
    · cases e
    · refine of_unless (of_ok ?_) e
      exact State.product_canonical (State.bumpBank_canonical (State.bumpBank_canonical (State.bumpBank_canonical h ..) ..) ..) ..

theorem State.doOut_canonical {s : State} {old : Sparse 8} {o : EngOp} {core t lo ro : Nat} {sideB : Bool} {u : State} (h : s.mem.wf) (e : s.doOut old o core t lo ro sideB = .ok u) : u.mem.wf := by
  refine of_unless (of_unless (of_unless (of_bind fun _ _ => of_bind fun _ _ => of_bind fun _ _ => of_ok ?_))) e
  exact State.mapTile_canonical (State.bumpBank_canonical (State.engCount_canonical h ..) ..) ..

theorem State.doLd_canonical {s : State} {old : Sparse 8} {team core : Nat} {cores : List Nat} {t la : Nat} {u : State} (h : s.mem.wf) (e : s.doLd old team core cores t la = .ok u) : u.mem.wf := by
  unfold State.doLd at e
  obtain ⟨l, -, e⟩ := bind_eq_ok.mp e
  split at e
  · cases e
  · obtain ⟨v, -, e⟩ := bind_eq_ok.mp e
    cases e
    exact foldl_canonical (State.bumpBank_canonical h ..) _ fun s k h => by grind [State.updCore_canonical]

theorem State.putBytes_canonical {s : State} (h : s.mem.wf) (o : EngOp) (e : End) (n v : Nat) (bad : Bool) : (s.putBytes o e n v bad).1.mem.wf := by
  unfold State.putBytes
  grind [State.engWrite_canonical, State.engScr_canonical]

theorem State.putRow_canonical {s : State} (h : s.mem.wf) (o : EngOp) (e : End) (n : Nat) (r : OutRow) : (s.putRow o e n r).1.mem.wf := by
  unfold State.putRow
  split
  · exact State.putBytes_canonical h ..
  · refine List.foldlRecOn (motive := fun acc : State × Option EFault => acc.1.mem.wf) _ _ h fun acc h k _ => ?_
    dsimp only
    split
    · exact h
    · exact State.putBytes_canonical h ..

theorem State.appendRow_canonical {s : State} (h : s.mem.wf) (o : EngOp) (f : Slot) (slot : Nat) (l : List (Nat × W32 × Bool)) (told : Bool) : (s.appendRow o f slot l told).1.mem.wf := by
  refine List.foldlRecOn (motive := fun acc : State × Bool × Option EFault => acc.1.mem.wf) _ _ h fun acc h r _ => ?_
  grind [State.appendOutlier_canonical, State.imprecise_canonical]

theorem State.rowEntry_canonical {s : State} {t : Tab} {v : Nat} {u} (h : s.mem.wf) (e : s.rowEntry t v = .ok u) : u.1.mem.wf := by
  unfold State.rowEntry at e
  obtain ⟨⟨v, r⟩, hr, e⟩ := bind_eq_ok.mp e
  have hv : v.mem.wf := State.kvLook_canonical h hr
  cases r with
  | some j =>
    cases e
    exact hv
  | none =>
    dsimp only at e
    split at e
    · cases e
    · obtain ⟨w, hw, e⟩ := bind_eq_ok.mp e
      cases e
      exact State.kvAlloc_canonical hv hw

theorem State.rowHeader_canonical {s : State} {t : Tab} {addr v : Nat} {u : State} (h : s.mem.wf) (e : s.rowHeader t addr v = .ok u) : u.mem.wf := by
  refine of_bind (fun _ _ => of_bind fun v hv => fun e => ?_) e
  have hv := State.tWrite_canonical (State.tCount_canonical h ..) hv
  split at e
  · exact of_ok hv e
  · exact State.publishAt_canonical hv e

theorem State.scatterRow_canonical {s : State} (h : s.mem.wf) (o : EngOp) (t : Tab) (x v : Nat) (r : OutRow) : (s.scatterRow o t x v r).1.mem.wf := by
  unfold State.scatterRow
  split
  · exact h
  · rename_i v j addr e
    have hv : v.mem.wf := by
      split at e
      · cases e
        exact h
      · obtain ⟨⟨w, k⟩, hw, e⟩ := bind_eq_ok.mp e
        obtain ⟨x, -, e⟩ := bind_eq_ok.mp e
        cases e
        exact State.rowEntry_canonical h hw
    clear e
    split
    · exact hv
    · extract_lets e col fm n
      have hp := State.putRow_canonical hv o ⟨false, t.row addr (e + (if x.testBit 19 then 16 else 0)) + (fm.span col 1).1⟩ n r
      split
      · rename_i w _ hw
        rw [hw] at hp
        exact hp
      · rename_i w hw
        rw [hw] at hp
        split
        · exact State.rowHeader_canonical hp ‹_›
        · exact hp

theorem State.stRow_canonical {s : State} (h : s.mem.wf) (old : Sparse 8) (o : EngOp) (p : EpiPlan) (core t row : Nat) (told : Bool) : (s.stRow old o p core t row told).1.mem.wf := by
  unfold State.stRow
  grind [State.putRow_canonical, State.appendRow_canonical, State.scatterRow_canonical]

theorem State.doSt_canonical {s : State} (h : s.mem.wf) (old : Sparse 8) (o : EngOp) (p : EpiPlan) (cores : List Nat) (t : Nat) : (s.doSt old o p cores t).1.mem.wf := by
  unfold State.doSt
  dsimp only
  have hr := List.foldlRecOn (motive := fun acc : State × Bool × Option EFault => acc.1.mem.wf) (List.range (64 * cores.length))
    (fun acc row => match acc.2.2 with | some _ => acc | none => acc.1.stRow old o p (cores.getD (row / 64) 0) t row acc.2.1) (b := (s, false, none)) h fun acc h row _ => by
      grind [State.stRow_canonical]
  split
  · exact State.bumpBank_canonical hr ..
  · exact hr

theorem State.matFault_canonical {s : State} (h : s.mem.wf) (id : Nat) (e : EFault) : (s.matFault id e).mem.wf := by
  unfold State.matFault
  grind [State.kvFault_canonical, State.opFault_canonical]

theorem State.matEnd_canonical {s : State} (h : s.mem.wf) (m : MInst) {r : Except EFault State} (hr : ∀ u, r = .ok u → u.mem.wf) : (s.matEnd m r).mem.wf := by
  unfold State.matEnd
  split
  · exact State.sawOperands_canonical (hr _ rfl) ..
  · exact State.imprecise_canonical h ..

theorem State.matOp_canonical {s : State} (h : s.mem.wf) (id n : Nat) {r : Except EFault State} (hr : ∀ u, r = .ok u → u.mem.wf) : (s.matOp id n r).mem.wf := by
  unfold State.matOp
  split
  · exact State.opReady_canonical (State.opShare_canonical (State.sawOperands_canonical (hr _ rfl) ..) ..) ..
  · exact State.matFault_canonical h ..

theorem State.doLayout_canonical {s : State} (h : s.mem.wf) (tag : Tag) (so word : Nat) (add : Bool) (v : W32) : (s.doLayout tag so word add v).mem.wf := by
  unfold State.doLayout
  grind [State.evalBobj_canonical, State.scrWrite_canonical, State.scrPoisonSet_canonical, State.imprecise_canonical]

theorem State.doTov_canonical {s : State} (h : s.mem.wf) (core t row id : Nat) : (s.doTov core t row id).mem.wf := h

theorem State.doToa_canonical {s : State} (h : s.mem.wf) (core t row : Nat) (vals : List (Nat × W32)) : (s.doToa core t row vals).mem.wf := h

theorem State.doMatrix_canonical {s : State} {m : MInst} {core : Nat} {cores : List Nat} {u : State} (h : s.mem.wf) (e : s.doMatrix m core cores = some u) : u.mem.wf := by
  unfold State.doMatrix at e
  dsimp only at e
  split at e
  · cases e
    exact State.matEnd_canonical h _ fun u => State.doMma_canonical h
  · cases e
    exact foldl_canonical h _ fun s c h => State.updCore_canonical h ..
  · cases e
    exact State.doTov_canonical h ..
  · cases e
    exact State.doToa_canonical h ..
  · cases e
    exact State.doLayout_canonical h ..
  · split at e
    · cases e
      exact State.matOp_canonical h _ _ fun u => State.doOut_canonical h
    · cases e
      exact h
  · cases e
    exact State.matOp_canonical (State.updOp_canonical h ..) _ _ fun u => State.doLd_canonical (State.updOp_canonical h ..)
  · split at e
    · cases e
      exact h
    split at e
    · cases e
      exact State.matFault_canonical (State.updOp_canonical h ..) ..
    · rename_i t _ _ id _ _ _ o _ _ p _
      have hp := State.doSt_canonical (State.updOp_canonical h id fun o => { o with total := p.bytes (64 * cores.length) }) m.old o p cores t
      split at e
      · cases e
      split at e
      · rename_i v hv
        rw [hv] at hp
        cases e
        exact State.opReady_canonical (State.opShare_canonical (State.sawOperands_canonical hp) ..) ..
      · rename_i v _ hv
        rw [hv] at hp
        cases e
        exact State.matFault_canonical (State.sawOperands_canonical hp) ..
  · cases e
    exact h

theorem State.laterSee_canonical {s : State} (h : s.mem.wf) (team : Nat) (cores : List Nat) (l : List (Nat × Nat)) : (s.laterSee team cores l).mem.wf := by
  unfold State.laterSee
  grind [foldl_canonical, State.updCore_canonical]

theorem execMatrixEnginePerform_canonical {s : State} {core : Nat} {u : State} (h : s.mem.wf) (e : execMatrixEnginePerform core s = .next u) : u.mem.wf := by
  unfold execMatrixEnginePerform at e
  split at e
  · cases e
    exact h
  split at e
  · cases e
    exact h
  extract_lets cores heads pop cancelled s' at e
  have hpop (v : State) (hv : v.mem.wf) : (pop v).mem.wf := foldl_canonical hv _ fun s c h => State.updCore_canonical h ..
  have hs : s'.mem.wf := by
    dsimp only [s']
    split
    · exact State.updOp_canonical h ..
    · exact h
  clear_value s' pop cancelled heads cores
  grind [State.doMatrix_canonical, State.laterSee_canonical]

/-! ### Expert instructions (R349, R350) -/

theorem execEbmSet_canonical {s : State} {w : Word} {u : State} (h : s.mem.wf) (e : execEbmSet w s = .next u) : u.mem.wf := by
  refine issue_canonical (fun cx k s h => ?_) h e
  grind [State.sendOps_canonical, State.fills_canonical]

theorem ebmBody_canonical (vec : Bool) (g : Gather) (os : List Opd) (n j : Opd) : (ebmBody vec g os n j).Canonical := by
  intro cx k s h
  unfold ebmBody
  grind [State.startLoad_canonical, State.fills_canonical]

theorem execRegroup_canonical {s : State} {w : Word} {u : State} (h : s.mem.wf) (e : execRegroup w s = .next u) : u.mem.wf := by
  refine issue_canonical (fun cx k s h => ?_) h e
  grind [Cx.done_canonical, Cx.stay_canonical, State.regroupTeam_canonical, Cx.advance_canonical, Cx.acquire_canonical]

/-! ### Moves and the register allocation (R46-R54) -/

theorem anyDst_canonical (t : Ty) (vec : Bool) (f fu : Cx → Nat → W64) : (anyDst t vec f fu).Canonical := by
  intro cx k s h
  unfold anyDst
  grind [Cx.writeV_canonical, Cx.writeU_canonical]

theorem Cx.markOor_canonical {s : State} (h : s.mem.wf) (cx : Cx) : (cx.markOor s).mem.wf := h

theorem execReadlane_canonical {s : State} {w : Word} {u : State} (h : s.mem.wf) (e : execReadlane w s = .next u) : u.mem.wf := by
  refine issue_canonical (fun cx a s h => foldl_canonical h _ fun s p h => ?_) h e
  exact ite_canonical (Cx.writeU_canonical h ..) (Cx.markOor_canonical (Cx.writeU_canonical h ..) ..)

theorem execFirst_canonical {s : State} {w : Word} {u : State} (h : s.mem.wf) (e : execFirst w s = .next u) : u.mem.wf := by
  refine issue_canonical (fun cx a s h => foldl_canonical h _ fun s p h => ?_) h e
  grind [Cx.writeU_canonical]

theorem execGetsr_canonical {s : State} {w : Word} {u : State} (h : s.mem.wf) (e : execGetsr w s = .next u) : u.mem.wf := by
  unfold execGetsr at e
  grind [issue_canonical, anyDst_canonical]

theorem execSetsr_canonical {s : State} {w : Word} {u : State} (h : s.mem.wf) (e : execSetsr w s = .next u) : u.mem.wf := by
  refine issue_canonical (fun cx k s h => ?_) h e
  grind [State.updGroup_canonical, State.updTeam_canonical]

theorem State.grant_canonical {s : State} (h : s.mem.wf) (team grp n : Nat) : (s.grant team grp n).mem.wf := h

theorem execGrow_canonical {s : State} {w : Word} {u : State} (h : s.mem.wf) (e : execGrow w s = .next u) : u.mem.wf := by
  refine issue_canonical (fun cx k s h => ?_) h e
  grind [State.grant_canonical, Cx.stay_canonical, Cx.advance_canonical]

theorem execGrowTry_canonical {s : State} {w : Word} {u : State} (h : s.mem.wf) (e : execGrowTry w s = .next u) : u.mem.wf := by
  refine issue_canonical (fun cx k s h => ?_) h e
  grind [State.grant_canonical, Cx.writeU_canonical]

theorem execShrink_canonical {s : State} {w : Word} {u : State} (h : s.mem.wf) (e : execShrink w s = .next u) : u.mem.wf := by
  refine issue_canonical (fun cx k s h => ?_) h e
  grind [State.updGroup_canonical]

theorem execGrowGrant_canonical {s : State} {core : Nat} {u : State} (h : s.mem.wf) (e : execGrowGrant core s = .next u) : u.mem.wf := by
  unfold execGrowGrant at e
  grind [State.wake_canonical, State.grant_canonical]

/-! ### System instructions (R394-R398) -/

theorem execSysr_canonical {s : State} {w : Word} {u : State} (h : s.mem.wf) (e : execSysr w s = .next u) : u.mem.wf := by
  refine issue_canonical (fun cx k s h => ?_) h e
  grind [Cx.writeU_canonical]

theorem State.setMaskReg_canonical (s : State) (i : Nat) (x : W64) : (s.setMaskReg i x).mem.wf := setMaskReg_wf s i x

theorem State.setFront_canonical {s : State} (h : s.mem.wf) (pa n : Nat) (x : W64) : (s.setFront pa n x).mem.wf := by
  unfold State.setFront
  grind [foldl_canonical, State.updFront_canonical, State.poke_canonical, State.frontEject_canonical, State.evalFront_canonical]

theorem State.setRace_canonical {s : State} (h : s.mem.wf) (cx : Cx) (x : W64) : (s.setRace cx x).mem.wf := by
  unfold State.setRace
  grind [State.updTenant_canonical, State.endEpoch_canonical, State.fills_canonical]

theorem State.sysWrite_canonical {s : State} (h : s.mem.wf) (cx : Cx) (n : Nat) (x : W64) : (s.sysWrite cx n x).mem.wf := by
  unfold State.sysWrite
  grind [State.commands_canonical, State.setRace_canonical, State.updGroup_canonical, State.updCore_canonical, State.updTenant_canonical, State.setMaskReg_canonical, State.setFront_canonical]

theorem execSysw_canonical {s : State} {w : Word} {u : State} (h : s.mem.wf) (e : execSysw w s = .next u) : u.mem.wf := by
  refine issue_canonical (fun cx k s h => ?_) h e
  grind [State.sysWrite_canonical]

theorem State.tlbInv_canonical {s : State} (h : s.mem.wf) (team tenant scope : Nat) (r : Option (Nat × Nat)) : (s.tlbInv team tenant scope r).mem.wf := h

theorem execTlbinv_canonical {s : State} {w : Word} {u : State} (h : s.mem.wf) (e : execTlbinv w s = .next u) : u.mem.wf := by
  refine issue_canonical (fun cx k s h => ?_) h e
  grind [State.tlbInv_canonical]

theorem execRaceClr_canonical {s : State} {w : Word} {u : State} (h : s.mem.wf) (e : execRaceClr w s = .next u) : u.mem.wf := by
  refine issue_canonical (fun cx k s h => ?_) h e
  grind [State.endEpoch_canonical]

theorem execPerfRd_canonical {s : State} {w : Word} {u : State} (h : s.mem.wf) (e : execPerfRd w s = .next u) : u.mem.wf := by
  unfold execPerfRd at e
  refine issue_canonical ?_ h e
  intro cx a s h
  exact ite_canonical (Cx.writeV_canonical h ..) (Cx.writeU_canonical h ..)

/-! ### Home slices, acknowledgements and landings (R74, R184, R451) -/

theorem State.landAsync_canonical {s : State} (h : s.mem.wf) (x : Async) : (s.landAsync x).mem.wf := by
  unfold State.landAsync
  grind [State.acquire_canonical, State.updGroup_canonical, State.wake_canonical]

theorem execAsyncWriteLands_canonical {s : State} {id : Nat} {u : State} (h : s.mem.wf) (e : execAsyncWriteLands id s = .next u) : u.mem.wf := by
  unfold execAsyncWriteLands at e
  grind [State.landAsync_canonical]

theorem State.dropReq_canonical {s : State} (h : s.mem.wf) (id : Nat) : (s.dropReq id).mem.wf := h

theorem State.readReq_canonical {s : State} (h : s.mem.wf) (r : Req) : (s.readReq r).mem.wf := by
  unfold State.readReq
  grind [State.mixedAll_canonical, State.perfBump_canonical, State.perfLine_canonical]

theorem State.writeReq_canonical {s : State} (h : s.mem.wf) (r : Req) (data : BitVec 1024) (mask : BitVec 128) (poison : BitVec 32) : (s.writeReq r data mask poison).mem.wf := by
  unfold State.writeReq
  grind [State.mixedAll_canonical, State.raceWrite_canonical, State.blur_canonical, State.perfLine_canonical]

theorem execHomeSliceRequest_canonical {s : State} {id : Nat} {u : State} (h : s.mem.wf) (e : execHomeSliceRequest id s = .next u) : u.mem.wf := by
  unfold execHomeSliceRequest at e
  grind [State.dropReq_canonical, State.writeReq_canonical, State.readReq_canonical]

theorem execMergedReadReply_canonical {s : State} {id : Nat} {u : State} (h : s.mem.wf) (e : execMergedReadReply id s = .next u) : u.mem.wf := by
  unfold execMergedReadReply at e
  split at e
  · exact of_next h e
  split at e
  · exact of_next h e
  · extract_lets give at e
    have hgive (s : State) (r : Req) (h : s.mem.wf) : (give s r).mem.wf := by
      have hf := State.fillLine_canonical h r
      grind
    exact of_next (foldl_canonical (by exact h) _ hgive) e

theorem State.sliceOp_canonical {s : State} {r : Req} {o : SliceOp} {u : State} (h : s.mem.wf) (e : s.sliceOp r o = some u) : u.mem.wf := by
  unfold State.sliceOp at e
  grind [State.tlOp_canonical, State.frontOp_canonical, State.kvOp_canonical, State.tqOp_canonical, State.atomOp_canonical]

theorem execHomeSliceAtomic_canonical {s : State} {id : Nat} {u : State} (h : s.mem.wf) (e : execHomeSliceAtomic id s = .next u) : u.mem.wf := by
  unfold execHomeSliceAtomic at e
  grind [State.mixedAll_canonical, State.dropReq_canonical, State.dropClean_canonical, State.sliceOp_canonical, State.blur_canonical, State.perfLine_canonical]

theorem State.applyAck_canonical {s : State} (h : s.mem.wf) (a : Ack) : (s.applyAck a).mem.wf := by
  unfold State.applyAck
  grind [State.pokeMask_canonical]

theorem State.clearAck_canonical {s : State} (h : s.mem.wf) (a : Ack) : (s.clearAck a).mem.wf := h

theorem execWritebackAck_canonical {s : State} {id result : Nat} {u : State} (h : s.mem.wf) (e : execWritebackAck id result s = .next u) : u.mem.wf := by
  unfold execWritebackAck at e
  grind [State.imprecise_canonical, State.applyAck_canonical, State.clearAck_canonical]

end Sys2Proof.Machine


/-! Memory stays canonical through the events of launches, teams, the host, links and the fabric. -/

namespace Sys2Proof.Machine

theorem forget_wf (l : Sparse 8) {m : Sparse 8} (h : m.wf = true) (k : Nat) : (forget l m k).1.wf = true := by
  induction l generalizing m k with
  | nil => exact h
  | cons p l ih =>
    rw [forget]
    split
    · exact ih h k
    · exact ih (set_wf _ _ h) _

/-! ### Launches, teams and tasks (R354-R364) -/

theorem State.keepRange_canonical {s : State} (h : s.mem.wf) (unit tenant va n : Nat) : (s.keepRange unit tenant va n).mem.wf :=
  foldl_canonical h _ fun s x h => by grind [State.keepAgent_canonical]

theorem State.signalDone_canonical {s : State} (h : s.mem.wf) (l : Launch) : (s.signalDone l).mem.wf := by
  unfold State.signalDone
  grind [State.keepAgent_canonical, State.note_canonical, State.signalTl_canonical, State.pushErr_canonical]

theorem State.refuse_canonical {s : State} (h : s.mem.wf) (tenant : Nat) (va : W64) (detail : Nat) (l : Option Launch) : (s.refuse tenant va detail l).mem.wf := by
  unfold State.refuse
  grind [State.signalDone_canonical, State.pushErr_canonical]

theorem State.consume_canonical {s : State} (h : s.mem.wf) (core : Nat) (k : Take) : (s.consume core k).mem.wf := h

theorem State.reachHeads_canonical {s : State} (h : s.mem.wf) : s.reachHeads.mem.wf := foldl_canonical h _ fun s x h => by grind [State.updLaunch_canonical]

theorem State.acceptRecord_canonical {s : State} (h : s.mem.wf) (tenant : Nat) (va : W64) (cls : Option Nat) (sup : Option Supplier) (args : Option W64) : (s.acceptRecord tenant va cls sup args).mem.wf := by
  unfold State.acceptRecord
  grind [State.refuse_canonical, State.keepRange_canonical, State.reachHeads_canonical]

theorem execLaunchPop_canonical {s : State} {tenant cls : Nat} {u : State} (h : s.mem.wf) (e : execLaunchPop tenant cls s = .next u) : u.mem.wf := by
  unfold execLaunchPop at e
  grind [State.keepAgent_canonical, State.acceptRecord_canonical, State.agentPop_canonical]

theorem State.tagStep_canonical {s : State} (h : s.mem.wf) (tenant : Nat) (tag : W32) (payload : W64) : (s.tagStep tenant tag payload).mem.wf := by
  unfold State.tagStep
  grind [State.keepAgent_canonical, State.note_canonical, State.acceptRecord_canonical, State.poke_canonical]

theorem State.dropCache_canonical {s : State} (h : s.mem.wf) (core : Nat) : (s.dropCache core).mem.wf := by
  unfold State.dropCache
  grind [State.noFill_canonical, State.writeBackAll_canonical, State.updCore_canonical]

theorem State.loadBounds_canonical {s : State} (h : s.mem.wf) (l : Launch) (core : Nat) : (s.loadBounds l core).mem.wf := by
  unfold State.loadBounds
  grind [State.updCore_canonical, State.dropCache_canonical]

theorem State.pinOn_canonical {s : State} (h : s.mem.wf) (core team n : Nat) : (State.pinOn core team n s).mem.wf := by
  induction n generalizing s with
  | zero => exact h
  | succ n ih =>
    rw [State.pinOn]
    split
    · exact ih h
    · exact h

theorem State.readyCores_canonical {s : State} (h : s.mem.wf) (l : Launch) (team core : Nat) : (s.readyCores l team core).mem.wf :=
  foldl_canonical h _ fun s x h => by grind [State.loadBounds_canonical, State.invalidate_canonical, State.pinOn_canonical]

theorem State.placeTeam_canonical {s : State} (h : s.mem.wf) (launch core index : Nat) : (s.placeTeam launch core index).mem.wf := by
  unfold State.placeTeam
  grind [foldl_canonical, State.updLaunch_canonical, State.readyCores_canonical, State.consume_canonical]

theorem State.placeAll_canonical {s : State} {launch n core : Nat} {u : State} (h : s.mem.wf) (e : State.placeAll launch n core s = some u) : u.mem.wf := by
  induction n generalizing s core u with
  | zero => cases e
  | succ k ih =>
    rw [State.placeAll] at e
    split at e
    · cases e
      exact h
    · split at e
      · exact ih (State.placeTeam_canonical h ..) e
      · generalize (if (s.launch launch).pair = true then 2 else 1) = cores at e
        split at e
        · cases e
        · exact ih h e

theorem State.gathered_canonical {s : State} {launch : Nat} {u : State} (h : s.mem.wf) (e : s.gathered launch = some u) : u.mem.wf := by
  unfold State.gathered at e
  grind [State.placeAll_canonical]

theorem execDispatchTeam_canonical {s : State} {launch core : Nat} {u : State} (h : s.mem.wf) (e : execDispatchTeam launch core s = .next u) : u.mem.wf := by
  unfold execDispatchTeam at e
  grind [State.placeTeam_canonical, State.gathered_canonical, State.reachHeads_canonical]

theorem State.unbind_canonical {s : State} (h : s.mem.wf) (team : Nat) (t : Team) : (s.unbind team t).mem.wf := by
  unfold State.unbind
  grind [foldl_canonical, State.updCore_canonical, State.grantTok_canonical]

theorem execTeamRetire_canonical {s : State} {team : Nat} {u : State} (h : s.mem.wf) (e : execTeamRetire team s = .next u) : u.mem.wf := by
  unfold execTeamRetire at e
  split at e
  · exact of_next h e
  split at e
  · exact of_next h e
  · rename_i t _ _
    have hs := foldl_canonical h t.cores fun s c h => State.updCore_canonical h c fun x => x.unpin team
    exact of_next (State.updLaunch_canonical (State.unbind_canonical (State.updTeam_canonical hs ..) ..) ..) e

theorem execLaunchComplete_canonical {s : State} {launch : Nat} {u : State} (h : s.mem.wf) (e : execLaunchComplete launch s = .next u) : u.mem.wf := by
  unfold execLaunchComplete at e
  extract_lets l ops p at e
  have hp : p.1.mem.wf := by
    dsimp only [p]
    split
    · exact h
    · refine List.foldlRecOn (motive := fun acc : State × List Nat => acc.1.mem.wf) _ _ h fun acc h c _ => ?_
      have hw := State.writeBackAll_canonical h c fun _ => true
      exact hw
  clear_value p
  grind [State.updLaunch_canonical, State.signalDone_canonical]

theorem State.refuseCont_canonical {s : State} (h : s.mem.wf) (c : Cont) (info : W64) (l : Option Launch) (detail : Nat) : (s.refuseCont c info l detail).mem.wf := by
  unfold State.refuseCont
  grind [State.freeze_canonical, State.refuse_canonical]

theorem State.placeTask_canonical {s : State} (h : s.mem.wf) (l : Launch) (core index grp : Nat) (sup : Option Supplier) (f : Group → Group) : (s.placeTask l core index grp sup f).mem.wf := by
  unfold State.placeTask
  grind [foldl_canonical, State.readyCores_canonical, State.consume_canonical]

theorem execContinuationResume_canonical {s : State} {id core : Nat} {u : State} (h : s.mem.wf) (e : execContinuationResume id core s = .next u) : u.mem.wf := by
  unfold execContinuationResume at e
  split at e
  · exact of_next h e
  split at e
  · exact of_next h e
  split at e
  · exact of_next (State.refuseCont_canonical h ..) e
  split at e
  · exact of_next (State.refuseCont_canonical h ..) e
  split at e
  · exact of_next (State.refuseCont_canonical h ..) e
  split at e
  · exact of_next (State.refuseCont_canonical h ..) e
  split at e
  · exact of_next h e
  · refine of_next (State.placeTask_canonical (s := { State.keepRange _ _ _ _ _ with conts := _ }) ?_ ..) e
    exact State.keepRange_canonical (State.keepRange_canonical h ..) ..

theorem State.bfTaken_canonical {s : State} (h : s.mem.wf) (tenant index : Nat) : (s.bfTaken tenant index).mem.wf := h

theorem execBackfillTaskStart_canonical {s : State} {tenant core : Nat} {u : State} (h : s.mem.wf) (e : execBackfillTaskStart tenant core s = .next u) : u.mem.wf := by
  unfold execBackfillTaskStart at e
  grind [State.keepAgent_canonical, State.freeze_canonical, State.agentPop_canonical, State.bfTaken_canonical, State.placeTask_canonical, State.keepRange_canonical]

theorem execPoolBoundaryApply_canonical {s : State} {core : Nat} {u : State} (h : s.mem.wf) (e : execPoolBoundaryApply core s = .next u) : u.mem.wf := by
  unfold execPoolBoundaryApply at e
  grind [State.updCore_canonical, State.dropCache_canonical]

theorem execContextDue_canonical {s : State} {c : CtxId} {u : State} (h : s.mem.wf) (e : execContextDue c s = .next u) : u.mem.wf := by
  unfold execContextDue at e
  grind [State.updArm_canonical]

/-! ### Pre-emption and the trap events (R366-R370, R417-R420) -/

theorem State.withdraw_canonical {s : State} (h : s.mem.wf) (team : Nat) : (s.withdraw team).mem.wf := h

theorem State.imgPoison_canonical {s : State} (h : s.mem.wf) (tenant va : Nat) (offs : List Nat) : (s.imgPoison tenant va offs).mem.wf :=
  foldl_canonical h _ fun s x h => by grind [State.poisonVa_canonical]

theorem State.saveTiles_canonical {s : State} {team : Nat} {l : Launch} {t : Team} {u : State} (h : s.mem.wf) (e : s.saveTiles team l t = .ok u) : u.mem.wf := by
  refine foldl_ok_canonical (fun _ => of_ok h) _ (fun acc k ih u e => ?_) e
  grind [State.vwrite_canonical, State.imgPoison_canonical, State.updTeam_canonical]

theorem State.lostState_canonical {s : State} (h : s.mem.wf) (team : Nat) (e : EFault) : (s.lostState team e).mem.wf := by
  unfold State.lostState
  grind [State.terminate_canonical]

theorem State.leavePorts_canonical {s : State} (h : s.mem.wf) (team : Nat) (t : Team) : (s.leavePorts team t).mem.wf :=
  foldl_canonical h _ fun s x h => by grind [State.updCore_canonical]

theorem State.saveTeam_canonical {s : State} (h : s.mem.wf) (team : Nat) (t : Team) : (s.saveTeam team t).mem.wf := by
  unfold State.saveTeam
  have hw := State.withdraw_canonical h team
  dsimp only
  split
  · exact State.lostState_canonical hw ..
  · have hv := State.saveTiles_canonical hw ‹_›
    split
    · exact State.lostState_canonical hv ..
    · have hx := State.writeAllCtrl_canonical hv ‹_›
      exact State.commands_canonical (State.updTeam_canonical (State.unbind_canonical (State.leavePorts_canonical hx ..) ..) ..)

theorem execTeamPreemption_canonical {s : State} {team : Nat} {u : State} (h : s.mem.wf) (e : execTeamPreemption team s = .next u) : u.mem.wf := by
  unfold execTeamPreemption at e
  grind [State.saveTeam_canonical, State.updTeam_canonical]

theorem State.saveRegs_canonical {s : State} {tenant : Nat} {g : Group} {u : State} (h : s.mem.wf) (e : s.saveRegs tenant g = .ok u) : u.mem.wf := by
  unfold State.saveRegs at e
  dsimp only at e
  split at e
  · cases e
  · rename_i v hv
    refine of_ok (State.imgPoison_canonical ?_ ..) e
    refine foldl_ok_canonical (fun _ => of_ok h) _ (fun acc k ih u e => ?_) hv
    cases acc with
    | error => cases e
    | ok w => exact State.vwrite_canonical (ih w rfl) e

theorem State.saveImage_canonical {s : State} {team : Nat} {t : Team} {u : State} (h : s.mem.wf) (e : s.saveImage team t = .ok u) : u.mem.wf := by
  refine of_bind (fun v hv => of_bind fun w hw => of_bind fun x hx => ?_) e
  have hx := State.vwrite_canonical (State.vwrite_canonical (State.vwrite_canonical h hv) hw) hx
  refine foldl_ok_canonical (fun _ => of_ok (State.imgPoison_canonical hx ..)) _ (fun acc k ih u e => ?_)
  cases acc with
  | error => cases e
  | ok w => exact State.saveRegs_canonical (ih w rfl) e

theorem execTeamUnplace_canonical {s : State} {team : Nat} {u : State} (h : s.mem.wf) (e : execTeamUnplace team s = .next u) : u.mem.wf := by
  unfold execTeamUnplace at e
  split at e
  · cases e
    exact h
  split at e
  · cases e
    exact h
  split at e
  · cases e
    exact State.lostState_canonical h ..
  · cases e
    exact foldl_canonical (State.saveImage_canonical h ‹_›) _ fun s c h => State.updCore_canonical (State.writeBackAll_canonical h ..) ..

theorem State.loadHeader_canonical {s : State} (h : s.mem.wf) (team x : Nat) : (s.loadHeader team x).mem.wf := h

theorem State.loadImage_canonical {s : State} {team : Nat} {t : Team} {u : State} (h : s.mem.wf) (e : s.loadImage team t = .ok u) : u.mem.wf := by
  unfold State.loadImage at e
  obtain ⟨x, -, e⟩ := bind_eq_ok.mp e
  obtain ⟨y, -, e⟩ := bind_eq_ok.mp e
  obtain ⟨z, -, e⟩ := bind_eq_ok.mp e
  refine of_ok ?_ e
  have hl := State.loadHeader_canonical h team x.1
  exact hl

theorem State.orderTokens_canonical {s : State} (h : s.mem.wf) (team : Nat) : (s.orderTokens team).mem.wf := h

theorem State.restart_canonical {s : State} (h : s.mem.wf) (team : Nat) : (s.restart team).mem.wf := by
  unfold State.restart
  grind [State.commands_canonical, State.orderTokens_canonical, State.readAllCtrl_canonical, State.updTeam_canonical, State.lostState_canonical]

theorem State.replace_canonical {s : State} (h : s.mem.wf) (team core : Nat) (t : Team) : (s.replace team core t).mem.wf := by
  unfold State.replace
  extract_lets l r t' r1 r2
  have hr : r2.mem.wf := State.readyCores_canonical h ..
  clear_value r2
  split
  · exact State.lostState_canonical hr ..
  · rename_i v hv
    have hv := State.loadImage_canonical hr hv
    extract_lets w x
    have hw : w.mem.wf := hv
    have hx : x.mem.wf := foldl_canonical hw _ fun s c h => State.consume_canonical h ..
    exact State.restart_canonical (foldl_canonical hx _ fun s k h => State.evalBobj_canonical h ..) ..

theorem execTeamResume_canonical {s : State} {team core : Nat} {u : State} (h : s.mem.wf) (e : execTeamResume team core s = .next u) : u.mem.wf := by
  unfold execTeamResume at e
  grind [State.restart_canonical, State.replace_canonical]

theorem State.command_canonical {s : State} (h : s.mem.wf) (tenant launchId op : Nat) (all : Bool) (mark : Team → Team) : (s.command tenant launchId op all mark).mem.wf := by
  unfold State.command
  grind [foldl_canonical, State.commands_canonical, State.updTeam_canonical, State.updTenant_canonical]

theorem execCmdPreempt_canonical {s : State} {tenant launchId : Nat} {all : Bool} {u : State} (h : s.mem.wf) (e : execCmdPreempt tenant launchId all s = .next u) : u.mem.wf := by
  unfold execCmdPreempt at e
  grind [State.command_canonical]

theorem execCmdResume_canonical {s : State} {tenant launchId : Nat} {all : Bool} {u : State} (h : s.mem.wf) (e : execCmdResume tenant launchId all s = .next u) : u.mem.wf := by
  unfold execCmdResume at e
  grind [State.command_canonical]

theorem State.faultRecord_canonical {s : State} (h : s.mem.wf) (f : FaultRec) (kind flags : Nat) : (s.faultRecord f kind flags).mem.wf := by
  unfold State.faultRecord
  grind [State.teamErr_canonical]

theorem State.takeFault_canonical {s : State} {g : Group} {t : Trap} {u : State} (h : s.mem.wf) (e : s.takeFault g t = some u) : u.mem.wf := by
  unfold State.takeFault at e
  grind [State.raise_canonical, State.haltAt_canonical]

theorem State.takeHalt_canonical {s : State} {team : Nat} {u : State} (h : s.mem.wf) (e : s.takeHalt team = some u) : u.mem.wf := by
  unfold State.takeHalt at e
  grind [State.raise_canonical, State.haltAt_canonical]

theorem State.haltTeam_canonical {s : State} (h : s.mem.wf) (team : Nat) : (s.haltTeam team).mem.wf := by
  unfold State.haltTeam
  split
  · dsimp only
    split
    · exact State.terminate_canonical h ..
    · rename_i t g _ _ _ _
      cases e : (s.updTeam team (fun t => { t with haltCmd := true })).takeHalt team with
      | none => exact h
      | some v => exact State.takeHalt_canonical (State.updTeam_canonical h ..) e
  · exact h

theorem execImpreciseFaultArrival_canonical {s : State} {index : Nat} {u : State} (h : s.mem.wf) (e : execImpreciseFaultArrival index s = .next u) : u.mem.wf := by
  unfold execImpreciseFaultArrival at e
  split at e
  · exact of_next h e
  extract_lets s' at e
  have hs : s'.mem.wf := h
  clear_value s'
  have taken (o : Option State) (ho : ∀ v, o = some v → v.mem.wf) : (o.getD s).mem.wf := by
    cases o with
    | none => exact h
    | some v => exact ho v rfl
  split at e
  · exact of_next hs e
  split at e
  · exact of_next h e
  split at e
  · refine of_next (ite_canonical hs (ite_canonical (taken _ fun v => State.takeHalt_canonical hs) (State.haltTeam_canonical hs ..))) e
  split at e
  · exact of_next (State.faultRecord_canonical hs ..) e
  split at e
  · exact of_next (State.faultRecord_canonical hs ..) e
  split at e
  · exact of_next h e
  · refine of_next (taken _ fun v e => ?_) e
    split at e
    · exact State.takeFault_canonical hs e
    split at e
    · cases e
      exact State.faultRecord_canonical hs ..
    · exact State.takeFault_canonical hs e

theorem State.settleTeam_canonical {s : State} (h : s.mem.wf) (team : Nat) (t : Team) : (s.settleTeam team t).1.mem.wf := by
  unfold State.settleTeam
  dsimp only
  split
  · refine List.foldlRecOn (motive := fun acc : State × List Nat => acc.1.mem.wf) _ _ h fun acc h c _ => ?_
    have hw := State.writeBackAll_canonical h c fun _ => true
    exact hw
  · exact h

theorem execHandlerEntry_canonical {s : State} {team : Nat} {u : State} (h : s.mem.wf) (e : execHandlerEntry team s = .next u) : u.mem.wf := by
  unfold execHandlerEntry at e
  grind [State.syncPair_canonical, State.enterHandler_canonical, State.settleTeam_canonical]

theorem execHostHalt_canonical {s : State} {launchId tenant : Nat} {all : Bool} {u : State} (h : s.mem.wf) (e : execHostHalt launchId tenant all s = .next u) : u.mem.wf := by
  unfold execHostHalt at e
  split at e
  · cases e
    exact h
  · cases e
    have hs := foldl_canonical h (s.named tenant (launchId % 2 ^ 32) all) fun s k h => State.haltTeam_canonical h k
    exact State.commands_canonical hs

theorem execWatchdog_canonical {s : State} {team : Nat} {u : State} (h : s.mem.wf) (e : execWatchdog team s = .next u) : u.mem.wf := by
  unfold execWatchdog at e
  grind [State.terminate_canonical]

/-! ### The host, power, links, errors and resets -/

theorem State.updCall_canonical {s : State} (h : s.mem.wf) (c : CtxId) (f : HCall → HCall) : (s.updCall c f).mem.wf := h

theorem State.callFails_canonical {s : State} (h : s.mem.wf) (h : HCall) (g : Group) (cause detail info : Nat) : (s.callFails h g cause detail info).mem.wf := by
  unfold State.callFails
  grind [State.updArm_canonical, State.raise_canonical, State.jump_canonical, State.haltCtx_canonical]

theorem execHcallRingPush_canonical {s : State} {c : CtxId} {u : State} (h : s.mem.wf) (e : execHcallRingPush c s = .next u) : u.mem.wf := by
  unfold execHcallRingPush at e
  grind [State.keepAgent_canonical, State.updCall_canonical, State.note_canonical, State.updArm_canonical, State.qPush_canonical, State.callFails_canonical, State.msi_canonical]

theorem execHostCallReply_canonical {s : State} {tenant index : Nat} {value : W32} {u : State} (h : s.mem.wf) (e : execHostCallReply tenant index value s = .next u) : u.mem.wf := by
  unfold execHostCallReply at e
  grind [State.ctrlPut_canonical, State.wake_canonical]

theorem execHostRequest_canonical {s : State} {req : HostReq} {u : State} (h : s.mem.wf) (e : execHostRequest req s = .next u) : u.mem.wf := by
  unfold execHostRequest at e
  grind [State.note_canonical, State.poke_canonical]

theorem execHostAtomic_canonical {s : State} {req : HostAtomic} {u : State} (h : s.mem.wf) (e : execHostAtomic req s = .next u) : u.mem.wf := by
  unfold execHostAtomic at e
  grind [State.note_canonical, State.agentPush_canonical, State.poke_canonical, State.agentPop_canonical]

theorem State.sendHeld_canonical {s : State} (h : s.mem.wf) (tenant : Nat) : (s.sendHeld tenant).mem.wf :=
  foldl_canonical h _ fun s x h => by grind [State.updTenant_canonical, State.msi_canonical]

theorem State.setMsiMask_canonical {s : State} (h : s.mem.wf) (tenant : Nat) (mask : BitVec 16) : (s.setMsiMask tenant mask).mem.wf := by
  unfold State.setMsiMask
  grind [State.sendHeld_canonical, State.updTenant_canonical]

theorem execMsimaskWrite_canonical {s : State} {tenant : Nat} {mask : BitVec 16} {u : State} (h : s.mem.wf) (e : execMsimaskWrite tenant mask s = .next u) : u.mem.wf := by
  unfold execMsimaskWrite at e
  grind [State.setMsiMask_canonical]

theorem State.writeBlock_canonical {s : State} (h : s.mem.wf) (tenant off n v : Nat) : (s.writeBlock tenant off n v).mem.wf := by
  unfold State.writeBlock
  grind [State.updTenant_canonical, State.setMsiMask_canonical]

theorem execControlSpaceWrite_canonical {s : State} {offset size : Nat} {value : W64} {u : State} (h : s.mem.wf) (e : execControlSpaceWrite offset size value s = .next u) : u.mem.wf := by
  unfold execControlSpaceWrite at e
  grind [State.writeBlock_canonical]

theorem execAttestationSign_canonical {s u : State} (h : s.mem.wf) (e : execAttestationSign s = .next u) : u.mem.wf := by
  unfold execAttestationSign at e
  grind

theorem State.bbAll_canonical {s : State} (h : s.mem.wf) (unit cause : Nat) (info : W64) (detail : Nat) : (s.bbAll unit cause info detail).mem.wf :=
  foldl_canonical h _ fun s x h => by grind [State.bb_canonical]

theorem State.clocksAt_canonical {s : State} (h : s.mem.wf) (n : Nat) : (s.clocksAt n).mem.wf := by
  unfold State.clocksAt
  grind [State.bbAll_canonical]

theorem State.powerReq_canonical {s : State} (h : s.mem.wf) (n : Nat) : (s.powerReq n).mem.wf := by
  unfold State.powerReq
  grind [State.clocksAt_canonical]

theorem execPowerReq36Ghz_canonical {s u : State} (h : s.mem.wf) (e : execPowerReq36Ghz s = .next u) : u.mem.wf := by
  unfold execPowerReq36Ghz at e
  grind [State.powerReq_canonical]

theorem execPowerReq24Ghz_canonical {s u : State} (h : s.mem.wf) (e : execPowerReq24Ghz s = .next u) : u.mem.wf := by
  unfold execPowerReq24Ghz at e
  grind [State.powerReq_canonical]

theorem execPowerReq12Ghz_canonical {s u : State} (h : s.mem.wf) (e : execPowerReq12Ghz s = .next u) : u.mem.wf := by
  unfold execPowerReq12Ghz at e
  grind [State.powerReq_canonical]

theorem execPowerReqStop_canonical {s u : State} (h : s.mem.wf) (e : execPowerReqStop s = .next u) : u.mem.wf := by
  unfold execPowerReqStop at e
  grind

theorem execPowerTransition_canonical {s u : State} (h : s.mem.wf) (e : execPowerTransition s = .next u) : u.mem.wf := by
  unfold execPowerTransition at e
  grind [State.clocksAt_canonical]

theorem execPowerStopped_canonical {s u : State} (h : s.mem.wf) (e : execPowerStopped s = .next u) : u.mem.wf := by
  unfold execPowerStopped at e
  grind [State.clocksAt_canonical]

theorem execThermalTrip_canonical {s : State} {die sensor : Nat} {u : State} (h : s.mem.wf) (e : execThermalTrip die sensor s = .next u) : u.mem.wf := by
  unfold execThermalTrip at e
  grind [State.bb_canonical]

theorem execSensorBackBelowLimit_canonical {s u : State} (h : s.mem.wf) (e : execSensorBackBelowLimit s = .next u) : u.mem.wf := by
  unfold execSensorBackBelowLimit at e
  grind

theorem State.errAll_canonical {s : State} (h : s.mem.wf) (kind detail : Nat) (info : W64) : (s.errAll kind detail info).mem.wf :=
  foldl_canonical h _ fun s x h => by grind [State.pushErr_canonical]

theorem execEweovLinkDown_canonical {s u : State} (h : s.mem.wf) (e : execEweovLinkDown s = .next u) : u.mem.wf := by
  unfold execEweovLinkDown at e
  grind [State.bb_canonical, State.errAll_canonical]

theorem execEweovLinkUp_canonical {s u : State} (h : s.mem.wf) (e : execEweovLinkUp s = .next u) : u.mem.wf := by
  unfold execEweovLinkUp at e
  split at e
  · exact of_next h e
  · refine of_next (State.errAll_canonical (State.bb_canonical ?_ ..) ..) e
    exact foldl_canonical (s := { s with eweovUp := true }) h _ fun s t h => State.sendHeld_canonical h t

theorem State.sendsFail_canonical {s : State} (h : s.mem.wf) (port : Nat) : (s.sendsFail port).mem.wf :=
  foldl_canonical h _ fun s x h => by grind [State.opFault_canonical]

theorem execNorvanPortDown_canonical {s : State} {port peer : Nat} {u : State} (h : s.mem.wf) (e : execNorvanPortDown port peer s = .next u) : u.mem.wf := by
  unfold execNorvanPortDown at e
  grind [State.sendsFail_canonical, State.bb_canonical, State.errAll_canonical]

theorem execNorvanPortUp_canonical {s : State} {port peer : Nat} {u : State} (h : s.mem.wf) (e : execNorvanPortUp port peer s = .next u) : u.mem.wf := by
  unfold execNorvanPortUp at e
  grind [State.bb_canonical, State.errAll_canonical]

theorem execTaggedLaunchMessage_canonical {s : State} {tenant : Nat} {tag : W32} {addr : W64} {payload : List Byte} {u : State} (h : s.mem.wf) (e : execTaggedLaunchMessage tenant tag addr payload s = .next u) : u.mem.wf := by
  unfold execTaggedLaunchMessage at e
  grind [State.vwrite_canonical, State.tagStep_canonical, State.keepRange_canonical]

theorem State.corrected_canonical {s : State} (h : s.mem.wf) (die unit : Nat) (addr : W64) : (s.corrected die unit addr).mem.wf := by
  unfold State.corrected
  extract_lets key
  split
  · rw [bb_mem]
    exact h
  · split
    · rw [bb_mem]
      exact h
    · exact h

theorem execCorrectedError_canonical {s : State} {die unit : Nat} {addr : W64} {u : State} (h : s.mem.wf) (e : execCorrectedError die unit addr s = .next u) : u.mem.wf := by
  unfold execCorrectedError at e
  grind [State.corrected_canonical]

theorem State.cacheError_canonical {s : State} (h : s.mem.wf) (core pa : Nat) : (s.cacheError core pa).mem.wf := by
  unfold State.cacheError
  grind [State.invalidate_canonical, State.corrected_canonical, State.updCore_canonical]

theorem execUncorrectableError_canonical {s : State} {site : ErrSite} {u : State} (h : s.mem.wf) (e : execUncorrectableError site s = .next u) : u.mem.wf := by
  unfold execUncorrectableError at e
  grind [State.updGroup_canonical, State.updTeam_canonical, State.updCore_canonical, State.cacheError_canonical]

theorem State.boot_canonical {s : State} (h : s.mem.wf) : s.boot.mem.wf := h

theorem State.logKernel_canonical {s : State} (h : s.mem.wf) (digest : BitVec 512) : (s.logKernel digest).mem.wf := by
  unfold State.logKernel
  grind

theorem execColdReset_canonical {s u : State} (h : s.mem.wf) (e : execColdReset s = .next u) : u.mem.wf := of_next (State.boot_canonical (s := { State.reset with mem := _, ctl := _, script := _, fresh := _, nextId := _ }) (filter_wf _ h)) e

theorem execWarmReset_canonical {s u : State} (h : s.mem.wf) (e : execWarmReset s = .next u) : u.mem.wf := by
  refine of_next (State.bbAll_canonical ?_ ..) e
  exact forget_wf _ h _

/-! ### The fabric (R382-R384, R474) -/

theorem State.fabricTouch_canonical {s : State} (h : s.mem.wf) (tenant va n : Nat) : (s.fabricTouch tenant va n).mem.wf :=
  foldl_canonical h _ fun s x h => by grind [State.keepAgent_canonical, State.perfLine_canonical]

theorem State.sendStop_canonical {s : State} (h : s.mem.wf) (o : Option EngOp) (e : EFault) : (s.sendStop o e).mem.wf := by
  unfold State.sendStop
  grind [State.engFault_canonical]

theorem State.transmit_canonical {s : State} (h : s.mem.wf) (tenant : Nat) (o : Option EngOp) (d : Nat) : (s.transmit tenant o d).mem.wf := by
  unfold State.transmit
  grind [State.sendStop_canonical, State.fabricTouch_canonical]

theorem execFabricSend_canonical {s : State} {tenant : Nat} {u : State} (h : s.mem.wf) (e : execFabricSend tenant s = .next u) : u.mem.wf := by
  unfold execFabricSend at e
  grind [State.keepAgent_canonical, State.transmit_canonical, State.agentPop_canonical, State.updOp_canonical]

theorem State.landCount_canonical {s : State} (h : s.mem.wf) (tenant x n : Nat) (fault : Bool) : (s.landCount tenant x n fault).mem.wf := by
  unfold State.landCount
  grind [State.countDown_canonical]

theorem State.landWrite_canonical {s : State} (h : s.mem.wf) (m : Landing) (va off n : Nat) : (s.landWrite m va off n).mem.wf :=
  foldl_canonical h _ fun s x h => by grind [State.keepAgent_canonical, State.engineWrite_canonical, State.poke_canonical, State.perfLine_canonical]

theorem State.landOver_canonical {s : State} (h : s.mem.wf) (m : Landing) (k : Nat) (bad : Bool) : (s.landOver m k bad).mem.wf := by
  unfold State.landOver
  grind

theorem State.landFail_canonical {s : State} (h : s.mem.wf) (m : Landing) (k x reason info n va : Nat) : (s.landFail m k x reason info n va).mem.wf := by
  unfold State.landFail
  grind [State.imprecise_canonical, State.pushErr_canonical, State.landCount_canonical, State.landOver_canonical]

theorem State.landPiece_canonical {s : State} (h : s.mem.wf) (m : Landing) (k info : Nat) (gate : State → Nat → Except Nat (State → State)) (done : State → W64 → State) (hg : ∀ s n f, gate s n = .ok f → ∀ s, s.mem.wf → (f s).mem.wf) (hd : ∀ s v, s.mem.wf → (done s v).mem.wf) : (s.landPiece m k info gate done).mem.wf := by
  unfold State.landPiece
  grind [State.keepAgent_canonical, State.landWrite_canonical, State.landCount_canonical, State.landFail_canonical, State.landOver_canonical]

theorem noGate_canonical {s : State} {n : Nat} {f} (e : noGate s n = .ok f) {v : State} (hv : v.mem.wf) : (f v).mem.wf := by
  cases e
  exact hv

theorem execRemoteWriteLanding_canonical {s : State} {id line : Nat} {u : State} (h : s.mem.wf) (e : execRemoteWriteLanding id line s = .next u) : u.mem.wf := by
  unfold execRemoteWriteLanding at e
  split at e
  · cases e
    exact h
  · cases e
    exact State.landPiece_canonical h _ _ _ _ _ (fun _ _ _ e _ hs => noGate_canonical e hs) fun _ _ hs => hs

theorem State.gatePut_canonical {s : State} (h : s.mem.wf) (tenant va n v : Nat) (bad : Bool) : (s.gatePut tenant va n v bad).mem.wf := by
  unfold State.gatePut
  grind [State.keepAgent_canonical, State.poke_canonical, State.perfLine_canonical]

theorem State.score_canonical {s : State} {tenant gate r : Nat} {row : List Byte} {bad : Bool} {f} (e : s.score tenant gate r row bad = .ok f) {v : State} (hv : v.mem.wf) : (f v).mem.wf := by
  refine of_unless (of_unless fun e => ?_) e
  obtain rfl := Except.ok.inj e
  exact foldl_canonical (State.gatePut_canonical hv ..) _ fun s p h => State.gatePut_canonical h ..

theorem State.gateFor_canonical {s : State} {m : Landing} {r off x : Nat} {f} (e : s.gateFor m r off x = .ok f) {v : State} (hv : v.mem.wf) : (f v).mem.wf := by
  unfold State.gateFor at e
  extract_lets g at e
  split at e
  · cases e
    exact hv
  · split at e
    · cases e
    · exact State.score_canonical e hv

theorem execTokenRowLanding_canonical {s : State} {id row : Nat} {u : State} (h : s.mem.wf) (e : execTokenRowLanding id row s = .next u) : u.mem.wf := by
  unfold execTokenRowLanding at e
  split at e
  · cases e
    exact h
  · cases e
    exact State.landPiece_canonical h _ _ _ _ _ (fun _ _ _ e _ hs => State.gateFor_canonical e hs) fun _ _ hs => hs

theorem execTaggedMessageLanding_canonical {s : State} {id : Nat} {u : State} (h : s.mem.wf) (e : execTaggedMessageLanding id s = .next u) : u.mem.wf := by
  unfold execTaggedMessageLanding at e
  split at e
  · cases e
    exact h
  · cases e
    exact State.landPiece_canonical h _ _ _ _ _ (fun _ _ _ e _ hs => noGate_canonical e hs) fun _ _ hs => State.tagStep_canonical hs ..

theorem execFabricSendComplete_canonical {s : State} {e : Finish} {u : State} (h : s.mem.wf) (e : execFabricSendComplete e s = .next u) : u.mem.wf := by
  unfold execFabricSendComplete at e
  grind [execEngineOpComplete_canonical, State.updOp_canonical, State.opReady_canonical]

end Sys2Proof.Machine


/-! Memory stays canonical through every instruction and event, and so through every step. -/

namespace Sys2Proof.Machine

/-! ### Float functions (R250-R253) -/

theorem vecFloat_canonical (f : FOp) (t : Ty) (md : Nat) : (vecFloat f t md).Canonical := by
  exact laneWise_canonical _ _

theorem execFClass_canonical {s : State} {w : Word} {u : State} (h : s.mem.wf) (e : execFClass w s = .next u) : u.mem.wf := by
  refine issue_canonical (fun cx k s h => ?_) h e
  grind [Cx.writeV_canonical]

/-! ### Predicates and cross-lane operations (R47-R49, R263-R269) -/

theorem execPLogic_canonical {s : State} {w : WordP} {u : State} (h : s.mem.wf) (e : execPLogic w s = .next u) : u.mem.wf := by
  refine issue_canonical (fun cx k s h => ?_) h e
  grind [Cx.writeP_canonical]

theorem execQLogic_canonical {s : State} {w : WordP} {u : State} (h : s.mem.wf) (e : execQLogic w s = .next u) : u.mem.wf := by
  refine issue_canonical (fun cx k s h => ?_) h e
  grind [Cx.writeQ_canonical]

theorem Member.joint_canonical {m : Member} (hm : m.Canonical) {s : State} (h : s.mem.wf) (cx cp : Cx) : (m.joint cx cp s).mem.wf := by
  have capture (c : Prop) [Decidable c] (d : State) {v : State} (hv : v.mem.wf) : (if c then cp.capture d v else v).mem.wf := by
    split
    · rw [capture_mem]
      exact hv
    · exact hv
  exact Cx.advance_canonical (Cx.advance_canonical (State.orderArms_canonical (capture _ _ (hm _ _ _ (hm _ _ _ h))) ..) ..) ..

theorem Member.run_canonical {m : Member} (hm : m.Canonical) {s : State} (h : s.mem.wf) (cx : Cx) : (m.run cx s).mem.wf := by
  unfold Member.run
  dsimp only
  split
  · exact Member.joint_canonical hm h ..
  split
  · grind [Cx.stay_canonical, State.updArm_canonical]
  · exact Cx.advance_canonical (hm _ _ _ h) ..

theorem Member.body_canonical {m : Member} (hm : m.Canonical) (src : Cx → Nat → List (Nat × Nat)) (extra : Cx → Option Bad) : (Member.body m src extra).Canonical := by
  intro cx k s h
  unfold Member.body
  grind [Member.run_canonical]

theorem Cx.perCopy_canonical {s : State} (h : s.mem.wf) (cx : Cx) (banked : Bool) (l : List (Nat × W64)) (f : Nat → List (Nat × W64) → State → State) (hf : ∀ a l s, s.mem.wf → (f a l s).mem.wf) : (cx.perCopy banked l f s).mem.wf :=
  foldl_canonical h _ fun s x h => by grind

theorem vote_canonical (w : WordP) (banked : Bool) {f : Cx → Nat → List (Nat × W64) → State → State} (hf : ∀ cx a l s, s.mem.wf → (f cx a l s).mem.wf) : (vote w banked f).Canonical := by
  exact Member.body_canonical (fun cx l s h => Cx.perCopy_canonical h _ _ _ _ (hf cx)) _ _

theorem execPAny_canonical {s : State} {w : WordP} {u : State} (h : s.mem.wf) (e : execPAny w s = .next u) : u.mem.wf := by
  unfold execPAny at e
  grind [vote_canonical, issue_canonical, Cx.writeQ_canonical]

theorem execPAll_canonical {s : State} {w : WordP} {u : State} (h : s.mem.wf) (e : execPAll w s = .next u) : u.mem.wf := by
  unfold execPAll at e
  grind [vote_canonical, issue_canonical, Cx.writeQ_canonical]

theorem execPBallot_canonical {s : State} {w : WordP} {u : State} (h : s.mem.wf) (e : execPBallot w s = .next u) : u.mem.wf := by
  unfold execPBallot at e
  grind [vote_canonical, issue_canonical, Cx.writeU_canonical]

theorem execPPopc_canonical {s : State} {w : WordP} {u : State} (h : s.mem.wf) (e : execPPopc w s = .next u) : u.mem.wf := by
  unfold execPPopc at e
  grind [vote_canonical, issue_canonical, Cx.writeU_canonical]

theorem Cx.setOor_canonical {s : State} (h : s.mem.wf) (cx : Cx) : (cx.setOor s).mem.wf := h

theorem crossLane_canonical (t : Ty) (src : Cx → Nat → Nat) : (crossLane t src).Canonical := by
  intro cx k s h
  unfold crossLane
  grind [Cx.setOor_canonical, Cx.writeV_canonical]

theorem Cx.perLane_canonical {s : State} (h : s.mem.wf) (cx : Cx) (t : Ty) (l : List (Nat × W64)) (f : Nat → List (Nat × W64) → W64) : (cx.perLane t l f s).mem.wf := by
  unfold Cx.perLane
  grind [Cx.writeV_canonical]

theorem execXRed_canonical {s : State} {w : Word} {u : State} (h : s.mem.wf) (e : execXRed w s = .next u) : u.mem.wf := by
  refine issue_canonical (Member.body_canonical (fun cx l s h => ?_) _ _) h e
  grind [Cx.perCopy_canonical, Cx.perLane_canonical, Cx.writeU_canonical]

theorem execXScan_canonical {s : State} {w : Word} {u : State} (h : s.mem.wf) (e : execXScan w s = .next u) : u.mem.wf := by
  exact issue_canonical (Member.body_canonical (fun cx l s h => Cx.perLane_canonical h ..) _ _) h e

theorem execXMatch_canonical {s : State} {w : Word} {u : State} (h : s.mem.wf) (e : execXMatch w s = .next u) : u.mem.wf := by
  exact issue_canonical (Member.body_canonical (fun cx l s h => Cx.perLane_canonical h ..) _ _) h e

/-! ### Uniform instructions (R237-R243) -/

theorem uniInt_canonical (f : IOp) (t : Ty) (sat : Bool) : (uniInt f t sat).Canonical := by
  intro cx k s h
  unfold uniInt
  grind [Cx.writeU_canonical]

theorem execSSel_canonical {s : State} {w : Word} {u : State} (h : s.mem.wf) (e : execSSel w s = .next u) : u.mem.wf := by
  refine issue_canonical (fun cx k s h => ?_) h e
  grind [Cx.writeU_canonical]

theorem uniCmp_canonical (cc : Nat) (t : Ty) (q : Nat) : (uniCmp cc t q).Canonical := by
  intro cx k s h
  unfold uniCmp
  grind [Cx.writeU_canonical, Cx.writeQ_canonical]

theorem execSMovi_canonical {s : State} {w : WordI} {u : State} (h : s.mem.wf) (e : execSMovi w s = .next u) : u.mem.wf := by
  refine issue_canonical (fun cx k s h => ?_) h e
  grind [Cx.writeU_canonical]

theorem uniLea_canonical (t : Ty) (k : Nat) : (uniLea t k).Canonical := by
  intro cx k s h
  unfold uniLea
  grind [Cx.writeU_canonical]

/-! ### Register lines read back (R62) -/

theorem State.useLines_canonical {s : State} {cx : Cx} {l : List Nat} {u : State} (h : s.mem.wf) (e : s.useLines cx l = .ok u) : u.mem.wf := by
  refine foldl_ok_canonical (fun _ => of_ok h) _ (fun acc k ih u e => ?_) e
  cases acc with
  | error => cases e
  | ok v => exact State.loadLine_canonical (ih v rfl) e

theorem State.firstUse_canonical {s : State} {g : Group} {i : Instr} {cur : Cur} {u : State} (h : s.mem.wf) (e : s.firstUse g i cur = .ok u) : u.mem.wf := by
  unfold State.firstUse at e
  split at e
  · exact of_ok h e
  · have use (cx : Cx) (e : (match s.useLines cx (cx.nameLines i) with
        | .error e => .error e
        | .ok s => let cx := cx.refresh s; if cx.noEffect then .ok s else s.useLines cx (cx.accLines i s)) = Except.ok u) : u.mem.wf := by
      split at e
      · cases e
      · have hs := State.useLines_canonical h ‹_›
        dsimp only at e
        split at e
        · exact of_ok hs e
        · exact State.useLines_canonical hs e
    split at e
    · exact use _ e
    · exact use _ e
    · exact of_ok h e

/-! ### The turn of a context (R363, R413) -/

theorem State.fetchTrap_canonical {s : State} (h : s.mem.wf) (c : CtxId) (g : Group) (t : Trap) (fatal : Bool) : (s.fetchTrap c g t fatal).mem.wf := by
  unfold State.fetchTrap
  grind [State.noteTrap_canonical, State.updArm_canonical, State.raise_canonical, State.haltCtx_canonical, State.terminate_canonical]

theorem State.asWaiting_canonical {s : State} {c : CtxId} {g : Group} {u : State} (h : s.mem.wf) (e : s.asWaiting c g = some u) : u.mem.wf := by
  unfold State.asWaiting at e
  grind [State.updGroup_canonical]

theorem State.putRegs_canonical {s : State} (h : s.mem.wf) (g : Group) (old new : Nat) : (s.putRegs g old new).mem.wf :=
  foldl_canonical h _ fun s x h => by grind [State.ctrlPut_canonical]

theorem State.finished_canonical {s v t : State} (h : t.mem.wf) (c : CtxId) : (s.finished v t c).mem.wf := by
  unfold State.finished
  grind [State.putRegs_canonical, State.updGroup_canonical]

theorem State.dropTlb_canonical {s : State} (h : s.mem.wf) (core k : Nat) : (s.dropTlb core k).mem.wf := by
  unfold State.dropTlb
  grind [State.updCore_canonical]

/-! ### The order of steps (log 8) -/

theorem State.tick_canonical {s : State} (h : s.mem.wf) (n : Nat) : (s.tick n).mem.wf := by
  unfold State.tick
  grind [State.flushErrs_canonical]

/-! ### Every instruction and event -/

theorem exec_canonical {i : Instr} {s u : State} (h : s.mem.wf) (e : exec i s = .next u) : u.mem.wf := by
  cases i with
  | sAdd w | sSub w | sMul w | sMulh w | sDiv w | sRem w | sAnd w | sOr w | sXor w | sShl w | sShr w | sSar w | sMin w | sMax w | sAddImm w
  | sSubImm w | sMulImm w | sMulhImm w | sDivImm w | sRemImm w | sAndImm w | sOrImm w | sXorImm w | sShlImm w | sShrImm w | sSarImm w | sMinImm w
  | sMaxImm w | sClz w | sPopc w | sBfx w | sBfi w => exact issue_canonical (uniInt_canonical _ _ _) h e
  | sCmp w | sCmpImm w => exact issue_canonical (uniCmp_canonical _ _ _) h e
  | sLea w | sLeaImm w => exact issue_canonical (uniLea_canonical _ _) h e
  | vAdd w | vSub w | vMul w | vMulh w | vMad w | vDiv w | vRem w | vAnd w | vOr w | vXor w | vShl w | vShr w | vSar w | vMin w | vMax w | vAbs w
  | vBfx w | vBfi w | vPopc w | vClz w | vAddImm w | vSubImm w | vMulImm w | vAndImm w | vOrImm w | vXorImm w | vShlImm w | vShrImm w | vSarImm w
  | vMinImm w | vMaxImm w => exact issue_canonical (vecInt_canonical _ _ _) h e
  | vCmp w | vCmpImm w | fCmp w | fCmpImm w => exact issue_canonical (laneCmp_canonical _ _) h e
  | fAdd w | fSub w | fMul w | fFma w | fMin w | fMax w | fDiv w | fSqrt w | fRcp w | fRsq w | fExp2 w | fLog2 w | fSin w | fCos w | fTanh w
  | fRound w | fAddImm w | fSubImm w | fMulImm w | fMinImm w | fMaxImm w => exact issue_canonical (vecFloat_canonical _ _ _) h e
  | cvt w => exact issue_canonical (laneWise_canonical _ _) h e
  | xShfl w | xRot w | xBcast w => exact issue_canonical (crossLane_canonical _ _) h e
  | mov w | movImm w => exact issue_canonical (anyDst_canonical _ _ _ _) h e
  | ld w | ldu w => exact issue_canonical (loadBody_canonical _ _) h e
  | st w | stu w => exact issue_canonical (storeBody_canonical _ _) h e
  | ldSrec w | stSrec w => exact issue_canonical (streamBody_canonical _ _) h e
  | mma w | mmaSp w => exact issue_canonical (mmaBody_canonical _ _) h e
  | accLd w | accSt w => exact issue_canonical (accBody_canonical _ _ _) h e
  | attn w | attnScore w | kvCompact w | topk w => exact issue_canonical (recBody_canonical _ _) h e
  | kvLookup w | kvAlloc w => exact issue_canonical (kvBody_canonical _ _ _ _) h e
  | pfxLookup w | pfxInsert w => exact issue_canonical (pfxBody_canonical _ _) h e
  | ebmRank w | ebmSelect w => exact issue_canonical (ebmBody_canonical _ _ _ _ _) h e
  | nop w => exact execNop_canonical h e
  | bra w => exact execBra_canonical h e
  | brd w => exact execBrd_canonical h e
  | join w => exact execJoin_canonical h e
  | call w => exact execCall_canonical h e
  | ret w => exact execRet_canonical h e
  | jmpi w => exact execJmpi_canonical h e
  | meld w => exact execMeld_canonical h e
  | meldMap w => exact execMeldMap_canonical h e
  | meldEnd w => exact execMeldEnd_canonical h e
  | exit w => exact execExit_canonical h e
  | teamRetire team => exact execTeamRetire_canonical h e
  | yield w => exact execYield_canonical h e
  | yieldOn w => exact execYieldOn_canonical h e
  | bpt w => exact execBpt_canonical h e
  | trap w => exact execTrap_canonical h e
  | hcall w => exact execHcall_canonical h e
  | hcallRingPush c => exact execHcallRingPush_canonical h e
  | rfh w => exact execRfh_canonical h e
  | sSel w => exact execSSel_canonical h e
  | sMovi w => exact execSMovi_canonical h e
  | vAddc w => exact execVAddc_canonical h e
  | vSel w => exact execVSel_canonical h e
  | fClass w => exact execFClass_canonical h e
  | cvtN w => exact execCvtN_canonical h e
  | cvtW w => exact execCvtW_canonical h e
  | pack w => exact execPack_canonical h e
  | unpack w => exact execUnpack_canonical h e
  | blkEnc w => exact execBlkEnc_canonical h e
  | blkDec w => exact execBlkDec_canonical h e
  | pLogic w => exact execPLogic_canonical h e
  | qLogic w => exact execQLogic_canonical h e
  | pAny w => exact execPAny_canonical h e
  | pAll w => exact execPAll_canonical h e
  | pBallot w => exact execPBallot_canonical h e
  | pPopc w => exact execPPopc_canonical h e
  | xRed w => exact execXRed_canonical h e
  | xScan w => exact execXScan_canonical h e
  | xMatch w => exact execXMatch_canonical h e
  | readlane w => exact execReadlane_canonical h e
  | first w => exact execFirst_canonical h e
  | getsr w => exact execGetsr_canonical h e
  | setsr w => exact execSetsr_canonical h e
  | grow w => exact execGrow_canonical h e
  | growGrant core => exact execGrowGrant_canonical h e
  | growTry w => exact execGrowTry_canonical h e
  | shrink w => exact execShrink_canonical h e
  | sld w => exact execSld_canonical h e
  | sst w => exact execSst_canonical h e
  | l1Wb w => exact execL1Wb_canonical h e
  | l1Inv w => exact execL1Inv_canonical h e
  | tierPref w => exact execTierPref_canonical h e
  | atom w => exact execAtom_canonical h e
  | atomBinc w => exact execAtomBinc_canonical h e
  | xaccAdd w => exact execXaccAdd_canonical h e
  | xaccFold w => exact execXaccFold_canonical h e
  | xaccClr w => exact execXaccClr_canonical h e
  | fence w => exact execFence_canonical h e
  | barArrive w => exact execBarArrive_canonical h e
  | barWait w => exact execBarWait_canonical h e
  | barSync w => exact execBarSync_canonical h e
  | bobjInit w => exact execBobjInit_canonical h e
  | bobjArrive w => exact execBobjArrive_canonical h e
  | bobjWait w => exact execBobjWait_canonical h e
  | tlSignal w => exact execTlSignal_canonical h e
  | tlWait w => exact execTlWait_canonical h e
  | waitcnt w => exact execWaitcnt_canonical h e
  | futWait w => exact execFutWait_canonical h e
  | futTest w => exact execFutTest_canonical h e
  | futCancel w => exact execFutCancel_canonical h e
  | frontJoin w => exact execFrontJoin_canonical h e
  | frontLeave w => exact execFrontLeave_canonical h e
  | frontStep w => exact execFrontStep_canonical h e
  | frontStat w => exact execFrontStat_canonical h e
  | kick w => exact execKick_canonical h e
  | cpy w => exact execCpy_canonical h e
  | contPark w => exact execContPark_canonical h e
  | tqInit w => exact execTqInit_canonical h e
  | tqPush w => exact execTqPush_canonical h e
  | tqPop w => exact execTqPop_canonical h e
  | mtokAcq w => exact execMtokAcq_canonical h e
  | mtokAcqTry w => exact execMtokAcqTry_canonical h e
  | mtokPass w => exact execMtokPass_canonical h e
  | mmaOut w => exact execMmaOut_canonical h e
  | accZero w => exact execAccZero_canonical h e
  | accMovTov w => exact execAccMovTov_canonical h e
  | accMovToa w => exact execAccMovToa_canonical h e
  | layout w => exact execLayout_canonical h e
  | matrixEnginePerform core => exact execMatrixEnginePerform_canonical h e
  | kvFree w => exact execKvFree_canonical h e
  | kvSweep w => exact execKvSweep_canonical h e
  | scoreClr w => exact execScoreClr_canonical h e
  | exitTest w => exact execExitTest_canonical h e
  | backfill w => exact execBackfill_canonical h e
  | ebmSet w => exact execEbmSet_canonical h e
  | regroup w => exact execRegroup_canonical h e
  | sysr w => exact execSysr_canonical h e
  | sysw w => exact execSysw_canonical h e
  | tlbinv w => exact execTlbinv_canonical h e
  | raceClr w => exact execRaceClr_canonical h e
  | perfRd w => exact execPerfRd_canonical h e
  | asyncWriteLands id => exact execAsyncWriteLands_canonical h e
  | homeSliceRequest id => exact execHomeSliceRequest_canonical h e
  | mergedReadReply id => exact execMergedReadReply_canonical h e
  | homeSliceAtomic id => exact execHomeSliceAtomic_canonical h e
  | writebackAck id result => exact execWritebackAck_canonical h e
  | engineOpComplete id => exact execEngineOpComplete_canonical h e
  | copyRecordLanded id index => exact execCopyRecordLanded_canonical h e
  | streamRowPerformed id row => exact execStreamRowPerformed_canonical h e
  | tierPromotePage id => exact execTierPromotePage_canonical h e
  | attnTileComplete id slice head => exact execAttnTileComplete_canonical h e
  | compactionStart id => exact execCompactionStart_canonical h e
  | backfillPublish id => exact execBackfillPublish_canonical h e
  | tableWriteAfterMove id => exact execTableWriteAfterMove_canonical h e
  | clockVisit tenant => exact execClockVisit_canonical h e
  | demotionCopyComplete e => exact execDemotionCopyComplete_canonical h e
  | remoteWriteLanding id line => exact execRemoteWriteLanding_canonical h e
  | tokenRowLanding id row => exact execTokenRowLanding_canonical h e
  | taggedMessageLanding id => exact execTaggedMessageLanding_canonical h e
  | launchPop tenant cls => exact execLaunchPop_canonical h e
  | dispatchTeam launch core => exact execDispatchTeam_canonical h e
  | launchComplete launch => exact execLaunchComplete_canonical h e
  | poolBoundaryApply core => exact execPoolBoundaryApply_canonical h e
  | teamPreemption team => exact execTeamPreemption_canonical h e
  | impreciseFaultArrival index => exact execImpreciseFaultArrival_canonical h e
  | handlerEntry team => exact execHandlerEntry_canonical h e
  | contextDue c => exact execContextDue_canonical h e
  | cmdPreempt tenant launchId all => exact execCmdPreempt_canonical h e
  | cmdResume tenant launchId all => exact execCmdResume_canonical h e
  | teamUnplace team => exact execTeamUnplace_canonical h e
  | teamResume team core => exact execTeamResume_canonical h e
  | hostHalt launchId tenant all => exact execHostHalt_canonical h e
  | watchdog team => exact execWatchdog_canonical h e
  | hostRequest req => exact execHostRequest_canonical h e
  | hostAtomic req => exact execHostAtomic_canonical h e
  | hostCallReply tenant index value => exact execHostCallReply_canonical h e
  | msimaskWrite tenant mask => exact execMsimaskWrite_canonical h e
  | controlSpaceWrite offset size value => exact execControlSpaceWrite_canonical h e
  | thermalTrip die sensor => exact execThermalTrip_canonical h e
  | norvanPortDown port peer => exact execNorvanPortDown_canonical h e
  | norvanPortUp port peer => exact execNorvanPortUp_canonical h e
  | taggedLaunchMessage tenant tag addr payload => exact execTaggedLaunchMessage_canonical h e
  | uncorrectableError site => exact execUncorrectableError_canonical h e
  | correctedError die unit addr => exact execCorrectedError_canonical h e
  | frontEjection record => exact execFrontEjection_canonical h e
  | waitTimeout c => exact execWaitTimeout_canonical h e
  | attestationSign => exact execAttestationSign_canonical h e
  | powerReq36Ghz => exact execPowerReq36Ghz_canonical h e
  | powerReq24Ghz => exact execPowerReq24Ghz_canonical h e
  | powerReq12Ghz => exact execPowerReq12Ghz_canonical h e
  | powerReqStop => exact execPowerReqStop_canonical h e
  | powerTransition => exact execPowerTransition_canonical h e
  | powerStopped => exact execPowerStopped_canonical h e
  | eweovLinkDown => exact execEweovLinkDown_canonical h e
  | eweovLinkUp => exact execEweovLinkUp_canonical h e
  | coldReset => exact execColdReset_canonical h e
  | warmReset => exact execWarmReset_canonical h e
  | sensorBackBelowLimit => exact execSensorBackBelowLimit_canonical h e
  | attnRecompute id => exact execAttnRecompute_canonical h e
  | backfillTaskStart tenant core => exact execBackfillTaskStart_canonical h e
  | continuationResume id core => exact execContinuationResume_canonical h e
  | fabricSend tenant => exact execFabricSend_canonical h e
  | fabricSendComplete e => exact execFabricSendComplete_canonical h e
  | oldBlockFreePush id => exact execOldBlockFreePush_canonical h e

/-! ### The turn of a context (R363, R413) -/

theorem State.slotTurn_canonical {s : State} (h : s.mem.wf) (c : CtxId) (portB : Bool) (g : Group) (e : TlbEntry) (x : Nat) : (s.slotTurn c portB g e x).Canonical := by
  have hill (k : Nat) (t : Trap) (b : Bool) : (((s.updArm c (fun a => { a with slot := k })).fetchTrap c g t b)).mem.wf := State.fetchTrap_canonical (State.updArm_canonical h ..) ..
  unfold State.slotTurn
  extract_lets a valid t
  split
  · exact hill ..
  split
  · exact h
  split
  · exact h
  extract_lets ill1 ill
  have hi : ill.mem.wf := ite_canonical (State.jump_canonical (hill ..) ..) (hill ..)
  split
  · exact hi
  split
  · split
    · rename_i v hv
      have hv := State.firstUse_canonical h hv
      exact hv
    · exact State.haltCtx_canonical (State.loseTeam_canonical h ..) ..
  · exact hi

theorem State.fetchTurn_canonical {s : State} (h : s.mem.wf) (c : CtxId) (portB : Bool) (g : Group) : (s.fetchTurn c portB g).Canonical := by
  unfold State.fetchTurn
  extract_lets pc t
  split
  · exact State.fetchTrap_canonical h ..
  · extract_lets s'
    have hs : s'.mem.wf := State.note_canonical (State.fillCore_canonical h ..) ..
    split
    · exact State.fetchTrap_canonical hs ..
    · exact State.slotTurn_canonical hs ..

theorem State.turn_canonical {s : State} (h : s.mem.wf) (c : CtxId) (portB : Bool) : (s.turn c portB).Canonical := by
  unfold State.turn
  split
  · split
    · exact h
    · exact State.fetchTurn_canonical h ..
  split
  · exact h
  rename_i g _
  split
  · exact h
  split
  · exact h
  · rename_i v hv
    have hv : v.mem.wf := State.asWaiting_canonical h hv
    have ht := State.fetchTurn_canonical hv c portB ((v.group c.team c.grp).getD g)
    split
    · rename_i i w hw
      rw [hw] at ht
      split
      · exact ⟨h, ht⟩
      · exact h
    · exact h

theorem State.portTurn_canonical {s : State} (h : s.mem.wf) (c : CtxId) (b : Bool) : (s.portTurn c b).Canonical := by
  have ht := State.turn_canonical h c b
  unfold State.portTurn
  dsimp only
  split
  · split
    · exact ht
    · exact h
  · exact ht

/-! ### The order of steps (log 8) -/

/-- What a step would answer has memory in its canonical form. -/
def Later.Canonical (f : Later) : Prop := ∀ u, f () = .next u → u.mem.wf

theorem settled_canonical {o : Host.Outcome State Fault Refusal} {u : State} (ho : ∀ v, o = .next v → v.mem.wf) (e : settled o = .next u) : u.mem.wf := by
  cases o with
  | next s =>
    unfold settled at e
    dsimp only at e
    split at e
    · cases e
    · cases e
      exact ho s rfl
  | fault f => cases e
  | refused r => cases e

theorem runTurn_canonical {t : Turn} {u : State} (ht : t.Canonical) (e : runTurn t = .next u) : u.mem.wf := by
  cases t with
  | held s => exact settled_canonical (fun v => of_next ht) e
  | done s => exact settled_canonical (fun v => of_next ht) e
  | run i s => exact settled_canonical (fun v => exec_canonical ht) e
  | finish c i s v =>
    obtain ⟨hs, hv⟩ := ht
    refine settled_canonical (fun w e => ?_) e
    split at e
    · exact of_next (ite_canonical hs (State.finished_canonical (exec_canonical hv ‹_›) _)) e
    · rename_i o ho
      exact absurd e (ho w)

theorem State.lateEvents_canonical {s : State} (h : s.mem.wf) : ∀ f ∈ s.lateEvents, Later.Canonical f := by
  intro f hf u e
  simp only [State.lateEvents, List.mem_append, List.mem_cons, List.mem_map, List.mem_flatMap, List.not_mem_nil, or_false] at hf
  obtain (((((((((rfl | rfl) | ⟨_, _, rfl⟩) | ⟨_, _, rfl⟩) | (⟨_, _, rfl⟩ | ⟨_, _, rfl⟩)) | ⟨_, _, rfl⟩) | ⟨_, _, rfl⟩) | ⟨_, _, rfl⟩) | ⟨_, _, _, _, rfl⟩) | ⟨_, _, _, _, rfl⟩) | ⟨_, _, _, _, rfl⟩ := hf
  · exact execPowerTransition_canonical h e
  · exact execPowerStopped_canonical h e
  · exact execWaitTimeout_canonical h e
  · exact execFrontEjection_canonical h e
  · exact execAttnRecompute_canonical h e
  · exact execFabricSendComplete_canonical h e
  · exact execOldBlockFreePush_canonical h e
  · exact execWatchdog_canonical h e
  · exact execFabricSend_canonical h e
  · exact execTeamResume_canonical h e
  · exact execContinuationResume_canonical h e
  · exact execBackfillTaskStart_canonical h e

theorem State.nextSteps_canonical {s : State} (h : s.mem.wf) : ∀ f ∈ s.nextSteps, Later.Canonical f := by
  intro f hf u e
  simp only [State.nextSteps, List.mem_append, List.mem_map] at hf
  obtain (⟨i, _, rfl⟩ | ⟨f, hf, rfl⟩) | ⟨c, _, rfl⟩ := hf
  · exact settled_canonical (fun v => exec_canonical h) e
  · exact settled_canonical (fun v => State.lateEvents_canonical h f hf v) e
  · exact runTurn_canonical (State.portTurn_canonical h c false) e

theorem firstChange_canonical {s : State} {l : List Later} (hl : ∀ f ∈ l, Later.Canonical f) {u : State} (e : firstChange s l = some (.next u)) : u.mem.wf := by
  induction l with
  | nil => cases e
  | cons f l ih =>
    rw [firstChange] at e
    split at e
    · rename_i v hv
      split at e
      · exact ih (fun f hf => hl f (List.mem_cons_of_mem _ hf)) e
      · cases e
        exact hl f List.mem_cons_self _ hv
    · exact hl f List.mem_cons_self u (Option.some.inj e)

theorem auto_canonical {s : State} {u : State} (h : s.mem.wf) (e : auto s = .next u) : u.mem.wf := by
  unfold auto at e
  split at e
  · exact of_next (State.tick_canonical (firstChange_canonical (State.nextSteps_canonical h) ‹_›) 1) e
  · rename_i o ho
    rw [e] at ho
    exact firstChange_canonical (State.nextSteps_canonical h) ho
  · exact of_next (State.tick_canonical h 1) e

theorem perform_canonical {s : State} {c : Choice} {u : State} (h : s.mem.wf) (e : perform c s = .next u) : u.mem.wf := by
  cases c with
  | issue c b => exact runTurn_canonical (State.portTurn_canonical h c b) e
  | event i =>
    unfold perform at e
    dsimp only at e
    split at e
    · exact settled_canonical (fun v => exec_canonical h) e
    · exact of_next h e
  | tick n => exact of_next (State.tick_canonical h n) e
  | dropTlb core k => exact of_next (State.dropTlb_canonical h core k) e
  | logKernel digest => exact of_next (State.logKernel_canonical h digest) e

theorem step_canonical {s u : State} (h : s.mem.wf) (e : step s = .next u) : u.mem.wf := by
  unfold step at e
  split at e
  · refine perform_canonical ?_ e
    exact h
  · exact auto_canonical h e

/-- Settles O60: a step runs a turn or an event, lets cycles pass, or does what its script says, and none of these writes memory but by the writes of the memory. -/
theorem stepsKeepMemoryCanonical : Obligations.StepsKeepMemoryCanonical := by
  intro s t h e
  exact step_canonical h e

end Sys2Proof.Machine
